-- ==== Sys2Proof/Word.lean ====
section
/-! DEFINITION. The word types of the IZ-7064: bytes, 32-bit registers and the wider words of its records (R12, R39, R105, R114).
-/
namespace Sys2Proof

/-- A byte of a host structure, a table or a link payload (R12). -/
abbrev Byte := BitVec 8

/-- A 16-bit value. -/
abbrev Half := BitVec 16

/-- A 32-bit register or register write (R40). -/
abbrev Word := BitVec 32

/-- A 64-bit tag, time or sequence number (R105, R114). -/
abbrev Dword := BitVec 64

/-- A submission entry or a doorbell block: 64 bytes, byte 0 in bits 7..0 (R105, R109). -/
abbrev Entry := BitVec 512

/-- A submission entry as it is fetched, its byte k in bits 8k+7..8k. -/
def Entry.byte (e : Entry) (k : Nat) : Nat := e.toNat / 2 ^ (8 * k) % 256

/-- The little-endian field of `n` bytes at offset `k` of an entry (R12). -/
def Entry.field (e : Entry) (k n : Nat) : Nat := e.toNat / 2 ^ (8 * k) % 2 ^ (8 * n)

end Sys2Proof
end

