-- ==== Sys2Proof/Machine/Bits.lean ====
section
/-! DEFINITION. Bit fields, little-endian byte lists, two's complement and list updates used by every unit (R12).
-/
namespace Sys2Proof.Machine

/-- Bits [hi:lo] of a number; both ends belong to the range (R12). -/
def bits (n hi lo : Nat) : Nat := n / 2 ^ lo % 2 ^ (hi + 1 - lo)

/-- Bit `i` of a number. -/
def bit (n i : Nat) : Bool := n / 2 ^ i % 2 == 1

/-- A bit as the number 0 or 1. -/
def b2n (b : Bool) : Nat := if b then 1 else 0

/-- A number with bits [hi:lo] replaced by the low bits of `v`. -/
def putBits (n hi lo v : Nat) : Nat :=
  let w := 2 ^ (hi + 1 - lo)
  n % 2 ^ lo + (v % w) * 2 ^ lo + n / 2 ^ (hi + 1) * 2 ^ (hi + 1)

/-- The number with bits [hi:lo] all 1 and the rest 0. -/
def maskOf (hi lo : Nat) : Nat := (2 ^ (hi + 1 - lo) - 1) * 2 ^ lo

/-- The little-endian number a list of bytes spells (R12). -/
def leNat : List Byte → Nat
  | [] => 0
  | b :: bs => b.toNat + 256 * leNat bs

/-- The `n` little-endian bytes of a number (R12). -/
def leBytes : Nat → Nat → List Byte
  | 0, _ => []
  | n + 1, v => BitVec.ofNat 8 v :: leBytes n (v / 256)

/-- The signed value of the low `w` bits of `n` (two's complement). -/
def signed (w n : Nat) : Int :=
  let m := n % 2 ^ w
  if m < 2 ^ (w - 1) then (m : Int) else (m : Int) - (2 ^ w : Nat)

/-- The `w`-bit two's complement pattern of an integer. -/
def pattern (w : Nat) (i : Int) : Nat := (i % ((2 ^ w : Nat) : Int)).toNat

/-- An integer held between two bounds. -/
def clampI (lo hi x : Int) : Int := if x < lo then lo else if hi < x then hi else x

/-- A number held at or below a bound. -/
def satN (hi x : Nat) : Nat := if hi < x then hi else x

/-- An integer saturated to `w` signed bits. -/
def satS (w : Nat) (x : Int) : Int := clampI (-(2 ^ (w - 1) : Nat)) ((2 ^ (w - 1) : Nat) - 1) x

/-- Division rounded up. -/
def cdiv (a b : Nat) : Nat := (a + b - 1) / b

/-- Division rounded to nearest, halves away from zero. -/
def rdivI (a : Int) (b : Nat) : Int :=
  if a < 0 then -(((-a).toNat * 2 + b) / (2 * b) : Nat) else ((a.toNat * 2 + b) / (2 * b) : Nat)

/-- Apply `f` to the element at position `i` of a list; a position past the end changes nothing. -/
def updAt {α : Type} : List α → Nat → (α → α) → List α
  | [], _, _ => []
  | x :: xs, 0, f => f x :: xs
  | x :: xs, i + 1, f => x :: updAt xs i f

/-- The numbers from `a` up, `n` of them. -/
def rangeFrom (a : Nat) : Nat → List Nat
  | 0 => []
  | n + 1 => a :: rangeFrom (a + 1) n

/-- The sum of a list of numbers. -/
def sumN (l : List Nat) : Nat := l.foldl (· + ·) 0

/-- The sum of a list of integers. -/
def sumI (l : List Int) : Int := l.foldl (· + ·) 0

/-- The greatest number of a list, 0 for none. -/
def maxN (l : List Nat) : Nat := l.foldl max 0

/-- How many numbers below `n` satisfy a test. -/
def countBelow (n : Nat) (p : Nat → Bool) : Nat := ((List.range n).filter p).length

/-- The number whose bit `i` is `p i`, for `i` below `n`. -/
def maskWhere (n : Nat) (p : Nat → Bool) : Nat :=
  sumN ((List.range n).map fun i => if p i then 2 ^ i else 0)

/-- Belt position A at or after B, both modulo 2^48 (R6). -/
def beltAtOrAfter (a b : Nat) : Bool := (a + 2 ^ 48 - b % 2 ^ 48) % 2 ^ 48 < 2 ^ 47

/-- How far belt position A lies beyond B, modulo 2^48 (R6). -/
def beltAhead (a b : Nat) : Nat := (a + 2 ^ 48 - b % 2 ^ 48) % 2 ^ 48

/-- The signed distance from B to A, in −2^47 to 2^47 − 1 (R6). -/
def beltDist (a b : Nat) : Int := signed 48 (beltAhead a b)

/-- A belt position moved by a signed distance (R6). -/
def beltAdd (a : Nat) (d : Int) : Nat := pattern 48 ((a : Int) + d)

end Sys2Proof.Machine
end

