-- ==== Sys2Proof/Machine/HostState.lean ====
section
/-! DEFINITION. The state of the host side: time, the record merge unit with the Cistern journal and the queues, the ports, the translation unit, the DMA engine and the transaction unit (chapters 01 to 04 and 17).
-/
namespace Sys2Proof.Machine

/-- Engine time and the Wellhead interval that stands in for it while the fast clocks are stopped (R5, R29). -/
structure Clock where
  /-- Engine time in ns (R5). -/
  time : Nat := 0
  /-- Uncorrected Wellhead ns since the fast clocks stopped (R29). -/
  slept : Nat := 0
  /-- Uncorrected Wellhead ns since the last sensor reading of R398. -/
  sinceRead : Nat := 0
  /-- Sum of interval × correction so far, in ns × ppm × 2^16 (R398). -/
  corr : Int := 0
  /-- The part of a ns of corrected engine time that has not elapsed yet, in 1/65,536,000,000 ns (R398). -/
  rest : Nat := 0
  deriving DecidableEq, Repr

/-- A completion or event record before it is given a slot and a PHASE (R114). -/
structure Rec where
  tag : Dword := 0
  seq : Dword := 0
  time : Dword := 0
  status : Byte := 0
  opcode : Byte := 0
  ring : Nat := 0
  journal : Bool := false
  part : Nat := 0
  detail : Word := 0
  deriving DecidableEq, Repr

/-- The phases of a journal entry (R444). -/
inductive Phase where
  | accepted | started | result | completed
  deriving DecidableEq, Repr

/-- Where the completion record of a COMPLETED entry stands (R99, R100, R444). -/
inductive Posting where
  | unwritten
  | queued
  | written (count : Nat)
  deriving DecidableEq, Repr

/-- A Cistern journal entry, with the 48 parameter bytes that the firmware holds for it (R443 to R445). -/
structure JEntry where
  slot : Nat
  tag : Dword := 0
  /-- Engine sequence number of the acceptance. -/
  seq : Nat := 0
  /-- Engine time of the acceptance. -/
  time : Nat := 0
  part : Nat := 0
  ring : Nat := 0
  opcode : Nat := 0
  barrier : Bool := false
  fence : Bool := false
  /-- A check at its acceptance refused it (R404). -/
  refused : Bool := false
  /-- The whole accepted entry; parameters are bytes 0x10 to 0x3F (R403). -/
  entry : Entry := 0
  phase : Phase := .accepted
  status : Nat := 0
  detail : Nat := 0
  /-- The TIME of the completion record where its rule gives one (R68). -/
  stamp : Option Nat := none
  /-- Sequence number and time of the completion. -/
  cseq : Nat := 0
  ctime : Nat := 0
  posting : Posting := .unwritten
  /-- Barrier reads issued for this entry so far (R119). -/
  barriers : Nat := 0
  deriving DecidableEq, Repr

/-- What stands in the acceptance order of one ring: a command, or an entry whose tag matched a live command (R405, R446). -/
inductive OrdItem where
  | cmd (slot : Nat)
  | dup (slot : Nat)
  | dupRec (r : Rec)
  deriving DecidableEq, Repr

/-- A write waiting on a partition's ring-write channel (R121). -/
inductive WItem where
  /-- Clear OWN of the entry with this ring count; the byte written is FLAGS without OWN (R108). -/
  | ownClear (ring count flags : Nat)
  /-- The completion record of a journal slot. -/
  | completion (slot : Nat)
  /-- A JOURNAL copy (R446). -/
  | copy (r : Rec)
  /-- An event record. -/
  | event (r : Rec)
  /-- A completion record rewritten at its original count (R100). -/
  | rewrite (count : Nat) (r : Rec)
  /-- The one interrupt of a queue for the records that an attach delivered (R100): 0 completions, 1 events. -/
  | signal (queue : Nat)
  /-- Every record of an attach before this is written: parked transfers and polling resume (R100). -/
  | resume
  deriving DecidableEq, Repr

/-- A read waiting on a partition's ring-fetch channel (R121). -/
inductive FItem where
  | doorbell
  | entries (ring from_ n : Nat)
  | barrier (slot : Nat)
  deriving DecidableEq, Repr

/-- A completion or event queue of a partition (R103, R116 to R118). -/
structure Queue where
  tail : Nat := 0
  head : Nat := 0
  /-- Records written since the last signal (R118). -/
  uncovered : Nat := 0
  /-- When the first of them was written. -/
  firstAt : Option Nat := none
  /-- The queue is full: tail − head equals its size (R117). -/
  isFull : Bool := false
  deriving DecidableEq, Repr

/-- The geometry an attach latches (R104). -/
structure Geometry where
  ringBase : List Nat := [0, 0, 0, 0]
  ringLog : List Nat := [4, 4, 4, 4]
  cqBase : Nat := 0
  cqLog : Nat := 4
  eqBase : Nat := 0
  eqLog : Nat := 4
  doorbell : Nat := 0
  deriving DecidableEq, Repr

/-- The rings and queues of one partition (R102 to R118). -/
structure PartQ where
  geom : Option Geometry := none
  /-- Entries accepted on each ring since partition reset. -/
  heads : List Nat := [0, 0, 0, 0]
  /-- The valid tail values of the last poll, up to which fetches were issued. -/
  tails : List Nat := [0, 0, 0, 0]
  tailErr : List Bool := [false, false, false, false]
  headErr : Bool := false
  /-- The head values last judged invalid, for one report per run (R112). -/
  cqErr : Bool := false
  eqErr : Bool := false
  cq : Queue := {}
  eq : Queue := {}
  writes : List WItem := []
  fetches : List FItem := []
  /-- A ring-channel access is being repeated after a bus error; its repetition waits for the next poll interval (R124). -/
  busRetry : Bool := false
  waitPoll : Bool := false
  /-- The ring read that is being repeated: nothing else of the partition's ring channels goes ahead of it (R124). -/
  failed : Option FItem := none
  /-- Event records written and not acknowledged, oldest first (R450). -/
  eqUnacked : List Rec := []
  /-- JOURNAL copies that could not be written yet (R446). -/
  copies : List Rec := []
  /-- First and last sequence number of the event records lost for the partition (R99). -/
  dropped : Option (Nat × Nat) := none
  /-- When the poll interval last fired, and the interval in µs up to the next poll (R110, R130). -/
  lastPoll : Nat := 0
  wait : Nat := 4
  /-- JOURNAL copies written and not acknowledged, with the count of each (R450). -/
  copied : List (Nat × Rec) := []
  deriving DecidableEq, Repr

/-- To whom an event record goes (R509). -/
inductive Dest where
  /-- Every partition enabled when the record is made. -/
  | enabled
  | part (p : Nat)
  deriving DecidableEq, Repr

/-- An event record as a unit raises it, before the record merge unit numbers it (R30, R114). -/
structure Ev where
  status : Nat
  opcode : Nat := 0
  tag : Nat := 0
  detail : Nat := 0
  dest : Dest := .enabled
  /-- A TIME of its own, where its rule gives one; else the present engine time. -/
  time : Option Nat := none
  deriving DecidableEq, Repr

/-- What a command hands to the record merge unit and the journal, in the order it happened (R30, R31, R444). -/
inductive Emit where
  | event (e : Ev)
  /-- A tile event with its head stamp, to pass the reorder window (R457). -/
  | tileEvent (tile stamp : Nat) (e : Ev)
  /-- A command took its first effect: phase STARTED. -/
  | started (slot : Nat)
  /-- A command's outcome is fixed: phase RESULT. -/
  | result (slot status detail : Nat)
  /-- The same with the TIME that the completion record carries (R68). -/
  | resultAt (slot status detail time : Nat)
  /-- The held-record reserve lost its contents (R99). -/
  | loseHeld
  /-- From now event records that cannot be taken go to the stop-record area, or no longer (R99). -/
  | stopArea (on : Bool)
  /-- The journal is sealed (R382, R453). -/
  | sealed
  /-- A command whose outcome was fixed and whose record is not written yet gets another status, with DETAIL 0 (R36). -/
  | amend (slot status : Nat)
  deriving DecidableEq, Repr

/-- The record merge unit and the Cistern journal with the partitions' queues (R30, R441 to R448). -/
structure Merge where
  /-- The next engine sequence number to assign; the checkpoint of R448 holds the one before it. -/
  nextSeq : Nat := 0
  journal : List JEntry := []
  /-- Acceptance order per ring, index 4 × partition + ring, not yet completed. -/
  order : List (List OrdItem) := List.replicate 32 []
  parts : List PartQ := List.replicate 8 {}
  /-- The held-record reserve: partition and record, in sequence order (R99). -/
  held : List (Nat × Rec) := []
  /-- The stop-record area (R99). -/
  stopArea : List (Nat × Rec) := []
  useStopArea : Bool := false
  /-- Tile events in the reorder window: arrival, head stamp, tile and event (R457). -/
  reorder : List (Nat × Nat × Nat × Ev) := []
  sealed : Bool := false
  /-- Retention SRAM failed: nothing is accepted (R26). -/
  broken : Bool := false
  deriving DecidableEq, Repr

/-- The two host ports (R74). -/
inductive Port where
  | a | b
  deriving DecidableEq, Repr

/-- Ports as numbers: 0 A, 1 B. -/
def Port.num : Port → Nat
  | .a => 0
  | .b => 1

/-- The port with a number. -/
def Port.ofNum (n : Nat) : Port := if n = 0 then .a else .b

/-- What host software sets in a port's configuration space and MSI-X table; a port reset brings all of it back to these values (R74, R75, R96). [PRESUMED: log 137] -/
structure PortCfg where
  /-- Host addresses assigned to BAR0/1, BAR2/3 and BAR4/5. -/
  bars : List Nat := [0, 0, 0]
  /-- Max payload and max read request size in bytes. -/
  mps : Nat := 128
  mrrs : Nat := 512
  /-- Relaxed ordering enabled; the completion-timeout range code, 0 the default of 50 ms. -/
  relaxed : Bool := false
  timeout : Nat := 0
  /-- Advanced Error Reporting: uncorrectable error status and mask, correctable error status and mask. -/
  aer : List Word := [0, 0, 0, 0x2000]
  /-- The MSI-X table: address and data of each of the 64 vectors. -/
  msix : List (Nat × Word) := List.replicate 64 (0, 0)
  deriving DecidableEq, Repr

/-- What the host has set up in a port by the time the port returns: its configuration and the vectors it masks, bit v (R74, R75). -/
structure PortSetup where
  cfg : PortCfg := {}
  mask : Nat := 2 ^ 64 - 1
  deriving DecidableEq, Repr

/-- What a port holds beside its status register (R74 to R77, R96). -/
structure PortSt where
  /-- Configuration requests are answered with Configuration Request Retry Status (R96, R465). -/
  crs : Bool := true
  /-- When it must answer at the latest after a Function Level Reset (R96). -/
  crsEnd : Option Nat := none
  /-- Masked and pending MSI-X vectors, bit v; every vector is masked after a port reset (R75, R118). [PRESUMED: log 137] -/
  msixMask : Nat := 2 ^ 64 - 1
  msixPend : Nat := 0
  /-- The configuration space, the BAR assignments and the MSI-X table (R74, R75). -/
  cfg : PortCfg := {}
  /-- The bus arbiter's window: grants used per level and grants made (R123). -/
  used : List Nat := [0, 0, 0, 0]
  grants : Nat := 0
  /-- The channel last granted at each level. -/
  lastGrant : List Nat := [39, 39, 39, 39]
  deriving DecidableEq, Repr

/-- A cached leaf result of the translation unit (R85, R86). -/
structure Leaf where
  part : Nat
  /-- 1: 1 GiB, 2: 2 MiB, 3: 4 KiB. -/
  level : Nat
  /-- Device address divided by the page size. -/
  page : Nat
  /-- Host address of the page. -/
  host : Nat
  rd : Bool
  wr : Bool
  ns : Bool
  /-- Armed pages that lock the entry; 0 for an unlocked one. -/
  locks : Nat := 0
  deriving DecidableEq, Repr

/-- A transfer suspended on a translation fault (R91). -/
structure Susp where
  part : Nat
  id : Nat
  /-- 0 ring fetch, 1 record write, 2 OWN write, 3 service transfer, 4 Sump transfer. -/
  source : Nat
  chan : Nat
  /-- What waits on a ring channel: a ring 0 to 3, 4 the doorbell block, 5 a barrier read, 6 a write; 0 elsewhere. -/
  key : Nat := 0
  addr : Nat
  write : Bool
  /-- The journal slot of the command of a service transfer. -/
  cmd : Option Nat := none
  /-- The port of the partition is down (R97). -/
  parked : Bool := false
  /-- Host software asked for a retry: the next walk bypasses the cache (R92). -/
  retry : Bool := false
  deriving DecidableEq, Repr

/-- A task of the ROM firmware: its priority, 0 highest, and the journal slot of its command, none for work that no command asks for (R94). -/
structure FwTask where
  prio : Nat
  slot : Option Nat := none
  /-- When it became ready. -/
  since : Nat := 0
  deriving DecidableEq, Repr

/-- What the checkpoint holds of a pre-empted task: the phase of its command and the bytes that its transfer has read and written (R94, R95). -/
structure FwSaved where
  task : FwTask
  phase : Phase
  got : Nat
  sent : Nat
  deriving DecidableEq, Repr

/-- The ROM firmware: the tasks that are ready, highest priority first, the one that runs, and the saved states of those it has pre-empted (R20, R94). -/
structure Firmware where
  ready : List FwTask := []
  running : Option FwTask := none
  saved : List FwSaved := []
  deriving DecidableEq, Repr

/-- An invalidation in progress (R87). -/
structure Inval where
  size : Nat
  addr : Nat
  hit : Nat := 0
  /-- The bursts in flight at GO: channel and the number of bursts it had been granted. -/
  flying : List (Nat × Nat) := []
  deriving DecidableEq, Repr

/-- The translation unit (R82 to R93). -/
structure Xlat where
  /-- Cached leaf results, most recently used first. -/
  cache : List Leaf := []
  /-- The root in use of each partition (R89). -/
  roots : List Nat := List.replicate 8 0
  invals : List (Option Inval) := List.replicate 8 none
  susp : List Susp := []
  deriving DecidableEq, Repr

/-- An image-channel descriptor (R125). -/
structure ImgDesc where
  addr : Nat
  len : Nat
  band : Nat
  lastBand : Bool
  lastPage : Bool
  deriving DecidableEq, Repr

/-- The work of one image channel (R121, R125, R126). -/
structure ImgChan where
  /-- The page it carries, by arming number, and the last one it is done with. -/
  page : Option Nat := none
  past : Nat := 0
  descs : List ImgDesc := []
  index : Nat := 0
  /-- Bytes of the descriptor already fetched. -/
  done : Nat := 0
  /-- Bytes of the burst in flight. -/
  inFlight : Option Nat := none
  /-- When a failed burst may be issued again, and how often it has been retried. -/
  retryAt : Option Nat := none
  tries : Nat := 0
  halted : Bool := false
  deriving DecidableEq, Repr

/-- A service descriptor list in progress (R127 to R129). -/
structure SvcJob where
  slot : Nat
  part : Nat
  opcode : Nat
  list : Nat
  count : Nat
  /-- The chip-side region: 0 shadow half of the table window, 1 Windlass capture, 2 line-scan capture. -/
  region : Nat
  /-- TXN.GEN at the command's start (R426). -/
  gen : Nat := 0
  index : Nat := 0
  bad : Nat := 0
  /-- The descriptor read last: its 32 bytes. -/
  desc : List Byte := []
  /-- Elements moved of it. -/
  elems : Nat := 0
  /-- 0 fetch descriptor, 1 move data, 2 write status, 3 finished. -/
  phase : Nat := 0
  /-- Cause to be written, 0 DONE. -/
  cause : Nat := 0
  inFlight : Option Nat := none
  deriving DecidableEq, Repr

/-- The transfers of a command that reads structures or writes results by itself, burst by burst: what stands here is what a suspension or a pre-emption keeps (R91, R92, R95, R122, R406). -/
structure Xfer where
  slot : Nat
  part : Nat
  opcode : Nat
  /-- The channel it goes over, none while it has given its service channel back (R91). -/
  chan : Option Nat := none
  /-- The bytes read so far, in the order of the command's reads, and the number of bytes written. -/
  got : List Byte := []
  sent : Nat := 0
  /-- How far the present pass over the command has come in them, and the bursts that it may still make, none for as many as it needs. -/
  seen : Nat := 0
  put : Nat := 0
  bursts : Option Nat := none
  /-- A burst over a ring channel ended in a bus error and is being repeated; the repetition waits for the next poll interval (R124). -/
  again : Bool := false
  held : Bool := false
  /-- The free values that the command's results take start here: the model's own. -/
  seed : Nat := 0
  /-- A result that was fixed when the command started. -/
  saved : Option (List Byte) := none
  deriving DecidableEq, Repr

/-- The DMA engine (R121 to R131). -/
structure Dma where
  img : List ImgChan := List.replicate 8 {}
  /-- Service channels 24 to 38: the command and partition holding each. -/
  owner : List (Option (Nat × Nat)) := List.replicate 15 none
  jobs : List (Nat × SvcJob) := []
  /-- Service jobs suspended on a translation fault: their channel serves others until they are taken up again (R91). -/
  parked : List SvcJob := []
  xfers : List Xfer := []
  /-- Ring channels with a burst in flight: channel numbers. -/
  busy : List Nat := []
  deriving DecidableEq, Repr

/-- One staged entry of a transaction (R59). -/
inductive Staged where
  | reg (off : Nat) (mask data : Word)
  | table (inst : Nat)
  deriving DecidableEq, Repr

/-- An open transaction (R59, R63). -/
structure OpenTxn where
  entries : List Staged := []
  gen : Nat := 0
  deriving DecidableEq, Repr

/-- The trigger of a commit (R64 to R66). -/
inductive Trigger where
  | safe
  | belt (t : Nat)
  | time (t : Nat)
  deriving DecidableEq, Repr

/-- A scheduled commit (R64 to R71). -/
structure Commit where
  part : Nat
  /-- Engine sequence number of the command that made it. -/
  seq : Nat
  tag : Nat
  opcode : Nat
  /-- The journal slot of a SAFE commit's command, to be completed with the switch. -/
  slot : Option Nat := none
  /-- 1 when the automatic seam correction made it (R262). -/
  auto : Bool := false
  trig : Trigger := .safe
  entries : List Staged := []
  /-- Switch units still to switch. -/
  left : List Nat := []
  /-- A unit, a tile or a slot has taken its part, so the commit stands (R67, R70, R71); the trigger was reached. -/
  begun : Bool := false
  fired : Bool := false
  /-- The instant of the first part taken, and the trigger's own instant once it was reached (R71, R365). -/
  began : Option Nat := none
  firedAt : Nat := 0
  /-- Windlass slots still to take their part, and what each slot takes (R365). -/
  slotsLeft : List Nat := []
  slotParts : List (Nat × List Staged) := []
  /-- Units switched so far and the instants of the first and last. -/
  units : Nat := 0
  first : Nat := 0
  last : Nat := 0
  /-- Tiles of a TILE or STATION unit still to switch, and the latest instant of those that did: unit, instant, tiles. -/
  tilesLeft : List (Nat × Nat × List Nat) := []
  /-- What follows the switch in an internal transaction: 0 nothing, 1 the slot of LOOP_CONFIG is enabled. -/
  next : Nat := 0
  deriving DecidableEq, Repr

/-- The TXN unit (R59 to R73). -/
structure TxnUnit where
  opens : List (Option OpenTxn) := List.replicate 8 none
  commits : List Commit := []
  gen : Nat := 0
  /-- The conflict log: generation, IS_TABLE and target, newest first; and how many commits it reaches back. -/
  log : List (Nat × Bool × Nat) := []
  /-- Table instances being copied after a switch, with the accesses held for them (R57). -/
  copying : List (Nat × List (Nat × Word)) := []
  /-- Instances whose shadow bank failed its last check, and instances whose active bank did: the marks go with the banks (R216, R232, R247, R338). -/
  pendBad : List Nat := []
  bad : List Nat := []
  /-- Registers that a switch wrote in this command, with their old words: their effects follow at once. -/
  touched : List (Nat × Word) := []
  /-- Table instances that switched in this command. -/
  switched : List Nat := []
  deriving DecidableEq, Repr

/-- A pending guarded write (R47). -/
structure GuardPend where
  unit : Nat
  off : Nat
  value : Word
  port : Port
  at_ : Nat
  deriving DecidableEq, Repr

/-- A block on a lane of a link: its sync header and the 64 bits after it, bit 0 the first on the lane (R266). -/
structure LaneBlock where
  sync : BitVec 2
  data : BitVec 64
  deriving DecidableEq, Repr

/-- What a timebase DLL saw in a window of 65,536 reference cycles: the counts of delayed and reference edges, the phase detector's offset from the centre in 1/64 period, and the longest stretch of cycles with an offset beyond 4/64 (R285). -/
structure DllWindow where
  delayed : Nat
  reference : Nat
  offset : Int
  offCycles : Nat
  deriving DecidableEq, Repr

/-- What the block sends to the outside. -/
inductive Out where
  /-- Bytes written to a host address through a port. -/
  | hostWrite (q : Port) (addr : Nat) (bytes : List Byte)
  /-- A read request through a port: host address and length. -/
  | hostRead (q : Port) (addr len : Nat)
  /-- A read request with relaxed ordering, of an image channel (R74). -/
  | relaxedRead (q : Port) (addr len : Nat)
  /-- An MSI-X vector. -/
  | msix (q : Port) (vector : Nat)
  /-- A frame on the downlink of a tile: the 7 header bytes and the body with its CRC (R269). -/
  | frame (tile : Nat) (hdr body : List Byte)
  /-- A control block on the downlink of a tile: its type and bytes 1 to 7 (R266). -/
  | block (tile typ : Nat) (bytes : List Byte)
  /-- The 66-bit blocks of a frame or of control blocks as they go over the downlink lane of a tile, scrambled (R266). -/
  | lane (tile : Nat) (blocks : List LaneBlock)
  /-- The gate outputs UH, UL, VH, VL, WH and WL of a drive axis from this instant on: for each the intervals in ns in which it is high (R292, R294). -/
  | gates (axis : Nat) (high : List (List (Nat × Nat)))
  /-- The level changes of a named output after this instant: ns after it and level (R335, R370). -/
  | wave (name : String) (index : Nat) (edges : List (Nat × Nat))
  /-- A named output in periods of a length in ns, counted from engine time 0: high from the start of each for a time in ns, from this instant on (R370). -/
  | pwm (name : String) (index period high : Nat)
  /-- A level or pulse on a named output. -/
  | pin (name : String) (index value : Nat)
  deriving DecidableEq, Repr

end Sys2Proof.Machine
end

