-- ==== Sys2Proof/Syntax.lean ====
section
/-! DEFINITION. The commands and events of the block: one constructor for each row of the opcode table. The first operand of every constructor is `dt`, the time in ns that has passed since the command before it (R5, R29); the others are what the row brings from outside: an offset and a value written, a message received, a physical reading, a journal slot.
-/
namespace Sys2Proof
open Sys2Proof.Machine (Port PortSetup)

/-- Host memory as a command sees it: bytes by host address; an address not listed ends a read in a bus error (R84, R90). -/
abbrev HostImg := List (Nat × Byte)

/-- How a read burst ended (R122, R126, R129): its bytes, or Unsupported Request, Completer Abort, completion timeout or poisoned data. -/
inductive Burst where
  | ok (data : List Byte)
  | busError
  deriving DecidableEq, Repr

/-- The cause of a host-port reset (R96). -/
inductive PortResetKind where
  | perst | hot | flr
  deriving DecidableEq, Repr

/-- The payload of an uplink BD_STAMP message (R274). -/
structure BdStamp where
  sweep : Nat
  lead : Nat
  trail : Nat
  flags : Nat
  deriving DecidableEq, Repr

/-- A Windlass or feedback quadrature transition, seen as the pair of inputs after it (R318). -/
structure QuadIn where
  a : Bool
  b : Bool
  deriving DecidableEq, Repr

/-- The switch inputs of a Mule axis (R345). -/
inductive MuleInput where
  | home | limN | limP
  deriving DecidableEq, Repr

/-- The registers of a Mule profile (R343). -/
inductive Profile where
  | vmax | acc | dec
  deriving DecidableEq, Repr

/-- IEEE 1149.1 instructions of the TAP (R505). -/
inductive TapInstr where
  | bypass | idcode | samplePreload | extest | clamp | highz | other (code : Nat)
  deriving DecidableEq, Repr

/-- The on-chip memories of R26. -/
inductive SramMem where
  | imaging | firmware | retention
  deriving DecidableEq, Repr

/-- What an uncorrectable word of imaging SRAM belongs to (R26). -/
inductive SramOwner where
  | page | table (inst : Nat) | other
  deriving DecidableEq, Repr

/-- The commands of the opcode table. -/
inductive Instr where
  -- resets and ports
  | coldStart (dt : Nat) (msel mainOk : Bool) (vback : BitVec 16) (i2cA : BitVec 2)
  | powerOnReset (dt : Nat) (msel mainOk : Bool) (vback : BitVec 16)
  | brownOut (dt : Nat)
  | engineReset (dt : Nat) (q : Port) (v : Word)
  | partitionReset (dt : Nat) (q : Port) (v : Word)
  | portReset (dt : Nat) (q : Port) (v : Word)
  | hostPortReset (dt : Nat) (q : Port) (kind : PortResetKind)
  | portDown (dt : Nat) (q : Port) (linkUp busMaster : Bool)
  | portReturn (dt : Nat) (q : Port) (rate : BitVec 3) (width : BitVec 3) (setup : Option PortSetup)
  -- register and table writes
  | registerWrite (dt : Nat) (q : Port) (off : BitVec 28) (v : Word) (be : BitVec 4) (upper : Option (Word × BitVec 4))
  | bitAliasWrite (dt : Nat) (q : Port) (off : BitVec 28) (v : Word)
  | maskedWrite (dt : Nat) (q : Port) (off : BitVec 28) (v : Word)
  | sqClearWrite (dt : Nat) (q : Port) (off : BitVec 28) (v : Word)
  | guardFirstWrite (dt : Nat) (q : Port) (off : BitVec 28) (v : Word)
  | guardedPairWrite (dt : Nat) (q : Port) (off : BitVec 28) (v : Word)
  | guardTimeout (dt : Nat) (off : BitVec 28)
  | partOwnerWrite (dt : Nat) (q : Port) (v : Word)
  | wakeRegisterWrite (dt : Nat) (q : Port) (v : Word)
  | i2cWake (dt : Nat) (byte : Byte)
  | tableWindowWrite (dt : Nat) (q : Port) (off : BitVec 24) (words : List Word)
  | tableCopyDone (dt : Nat) (inst : BitVec 16)
  | partitionAttach (dt : Nat) (q : Port) (p : Fin 8) (v : Word)
  | xlatRootApply (dt : Nat) (q : Port) (p : Fin 8) (v : Word)
  | xlatInvalidate (dt : Nat) (q : Port) (p : Fin 8) (v : Word)
  | xlatInvalidateDone (dt : Nat) (p : Fin 8)
  | tileEnableWrite (dt : Nat) (q : Port) (t : Fin 64) (v : Word)
  | hvRearm (dt : Nat) (q : Port) (k : Fin 24) (v : Word)
  | ilkClear (dt : Nat) (q : Port) (v : Word)
  | sumpTrig (dt : Nat) (q : Port) (v : Word)
  | sumpRdWrite (dt : Nat) (q : Port) (hi : Bool) (v : Word)
  | muleEnableWrite (dt : Nat) (q : Port) (m : Fin 16) (v : Word)
  | muleProfileWrite (dt : Nat) (q : Port) (m : Fin 16) (which : Profile) (v : Word)
  | slotEnableWrite (dt : Nat) (q : Port) (n : Fin 96) (v : Word)
  -- rings, queues and DMA
  | doorbellPoll (dt : Nat) (p : Fin 8)
  | doorbellBlockReceived (dt : Nat) (p : Fin 8) (blk : Option Entry)
  | entryFetchComplete (dt : Nat) (p : Fin 8) (ring : Fin 4) (entries : List Entry) (ok : Bool)
  | heldRecordDelivery (dt : Nat) (p : Fin 8)
  | modTimeExpiry (dt : Nat) (p : Fin 8) (queue : Fin 2)
  | barrierReadComplete (dt : Nat) (j : Fin 4096) (ok : Bool)
  | dmaBurstGrant (dt : Nat) (q : Port) (mem : HostImg)
  | dmaBurstComplete (dt : Nat) (ch : Fin 40) (result : Burst)
  | imageBurstRetry (dt : Nat) (lane : Fin 8)
  -- engine state commands
  | wake (dt : Nat) (j : Fin 4096)
  | sleep (dt : Nat) (j : Fin 4096)
  | prime (dt : Nat) (j : Fin 4096)
  | primeComplete (dt : Nat)
  | primeTimeout (dt : Nat)
  | idle (dt : Nat) (j : Fin 4096)
  | safeStop (dt : Nat) (j : Fin 4096)
  | replay (dt : Nat) (j : Fin 4096) (mem : HostImg)
  | idleAfterReplay (dt : Nat)
  -- transactions
  | txnBegin (dt : Nat) (j : Fin 4096)
  | txnWrite (dt : Nat) (j : Fin 4096)
  | txnCommit (dt : Nat) (j : Fin 4096)
  | txnRollback (dt : Nat) (j : Fin 4096)
  | txnAtTimeTrigger (dt : Nat) (p : Fin 8)
  -- pages and chains
  | pageArm (dt : Nat) (j : Fin 4096) (mem : HostImg)
  | chainStart (dt : Nat) (j : Fin 4096)
  | chainEnd (dt : Nat) (j : Fin 4096)
  | pageCancel (dt : Nat) (j : Fin 4096)
  | pageAbort (dt : Nat) (j : Fin 4096)
  | pageStart (dt : Nat)
  | chainClose (dt : Nat)
  | pageEnd (dt : Nat)
  | siphonBandDecode (dt : Nat) (lane : Fin 8)
  -- sweeps
  | sweepPlan (dt : Nat) (t : Fin 64)
  | trimRefine (dt : Nat) (t : Fin 64)
  | bdStamp (dt : Nat) (t : Fin 64) (msg : BdStamp)
  | mirrorSense (dt : Nat) (t : Fin 64) (sweep : BitVec 32) (phase ampl : BitVec 16)
  | monitorPd (dt : Nat) (t : Fin 64) (sweep : BitVec 32) (codes : List (BitVec 16))
  -- links
  | headStatus (dt : Nat) (t : Fin 64) (payload : List Byte)
  | headTemp (dt : Nat) (t : Fin 64) (temps : List (BitVec 16))
  | ack (dt : Nat) (t : Fin 64) (seq : BitVec 16) (nak : Bool)
  | uplinkFrame (dt : Nat) (t : Fin 64) (hdr body : List Byte)
  | retxTimeout (dt : Nat) (t : Fin 64)
  | epochMark (dt : Nat) (t : Fin 64) (sub : Fin 64)
  | echoMark (dt : Nat) (t : Fin 64) (epoch : BitVec 16) (sub : Fin 64)
  | uplinkBlockLock (dt : Nat) (t : Fin 64) (blocks : List Machine.LaneBlock)
  | linkFail (dt : Nat) (t : Fin 64)
  | linkRetrain (dt : Nat) (t : Fin 64)
  | trainTimeout (dt : Nat) (t : Fin 64)
  | bankLoadTimeout (dt : Nat) (t : Fin 64)
  | killRepeat (dt : Nat) (t : Fin 64)
  | dllLockLost (dt : Nat) (g : Fin 8) (w : Machine.DllWindow)
  | dllLockRestored (dt : Nat) (g : Fin 8) (ws : List Machine.DllWindow)
  | refClockLost (dt : Nat)
  | refRestored (dt : Nat)
  | mirrorStart (dt : Nat) (t : Fin 64)
  | mirrorAmplStep (dt : Nat) (t : Fin 64)
  | bdLockTimeout (dt : Nat) (t : Fin 64)
  | mirrorRetry (dt : Nat) (t : Fin 64)
  | calibrationComplete (dt : Nat)
  -- line scan and seams
  | lscanTrigger (dt : Nat)
  | lscanLine (dt : Nat) (words : List (BitVec 16))
  | seamHeldCommit (dt : Nat)
  | lscanLineTimeout (dt : Nat)
  | lscanDllBypass (dt : Nat) (cause : Fin 4) (mhz : BitVec 8)
  | lscanDllLock (dt : Nat) (mhz : BitVec 8)
  -- drive axes and feedback
  | carrierPeak (dt : Nat) (a : Fin 12)
  | shuntSample (dt : Nat) (a : Fin 12) (u v w : BitVec 12)
  | gateFault (dt : Nat) (a : Fin 12)
  | offsetCalEnd (dt : Nat) (a : Fin 12)
  | hallEdge (dt : Nat) (h : Fin 12) (st : BitVec 3) (samples : Nat)
  | hallLost (dt : Nat) (a : Fin 12)
  | lockedRotor (dt : Nat) (a : Fin 12)
  | observerFail (dt : Nat) (a : Fin 12)
  | catchFail (dt : Nat) (a : Fin 12)
  | brakeEnd (dt : Nat) (a : Fin 12)
  | encoderCount (dt : Nat) (e : Fin 12) (inp : QuadIn) (samples : Nat)
  | slipRunEnd (dt : Nat) (e : Fin 12)
  | indexEdge (dt : Nat) (e : Fin 12)
  | standstill (dt : Nat) (e : Fin 12)
  | speedUpdate (dt : Nat)
  | hallInvalidRunEnd (dt : Nat) (h : Fin 12)
  | bissFrameStart (dt : Nat) (b : Fin 4)
  | bissFrameEnd (dt : Nat) (b : Fin 4) (frame : Option (List Bool)) (delay : BitVec 9)
  -- Mule axes
  | coilBusFrame (dt : Nat) (chain : Fin 4) (status : List (BitVec 16))
  | muleStep (dt : Nat) (m : Fin 16)
  | muleSwitch (dt : Nat) (m : Fin 16) (which : MuleInput) (level : Bool)
  | holdDelay (dt : Nat) (m : Fin 16)
  -- Windlass, HV and fuser
  | slotSample (dt : Nat) (n : Fin 96)
  | overrunRunEnd (dt : Nat) (n : Fin 96)
  | slowAdcConversion (dt : Nat) (code : BitVec 16)
  | hvFeedbackConversion (dt : Nat) (k : Fin 24) (volts amps : BitVec 12)
  | hvEnergyBin (dt : Nat)
  | mainsZeroCrossing (dt : Nat)
  | zcLost (dt : Nat)
  | followUpdate (dt : Nat) (samples : List QuadIn)
  | followRunEnd (dt : Nat)
  | rcMasterCopy (dt : Nat) (r : Fin 16)
  -- safety and power
  | ilkOpen (dt : Nat) (chB : Bool)
  | ilkClose (dt : Nat) (chB : Bool)
  | ilkDiscrepancy (dt : Nat)
  | mainLoss (dt : Nat) (pfail aonLow : Bool) (vback : BitVec 16)
  | vbackSwitchover (dt : Nat) (toVback : Bool)
  | mainReturn (dt : Nat)
  | holdupEnd (dt : Nat)
  | dischargeCheck (dt : Nat)
  | stopSequenceFinished (dt : Nat)
  | vbackLow (dt : Nat) (vback : BitVec 16)
  | dieTempRead (dt : Nat) (temps : List (BitVec 16))
  -- start-up, cores and memories
  | startUpComplete (dt : Nat)
  | wakeRebuildDone (dt : Nat)
  | lockstepMismatch (dt : Nat) (fromSram : Bool) (resume100ns : Nat)
  | standbySelfTestEnd (dt : Nat) (pass : Bool)
  | sramUncorrectable (dt : Nat) (mem : SramMem) (off : Word) (checkpoint : Bool) (owner : SramOwner)
  -- Sump
  | segmentClose (dt : Nat)
  | segmentStream (dt : Nat) (mem : HostImg)
  | snapshotTimer (dt : Nat)
  | postTriggerEnd (dt : Nat)
  -- motion, tables, calibration and service commands
  | axisMove (dt : Nat) (j : Fin 4096)
  | axisJog (dt : Nat) (j : Fin 4096)
  | axisHome (dt : Nat) (j : Fin 4096)
  | loopConfig (dt : Nat) (j : Fin 4096) (mem : HostImg)
  | loopInject (dt : Nat) (j : Fin 4096)
  | tableLoad (dt : Nat) (j : Fin 4096)
  | emitterCalibrate (dt : Nat) (j : Fin 4096)
  | seamMeasure (dt : Nat) (j : Fin 4096) (mem : HostImg)
  | markStrip (dt : Nat) (j : Fin 4096) (mem : HostImg)
  | capture (dt : Nat) (j : Fin 4096)
  | compress (dt : Nat) (j : Fin 4096) (mem : HostImg)
  | decompressCheck (dt : Nat) (j : Fin 4096) (mem : HostImg)
  | recorder (dt : Nat) (j : Fin 4096)
  | fence (dt : Nat) (j : Fin 4096)
  | query (dt : Nat) (j : Fin 4096) (mem : HostImg)
  -- further events
  | vbackFailed (dt : Nat)
  | sramCorrectableError (dt : Nat) (mem : SramMem)
  | romParity (dt : Nat)
  | reorderWindowEnd (dt : Nat)
  | wellheadSensorRead (dt : Nat) (temp : BitVec 16)
  | lscanSyncTimeout (dt : Nat)
  | tapInstruction (dt : Nat) (tap : TapInstr) (levels tdi : List Bool)
  deriving DecidableEq, Repr

end Sys2Proof
end

