-- ==== Sys2Proof/Decode.lean ====
section
/-! DEFINITION. The command that a word spells by the bits of the opcode table. No row of the table gives any bit: its rows are happenings and writes at the block's boundary, so no word spells one.
-/
namespace Sys2Proof

/-- The command that the low `nbits` bits of `w` spell: none, since the opcode table gives no row a bit. [DESIGN CHOICE: log 3] -/
def decodeTableWord (_nbits _w : Nat) : Option Instr := none

end Sys2Proof
end

