-- ==== Sys2Proof/Machine/Crc.lean ====
section
/-! DEFINITION. The cyclic redundancy checks of the manual: CRC-32 with the parameters of IEEE 802.3 (R137) and the bitwise remainder that the links, the coil bus and the encoders use with their own polynomials.
-/
namespace Sys2Proof.Machine

/-- One bit of the reflected CRC-32. -/
def crc32Bit (c : Nat) : Nat := if c % 2 = 1 then (c / 2) ^^^ 0xEDB88320 else c / 2

/-- One byte of the reflected CRC-32. [PRESUMED: log 134] -/
def crc32Byte (c : Nat) (b : Byte) : Nat :=
  let x := c ^^^ b.toNat
  crc32Bit (crc32Bit (crc32Bit (crc32Bit (crc32Bit (crc32Bit (crc32Bit (crc32Bit x)))))))

/-- The CRC-32 register after more bytes; it starts at all ones. [PRESUMED: log 134] -/
def crc32More (c : Nat) (l : List Byte) : Nat := l.foldl crc32Byte c

/-- The CRC-32 register before the first byte. [PRESUMED: log 134] -/
def crc32Start : Nat := 0xFFFFFFFF

/-- The CRC-32 of IEEE 802.3 over a list of bytes (R137). [PRESUMED: log 134] -/
def crc32 (l : List Byte) : Nat := crc32More crc32Start l ^^^ 0xFFFFFFFF

/-- The remainder of a bit list, first bit first, by a polynomial of degree `n` whose low coefficients are `poly`, from an initial register. -/
def crcBits (n poly init : Nat) (l : List Bool) : Nat :=
  l.foldl (fun r b =>
    let top := r / 2 ^ (n - 1) % 2
    let r' := r * 2 % 2 ^ n
    if top + b2n b = 1 then r' ^^^ (poly % 2 ^ n) else r') init

/-- The bits of a byte, most significant first. -/
def byteBits (b : Byte) : List Bool := (List.range 8).map fun i => bit b.toNat (7 - i)

end Sys2Proof.Machine
end

