-- ==== Sys2Proof/Machine/Num.lean ====
section
/-! DEFINITION. Numbers: fixed-point functions with 64 fraction bits for the trigonometric and logarithmic formulas of the manual (R338, R358, R463), and IEEE 754 binary32 arithmetic rounding to nearest even with subnormal results flushed to zero (R351).
-/
namespace Sys2Proof.Machine

/-- 1 with 64 fraction bits. -/
def q1 : Int := 18446744073709551616

/-- π with 64 fraction bits. -/
def qPi : Int := 0x3243F6A8885A308D3

/-- ln 2 with 64 fraction bits. -/
def qLn2 : Int := 0xB17217F7D1CF79AB

/-- A product of two numbers with 64 fraction bits. -/
def qmul (a b : Int) : Int := a * b / q1

/-- A quotient of two numbers with 64 fraction bits. -/
def qdiv (a b : Int) : Int := if b = 0 then 0 else a * q1 / b

/-- Square root of a number with 64 fraction bits. -/
def qsqrt (a : Int) : Int := (Nat.sqrt (a.toNat * q1.toNat) : Nat)

/-- The power series whose term k + 1 is term k times −x²/((2k + 2 + d)(2k + 1 + d)). -/
def qAlt (x2 : Int) (d : Nat) : Nat → Nat → Int → Int → Int
  | 0, _, _, acc => acc
  | n + 1, k, term, acc =>
    qAlt x2 d n (k + 1) (-(qmul term x2) / ((2 * k + 2 + d) * (2 * k + 1 + d) : Nat)) (acc + term)

/-- Sine of an angle in radians, |x| at most π (64 fraction bits). -/
def qsin (x : Int) : Int := qAlt (qmul x x) 1 20 0 x 0

/-- Cosine of an angle in radians, |x| at most π. -/
def qcos (x : Int) : Int := qAlt (qmul x x) 0 20 0 q1 0

/-- Series of the arc sine of a small y: term k + 1 is term k times y²(2k + 1)/(2k + 2), divided by 2k + 3 when added. -/
def qAsinSeries (y2 : Int) : Nat → Nat → Int → Int → Int
  | 0, _, _, acc => acc
  | n + 1, k, term, acc =>
    qAsinSeries y2 n (k + 1) (qmul term y2 * (2 * k + 1 : Nat) / (2 * k + 2 : Nat)) (acc + term / (2 * k + 1 : Nat))

/-- Arc sine of y, |y| at most 1, by half-angles. [DESIGN CHOICE: log 78] -/
def qasin (y : Int) : Int :=
  let a : Int := y.natAbs
  let c := qsqrt (q1 - qmul a a)
  let h := qsqrt ((q1 - c) / 2)
  let r := 2 * qAsinSeries (qmul h h) 40 0 h 0
  if y < 0 then -r else r

/-- Series of the area hyperbolic tangent: Σ z^(2k+1)/(2k+1). -/
def qAtanhSeries (z2 : Int) : Nat → Nat → Int → Int → Int
  | 0, _, _, acc => acc
  | n + 1, k, term, acc => qAtanhSeries z2 n (k + 1) (qmul term z2) (acc + term / (2 * k + 1 : Nat))

/-- Natural logarithm of m × 2^e for m above 0. -/
def qln (m : Nat) (e : Int) : Int :=
  let b := Nat.log2 m
  let x : Int := (m : Int) * q1 / (2 ^ b : Nat)
  let z := qdiv (x - q1) (x + q1)
  2 * qAtanhSeries (qmul z z) 45 0 z 0 + (e + b) * qLn2

/-- Arc tangent of a ratio t in 0 to 1, by one halving: atan t = 2 atan (t / (1 + √(1 + t²))). -/
def qatanSmall (t : Int) : Int :=
  let u := qdiv t (q1 + qsqrt (q1 + qmul t t))
  2 * qAtanhSeries (-(qmul u u)) 45 0 u 0

/-- The angle of the vector (x, y) as a fraction of a turn in 1/2^64, from 0 to below 1. -/
def qturn (y x : Int) : Int :=
  let ay : Int := y.natAbs
  let ax : Int := x.natAbs
  let a := if ay = 0 ∧ ax = 0 then 0
    else if ay ≤ ax then qatanSmall (ay * q1 / ax) else qPi / 2 - qatanSmall (ax * q1 / ay)
  let a := if x < 0 then qPi - a else a
  let a := if y < 0 then 2 * qPi - a else a
  (a * q1 / (2 * qPi)) % q1

/-- Sine of an angle given as a fraction of a turn in 1/2^64. -/
def qsinTurn (a : Int) : Int :=
  let f := (a + q1 / 2) % q1 - q1 / 2
  qsin (qmul (2 * f) qPi)

/-- A binary32 value is finite. -/
def F32.finite (w : Word) : Bool := bits w.toNat 30 23 != 255

/-- Sign, magnitude and exponent of a finite binary32 value: magnitude × 2^exponent. -/
def F32.split (w : Word) : Bool × Nat × Int :=
  let n := w.toNat
  let x := bits n 30 23
  if x = 0 then (bit n 31, bits n 22 0, -149) else (bit n 31, bits n 22 0 + 8388608, (x : Int) - 150)

/-- A magnitude divided by 2^d, rounded to nearest even. -/
def rneShift (m d : Nat) : Nat :=
  let q := m / 2 ^ d
  let r := m % 2 ^ d * 2
  if r < 2 ^ d then q else if 2 ^ d < r then q + 1 else q + q % 2

/-- The binary32 pattern nearest to ± m × 2^e, a subnormal result flushed to zero; none when it overflows. [PRESUMED: log 134] -/
def F32.round (s : Bool) (m : Nat) (e : Int) : Option Word :=
  if m = 0 then some (BitVec.ofNat 32 (b2n s * 2 ^ 31)) else
  let top : Int := (Nat.log2 m : Int) + e
  let k : Int := max (top - 23) (-149)
  let n := if k ≤ e then m * 2 ^ (e - k).toNat else rneShift m (k - e).toNat
  let (n, k) := if n = 16777216 then (8388608, k + 1) else (n, k)
  if n < 8388608 then some (BitVec.ofNat 32 (b2n s * 2 ^ 31))
  else
    let x := k + 150
    if 255 ≤ x then none
    else some (BitVec.ofNat 32 (b2n s * 2 ^ 31 + x.toNat * 8388608 + (n - 8388608)))

/-- The exact value of an integer times a power of two, rounded. [PRESUMED: log 134] -/
def F32.ofScaled (i : Int) (e : Int) : Option Word := F32.round (decide (i < 0)) i.natAbs e

/-- The quotient of two integers, rounded once; none for a zero divisor. -/
def F32.ofRatio (a : Int) (b : Nat) : Option Word :=
  if b = 0 then none else
  let m := a.natAbs * 2 ^ 64
  F32.round (decide (a < 0)) (m / b * 2 + b2n (m % b != 0)) (-65)

/-- Sum of two binary32 values; none when an operand or the result is not finite (R351). [PRESUMED: log 134] -/
def F32.add (a b : Word) : Option Word :=
  if !F32.finite a || !F32.finite b then none else
  let (sa, ma, ea) := F32.split a
  let (sb, mb, eb) := F32.split b
  let e := min ea eb
  let x : Int := (if sa then -1 else 1) * (ma * 2 ^ (ea - e).toNat : Nat)
  let y : Int := (if sb then -1 else 1) * (mb * 2 ^ (eb - e).toNat : Nat)
  let z := x + y
  if z = 0 then some (BitVec.ofNat 32 (b2n (sa && sb) * 2 ^ 31)) else F32.round (decide (z < 0)) z.natAbs e

/-- The value with its sign turned. -/
def F32.neg (a : Word) : Word := a ^^^ 0x80000000

/-- The magnitude. -/
def F32.abs (a : Word) : Word := a &&& 0x7FFFFFFF

/-- Difference of two binary32 values. -/
def F32.sub (a b : Word) : Option Word := F32.add a (F32.neg b)

/-- Product of two binary32 values. [PRESUMED: log 134] -/
def F32.mul (a b : Word) : Option Word :=
  if !F32.finite a || !F32.finite b then none else
  let (sa, ma, ea) := F32.split a
  let (sb, mb, eb) := F32.split b
  F32.round (sa != sb) (ma * mb) (ea + eb)

/-- Quotient of two binary32 values; none for a zero divisor. [PRESUMED: log 134] -/
def F32.div (a b : Word) : Option Word :=
  if !F32.finite a || !F32.finite b then none else
  let (sa, ma, ea) := F32.split a
  let (sb, mb, eb) := F32.split b
  if mb = 0 then none else
  let m := ma * 2 ^ 64
  F32.round (sa != sb) (m / mb * 2 + b2n (m % mb != 0)) (ea - eb - 65)

/-- Square root of a binary32 value; none below zero. -/
def F32.sqrt (a : Word) : Option Word :=
  if !F32.finite a then none else
  let (s, m, e) := F32.split a
  if m = 0 then some a else if s then none else
  let sh : Nat := if e % 2 = 0 then 60 else 61
  let x := m * 2 ^ sh
  let r := Nat.sqrt x
  F32.round false (r * 2 + b2n (r * r != x)) ((e - sh) / 2 - 1)

/-- The order of two binary32 values as integers that compare alike; zero of either sign is 0. -/
def F32.key (a : Word) : Int :=
  let m : Int := (bits a.toNat 30 0 : Nat)
  if bit a.toNat 31 then -m else m

/-- A value is not a number. -/
def F32.isNan (a : Word) : Bool := bits a.toNat 30 23 == 255 && bits a.toNat 22 0 != 0

/-- Less than; false when an operand is not a number. -/
def F32.lt (a b : Word) : Bool := !F32.isNan a && !F32.isNan b && decide (F32.key a < F32.key b)

/-- At most; false when an operand is not a number. -/
def F32.le (a b : Word) : Bool := !F32.isNan a && !F32.isNan b && decide (F32.key a ≤ F32.key b)

/-- A value held between two bounds. -/
def F32.clamp (lo hi a : Word) : Word := if F32.lt a lo then lo else if F32.lt hi a then hi else a

/-- The value times 2^f, rounded toward minus infinity; 0 for a value that is not finite. -/
def F32.floorScaled (a : Word) (f : Nat) : Int :=
  if !F32.finite a then 0 else
  let (s, m, e) := F32.split a
  let i : Int := (if s then -1 else 1) * (m : Int)
  let k := e + f
  if 0 ≤ k then i * (2 ^ k.toNat : Nat) else i / (2 ^ (-k).toNat : Nat)

/-- The value times 2^f, rounded to nearest with halves away from zero. -/
def F32.nearScaled (a : Word) (f : Nat) : Int :=
  if !F32.finite a then 0 else
  let (s, m, e) := F32.split a
  let i : Int := (if s then -1 else 1) * (m : Int)
  let k := e + f
  if 0 ≤ k then i * (2 ^ k.toNat : Nat) else rdivI i (2 ^ (-k).toNat)

/-- A sample value of a formula in 64 fraction bits. -/
def F32.ofQ (x : Int) : Option Word := F32.ofScaled x (-64)

/-- A finite value in 64 fraction bits. -/
def F32.toQ (a : Word) : Int := F32.floorScaled a 64

/-- Series of the exponential: Σ x^k / k!. -/
def qExpSeries (x : Int) : Nat → Nat → Int → Int → Int
  | 0, _, _, acc => acc
  | n + 1, k, term, acc => qExpSeries x n (k + 1) (qmul term x / ((k + 1 : Nat) : Int)) (acc + term)

/-- The exponential of a binary32 value, rounded once; none when it overflows. [DESIGN CHOICE: log 97] -/
def F32.exp (a : Word) : Option Word :=
  if !F32.finite a then none else
  let x := F32.toQ a
  if 100 * q1 < x then none else if x < -110 * q1 then some 0 else
  let k := x / qLn2
  F32.ofScaled (qExpSeries (x - k * qLn2) 30 0 q1 0) (k - 64)

/-- The natural logarithm of a binary32 value above 0, rounded once. [DESIGN CHOICE: log 97] -/
def F32.ln (a : Word) : Option Word :=
  let (s, m, e) := F32.split a
  if !F32.finite a || s || m = 0 then none else F32.ofQ (qln m e)

/-- The sine of a binary32 value in radians, rounded once. [DESIGN CHOICE: log 97] -/
def F32.sin (a : Word) : Option Word :=
  if !F32.finite a then none else F32.ofQ (qsinTurn (F32.toQ a * q1 / (2 * qPi)))

/-- A natural number of nanoseconds as seconds. -/
def F32.ofNs (n : Nat) : Word := (F32.ofRatio n 1000000000).getD 0

/-- A word made finite: a pattern that is not a finite value loses its greatest exponent bit. -/
def F32.tame (a : Word) : Word := if F32.finite a then a else a &&& 0xBFFFFFFF

end Sys2Proof.Machine
end

