-- ==== Sys2Proof/Config.lean ====
section
/-! DEFINITION. What the spec leaves open: free values, constants with no body, so that nothing can be proved of them. Each is applied to the counter `free` of the chip (or to the operands it depends on), and each is named in a log entry.
-/
namespace Sys2Proof.Config

/-- A word the spec leaves undefined or does not state. -/
opaque freeWord : Nat → BitVec 32

/-- A number the spec leaves open, where no width is given. -/
opaque freeNat : Nat → Nat

/-- A decision the spec leaves open. -/
opaque freeBool : Nat → Bool

/-- The DETAIL word by which a failed PAGE_ARM names a device address and a cause (R86): the spec gives no layout. -/
opaque armFault : Nat → Nat → BitVec 32

/-- The DETAIL word by which a failed PAGE_ARM names a station, a band and a block (R125): the spec gives no layout. -/
opaque armMisaligned : Nat → Nat → Nat → BitVec 32

/-- The vendor identifier of Ranrath, which the spec names and gives no value (R74). -/
opaque vendorId : Nat

/-- The coefficients a1 and a2 trimmed at manufacture for a converter, in 2^−32 per 1/16 °C and per (1/16 °C)², and the ΔT in 1/16 °C with which it is corrected while every die sensor is SUSPECT (R391, R399). Converters: 0 the slow ADC, 1 and 2 the HV feedback converters of voltage and current, 3 + c shunt converter c. -/
opaque gainA1 (converter : Nat) : Int
opaque gainA2 (converter : Nat) : Int
opaque gainBlind (converter : Nat) : Int

/-- The die sensors from the nearest to a converter to the farthest (R399, whose placement the spec does not give). -/
opaque nearSensor (converter k : Nat) : Fin 12

/-- What the back-EMF observer of a drive axis estimates from the phase currents, the applied vector and the motor model (phase resistance, phase inductance, flux): `k` is 0 for the angle, 1 for the speed and 2 for the back-EMF magnitude (R305, whose arithmetic the spec does not give). -/
opaque observed (k n : Nat) (currents vector : List Int) (model : List Nat) : Nat

/-- The current of a drive axis in the rotor frame, q or d, from the phase currents in counts, the µA per count and the electrical angle (R353, which names it and gives no transform). -/
opaque rotorCurrent (q : Bool) (currents : List Int) (lsb angle : Nat) : BitVec 32

/-- Which level of FOLLOW_B is the forward direction of MODE 1 (R361, which names the input and gives no polarity). -/
opaque followForward : Bool

/-- The feedback taps of the PRBS generator of an order, and the state it starts from (R373, which asks for a maximal-length sequence and names none). -/
opaque prbsTaps (order : Nat) : Nat
opaque prbsSeed (order : Nat) : Nat

/-- The filtered derivative of PID from the unfiltered one, the one before, Ts and the time constant (R353, which names no filter). -/
opaque filtered (raw prev ts tau : BitVec 32) : BitVec 32

/-- A byte of host memory or of a record area that the spec calls undefined or engine-private. -/
opaque freeByte : Nat → BitVec 8

end Sys2Proof.Config
end

