-- ==== Sys2Proof/Machine/Codes.lean ====
section
/-! DEFINITION. The completion statuses and event codes of the command set (R438, R439) and the causes of STATE_CHANGE (R440).
-/
namespace Sys2Proof.Machine

def Rc.OK : Nat := 0x00
def Rc.ERR_OPCODE : Nat := 0x01
def Rc.ERR_FORMAT : Nat := 0x02
def Rc.ERR_PRIV : Nat := 0x03
def Rc.ERR_STATE : Nat := 0x04
def Rc.ERR_RANGE : Nat := 0x05
def Rc.ERR_BARRIER : Nat := 0x06
def Rc.SAFE_STOPPED : Nat := 0x07
def Rc.XLAT_ABANDONED : Nat := 0x08
def Rc.XLAT_FAULT : Nat := 0x09
def Rc.XLAT_LOCK_FULL : Nat := 0x0A
def Rc.DMA_MISALIGNED : Nat := 0x0B
def Rc.DESC_BAD : Nat := 0x0C
def Rc.ERR_TXN_OPEN : Nat := 0x10
def Rc.ERR_NO_TXN : Nat := 0x11
def Rc.TXN_FULL : Nat := 0x12
def Rc.ERR_TXN_TARGET : Nat := 0x13
def Rc.TXN_BUSY : Nat := 0x14
def Rc.TXN_CONFLICT : Nat := 0x15
def Rc.TXN_LOCKED : Nat := 0x16
def Rc.TXN_LATE : Nat := 0x17
def Rc.TXN_NO_SAFE_POINT : Nat := 0x18
def Rc.TXN_SCHEDULED : Nat := 0x19
def Rc.TXN_APPLIED : Nat := 0x1A
def Rc.TXN_RESET : Nat := 0x1B
def Rc.ARM_QUEUE_FULL : Nat := 0x20
def Rc.PAGE_TREE_ERR : Nat := 0x21
def Rc.PAGE_CHECKSUM : Nat := 0x22
def Rc.ARM_TILE_ABSENT : Nat := 0x23
def Rc.ARM_DESC_FULL : Nat := 0x24
def Rc.ARM_GAP_SHORT : Nat := 0x25
def Rc.ADMIT_FAIL : Nat := 0x26
def Rc.NO_ARMED_PAGE : Nat := 0x27
def Rc.NO_CHAIN : Nat := 0x28
def Rc.PAGE_STARTED : Nat := 0x29
def Rc.PAGE_NOT_STARTED : Nat := 0x2A
def Rc.PAGE_ENDED : Nat := 0x2B
def Rc.PAGE_UNKNOWN : Nat := 0x2C
def Rc.ABORTED : Nat := 0x2D
def Rc.DEFECT : Nat := 0x2E
def Rc.CANCELLED : Nat := 0x2F
def Rc.CEILING_UNLOCKED : Nat := 0x30
def Rc.ILK_OPEN : Nat := 0x31
def Rc.ILK_FAULT : Nat := 0x32
def Rc.BACKUP_LOW : Nat := 0x33
def Rc.FUSER_FAULT : Nat := 0x34
def Rc.SEAM_GEOMETRY : Nat := 0x35
def Rc.ERR_TILE_CONFIG : Nat := 0x36
def Rc.ERR_STATION_CFG : Nat := 0x37
def Rc.ERR_FEEDBACK_CFG : Nat := 0x38
def Rc.ERR_LOOP_CFG : Nat := 0x39
def Rc.ENCODER_FAULT : Nat := 0x3A
def Rc.PRIME_TIMEOUT : Nat := 0x3B
def Rc.CAL_PRECONDITION : Nat := 0x3C
def Rc.CAL_PARTIAL : Nat := 0x3D
def Rc.ERR_DRIVE_CFG : Nat := 0x40
def Rc.NOT_ALIGNED : Nat := 0x41
def Rc.CATCH_FAIL : Nat := 0x42
def Rc.AXIS_FAULT : Nat := 0x43
def Rc.MOVE_REPLACED : Nat := 0x44
def Rc.ERR_REVERSE : Nat := 0x45
def Rc.SOFT_LIMIT : Nat := 0x46
def Rc.HOME_FAIL : Nat := 0x47
def Rc.LIMIT_HIT : Nat := 0x48
def Rc.ERR_LIMIT : Nat := 0x49
def Rc.ERR_AXIS_BUSY : Nat := 0x4A
def Rc.STALL : Nat := 0x4B
def Rc.WL_OVERLOAD : Nat := 0x4C
def Rc.INJECT_BUSY : Nat := 0x4D
def Rc.INJECT_PAGE : Nat := 0x4E
def Rc.NO_GAIN : Nat := 0x50
def Rc.BUFFER_FULL : Nat := 0x51
def Rc.CTX_SLOTS_FULL : Nat := 0x52
def Rc.STATE_INVALID : Nat := 0x53
def Rc.SIPHON_BAD : Nat := 0x54
def Rc.CAPTURE_BUSY : Nat := 0x55
def Rc.MEAS_INCOMPLETE : Nat := 0x56
def Rc.REPLAY_DIVERGED : Nat := 0x57
def Rc.REC_FORMAT : Nat := 0x58
def Rc.REPLAY_STOPPED : Nat := 0x59
def Rc.STATE_CHANGE : Nat := 0x80
def Rc.PLACEMENT_TABLE_BAD : Nat := 0xA6
def Rc.INTERLOCK_OPEN : Nat := 0x81
def Rc.MIRROR_FAULT : Nat := 0xA7
def Rc.ILK_DISCREPANCY : Nat := 0x82
def Rc.DUTY_CLAMP : Nat := 0xA8
def Rc.MAIN_LOSS : Nat := 0x83
def Rc.TILE_DUTY_BREACH : Nat := 0xA9
def Rc.VBACK_LOW : Nat := 0x84
def Rc.EMITTER_DISABLED : Nat := 0xAA
def Rc.HV_DISCHARGE_FAIL : Nat := 0x85
def Rc.EXPO_TABLE_BAD : Nat := 0xAB
def Rc.REF_CLOCK_LOST : Nat := 0x86
def Rc.HANDOVER_BAD : Nat := 0xAC
def Rc.SRAM_UNCORRECTABLE : Nat := 0x87
def Rc.SEAM_MEASURED : Nat := 0xAD
def Rc.CORE_FAILOVER : Nat := 0x88
def Rc.LSCAN_DLL_BYPASS : Nat := 0xAE
def Rc.THERMAL_WARN : Nat := 0x89
def Rc.LINK_FAULT : Nat := 0xAF
def Rc.THERMAL_STOP : Nat := 0x8A
def Rc.LINK_DLL_BYPASS : Nat := 0xB0
def Rc.THERMAL_TRIP : Nat := 0x8B
def Rc.LINK_DLL_LOCK : Nat := 0xB1
def Rc.SENSOR_SUSPECT : Nat := 0x8C
def Rc.TILE_MISSING : Nat := 0xB2
def Rc.FUSER_OVERTEMP : Nat := 0x8D
def Rc.OBSERVER_LOST : Nat := 0xB8
def Rc.TH_PAIR_MISMATCH : Nat := 0x8E
def Rc.OBSERVER_REACQUIRED : Nat := 0xB9
def Rc.TH_FAULT : Nat := 0x8F
def Rc.INDEX_MISMATCH : Nat := 0xBA
def Rc.PRIV_VIOLATION : Nat := 0x90
def Rc.COUNT_SLIP : Nat := 0xBB
def Rc.LOCK_VIOLATION : Nat := 0x91
def Rc.ENC_DIR : Nat := 0xBC
def Rc.ERR_COUPLED : Nat := 0x92
def Rc.HALL_INVALID : Nat := 0xBD
def Rc.XLAT_INVAL_LOCKED : Nat := 0x93
def Rc.MICROSTEP_BAD : Nat := 0xBE
def Rc.DOORBELL_INVALID : Nat := 0x94
def Rc.PROFILE_DEFERRED : Nat := 0xBF
def Rc.EVENTS_DROPPED : Nat := 0x95
def Rc.MULE_STALL : Nat := 0xC0
def Rc.DMA_HALT : Nat := 0x96
def Rc.MULE_FAULT : Nat := 0xC1
def Rc.TXN_SWITCHED : Nat := 0x97
def Rc.WL_OVERRUN : Nat := 0xC2
def Rc.TXN_FROZEN : Nat := 0x98
def Rc.WL_NONFINITE : Nat := 0xC3
def Rc.PAGE_START : Nat := 0xA0
def Rc.FOLLOW_WARN : Nat := 0xC4
def Rc.FOLLOW_CLAMP : Nat := 0xC5
def Rc.PAGE_DEFECT : Nat := 0xA2
def Rc.DANCER_LIMIT : Nat := 0xC6
def Rc.CHAIN_DONE : Nat := 0xA3
def Rc.HV_ENERGY : Nat := 0xC7
def Rc.SIPHON_ERROR : Nat := 0xA4
def Rc.ZC_LOST : Nat := 0xC8
def Rc.PLACEMENT_LIMIT : Nat := 0xA5
def Rc.CAPTURE_DONE : Nat := 0xC9
def Rc.SUMP_GAP : Nat := 0xD0

def Why.coldStart : Nat := 1
def Why.powerOn : Nat := 2
def Why.engineReset : Nat := 3
def Why.wakeRegister : Nat := 4
def Why.wakeI2c : Nat := 5
def Why.startUp : Nat := 6
def Why.sleep : Nat := 7
def Why.prime : Nat := 8
def Why.replay : Nat := 9
def Why.chainStart : Nat := 10
def Why.chainEnd : Nat := 11
def Why.idle : Nat := 12
def Why.replayEnded : Nat := 13
def Why.safeStop : Nat := 14
def Why.interlock : Nat := 15
def Why.discrepancy : Nat := 16
def Why.mainLoss : Nat := 17
def Why.thermalStop : Nat := 18
def Why.thermalTrip : Nat := 19
def Why.discharge : Nat := 20
def Why.refLost : Nat := 21
def Why.sram : Nat := 22
def Why.cores : Nat := 23
def Why.resetStop : Nat := 24

end Sys2Proof.Machine
end

