-- ==== Sys2Proof/Machine/RegMap.lean ====
section
/-! DEFINITION. The register maps of the manual as data: every register of every unit block with its offset formula, its privilege class and its fields, their access codes and reset values (R39, R41, R43, and the register map of each chapter).
-/
namespace Sys2Proof.Machine

/-- The access codes of register fields (R13, R43). -/
inductive Access where
  | rw | ro | wo | sq | g | m | t | l | w1
  deriving DecidableEq, Repr

/-- The privilege class of a register (R42, R81): `any` needs none beyond owning a partition-less write, `cls k` is class bit k (0 IMAGE, 1 MOTION, 2 SERVICE, 3 SAFETY), `master` accepts only the port that owns PART_0, `owner` only the port that owns the block's partition (R101). -/
inductive Priv where
  | any | master | owner | cls (k : Nat)
  deriving DecidableEq, Repr

/-- One field of a register map: bits [hi:lo], access code and reset value. -/
structure FieldSpec where
  hi : Nat
  lo : Nat
  acc : Access
  reset : Nat
  deriving DecidableEq, Repr

/-- One register of a map: its name, the offset of its first instance, the (count, stride) of each index and its fields. -/
structure RegSpec where
  name : String
  base : Nat
  dims : List (Nat × Nat)
  priv : Priv
  fields : List FieldSpec
  deriving DecidableEq, Repr

/-- The GLOBAL register map. -/
def RegMap.global : List RegSpec := [
  ⟨"GLOBAL.ID", 0x0, [], .master, [⟨15, 0, .ro, 0x7064⟩, ⟨19, 16, .ro, 1⟩, ⟨31, 20, .ro, 0x12⟩]⟩,
  ⟨"GLOBAL.STATUS", 0x4, [], .master, [⟨3, 0, .ro, 1⟩, ⟨4, 4, .m, 1⟩, ⟨5, 5, .ro, 0⟩, ⟨6, 6, .ro, 0⟩, ⟨7, 7, .ro, 0⟩]⟩,
  ⟨"GLOBAL.WAKE", 0x8, [], .any, [⟨0, 0, .wo, 0⟩]⟩,
  ⟨"GLOBAL.TIME_LO", 0x10, [], .master, [⟨31, 0, .ro, 0⟩]⟩,
  ⟨"GLOBAL.TIME_HI", 0x14, [], .master, [⟨31, 0, .ro, 0⟩]⟩,
  ⟨"GLOBAL.SEQ_LO", 0x18, [], .master, [⟨31, 0, .ro, 0⟩]⟩,
  ⟨"GLOBAL.SEQ_HI", 0x1c, [], .master, [⟨31, 0, .ro, 0⟩]⟩,
  ⟨"GLOBAL.CLK_CTL", 0x20, [], .master, [⟨0, 0, .m, 0⟩, ⟨1, 1, .m, 0⟩]⟩,
  ⟨"GLOBAL.PWR_CTL", 0x24, [], .master, [⟨15, 0, .m, 0xffff⟩]⟩,
  ⟨"GLOBAL.PART_OWNER", 0x28, [], .master, [⟨7, 0, .m, 0⟩, ⟨15, 8, .m, 1⟩]⟩,
  ⟨"GLOBAL.RESET_CTL", 0x40, [], .master, [⟨0, 0, .g, 0⟩, ⟨15, 8, .g, 0⟩, ⟨17, 16, .g, 0⟩]⟩,
  ⟨"GLOBAL.ERR_EVENT", 0x80, [], .any, [⟨0, 0, .sq, 0⟩, ⟨1, 1, .sq, 0⟩, ⟨2, 2, .sq, 0⟩, ⟨3, 3, .sq, 0⟩, ⟨4, 4, .sq, 0⟩, ⟨23, 23, .sq, 0⟩, ⟨31, 24, .sq, 0⟩]⟩,
  ⟨"GLOBAL.ERR_FIRST_ADDR", 0x84, [], .master, [⟨31, 0, .ro, 0⟩]⟩,
  ⟨"GLOBAL.ERR_FIRST_INFO", 0x88, [], .master, [⟨2, 0, .ro, 0⟩, ⟨3, 3, .ro, 0⟩, ⟨4, 4, .ro, 0⟩, ⟨10, 8, .ro, 0⟩, ⟨14, 12, .ro, 0⟩, ⟨31, 16, .ro, 0⟩]⟩,
  ⟨"GLOBAL.ERR_LAST_ADDR", 0x8c, [], .master, [⟨31, 0, .ro, 0⟩]⟩,
  ⟨"GLOBAL.ERR_LAST_INFO", 0x90, [], .master, [⟨2, 0, .ro, 0⟩, ⟨3, 3, .ro, 0⟩, ⟨4, 4, .ro, 0⟩, ⟨10, 8, .ro, 0⟩, ⟨14, 12, .ro, 0⟩, ⟨31, 16, .ro, 0⟩]⟩,
  ⟨"GLOBAL.SLEEP_DROP", 0xa0, [], .master, [⟨31, 0, .ro, 0⟩]⟩]

/-- The SAFETY register map. -/
def RegMap.safety : List RegSpec := [
  ⟨"SAFETY.STATUS", 0x10000, [], .any, [⟨0, 0, .ro, 0⟩, ⟨1, 1, .ro, 0⟩, ⟨2, 2, .ro, 0⟩, ⟨3, 3, .ro, 0⟩, ⟨4, 4, .ro, 0⟩, ⟨5, 5, .ro, 0⟩, ⟨6, 6, .ro, 0⟩, ⟨7, 7, .ro, 1⟩, ⟨8, 8, .ro, 0⟩, ⟨9, 9, .ro, 1⟩]⟩,
  ⟨"SAFETY.EVENT", 0x10004, [], (.cls 3), [⟨0, 0, .sq, 0⟩, ⟨1, 1, .sq, 0⟩, ⟨2, 2, .sq, 0⟩, ⟨3, 3, .sq, 0⟩, ⟨4, 4, .sq, 0⟩, ⟨5, 5, .sq, 0⟩, ⟨6, 6, .sq, 0⟩, ⟨7, 7, .sq, 0⟩, ⟨8, 8, .sq, 0⟩, ⟨9, 9, .sq, 0⟩, ⟨10, 10, .sq, 0⟩, ⟨11, 11, .sq, 0⟩, ⟨12, 12, .sq, 0⟩, ⟨13, 13, .sq, 0⟩, ⟨23, 23, .sq, 0⟩, ⟨31, 24, .sq, 0⟩]⟩,
  ⟨"SAFETY.ILK_CLEAR", 0x10008, [], .master, [⟨0, 0, .wo, 0⟩]⟩,
  ⟨"SAFETY.DCHG_LIMIT", 0x1000c, [], .master, [⟨31, 0, .l, 0x42480000⟩]⟩,
  ⟨"SAFETY.LOCK", 0x10010, [], .master, [⟨0, 0, .w1, 0⟩, ⟨1, 1, .w1, 0⟩, ⟨2, 2, .w1, 0⟩, ⟨3, 3, .w1, 0⟩]⟩,
  ⟨"POWER.STATUS", 0x10020, [], .any, [⟨0, 0, .ro, 0⟩, ⟨1, 1, .ro, 0⟩, ⟨2, 2, .ro, 0⟩, ⟨31, 16, .ro, 0⟩]⟩,
  ⟨"POWER.VBACK_MIN", 0x10024, [], .master, [⟨15, 0, .l, 0x708⟩]⟩,
  ⟨"THERMAL.DIE", 0x10040, [(12, 0x4)], .any, [⟨15, 0, .ro, 0⟩, ⟨16, 16, .ro, 0⟩]⟩,
  ⟨"THERMAL.MAX", 0x10070, [], .any, [⟨15, 0, .ro, 0⟩, ⟨19, 16, .ro, 0⟩, ⟨31, 20, .ro, 0⟩]⟩,
  ⟨"THERMAL.CFG", 0x10074, [], .master, [⟨7, 0, .rw, 0x64⟩, ⟨15, 8, .l, 0x6c⟩, ⟨23, 16, .l, 0x32⟩]⟩,
  ⟨"THERMAL.THETA", 0x10078, [], .master, [⟨15, 0, .rw, 0x180⟩]⟩,
  ⟨"THERMAL.FUSER_LIM", 0x10080, [(4, 0x4)], .master, [⟨9, 0, .l, 0xe6⟩, ⟨23, 16, .l, 0xa⟩]⟩,
  ⟨"THERMAL.TH_RATE", 0x100a0, [(8, 0x4)], .master, [⟨7, 0, .l, 0x14⟩]⟩,
  ⟨"THERMAL.COMP_CFG", 0x100c0, [], .master, [⟨3, 0, .rw, 9⟩]⟩,
  ⟨"THERMAL.XTAL_REF", 0x100c4, [(4, 0x4)], .master, [⟨31, 0, .rw, 0⟩]⟩,
  ⟨"THERMAL.XTAL_WELL", 0x100d4, [(4, 0x4)], .master, [⟨31, 0, .rw, 0⟩]⟩]

/-- The HOST register map. -/
def RegMap.host : List RegSpec := [
  ⟨"HOST.PORT_STATUS", 0x20000, [(2, 0x4)], .any, [⟨0, 0, .ro, 0⟩, ⟨1, 1, .ro, 0⟩, ⟨4, 2, .ro, 0⟩, ⟨7, 5, .ro, 0⟩, ⟨8, 8, .ro, 0⟩, ⟨9, 9, .ro, 1⟩, ⟨23, 16, .ro, 0⟩]⟩,
  ⟨"HOST.PART_PRIV", 0x20010, [(8, 0x4)], .master, [⟨3, 0, .m, 0⟩]⟩,
  ⟨"HOST.XLAT_LOCKED", 0x20040, [], .any, [⟨11, 0, .ro, 0⟩, ⟨27, 16, .ro, 0⟩]⟩,
  ⟨"HOST.HELD", 0x20044, [], .any, [⟨14, 0, .ro, 0⟩]⟩,
  ⟨"HOST.PART_CTL", 0x21000, [(8, 0x100)], .owner, [⟨0, 0, .rw, 0⟩, ⟨1, 1, .ro, 0⟩]⟩,
  ⟨"HOST.PART_XLAT_ROOT_LO", 0x21008, [(8, 0x100)], .owner, [⟨31, 12, .rw, 0⟩]⟩,
  ⟨"HOST.PART_XLAT_ROOT_HI", 0x2100c, [(8, 0x100)], .owner, [⟨19, 0, .rw, 0⟩]⟩,
  ⟨"HOST.PART_INVAL_ADDR_LO", 0x21010, [(8, 0x100)], .owner, [⟨31, 0, .rw, 0⟩]⟩,
  ⟨"HOST.PART_INVAL_ADDR_HI", 0x21014, [(8, 0x100)], .owner, [⟨6, 0, .rw, 0⟩]⟩,
  ⟨"HOST.PART_INVAL_CTL", 0x21018, [(8, 0x100)], .owner, [⟨1, 0, .wo, 0⟩, ⟨31, 31, .wo, 0⟩]⟩,
  ⟨"HOST.PART_INVAL_STATUS", 0x2101c, [(8, 0x100)], .any, [⟨0, 0, .ro, 0⟩, ⟨1, 1, .ro, 0⟩, ⟨27, 16, .ro, 0⟩]⟩,
  ⟨"HOST.PART_FAULT_NEXT", 0x21020, [(8, 0x100)], .any, [⟨15, 0, .ro, 0⟩, ⟨23, 16, .ro, 0⟩]⟩,
  ⟨"HOST.PART_RING_BASE_LO", 0x21040, [(8, 0x100), (4, 0x10)], .owner, [⟨31, 12, .rw, 0⟩]⟩,
  ⟨"HOST.PART_RING_BASE_HI", 0x21044, [(8, 0x100), (4, 0x10)], .owner, [⟨6, 0, .rw, 0⟩]⟩,
  ⟨"HOST.PART_RING_SIZE", 0x21048, [(8, 0x100), (4, 0x10)], .owner, [⟨4, 0, .rw, 4⟩]⟩,
  ⟨"HOST.PART_RING_HEAD", 0x2104c, [(8, 0x100), (4, 0x10)], .owner, [⟨31, 0, .ro, 0⟩]⟩,
  ⟨"HOST.PART_Q_BASE_LO", 0x21080, [(8, 0x100), (2, 0x10)], .owner, [⟨31, 12, .rw, 0⟩]⟩,
  ⟨"HOST.PART_Q_BASE_HI", 0x21084, [(8, 0x100), (2, 0x10)], .owner, [⟨6, 0, .rw, 0⟩]⟩,
  ⟨"HOST.PART_Q_CTL", 0x21088, [(8, 0x100), (2, 0x10)], .owner, [⟨4, 0, .rw, 4⟩, ⟨7, 5, .rw, 0⟩, ⟨15, 8, .rw, 1⟩, ⟨25, 16, .rw, 0⟩]⟩,
  ⟨"HOST.PART_Q_TAIL", 0x2108c, [(8, 0x100), (2, 0x10)], .owner, [⟨31, 0, .ro, 0⟩]⟩,
  ⟨"HOST.PART_DB_LO", 0x210a0, [(8, 0x100)], .owner, [⟨31, 6, .rw, 0⟩]⟩,
  ⟨"HOST.PART_DB_HI", 0x210a4, [(8, 0x100)], .owner, [⟨6, 0, .rw, 0⟩]⟩,
  ⟨"HOST.PART_POLL", 0x210a8, [(8, 0x100)], .owner, [⟨6, 0, .rw, 4⟩]⟩,
  ⟨"HOST.PART_RING_STATUS", 0x210ac, [(8, 0x100)], .owner, [⟨0, 0, .ro, 0⟩, ⟨1, 1, .ro, 0⟩, ⟨2, 2, .ro, 0⟩, ⟨7, 4, .ro, 0⟩, ⟨9, 8, .ro, 0⟩, ⟨10, 10, .ro, 0⟩, ⟨11, 11, .ro, 0⟩]⟩]

/-- The DMA register map. -/
def RegMap.dma : List RegSpec := [
  ⟨"DMA.IMG_RETRY", 0x30000, [], .master, [⟨2, 0, .m, 4⟩]⟩,
  ⟨"DMA.IMG_EVENT", 0x30004, [], (.cls 0), [⟨7, 0, .sq, 0⟩, ⟨15, 8, .sq, 0⟩, ⟨23, 23, .sq, 0⟩, ⟨31, 24, .sq, 0⟩]⟩,
  ⟨"DMA.CHAN_STATUS", 0x30100, [(40, 0x4)], .any, [⟨2, 0, .ro, 0⟩, ⟨5, 4, .ro, 0⟩, ⟨6, 6, .ro, 0⟩, ⟨10, 8, .ro, 0⟩, ⟨31, 16, .ro, 0⟩]⟩,
  ⟨"DMA.IMG_STATUS", 0x30200, [(8, 0x8)], .any, [⟨15, 0, .ro, 0⟩, ⟨23, 16, .ro, 0⟩]⟩,
  ⟨"DMA.IMG_DESC", 0x30204, [(8, 0x8)], .any, [⟨31, 0, .ro, 0⟩]⟩,
  ⟨"DMA.IMG_CUR", 0x30300, [(8, 0x10), (4, 0x4)], .any, [⟨31, 0, .ro, 0⟩]⟩]

/-- The TXN register map. -/
def RegMap.txn : List RegSpec := [
  ⟨"TXN.STATE", 0x40000, [(8, 0x1000)], .any, [⟨1, 0, .ro, 0⟩, ⟨2, 2, .ro, 0⟩, ⟨5, 4, .ro, 0⟩, ⟨25, 16, .ro, 0⟩]⟩,
  ⟨"TXN.BEGIN_GEN", 0x40004, [(8, 0x1000)], .any, [⟨31, 0, .ro, 0⟩]⟩,
  ⟨"TXN.TRIGGER_LO", 0x40008, [(8, 0x1000)], .any, [⟨31, 0, .ro, 0⟩]⟩,
  ⟨"TXN.TRIGGER_HI", 0x4000c, [(8, 0x1000)], .any, [⟨31, 0, .ro, 0⟩]⟩,
  ⟨"TXN.RESULT", 0x40010, [(8, 0x1000)], .any, [⟨7, 0, .ro, 0⟩, ⟨15, 8, .ro, 0⟩, ⟨31, 16, .ro, 0⟩]⟩,
  ⟨"TXN.CONFLICT_ADDR", 0x40014, [(8, 0x1000)], .any, [⟨29, 0, .ro, 0⟩, ⟨30, 30, .ro, 0⟩, ⟨31, 31, .ro, 0⟩]⟩,
  ⟨"TXN.SWITCH_TIME", 0x40400, [(8, 0x1000), (128, 0x4)], .any, [⟨31, 0, .ro, 0xffffffff⟩]⟩,
  ⟨"TXN.GEN", 0x48000, [], .any, [⟨31, 0, .ro, 0⟩]⟩,
  ⟨"TXN.LOG_OLDEST", 0x48004, [], .any, [⟨31, 0, .ro, 0⟩]⟩]

/-- The SUMP register map. -/
def RegMap.sump : List RegSpec := [
  ⟨"SUMP.CFG", 0x50000, [], (.cls 2), [⟨0, 0, .rw, 0⟩, ⟨15, 8, .rw, 0xa⟩, ⟨31, 16, .rw, 0x3e8⟩]⟩,
  ⟨"SUMP.TRIG_MASK", 0x50004, [], (.cls 2), [⟨9, 0, .rw, 0⟩]⟩,
  ⟨"SUMP.TRIG", 0x50008, [], (.cls 2), [⟨0, 0, .wo, 0⟩]⟩,
  ⟨"SUMP.STATUS", 0x5000c, [], (.cls 2), [⟨1, 0, .ro, 0⟩, ⟨4, 2, .ro, 0⟩, ⟨15, 8, .ro, 0⟩, ⟨19, 16, .ro, 0⟩]⟩,
  ⟨"SUMP.WR_LO", 0x50010, [], (.cls 2), [⟨31, 0, .ro, 0⟩]⟩,
  ⟨"SUMP.WR_HI", 0x50014, [], (.cls 2), [⟨31, 0, .ro, 0⟩]⟩,
  ⟨"SUMP.RD_LO", 0x50018, [], (.cls 2), [⟨31, 0, .rw, 0⟩]⟩,
  ⟨"SUMP.RD_HI", 0x5001c, [], (.cls 2), [⟨31, 0, .rw, 0⟩]⟩,
  ⟨"SUMP.TRIG_SEG_LO", 0x50020, [], (.cls 2), [⟨31, 0, .ro, 0⟩]⟩,
  ⟨"SUMP.TRIG_SEG_HI", 0x50024, [], (.cls 2), [⟨31, 0, .ro, 0⟩]⟩,
  ⟨"SUMP.GAPS", 0x50028, [], (.cls 2), [⟨15, 0, .ro, 0⟩]⟩,
  ⟨"SUMP.EVENT", 0x5002c, [], (.cls 2), [⟨0, 0, .sq, 0⟩, ⟨1, 1, .sq, 0⟩, ⟨2, 2, .sq, 0⟩, ⟨3, 3, .sq, 0⟩, ⟨4, 4, .sq, 0⟩, ⟨23, 23, .sq, 0⟩, ⟨31, 24, .sq, 0⟩]⟩,
  ⟨"SUMP.REPLAY_POS_LO", 0x50030, [], (.cls 2), [⟨31, 0, .ro, 0⟩]⟩,
  ⟨"SUMP.REPLAY_POS_HI", 0x50034, [], (.cls 2), [⟨31, 0, .ro, 0⟩]⟩]

/-- The STATION register map. -/
def RegMap.station : List RegSpec := [
  ⟨"STATION.BELT_OFFSET_LO", 0x100000, [(8, 0x10000)], (.cls 2), [⟨31, 0, .rw, 0⟩]⟩,
  ⟨"STATION.BELT_OFFSET_HI", 0x100004, [(8, 0x10000)], (.cls 2), [⟨15, 0, .rw, 0⟩]⟩,
  ⟨"STATION.EXPO_CTL", 0x100008, [(8, 0x10000)], (.cls 2), [⟨0, 0, .t, 1⟩]⟩,
  ⟨"STATION.CEIL_DUTY", 0x100010, [(8, 0x10000)], .master, [⟨10, 0, .g, 0⟩, ⟨26, 16, .g, 0⟩]⟩,
  ⟨"STATION.CEIL_BIAS", 0x100018, [(8, 0x10000)], .master, [⟨11, 0, .g, 0⟩]⟩,
  ⟨"STATION.CEIL_LOCK", 0x100020, [(8, 0x10000)], .master, [⟨0, 0, .w1, 0⟩]⟩,
  ⟨"STATION.CAL_TARGET", 0x100024, [(8, 0x10000)], (.cls 2), [⟨11, 0, .rw, 0⟩]⟩,
  ⟨"STATION.EXPO_EVENT", 0x100030, [(8, 0x10000)], (.cls 2), [⟨0, 0, .sq, 0⟩, ⟨1, 1, .sq, 0⟩, ⟨2, 2, .sq, 0⟩, ⟨3, 3, .sq, 0⟩, ⟨4, 4, .sq, 0⟩, ⟨23, 23, .sq, 0⟩, ⟨31, 24, .sq, 0⟩]⟩,
  ⟨"STATION.EDGE_SHIFTED", 0x100034, [(8, 0x10000)], (.cls 2), [⟨31, 0, .ro, 0⟩]⟩,
  ⟨"STATION.EDGE_SUM", 0x100038, [(8, 0x10000)], (.cls 2), [⟨31, 0, .ro, 0⟩]⟩,
  ⟨"STATION.WIDTH_SAT", 0x10003c, [(8, 0x10000)], (.cls 2), [⟨31, 0, .ro, 0⟩]⟩,
  ⟨"STATION.EMIT_DIS", 0x100100, [(8, 0x10000), (16, 0x4)], (.cls 2), [⟨15, 0, .ro, 0⟩, ⟨19, 16, .ro, 0⟩, ⟨21, 20, .ro, 0⟩]⟩,
  ⟨"STATION.CLAMP", 0x100140, [(8, 0x10000), (16, 0x4)], (.cls 2), [⟨8, 0, .ro, 0x100⟩, ⟨24, 16, .ro, 0x100⟩, ⟨31, 28, .ro, 0⟩]⟩,
  ⟨"STATION.DRUM_SCALE", 0x100400, [(8, 0x10000)], (.cls 2), [⟨31, 0, .rw, 0⟩]⟩,
  ⟨"STATION.SCHED_CTL", 0x100404, [(8, 0x10000)], (.cls 2), [⟨0, 0, .rw, 0⟩]⟩,
  ⟨"STATION.REG_OFFSET", 0x100408, [(8, 0x10000)], (.cls 2), [⟨23, 0, .t, 0⟩]⟩,
  ⟨"STATION.DRUM_ALIGN_LO", 0x10040c, [(8, 0x10000)], (.cls 2), [⟨31, 0, .ro, 0⟩]⟩,
  ⟨"STATION.DRUM_ALIGN_HI", 0x100410, [(8, 0x10000)], (.cls 2), [⟨15, 0, .ro, 0⟩]⟩,
  ⟨"STATION.FRONT_LO", 0x100414, [(8, 0x10000)], (.cls 2), [⟨31, 0, .ro, 0⟩]⟩,
  ⟨"STATION.FRONT_HI", 0x100418, [(8, 0x10000)], (.cls 2), [⟨15, 0, .ro, 0⟩]⟩]

/-- The TILE register map. -/
def RegMap.tile : List RegSpec := [
  ⟨"TILE.CFG", 0x200000, [(64, 0x4000)], .master, [⟨0, 0, .rw, 0⟩, ⟨6, 4, .rw, 0⟩, ⟨11, 8, .rw, 0⟩]⟩,
  ⟨"TILE.LINK_STATUS", 0x200004, [(64, 0x4000)], .any, [⟨2, 0, .ro, 0⟩, ⟨3, 3, .ro, 0⟩, ⟨4, 4, .ro, 0⟩, ⟨5, 5, .ro, 0⟩, ⟨6, 6, .ro, 0⟩, ⟨7, 7, .ro, 0⟩, ⟨11, 8, .ro, 0⟩]⟩,
  ⟨"TILE.LINK_RT", 0x200008, [(64, 0x4000)], .any, [⟨23, 0, .ro, 0⟩]⟩,
  ⟨"TILE.LINK_ASYM", 0x20000c, [(64, 0x4000)], (.cls 2), [⟨15, 0, .rw, 0⟩]⟩,
  ⟨"TILE.LINK_COUNT", 0x200010, [(64, 0x4000)], .any, [⟨15, 0, .ro, 0⟩, ⟨31, 16, .ro, 0⟩]⟩,
  ⟨"TILE.LINK_EVENT", 0x200014, [(64, 0x4000)], (.cls 2), [⟨0, 0, .sq, 0⟩, ⟨1, 1, .sq, 0⟩, ⟨2, 2, .sq, 0⟩, ⟨3, 3, .sq, 0⟩, ⟨4, 4, .sq, 0⟩, ⟨5, 5, .sq, 0⟩, ⟨6, 6, .sq, 0⟩, ⟨7, 7, .sq, 0⟩, ⟨23, 23, .sq, 0⟩, ⟨31, 24, .sq, 0⟩]⟩,
  ⟨"TILE.HEAD_ID", 0x200020, [(64, 0x4000), (4, 0x4)], .any, [⟨31, 0, .ro, 0⟩]⟩,
  ⟨"TILE.HEAD_STATE", 0x200030, [(64, 0x4000)], .any, [⟨5, 0, .ro, 0⟩, ⟨8, 8, .ro, 0⟩, ⟨9, 9, .ro, 0⟩, ⟨13, 10, .ro, 0⟩]⟩,
  ⟨"TILE.HEAD_TEMP", 0x200040, [(64, 0x4000), (2, 0x4)], .any, [⟨15, 0, .ro, 0⟩, ⟨31, 16, .ro, 0⟩]⟩,
  ⟨"TILE.TEMP_WARN", 0x200048, [(64, 0x4000)], (.cls 2), [⟨15, 0, .rw, 0x500⟩]⟩,
  ⟨"TILE.BIAS", 0x200080, [(64, 0x4000), (16, 0x4)], .any, [⟨11, 0, .ro, 0⟩]⟩,
  ⟨"TILE.MPD", 0x2000c0, [(64, 0x4000), (16, 0x4)], .any, [⟨11, 0, .ro, 0⟩]⟩,
  ⟨"TILE.POS_OFFSET", 0x200800, [(64, 0x4000)], (.cls 2), [⟨15, 0, .t, 0⟩, ⟨31, 16, .t, 0⟩]⟩,
  ⟨"TILE.SCHED_STATUS", 0x200804, [(64, 0x4000)], .any, [⟨1, 0, .ro, 0⟩, ⟨2, 2, .ro, 0⟩, ⟨3, 3, .ro, 0⟩, ⟨7, 4, .ro, 0⟩, ⟨11, 8, .ro, 0⟩, ⟨31, 16, .ro, 0⟩]⟩,
  ⟨"TILE.SWEEP_NUM", 0x200808, [(64, 0x4000)], .any, [⟨31, 0, .ro, 0⟩]⟩,
  ⟨"TILE.HALF_PERIOD", 0x20080c, [(64, 0x4000)], .any, [⟨23, 0, .ro, 0⟩]⟩,
  ⟨"TILE.SPAN_MEAS", 0x200810, [(64, 0x4000), (2, 0x4)], .any, [⟨23, 0, .ro, 0⟩]⟩,
  ⟨"TILE.PRED_ERR", 0x200818, [(64, 0x4000)], .any, [⟨15, 0, .ro, 0⟩, ⟨31, 16, .ro, 0⟩]⟩,
  ⟨"TILE.LIMIT", 0x20081c, [(64, 0x4000)], .any, [⟨15, 0, .ro, 0⟩, ⟨31, 16, .ro, 0⟩]⟩,
  ⟨"TILE.PLACE_EVENT", 0x200820, [(64, 0x4000)], (.cls 2), [⟨0, 0, .sq, 0⟩, ⟨1, 1, .sq, 0⟩, ⟨2, 2, .sq, 0⟩, ⟨3, 3, .sq, 0⟩, ⟨4, 4, .sq, 0⟩, ⟨5, 5, .sq, 0⟩, ⟨6, 6, .sq, 0⟩, ⟨7, 7, .sq, 0⟩, ⟨23, 23, .sq, 0⟩, ⟨31, 24, .sq, 0⟩]⟩]

/-- The DRIVE register map, part 1. -/
def RegMap.drive0 : List RegSpec := [
  ⟨"DRIVE.CFG", 0x300000, [(12, 0x1000)], (.cls 1), [⟨1, 0, .rw, 1⟩, ⟨2, 2, .rw, 0⟩, ⟨3, 3, .rw, 0⟩, ⟨7, 4, .rw, 1⟩, ⟨11, 8, .rw, 0⟩, ⟨15, 12, .rw, 0xf⟩, ⟨17, 16, .rw, 0⟩, ⟨23, 20, .rw, 0⟩]⟩,
  ⟨"DRIVE.PWM", 0x300004, [(12, 0x1000)], (.cls 1), [⟨15, 0, .rw, 0x30d4⟩, ⟨19, 16, .rw, 1⟩]⟩,
  ⟨"DRIVE.PWM_TIMING", 0x300008, [(12, 0x1000)], (.cls 1), [⟨7, 0, .rw, 0x32⟩, ⟨16, 8, .rw, 0x78⟩, ⟨23, 17, .rw, 0xa⟩]⟩,
  ⟨"DRIVE.PWM_PHASE", 0x30000c, [(12, 0x1000)], (.cls 1), [⟨15, 0, .rw, 0⟩]⟩,
  ⟨"DRIVE.ISCALE", 0x300010, [(12, 0x1000)], (.cls 1), [⟨15, 0, .rw, 0x3e8⟩]⟩,
  ⟨"DRIVE.ILIM", 0x300014, [(12, 0x1000)], (.cls 3), [⟨11, 0, .l, 0x7ff⟩, ⟨27, 16, .l, 0x200⟩]⟩,
  ⟨"DRIVE.LOCK", 0x300018, [(12, 0x1000)], (.cls 3), [⟨0, 0, .w1, 0⟩]⟩,
  ⟨"DRIVE.LIMITS", 0x30001c, [(12, 0x1000)], (.cls 1), [⟨11, 0, .rw, 0x400⟩, ⟨23, 12, .rw, 0x40⟩, ⟨31, 24, .rw, 0x32⟩]⟩,
  ⟨"DRIVE.CATCH", 0x300020, [(12, 0x1000)], (.cls 1), [⟨15, 0, .rw, 0x32⟩, ⟨23, 16, .rw, 0x64⟩, ⟨29, 24, .rw, 0xa⟩]⟩,
  ⟨"DRIVE.START", 0x300024, [(12, 0x1000)], (.cls 1), [⟨11, 0, .rw, 0x100⟩, ⟨31, 16, .rw, 0x64⟩]⟩,
  ⟨"DRIVE.HALL", 0x300028, [(12, 0x1000)], (.cls 1), [⟨15, 0, .rw, 0⟩]⟩,
  ⟨"DRIVE.ALIGN", 0x30002c, [(12, 0x1000)], (.cls 1), [⟨15, 0, .t, 0⟩]⟩,
  ⟨"DRIVE.RAMP", 0x300030, [(12, 0x1000)], (.cls 1), [⟨15, 0, .t, 0x64⟩, ⟨31, 16, .t, 0x64⟩]⟩,
  ⟨"DRIVE.OBS_MODEL", 0x300034, [(12, 0x1000)], (.cls 1), [⟨15, 0, .t, 0⟩, ⟨31, 16, .t, 0⟩]⟩,
  ⟨"DRIVE.OBS_FLUX", 0x300038, [(12, 0x1000)], (.cls 1), [⟨23, 0, .t, 0⟩]⟩,
  ⟨"DRIVE.OBS_CTL", 0x30003c, [(12, 0x1000)], (.cls 1), [⟨7, 0, .rw, 0xa0⟩, ⟨31, 16, .rw, 0xc8⟩]⟩,
  ⟨"DRIVE.STATUS", 0x300040, [(12, 0x1000)], (.cls 1), [⟨2, 0, .ro, 0⟩, ⟨5, 4, .ro, 0⟩, ⟨6, 6, .ro, 0⟩, ⟨7, 7, .ro, 0⟩, ⟨10, 8, .ro, 0⟩, ⟨23, 16, .ro, 0⟩]⟩,
  ⟨"DRIVE.ANGLE", 0x300044, [(12, 0x1000)], (.cls 1), [⟨15, 0, .ro, 0⟩, ⟨31, 16, .ro, 0⟩]⟩,
  ⟨"DRIVE.I_UV", 0x300048, [(12, 0x1000)], (.cls 1), [⟨15, 0, .ro, 0⟩, ⟨31, 16, .ro, 0⟩]⟩,
  ⟨"DRIVE.I_W", 0x30004c, [(12, 0x1000)], (.cls 1), [⟨15, 0, .ro, 0⟩, ⟨17, 16, .ro, 0⟩]⟩,
  ⟨"DRIVE.I_OFFSET_UV", 0x300050, [(12, 0x1000)], (.cls 1), [⟨11, 0, .ro, 0x800⟩, ⟨23, 12, .ro, 0x800⟩]⟩,
  ⟨"DRIVE.I_OFFSET_W", 0x300054, [(12, 0x1000)], (.cls 1), [⟨11, 0, .ro, 0x800⟩]⟩,
  ⟨"DRIVE.EVENT", 0x300060, [(12, 0x1000)], (.cls 1), [⟨0, 0, .sq, 0⟩, ⟨1, 1, .sq, 0⟩, ⟨2, 2, .sq, 0⟩, ⟨3, 3, .sq, 0⟩, ⟨4, 4, .sq, 0⟩, ⟨5, 5, .sq, 0⟩, ⟨6, 6, .sq, 0⟩, ⟨7, 7, .sq, 0⟩, ⟨8, 8, .sq, 0⟩, ⟨9, 9, .sq, 0⟩, ⟨10, 10, .sq, 0⟩, ⟨11, 11, .sq, 0⟩, ⟨12, 12, .sq, 0⟩, ⟨13, 13, .sq, 0⟩, ⟨23, 23, .sq, 0⟩, ⟨31, 24, .sq, 0⟩]⟩,
  ⟨"DRIVE.FAULT_INFO", 0x300064, [(12, 0x1000)], (.cls 1), [⟨3, 0, .ro, 0⟩, ⟨6, 4, .ro, 0⟩, ⟨31, 16, .ro, 0⟩]⟩]

/-- The DRIVE register map, part 2. -/
def RegMap.drive1 : List RegSpec := [
  ⟨"DRIVE.COUNT", 0x300068, [(12, 0x1000)], (.cls 1), [⟨15, 0, .ro, 0⟩, ⟨31, 16, .ro, 0⟩]⟩]

/-- The whole DRIVE register map. -/
def RegMap.drive : List RegSpec := RegMap.drive0 ++ RegMap.drive1

/-- The FEEDBACK register map, part 1. -/
def RegMap.feedback0 : List RegSpec := [
  ⟨"FEEDBACK.ENC_CFG", 0x310000, [(12, 0x40)], (.cls 1), [⟨0, 0, .rw, 0⟩, ⟨1, 1, .rw, 1⟩, ⟨2, 2, .rw, 0⟩, ⟨3, 3, .rw, 0⟩, ⟨4, 4, .rw, 0⟩, ⟨7, 5, .rw, 0⟩, ⟨11, 8, .rw, 2⟩, ⟨13, 12, .rw, 0⟩]⟩,
  ⟨"FEEDBACK.ENC_CPR", 0x310004, [(12, 0x40)], (.cls 1), [⟨24, 0, .rw, 0⟩]⟩,
  ⟨"FEEDBACK.ENC_SPD_CFG", 0x310008, [(12, 0x40)], (.cls 1), [⟨15, 0, .rw, 0x64⟩, ⟨25, 16, .rw, 0x64⟩, ⟨31, 26, .rw, 0x14⟩]⟩,
  ⟨"FEEDBACK.ENC_SLIP", 0x31000c, [(12, 0x40)], (.cls 1), [⟨15, 0, .rw, 0xa⟩]⟩,
  ⟨"FEEDBACK.ENC_COUNT", 0x310010, [(12, 0x40)], (.cls 1), [⟨31, 0, .ro, 0⟩]⟩,
  ⟨"FEEDBACK.ENC_POS", 0x310014, [(12, 0x40)], (.cls 1), [⟨31, 0, .ro, 0⟩]⟩,
  ⟨"FEEDBACK.ENC_REF_PHASE", 0x310018, [(12, 0x40)], (.cls 1), [⟨31, 0, .ro, 0⟩]⟩,
  ⟨"FEEDBACK.ENC_STATUS", 0x31001c, [(12, 0x40)], (.cls 1), [⟨15, 0, .ro, 0⟩, ⟨16, 16, .ro, 0⟩, ⟨17, 17, .ro, 1⟩, ⟨18, 18, .ro, 0⟩, ⟨19, 19, .ro, 0⟩, ⟨20, 20, .ro, 0⟩]⟩,
  ⟨"FEEDBACK.ENC_SPEED", 0x310020, [(12, 0x40)], (.cls 1), [⟨31, 0, .ro, 0⟩]⟩,
  ⟨"FEEDBACK.ENC_INDEX", 0x310024, [(12, 0x40)], (.cls 1), [⟨15, 0, .ro, 0⟩, ⟨17, 16, .ro, 0⟩]⟩,
  ⟨"FEEDBACK.ENC_ERR", 0x310028, [(12, 0x40)], (.cls 1), [⟨15, 0, .ro, 0⟩, ⟨31, 16, .ro, 0⟩]⟩,
  ⟨"FEEDBACK.HALL_CFG", 0x310400, [(12, 0x10)], (.cls 1), [⟨0, 0, .rw, 0⟩, ⟨7, 4, .rw, 2⟩, ⟨13, 8, .rw, 0x14⟩]⟩,
  ⟨"FEEDBACK.HALL_STATE", 0x310404, [(12, 0x10)], (.cls 1), [⟨2, 0, .ro, 0⟩, ⟨15, 3, .ro, 0⟩, ⟨31, 16, .ro, 0⟩]⟩,
  ⟨"FEEDBACK.HALL_SPEED", 0x310408, [(12, 0x10)], (.cls 1), [⟨31, 0, .ro, 0⟩]⟩,
  ⟨"FEEDBACK.BISS_CFG", 0x310600, [(4, 0x40)], (.cls 1), [⟨0, 0, .rw, 0⟩, ⟨2, 1, .rw, 0⟩, ⟨15, 8, .rw, 0x32⟩, ⟨21, 16, .rw, 0x18⟩, ⟨23, 22, .rw, 2⟩, ⟨29, 24, .rw, 0x18⟩]⟩,
  ⟨"FEEDBACK.BISS_CRC", 0x310604, [(4, 0x40)], (.cls 1), [⟨15, 0, .rw, 3⟩, ⟨20, 16, .rw, 6⟩]⟩,
  ⟨"FEEDBACK.BISS_RATE", 0x310608, [(4, 0x40)], (.cls 1), [⟨15, 0, .rw, 0x32⟩, ⟨23, 16, .rw, 0x14⟩]⟩,
  ⟨"FEEDBACK.BISS_POS_LO", 0x310610, [(4, 0x40)], (.cls 1), [⟨31, 0, .ro, 0⟩]⟩,
  ⟨"FEEDBACK.BISS_POS_HI", 0x310614, [(4, 0x40)], (.cls 1), [⟨7, 0, .ro, 0⟩]⟩,
  ⟨"FEEDBACK.BISS_STATUS", 0x310618, [(4, 0x40)], (.cls 1), [⟨8, 0, .ro, 0⟩, ⟨10, 9, .ro, 0⟩, ⟨12, 11, .ro, 0⟩, ⟨13, 13, .ro, 0⟩, ⟨14, 14, .ro, 0⟩, ⟨31, 16, .ro, 0⟩]⟩,
  ⟨"FEEDBACK.BISS_SPEED", 0x31061c, [(4, 0x40)], (.cls 1), [⟨31, 0, .ro, 0⟩]⟩,
  ⟨"FEEDBACK.BELT_CFG", 0x310800, [], (.cls 1), [⟨3, 0, .rw, 0⟩, ⟨4, 4, .rw, 0⟩]⟩,
  ⟨"FEEDBACK.BELT_SCALE", 0x310804, [], (.cls 1), [⟨31, 0, .rw, 0⟩]⟩,
  ⟨"FEEDBACK.BELT_POS_LO", 0x310808, [], (.cls 1), [⟨31, 0, .ro, 0⟩]⟩]

/-- The FEEDBACK register map, part 2. -/
def RegMap.feedback1 : List RegSpec := [
  ⟨"FEEDBACK.BELT_POS_HI", 0x31080c, [], (.cls 1), [⟨15, 0, .ro, 0⟩]⟩,
  ⟨"FEEDBACK.DRUM_CH", 0x310820, [(8, 0x4)], (.cls 1), [⟨3, 0, .rw, 0⟩]⟩,
  ⟨"FEEDBACK.EVENT", 0x310900, [], (.cls 1), [⟨0, 0, .sq, 0⟩, ⟨1, 1, .sq, 0⟩, ⟨2, 2, .sq, 0⟩, ⟨3, 3, .sq, 0⟩, ⟨4, 4, .sq, 0⟩, ⟨5, 5, .sq, 0⟩, ⟨6, 6, .sq, 0⟩, ⟨7, 7, .sq, 0⟩, ⟨8, 8, .sq, 0⟩, ⟨23, 23, .sq, 0⟩, ⟨31, 24, .sq, 0⟩]⟩]

/-- The whole FEEDBACK register map. -/
def RegMap.feedback : List RegSpec := RegMap.feedback0 ++ RegMap.feedback1

/-- The MULE register map. -/
def RegMap.mule : List RegSpec := [
  ⟨"MULE.CFG", 0x320000, [(16, 0x800)], (.cls 1), [⟨0, 0, .rw, 0⟩, ⟨1, 1, .rw, 0⟩, ⟨2, 2, .rw, 0⟩, ⟨3, 3, .rw, 0⟩, ⟨4, 4, .rw, 0⟩, ⟨8, 5, .rw, 0⟩, ⟨9, 9, .rw, 0⟩, ⟨10, 10, .rw, 0⟩, ⟨11, 11, .rw, 0⟩]⟩,
  ⟨"MULE.CURRENT", 0x320004, [(16, 0x800)], (.cls 1), [⟨8, 0, .rw, 0x80⟩, ⟨17, 9, .rw, 0x40⟩, ⟨25, 18, .rw, 0x64⟩]⟩,
  ⟨"MULE.PHASE", 0x320008, [(16, 0x800)], (.cls 1), [⟨9, 0, .rw, 0⟩]⟩,
  ⟨"MULE.VMAX", 0x320010, [(16, 0x800)], (.cls 1), [⟨31, 0, .rw, 0x2710⟩]⟩,
  ⟨"MULE.ACC", 0x320014, [(16, 0x800)], (.cls 1), [⟨31, 0, .rw, 0x186a0⟩]⟩,
  ⟨"MULE.DEC", 0x320018, [(16, 0x800)], (.cls 1), [⟨31, 0, .rw, 0x186a0⟩]⟩,
  ⟨"MULE.ESTOP_DEC", 0x32001c, [(16, 0x800)], (.cls 1), [⟨31, 0, .rw, 0xf4240⟩]⟩,
  ⟨"MULE.SOFT_MIN", 0x320020, [(16, 0x800)], (.cls 1), [⟨31, 0, .rw, 0x80000000⟩]⟩,
  ⟨"MULE.SOFT_MAX", 0x320024, [(16, 0x800)], (.cls 1), [⟨31, 0, .rw, 0x7fffffff⟩]⟩,
  ⟨"MULE.HOME_POS", 0x320028, [(16, 0x800)], (.cls 1), [⟨31, 0, .rw, 0⟩]⟩,
  ⟨"MULE.HOME", 0x32002c, [(16, 0x800)], (.cls 1), [⟨20, 0, .rw, 0x1388⟩, ⟨22, 21, .rw, 0⟩, ⟨23, 23, .rw, 1⟩]⟩,
  ⟨"MULE.HOME_DIST", 0x320030, [(16, 0x800)], (.cls 1), [⟨31, 0, .rw, 0x7fffffff⟩]⟩,
  ⟨"MULE.STALL", 0x320034, [(16, 0x800)], (.cls 1), [⟨15, 0, .rw, 0x200⟩]⟩,
  ⟨"MULE.ENC_SCALE", 0x320038, [(16, 0x800)], (.cls 1), [⟨31, 0, .rw, 0x10000⟩]⟩,
  ⟨"MULE.POS", 0x320040, [(16, 0x800)], (.cls 1), [⟨31, 0, .ro, 0⟩]⟩,
  ⟨"MULE.TARGET", 0x320044, [(16, 0x800)], (.cls 1), [⟨31, 0, .ro, 0⟩]⟩,
  ⟨"MULE.SPEED", 0x320048, [(16, 0x800)], (.cls 1), [⟨31, 0, .ro, 0⟩]⟩,
  ⟨"MULE.LATCH", 0x32004c, [(16, 0x800)], (.cls 1), [⟨31, 0, .ro, 0⟩]⟩,
  ⟨"MULE.DEV", 0x320050, [(16, 0x800)], (.cls 1), [⟨31, 0, .ro, 0⟩]⟩,
  ⟨"MULE.STATUS", 0x320054, [(16, 0x800)], (.cls 1), [⟨2, 0, .ro, 0⟩, ⟨3, 3, .ro, 0⟩, ⟨4, 4, .ro, 0⟩, ⟨5, 5, .ro, 0⟩, ⟨6, 6, .ro, 0⟩, ⟨7, 7, .ro, 0⟩, ⟨8, 8, .ro, 0⟩, ⟨9, 9, .ro, 0⟩, ⟨10, 10, .ro, 0⟩]⟩,
  ⟨"MULE.BUS_STATUS", 0x320058, [(16, 0x800)], (.cls 1), [⟨12, 0, .ro, 0⟩, ⟨23, 16, .ro, 0⟩]⟩,
  ⟨"MULE.STALL_COUNT", 0x32005c, [(16, 0x800)], (.cls 1), [⟨15, 0, .ro, 0⟩]⟩,
  ⟨"MULE.EVENT", 0x320060, [(16, 0x800)], (.cls 1), [⟨0, 0, .sq, 0⟩, ⟨1, 1, .sq, 0⟩, ⟨2, 2, .sq, 0⟩, ⟨3, 3, .sq, 0⟩, ⟨4, 4, .sq, 0⟩, ⟨5, 5, .sq, 0⟩, ⟨6, 6, .sq, 0⟩, ⟨7, 7, .sq, 0⟩, ⟨23, 23, .sq, 0⟩, ⟨31, 24, .sq, 0⟩]⟩]

/-- The WINDLASS register map, part 1. -/
def RegMap.windlass0 : List RegSpec := [
  ⟨"WINDLASS.STATUS", 0x380000, [], (.cls 1), [⟨7, 0, .ro, 0⟩, ⟨14, 8, .ro, 0⟩]⟩,
  ⟨"WINDLASS.EVENT", 0x380004, [], (.cls 1), [⟨0, 0, .sq, 0⟩, ⟨1, 1, .sq, 0⟩, ⟨2, 2, .sq, 0⟩, ⟨3, 3, .sq, 0⟩, ⟨4, 4, .sq, 0⟩, ⟨5, 5, .sq, 0⟩, ⟨6, 6, .sq, 0⟩, ⟨7, 7, .sq, 0⟩, ⟨8, 8, .sq, 0⟩, ⟨23, 23, .sq, 0⟩, ⟨31, 24, .sq, 0⟩]⟩,
  ⟨"WINDLASS.CFG_ERR_INFO", 0x380008, [], (.cls 1), [⟨6, 0, .ro, 0⟩, ⟨11, 8, .ro, 0⟩]⟩,
  ⟨"WINDLASS.BELT_SLOT", 0x380010, [], (.cls 1), [⟨6, 0, .rw, 0⟩, ⟨27, 8, .rw, 0x186a0⟩]⟩,
  ⟨"WINDLASS.STN_SLOT", 0x380020, [(8, 0x4)], (.cls 1), [⟨6, 0, .rw, 0⟩, ⟨7, 7, .rw, 0⟩]⟩,
  ⟨"WINDLASS.FOLLOW_CFG", 0x380040, [], (.cls 1), [⟨1, 0, .rw, 0⟩, ⟨8, 4, .rw, 0⟩, ⟨25, 16, .rw, 0x64⟩]⟩,
  ⟨"WINDLASS.FOLLOW_SCALE", 0x380044, [], (.cls 1), [⟨31, 0, .rw, 0⟩]⟩,
  ⟨"WINDLASS.FOLLOW_OFFSET", 0x380048, [], (.cls 1), [⟨31, 0, .rw, 0⟩]⟩,
  ⟨"WINDLASS.FOLLOW_LIMIT", 0x38004c, [], (.cls 1), [⟨19, 0, .rw, 0⟩]⟩,
  ⟨"WINDLASS.FOLLOW_DEMAND", 0x380050, [], (.cls 1), [⟨19, 0, .ro, 0⟩]⟩,
  ⟨"WINDLASS.MIRROR_GAIN", 0x380060, [(4, 0x4)], (.cls 1), [⟨31, 0, .t, 0⟩]⟩,
  ⟨"WINDLASS.SADC", 0x380100, [(24, 0x4)], (.cls 1), [⟨31, 0, .ro, 0⟩]⟩,
  ⟨"WINDLASS.TH_R25", 0x380180, [(8, 0x8)], (.cls 1), [⟨31, 0, .rw, 0⟩]⟩,
  ⟨"WINDLASS.TH_BETA", 0x380184, [(8, 0x8)], (.cls 1), [⟨15, 0, .rw, 0xf6e⟩, ⟨31, 16, .rw, 0x3e8⟩]⟩,
  ⟨"WINDLASS.RC_CFG", 0x380200, [(16, 0x10)], (.cls 1), [⟨6, 0, .rw, 0⟩, ⟨8, 8, .rw, 0⟩, ⟨9, 9, .rw, 0⟩, ⟨10, 10, .rw, 0⟩, ⟨11, 11, .rw, 0⟩, ⟨14, 12, .rw, 0⟩, ⟨19, 16, .rw, 0⟩, ⟨29, 20, .rw, 0⟩]⟩,
  ⟨"WINDLASS.RC_GAIN", 0x380204, [(16, 0x10)], (.cls 1), [⟨31, 0, .rw, 0⟩]⟩,
  ⟨"WINDLASS.RC_FORGET", 0x380208, [(16, 0x10)], (.cls 1), [⟨3, 0, .rw, 0xf⟩]⟩,
  ⟨"WINDLASS.CAP_CTL", 0x380300, [], (.cls 2), [⟨6, 0, .rw, 0⟩, ⟨7, 7, .rw, 0⟩, ⟨15, 8, .rw, 1⟩, ⟨22, 16, .rw, 0x40⟩]⟩,
  ⟨"WINDLASS.CAP_SEL", 0x380310, [(4, 0x4)], (.cls 2), [⟨6, 0, .rw, 0⟩, ⟨10, 8, .rw, 0⟩]⟩,
  ⟨"WINDLASS.CAP_STATUS", 0x380320, [], (.cls 2), [⟨1, 0, .ro, 0⟩, ⟨18, 2, .ro, 0⟩]⟩,
  ⟨"WINDLASS.INJ_STATUS", 0x380330, [], (.cls 1), [⟨6, 0, .ro, 0⟩, ⟨9, 8, .ro, 0⟩, ⟨11, 10, .ro, 0⟩, ⟨12, 12, .ro, 0⟩]⟩,
  ⟨"WINDLASS.SLOT_CFG", 0x390000, [(96, 0x40)], (.cls 1), [⟨2, 0, .rw, 0⟩, ⟨5, 4, .rw, 0⟩, ⟨12, 6, .rw, 0⟩, ⟨23, 16, .rw, 0⟩, ⟨31, 24, .rw, 0xff⟩]⟩,
  ⟨"WINDLASS.SLOT_IO", 0x390004, [(96, 0x40)], (.cls 1), [⟨7, 0, .rw, 0xff⟩, ⟨15, 8, .rw, 0xff⟩]⟩,
  ⟨"WINDLASS.PERIOD", 0x390008, [(96, 0x40)], (.cls 1), [⟨27, 0, .rw, 0xc35⟩]⟩]

/-- The WINDLASS register map, part 2. -/
def RegMap.windlass1 : List RegSpec := [
  ⟨"WINDLASS.SETPOINT", 0x39000c, [(96, 0x40)], (.cls 1), [⟨31, 0, .rw, 0⟩]⟩,
  ⟨"WINDLASS.REF_SCALE", 0x390010, [(96, 0x40)], (.cls 1), [⟨31, 0, .t, 0⟩]⟩,
  ⟨"WINDLASS.RAMP", 0x390014, [(96, 0x40)], (.cls 1), [⟨31, 0, .rw, 0⟩]⟩,
  ⟨"WINDLASS.GAIN_P", 0x390018, [(96, 0x40)], (.cls 1), [⟨31, 0, .t, 0⟩]⟩,
  ⟨"WINDLASS.GAIN_I", 0x39001c, [(96, 0x40)], (.cls 1), [⟨31, 0, .t, 0⟩]⟩,
  ⟨"WINDLASS.GAIN_D", 0x390020, [(96, 0x40)], (.cls 1), [⟨31, 0, .t, 0⟩]⟩,
  ⟨"WINDLASS.OUT_MIN", 0x390024, [(96, 0x40)], (.cls 1), [⟨31, 0, .t, 0⟩]⟩,
  ⟨"WINDLASS.OUT_MAX", 0x390028, [(96, 0x40)], (.cls 1), [⟨31, 0, .t, 0⟩]⟩,
  ⟨"WINDLASS.AUX0", 0x39002c, [(96, 0x40)], (.cls 1), [⟨31, 0, .t, 0⟩]⟩,
  ⟨"WINDLASS.AUX1", 0x390030, [(96, 0x40)], (.cls 1), [⟨31, 0, .t, 0⟩]⟩,
  ⟨"WINDLASS.LOCK_TOL", 0x390034, [(96, 0x40)], (.cls 1), [⟨31, 0, .rw, 0⟩]⟩,
  ⟨"WINDLASS.SLOT_STATUS", 0x390038, [(96, 0x40)], (.cls 1), [⟨0, 0, .ro, 0⟩, ⟨1, 1, .ro, 0⟩, ⟨15, 8, .ro, 0⟩, ⟨31, 16, .ro, 0⟩]⟩,
  ⟨"WINDLASS.OUT", 0x39003c, [(96, 0x40)], (.cls 1), [⟨31, 0, .ro, 0⟩]⟩,
  ⟨"WINDLASS.BIQUAD", 0x3a0000, [(96, 0x80), (4, 0x20), (5, 0x4)], (.cls 1), [⟨31, 0, .t, 0⟩]⟩,
  ⟨"WINDLASS.HV_CFG", 0x3b0000, [(24, 0x20)], (.cls 1), [⟨0, 0, .rw, 0⟩, ⟨1, 1, .rw, 0⟩, ⟨19, 4, .rw, 0x9c4⟩]⟩,
  ⟨"WINDLASS.HV_SCALE_V", 0x3b0004, [(24, 0x20)], (.cls 1), [⟨31, 0, .rw, 0⟩]⟩,
  ⟨"WINDLASS.HV_SCALE_I", 0x3b0008, [(24, 0x20)], (.cls 1), [⟨31, 0, .rw, 0⟩]⟩,
  ⟨"WINDLASS.HV_CEIL", 0x3b000c, [(24, 0x20)], .master, [⟨23, 0, .g, 0⟩]⟩,
  ⟨"WINDLASS.HV_STATUS", 0x3b0014, [(24, 0x20)], (.cls 1), [⟨1, 0, .ro, 0⟩]⟩,
  ⟨"WINDLASS.HV_ENERGY", 0x3b0018, [(24, 0x20)], (.cls 1), [⟨23, 0, .ro, 0⟩]⟩,
  ⟨"WINDLASS.HV_REARM", 0x3b001c, [(24, 0x20)], (.cls 1), [⟨0, 0, .wo, 0⟩]⟩,
  ⟨"WINDLASS.HV_LOCK", 0x3b0400, [], .master, [⟨0, 0, .w1, 0⟩]⟩,
  ⟨"WINDLASS.FUSER_CFG", 0x3b0800, [(8, 0x10)], (.cls 1), [⟨0, 0, .rw, 0⟩, ⟨1, 1, .rw, 0⟩, ⟨11, 4, .rw, 0⟩, ⟨23, 16, .rw, 0x64⟩]⟩,
  ⟨"WINDLASS.FUSER_PMAX", 0x3b0804, [(8, 0x10)], .master, [⟨16, 0, .l, 0x10000⟩]⟩]

/-- The WINDLASS register map, part 3. -/
def RegMap.windlass2 : List RegSpec := [
  ⟨"WINDLASS.FUSER_STATUS", 0x3b0808, [(8, 0x10)], (.cls 1), [⟨1, 0, .ro, 0⟩, ⟨31, 16, .ro, 0⟩]⟩,
  ⟨"WINDLASS.FUSER_LOCK", 0x3b0c00, [], .master, [⟨0, 0, .w1, 0⟩]⟩,
  ⟨"WINDLASS.ZC_STATUS", 0x3b0c04, [], (.cls 1), [⟨15, 0, .ro, 0⟩, ⟨16, 16, .ro, 0⟩]⟩]

/-- The whole WINDLASS register map. -/
def RegMap.windlass : List RegSpec := RegMap.windlass0 ++ RegMap.windlass1 ++ RegMap.windlass2

/-- The SEAM register map. -/
def RegMap.seam : List RegSpec := [
  ⟨"SEAM.CTL", 0x3c0000, [], (.cls 2), [⟨0, 0, .rw, 0⟩, ⟨1, 1, .rw, 0⟩, ⟨2, 2, .rw, 0⟩, ⟨3, 3, .rw, 0⟩, ⟨6, 4, .rw, 0⟩, ⟨12, 8, .rw, 0x10⟩, ⟨18, 16, .rw, 0⟩]⟩,
  ⟨"SEAM.GEOM", 0x3c0010, [(8, 0x4)], (.cls 2), [⟨13, 0, .rw, 0x24e9⟩, ⟨25, 16, .rw, 0x11b⟩]⟩,
  ⟨"SEAM.STRIP", 0x3c0030, [], (.cls 2), [⟨4, 0, .rw, 0x18⟩]⟩,
  ⟨"SEAM.LSCAN_CFG", 0x3c0034, [], (.cls 2), [⟨14, 0, .rw, 0x4000⟩]⟩,
  ⟨"SEAM.LSCAN_TRIG", 0x3c0038, [], (.cls 2), [⟨15, 0, .rw, 0x100⟩]⟩,
  ⟨"SEAM.CAM_OFFSET_LO", 0x3c003c, [], (.cls 2), [⟨31, 0, .rw, 0⟩]⟩,
  ⟨"SEAM.CAM_OFFSET_HI", 0x3c0040, [], (.cls 2), [⟨15, 0, .rw, 0⟩]⟩,
  ⟨"SEAM.LSCAN_MAP", 0x3c0044, [], (.cls 2), [⟨23, 0, .rw, 0xa00⟩]⟩,
  ⟨"SEAM.LSCAN_DOT0", 0x3c0048, [], (.cls 2), [⟨31, 0, .rw, 0⟩]⟩,
  ⟨"SEAM.MEAS", 0x3c0050, [(8, 0x4)], (.cls 2), [⟨9, 0, .rw, 0x200⟩, ⟨12, 12, .rw, 0⟩, ⟨31, 16, .rw, 0x1000⟩]⟩,
  ⟨"SEAM.EDGE_POS", 0x3c0070, [], (.cls 2), [⟨17, 0, .rw, 0⟩]⟩,
  ⟨"SEAM.EDGE_SHAPE", 0x3c0074, [], (.cls 2), [⟨15, 0, .rw, 0x100⟩, ⟨23, 16, .rw, 0x10⟩, ⟨31, 24, .rw, 0x10⟩]⟩,
  ⟨"SEAM.AUTO", 0x3c0078, [], (.cls 2), [⟨15, 0, .rw, 0x4000⟩, ⟨23, 16, .rw, 8⟩, ⟨31, 24, .rw, 4⟩]⟩,
  ⟨"SEAM.LIMIT", 0x3c007c, [], (.cls 2), [⟨15, 0, .rw, 0x400⟩, ⟨31, 16, .rw, 0x100⟩]⟩,
  ⟨"SEAM.LSCAN_STATUS", 0x3c0080, [], (.cls 2), [⟨0, 0, .ro, 0⟩, ⟨1, 1, .ro, 0⟩, ⟨9, 2, .ro, 0⟩, ⟨19, 10, .ro, 0⟩, ⟨22, 20, .ro, 0⟩]⟩,
  ⟨"SEAM.LSCAN_COUNT", 0x3c0084, [], (.cls 2), [⟨15, 0, .ro, 0⟩, ⟨31, 16, .ro, 0⟩]⟩,
  ⟨"SEAM.EVENT", 0x3c0088, [], (.cls 2), [⟨0, 0, .sq, 0⟩, ⟨1, 1, .sq, 0⟩, ⟨2, 2, .sq, 0⟩, ⟨3, 3, .sq, 0⟩, ⟨4, 4, .sq, 0⟩, ⟨5, 5, .sq, 0⟩, ⟨6, 6, .sq, 0⟩, ⟨7, 7, .sq, 0⟩, ⟨23, 23, .sq, 0⟩, ⟨31, 24, .sq, 0⟩]⟩,
  ⟨"SEAM.RES_VAL", 0x3c1000, [(8, 0x80), (15, 0x8)], (.cls 2), [⟨15, 0, .ro, 0⟩, ⟨31, 16, .ro, 0⟩]⟩,
  ⟨"SEAM.RES_STAT", 0x3c1004, [(8, 0x80), (15, 0x8)], (.cls 2), [⟨2, 0, .ro, 2⟩, ⟨3, 3, .ro, 0⟩, ⟨9, 8, .ro, 0⟩, ⟨31, 16, .ro, 0⟩]⟩,
  ⟨"SEAM.REG_RES_VAL", 0x3c1400, [(8, 0x8)], (.cls 2), [⟨15, 0, .ro, 0⟩, ⟨31, 16, .ro, 0⟩]⟩,
  ⟨"SEAM.REG_RES_STAT", 0x3c1404, [(8, 0x8)], (.cls 2), [⟨2, 0, .ro, 2⟩, ⟨3, 3, .ro, 0⟩, ⟨9, 8, .ro, 0⟩, ⟨31, 16, .ro, 0⟩]⟩]

/-- The CODEC register map. -/
def RegMap.codec : List RegSpec := [
  ⟨"CODEC.LANE_STATUS", 0x3e0000, [(8, 0x10)], .any, [⟨1, 0, .ro, 0⟩, ⟨15, 8, .ro, 0⟩, ⟨31, 16, .ro, 0⟩]⟩,
  ⟨"CODEC.LANE_LINE", 0x3e0004, [(8, 0x10)], .any, [⟨8, 0, .ro, 0⟩, ⟨12, 9, .ro, 2⟩]⟩,
  ⟨"CODEC.ERR_INFO", 0x3e0008, [(8, 0x10)], .any, [⟨7, 0, .ro, 0⟩, ⟨15, 8, .ro, 0⟩, ⟨31, 16, .ro, 0⟩]⟩,
  ⟨"CODEC.ERR_POS", 0x3e000c, [(8, 0x10)], .any, [⟨17, 0, .ro, 0⟩, ⟨26, 18, .ro, 0⟩]⟩,
  ⟨"CODEC.EVENT", 0x3e0100, [], (.cls 0), [⟨7, 0, .sq, 0⟩, ⟨23, 23, .sq, 0⟩, ⟨31, 24, .sq, 0⟩]⟩,
  ⟨"CODEC.SLOT_STATUS", 0x3e0104, [], .any, [⟨7, 0, .ro, 0⟩, ⟨10, 8, .ro, 0⟩]⟩]

/-- The part of the register window that an offset lies in, by its unit block (R39). -/
def RegMap.block (o : Nat) : List RegSpec :=
  if o < 0x10000 then RegMap.global
  else if o < 0x20000 then RegMap.safety
  else if o < 0x30000 then RegMap.host
  else if o < 0x40000 then RegMap.dma
  else if o < 0x50000 then RegMap.txn
  else if o < 0x60000 then RegMap.sump
  else if o < 0x100000 then []
  else if o < 0x180000 then RegMap.station
  else if o < 0x200000 then []
  else if o < 0x300000 then RegMap.tile
  else if o < 0x30C000 then RegMap.drive
  else if o < 0x310000 then []
  else if o < 0x320000 then RegMap.feedback
  else if o < 0x328000 then RegMap.mule
  else if o < 0x380000 then []
  else if o < 0x3C0000 then RegMap.windlass
  else if o < 0x3E0000 then RegMap.seam
  else if o < 0x400000 then RegMap.codec
  else []

/-- The indices at which an offset distance `d` lies, for the counts and strides of a register; none where no instance lies there. -/
def RegMap.indices : List (Nat × Nat) → Nat → Option (List Nat)
  | [], d => if d = 0 then some [] else none
  | (n, st) :: ds, d =>
    if d / st < n then (RegMap.indices ds (d % st)).map (d / st :: ·) else none

/-- The first register of a list that occupies an offset, with its indices. -/
def RegMap.findIn (o : Nat) : List RegSpec → Option (RegSpec × List Nat)
  | [] => none
  | r :: rs =>
    if o < r.base then RegMap.findIn o rs
    else match RegMap.indices r.dims (o - r.base) with
      | some ix => some (r, ix)
      | none => RegMap.findIn o rs

/-- The register that occupies a register-window offset, with its indices; none where no map lists one (R41). -/
def RegMap.find (o : Nat) : Option (RegSpec × List Nat) := RegMap.findIn o (RegMap.block o)

/-- The reset word that a register's fields give. -/
def RegMap.fieldsReset (fs : List FieldSpec) : Nat := sumN (fs.map fun f => f.reset * 2 ^ f.lo)

/-- The reset values that differ between the instances of one register: PART_PRIV of PART_0 (R81, R101), the level of each DMA channel (R121), XTAL_WELL[2] = −0.034 (R402) and coefficient 0 of every biquad, 1.0 (R375). -/
def RegMap.instanceReset (base : Nat) (ix : List Nat) (v : Nat) : Nat :=
  if base = 0x20010 then (if ix = [0] then 0xF else 0)
  else if base = 0x30100 then
    (match ix with
     | [c] => (if c < 8 then 0 else if c < 24 then 1 else if c < 36 then 2 else 3) * 16
     | _ => 0)
  else if base = 0x100d4 then (if ix = [2] then 0xBD0B4396 else 0)
  else if base = 0x3a0000 then (match ix with | [_, _, 0] => 0x3F800000 | _ => 0)
  else v

/-- What a register-window offset reads as when nothing has written it: the reset value of its register, 0 where no register lies (R41). -/
def RegMap.resetOf (o : Nat) : Word :=
  match RegMap.find o with
  | none => 0
  | some (r, ix) => BitVec.ofNat 32 (RegMap.instanceReset r.base ix (RegMap.fieldsReset r.fields))

/-- True when a register is one half of a guarded pair (R47). -/
def RegSpec.guarded (r : RegSpec) : Bool := r.fields.any fun f => f.acc == .g

/-- True when a register holds an M field (R46). -/
def RegSpec.masked (r : RegSpec) : Bool := r.fields.any fun f => f.acc == .m

/-- True when a register is a sequence-clear event register (R48). -/
def RegSpec.seqClear (r : RegSpec) : Bool := r.fields.any fun f => f.acc == .sq

/-- True when a register holds a coupled field (R52). -/
def RegSpec.coupled (r : RegSpec) : Bool := r.fields.any fun f => f.acc == .t

/-- The bits of a register that fields of access code `a` cover. -/
def RegSpec.maskFor (r : RegSpec) (a : Access) : Nat :=
  sumN ((r.fields.filter fun f => f.acc == a).map fun f => maskOf f.hi f.lo)

/-- The bits of a register that any field covers; the rest are reserved (R41). -/
def RegSpec.fieldMask (r : RegSpec) : Nat := sumN (r.fields.map fun f => maskOf f.hi f.lo)

/-- A bit field of the register window: the offset of its register and its bits [hi:lo]. -/
structure BitField where
  off : Nat
  hi : Nat
  lo : Nat
  deriving DecidableEq, Repr

end Sys2Proof.Machine
end

