-- ==== Sys2Proof/Machine/RegNames.lean ====
section
/-! DEFINITION. The names of the register map: for every register its offset (`Reg.<UNIT_REGISTER>`) and for every field its place (`Fld.<UNIT_REGISTER_FIELD>`), each a function of the register's indices in the order of its offset formula.
-/
namespace Sys2Proof.Machine

def Reg.GLOBAL_ID : Nat := 0x0
def Fld.GLOBAL_ID_PART : BitField := ⟨Reg.GLOBAL_ID, 15, 0⟩
def Fld.GLOBAL_ID_STEPPING : BitField := ⟨Reg.GLOBAL_ID, 19, 16⟩
def Fld.GLOBAL_ID_ROM_EDITION : BitField := ⟨Reg.GLOBAL_ID, 31, 20⟩
def Reg.GLOBAL_STATUS : Nat := 0x4
def Fld.GLOBAL_STATUS_ENGINE_STATE : BitField := ⟨Reg.GLOBAL_STATUS, 3, 0⟩
def Fld.GLOBAL_STATUS_COLD_START : BitField := ⟨Reg.GLOBAL_STATUS, 4, 4⟩
def Fld.GLOBAL_STATUS_VBACK_ACTIVE : BitField := ⟨Reg.GLOBAL_STATUS, 5, 5⟩
def Fld.GLOBAL_STATUS_PORT_A_UP : BitField := ⟨Reg.GLOBAL_STATUS, 6, 6⟩
def Fld.GLOBAL_STATUS_PORT_B_UP : BitField := ⟨Reg.GLOBAL_STATUS, 7, 7⟩
def Reg.GLOBAL_WAKE : Nat := 0x8
def Fld.GLOBAL_WAKE_WAKE : BitField := ⟨Reg.GLOBAL_WAKE, 0, 0⟩
def Reg.GLOBAL_TIME_LO : Nat := 0x10
def Fld.GLOBAL_TIME_LO_VALUE : BitField := ⟨Reg.GLOBAL_TIME_LO, 31, 0⟩
def Reg.GLOBAL_TIME_HI : Nat := 0x14
def Fld.GLOBAL_TIME_HI_VALUE : BitField := ⟨Reg.GLOBAL_TIME_HI, 31, 0⟩
def Reg.GLOBAL_SEQ_LO : Nat := 0x18
def Fld.GLOBAL_SEQ_LO_VALUE : BitField := ⟨Reg.GLOBAL_SEQ_LO, 31, 0⟩
def Reg.GLOBAL_SEQ_HI : Nat := 0x1c
def Fld.GLOBAL_SEQ_HI_VALUE : BitField := ⟨Reg.GLOBAL_SEQ_HI, 31, 0⟩
def Reg.GLOBAL_CLK_CTL : Nat := 0x20
def Fld.GLOBAL_CLK_CTL_REF_SEL : BitField := ⟨Reg.GLOBAL_CLK_CTL, 0, 0⟩
def Fld.GLOBAL_CLK_CTL_LSCAN_EN : BitField := ⟨Reg.GLOBAL_CLK_CTL, 1, 1⟩
def Reg.GLOBAL_PWR_CTL : Nat := 0x24
def Fld.GLOBAL_PWR_CTL_QUAD_EN : BitField := ⟨Reg.GLOBAL_PWR_CTL, 15, 0⟩
def Reg.GLOBAL_PART_OWNER : Nat := 0x28
def Fld.GLOBAL_PART_OWNER_OWNER_PORT : BitField := ⟨Reg.GLOBAL_PART_OWNER, 7, 0⟩
def Fld.GLOBAL_PART_OWNER_ENABLE : BitField := ⟨Reg.GLOBAL_PART_OWNER, 15, 8⟩
def Reg.GLOBAL_RESET_CTL : Nat := 0x40
def Fld.GLOBAL_RESET_CTL_ENGINE : BitField := ⟨Reg.GLOBAL_RESET_CTL, 0, 0⟩
def Fld.GLOBAL_RESET_CTL_PARTITION : BitField := ⟨Reg.GLOBAL_RESET_CTL, 15, 8⟩
def Fld.GLOBAL_RESET_CTL_PORT : BitField := ⟨Reg.GLOBAL_RESET_CTL, 17, 16⟩
def Reg.GLOBAL_ERR_EVENT : Nat := 0x80
def Ev.GLOBAL_ERR_EVENT_GUARD_FAULT : Nat × Nat := (Reg.GLOBAL_ERR_EVENT, 0)
def Ev.GLOBAL_ERR_EVENT_LOCK_VIOLATION : Nat × Nat := (Reg.GLOBAL_ERR_EVENT, 1)
def Ev.GLOBAL_ERR_EVENT_ERR_COUPLED : Nat × Nat := (Reg.GLOBAL_ERR_EVENT, 2)
def Ev.GLOBAL_ERR_EVENT_PRIV_VIOLATION : Nat × Nat := (Reg.GLOBAL_ERR_EVENT, 3)
def Ev.GLOBAL_ERR_EVENT_TABLE_BUSY : Nat × Nat := (Reg.GLOBAL_ERR_EVENT, 4)
def Reg.GLOBAL_ERR_FIRST_ADDR : Nat := 0x84
def Fld.GLOBAL_ERR_FIRST_ADDR_OFFSET : BitField := ⟨Reg.GLOBAL_ERR_FIRST_ADDR, 31, 0⟩
def Reg.GLOBAL_ERR_FIRST_INFO : Nat := 0x88
def Fld.GLOBAL_ERR_FIRST_INFO_PARTITION : BitField := ⟨Reg.GLOBAL_ERR_FIRST_INFO, 2, 0⟩
def Fld.GLOBAL_ERR_FIRST_INFO_PORT : BitField := ⟨Reg.GLOBAL_ERR_FIRST_INFO, 3, 3⟩
def Fld.GLOBAL_ERR_FIRST_INFO_TABLE : BitField := ⟨Reg.GLOBAL_ERR_FIRST_INFO, 4, 4⟩
def Fld.GLOBAL_ERR_FIRST_INFO_KIND : BitField := ⟨Reg.GLOBAL_ERR_FIRST_INFO, 10, 8⟩
def Fld.GLOBAL_ERR_FIRST_INFO_CAUSE : BitField := ⟨Reg.GLOBAL_ERR_FIRST_INFO, 14, 12⟩
def Fld.GLOBAL_ERR_FIRST_INFO_COUNT : BitField := ⟨Reg.GLOBAL_ERR_FIRST_INFO, 31, 16⟩
def Reg.GLOBAL_ERR_LAST_ADDR : Nat := 0x8c
def Fld.GLOBAL_ERR_LAST_ADDR_OFFSET : BitField := ⟨Reg.GLOBAL_ERR_LAST_ADDR, 31, 0⟩
def Reg.GLOBAL_ERR_LAST_INFO : Nat := 0x90
def Fld.GLOBAL_ERR_LAST_INFO_PARTITION : BitField := ⟨Reg.GLOBAL_ERR_LAST_INFO, 2, 0⟩
def Fld.GLOBAL_ERR_LAST_INFO_PORT : BitField := ⟨Reg.GLOBAL_ERR_LAST_INFO, 3, 3⟩
def Fld.GLOBAL_ERR_LAST_INFO_TABLE : BitField := ⟨Reg.GLOBAL_ERR_LAST_INFO, 4, 4⟩
def Fld.GLOBAL_ERR_LAST_INFO_KIND : BitField := ⟨Reg.GLOBAL_ERR_LAST_INFO, 10, 8⟩
def Fld.GLOBAL_ERR_LAST_INFO_CAUSE : BitField := ⟨Reg.GLOBAL_ERR_LAST_INFO, 14, 12⟩
def Fld.GLOBAL_ERR_LAST_INFO_COUNT : BitField := ⟨Reg.GLOBAL_ERR_LAST_INFO, 31, 16⟩
def Reg.GLOBAL_SLEEP_DROP : Nat := 0xa0
def Fld.GLOBAL_SLEEP_DROP_COUNT : BitField := ⟨Reg.GLOBAL_SLEEP_DROP, 31, 0⟩
def Reg.SAFETY_STATUS : Nat := 0x10000
def Fld.SAFETY_STATUS_ILK_A : BitField := ⟨Reg.SAFETY_STATUS, 0, 0⟩
def Fld.SAFETY_STATUS_ILK_B : BitField := ⟨Reg.SAFETY_STATUS, 1, 1⟩
def Fld.SAFETY_STATUS_ILK_DISC : BitField := ⟨Reg.SAFETY_STATUS, 2, 2⟩
def Fld.SAFETY_STATUS_LEN_ARM : BitField := ⟨Reg.SAFETY_STATUS, 3, 3⟩
def Fld.SAFETY_STATUS_LEN_OUT : BitField := ⟨Reg.SAFETY_STATUS, 4, 4⟩
def Fld.SAFETY_STATUS_HV_ARM : BitField := ⟨Reg.SAFETY_STATUS, 5, 5⟩
def Fld.SAFETY_STATUS_HV_EN : BitField := ⟨Reg.SAFETY_STATUS, 6, 6⟩
def Fld.SAFETY_STATUS_DCHG_OK : BitField := ⟨Reg.SAFETY_STATUS, 7, 7⟩
def Fld.SAFETY_STATUS_TRIP : BitField := ⟨Reg.SAFETY_STATUS, 8, 8⟩
def Fld.SAFETY_STATUS_CUT : BitField := ⟨Reg.SAFETY_STATUS, 9, 9⟩
def Reg.SAFETY_EVENT : Nat := 0x10004
def Ev.SAFETY_EVENT_INTERLOCK_OPEN : Nat × Nat := (Reg.SAFETY_EVENT, 0)
def Ev.SAFETY_EVENT_ILK_DISCREPANCY : Nat × Nat := (Reg.SAFETY_EVENT, 1)
def Ev.SAFETY_EVENT_HV_DISCHARGE_FAIL : Nat × Nat := (Reg.SAFETY_EVENT, 2)
def Ev.SAFETY_EVENT_MAIN_LOSS : Nat × Nat := (Reg.SAFETY_EVENT, 3)
def Ev.SAFETY_EVENT_BROWN_OUT : Nat × Nat := (Reg.SAFETY_EVENT, 4)
def Ev.SAFETY_EVENT_VBACK_LOW : Nat × Nat := (Reg.SAFETY_EVENT, 5)
def Ev.SAFETY_EVENT_THERMAL_WARN : Nat × Nat := (Reg.SAFETY_EVENT, 6)
def Ev.SAFETY_EVENT_THERMAL_STOP : Nat × Nat := (Reg.SAFETY_EVENT, 7)
def Ev.SAFETY_EVENT_THERMAL_TRIP : Nat × Nat := (Reg.SAFETY_EVENT, 8)
def Ev.SAFETY_EVENT_SENSOR_SUSPECT : Nat × Nat := (Reg.SAFETY_EVENT, 9)
def Ev.SAFETY_EVENT_FUSER_OVERTEMP : Nat × Nat := (Reg.SAFETY_EVENT, 10)
def Ev.SAFETY_EVENT_TH_PAIR_MISMATCH : Nat × Nat := (Reg.SAFETY_EVENT, 11)
def Ev.SAFETY_EVENT_TH_FAULT : Nat × Nat := (Reg.SAFETY_EVENT, 12)
def Ev.SAFETY_EVENT_XTAL_COMP_RANGE : Nat × Nat := (Reg.SAFETY_EVENT, 13)
def Reg.SAFETY_ILK_CLEAR : Nat := 0x10008
def Fld.SAFETY_ILK_CLEAR_CLEAR : BitField := ⟨Reg.SAFETY_ILK_CLEAR, 0, 0⟩
def Reg.SAFETY_DCHG_LIMIT : Nat := 0x1000c
def Fld.SAFETY_DCHG_LIMIT_LIMIT : BitField := ⟨Reg.SAFETY_DCHG_LIMIT, 31, 0⟩
def Reg.SAFETY_LOCK : Nat := 0x10010
def Fld.SAFETY_LOCK_DCHG : BitField := ⟨Reg.SAFETY_LOCK, 0, 0⟩
def Fld.SAFETY_LOCK_THERM : BitField := ⟨Reg.SAFETY_LOCK, 1, 1⟩
def Fld.SAFETY_LOCK_FUSER : BitField := ⟨Reg.SAFETY_LOCK, 2, 2⟩
def Fld.SAFETY_LOCK_VBACK : BitField := ⟨Reg.SAFETY_LOCK, 3, 3⟩
def Reg.POWER_STATUS : Nat := 0x10020
def Fld.POWER_STATUS_MAIN_OK : BitField := ⟨Reg.POWER_STATUS, 0, 0⟩
def Fld.POWER_STATUS_VBACK_ACTIVE : BitField := ⟨Reg.POWER_STATUS, 1, 1⟩
def Fld.POWER_STATUS_HOLDUP : BitField := ⟨Reg.POWER_STATUS, 2, 2⟩
def Fld.POWER_STATUS_VBACK : BitField := ⟨Reg.POWER_STATUS, 31, 16⟩
def Reg.POWER_VBACK_MIN : Nat := 0x10024
def Fld.POWER_VBACK_MIN_MIN_RUN : BitField := ⟨Reg.POWER_VBACK_MIN, 15, 0⟩
def Reg.THERMAL_DIE (i : Nat) : Nat := 0x10040 + i * 0x4
def Fld.THERMAL_DIE_TEMP (i : Nat) : BitField := ⟨Reg.THERMAL_DIE i, 15, 0⟩
def Fld.THERMAL_DIE_SUSPECT (i : Nat) : BitField := ⟨Reg.THERMAL_DIE i, 16, 16⟩
def Reg.THERMAL_MAX : Nat := 0x10070
def Fld.THERMAL_MAX_TEMP : BitField := ⟨Reg.THERMAL_MAX, 15, 0⟩
def Fld.THERMAL_MAX_SENSOR : BitField := ⟨Reg.THERMAL_MAX, 19, 16⟩
def Fld.THERMAL_MAX_RATE : BitField := ⟨Reg.THERMAL_MAX, 31, 20⟩
def Reg.THERMAL_CFG : Nat := 0x10074
def Fld.THERMAL_CFG_WARN : BitField := ⟨Reg.THERMAL_CFG, 7, 0⟩
def Fld.THERMAL_CFG_STOP : BitField := ⟨Reg.THERMAL_CFG, 15, 8⟩
def Fld.THERMAL_CFG_RATE_DIE : BitField := ⟨Reg.THERMAL_CFG, 23, 16⟩
def Reg.THERMAL_THETA : Nat := 0x10078
def Fld.THERMAL_THETA_THETA : BitField := ⟨Reg.THERMAL_THETA, 15, 0⟩
def Reg.THERMAL_FUSER_LIM (i : Nat) : Nat := 0x10080 + i * 0x4
def Fld.THERMAL_FUSER_LIM_T_MAX (i : Nat) : BitField := ⟨Reg.THERMAL_FUSER_LIM i, 9, 0⟩
def Fld.THERMAL_FUSER_LIM_PAIR_TOL (i : Nat) : BitField := ⟨Reg.THERMAL_FUSER_LIM i, 23, 16⟩
def Reg.THERMAL_TH_RATE (i : Nat) : Nat := 0x100a0 + i * 0x4
def Fld.THERMAL_TH_RATE_RATE (i : Nat) : BitField := ⟨Reg.THERMAL_TH_RATE i, 7, 0⟩
def Reg.THERMAL_COMP_CFG : Nat := 0x100c0
def Fld.THERMAL_COMP_CFG_REF_SENSOR : BitField := ⟨Reg.THERMAL_COMP_CFG, 3, 0⟩
def Reg.THERMAL_XTAL_REF (i : Nat) : Nat := 0x100c4 + i * 0x4
def Fld.THERMAL_XTAL_REF_COEF (i : Nat) : BitField := ⟨Reg.THERMAL_XTAL_REF i, 31, 0⟩
def Reg.THERMAL_XTAL_WELL (i : Nat) : Nat := 0x100d4 + i * 0x4
def Fld.THERMAL_XTAL_WELL_COEF (i : Nat) : BitField := ⟨Reg.THERMAL_XTAL_WELL i, 31, 0⟩
def Reg.HOST_PORT_STATUS (i : Nat) : Nat := 0x20000 + i * 0x4
def Fld.HOST_PORT_STATUS_LINK_UP (i : Nat) : BitField := ⟨Reg.HOST_PORT_STATUS i, 0, 0⟩
def Fld.HOST_PORT_STATUS_BUS_MASTER (i : Nat) : BitField := ⟨Reg.HOST_PORT_STATUS i, 1, 1⟩
def Fld.HOST_PORT_STATUS_RATE (i : Nat) : BitField := ⟨Reg.HOST_PORT_STATUS i, 4, 2⟩
def Fld.HOST_PORT_STATUS_WIDTH (i : Nat) : BitField := ⟨Reg.HOST_PORT_STATUS i, 7, 5⟩
def Fld.HOST_PORT_STATUS_L1_2 (i : Nat) : BitField := ⟨Reg.HOST_PORT_STATUS i, 8, 8⟩
def Fld.HOST_PORT_STATUS_DOWN (i : Nat) : BitField := ⟨Reg.HOST_PORT_STATUS i, 9, 9⟩
def Fld.HOST_PORT_STATUS_DOWN_COUNT (i : Nat) : BitField := ⟨Reg.HOST_PORT_STATUS i, 23, 16⟩
def Reg.HOST_PART_PRIV (i : Nat) : Nat := 0x20010 + i * 0x4
def Fld.HOST_PART_PRIV_CLASS (i : Nat) : BitField := ⟨Reg.HOST_PART_PRIV i, 3, 0⟩
def Reg.HOST_XLAT_LOCKED : Nat := 0x20040
def Fld.HOST_XLAT_LOCKED_COUNT : BitField := ⟨Reg.HOST_XLAT_LOCKED, 11, 0⟩
def Fld.HOST_XLAT_LOCKED_PEAK : BitField := ⟨Reg.HOST_XLAT_LOCKED, 27, 16⟩
def Reg.HOST_HELD : Nat := 0x20044
def Fld.HOST_HELD_COUNT : BitField := ⟨Reg.HOST_HELD, 14, 0⟩
def Reg.HOST_PART_CTL (i : Nat) : Nat := 0x21000 + i * 0x100
def Fld.HOST_PART_CTL_ATTACH (i : Nat) : BitField := ⟨Reg.HOST_PART_CTL i, 0, 0⟩
def Fld.HOST_PART_CTL_SUSPENDED (i : Nat) : BitField := ⟨Reg.HOST_PART_CTL i, 1, 1⟩
def Reg.HOST_PART_XLAT_ROOT_LO (i : Nat) : Nat := 0x21008 + i * 0x100
def Fld.HOST_PART_XLAT_ROOT_LO_ADDR_LO (i : Nat) : BitField := ⟨Reg.HOST_PART_XLAT_ROOT_LO i, 31, 12⟩
def Reg.HOST_PART_XLAT_ROOT_HI (i : Nat) : Nat := 0x2100c + i * 0x100
def Fld.HOST_PART_XLAT_ROOT_HI_ADDR_HI (i : Nat) : BitField := ⟨Reg.HOST_PART_XLAT_ROOT_HI i, 19, 0⟩
def Reg.HOST_PART_INVAL_ADDR_LO (i : Nat) : Nat := 0x21010 + i * 0x100
def Fld.HOST_PART_INVAL_ADDR_LO_ADDR_LO (i : Nat) : BitField := ⟨Reg.HOST_PART_INVAL_ADDR_LO i, 31, 0⟩
def Reg.HOST_PART_INVAL_ADDR_HI (i : Nat) : Nat := 0x21014 + i * 0x100
def Fld.HOST_PART_INVAL_ADDR_HI_ADDR_HI (i : Nat) : BitField := ⟨Reg.HOST_PART_INVAL_ADDR_HI i, 6, 0⟩
def Reg.HOST_PART_INVAL_CTL (i : Nat) : Nat := 0x21018 + i * 0x100
def Fld.HOST_PART_INVAL_CTL_SIZE (i : Nat) : BitField := ⟨Reg.HOST_PART_INVAL_CTL i, 1, 0⟩
def Fld.HOST_PART_INVAL_CTL_GO (i : Nat) : BitField := ⟨Reg.HOST_PART_INVAL_CTL i, 31, 31⟩
def Reg.HOST_PART_INVAL_STATUS (i : Nat) : Nat := 0x2101c + i * 0x100
def Fld.HOST_PART_INVAL_STATUS_BUSY (i : Nat) : BitField := ⟨Reg.HOST_PART_INVAL_STATUS i, 0, 0⟩
def Fld.HOST_PART_INVAL_STATUS_LOCKED_HIT (i : Nat) : BitField := ⟨Reg.HOST_PART_INVAL_STATUS i, 1, 1⟩
def Fld.HOST_PART_INVAL_STATUS_LOCKED (i : Nat) : BitField := ⟨Reg.HOST_PART_INVAL_STATUS i, 27, 16⟩
def Reg.HOST_PART_FAULT_NEXT (i : Nat) : Nat := 0x21020 + i * 0x100
def Fld.HOST_PART_FAULT_NEXT_FAULT_ID (i : Nat) : BitField := ⟨Reg.HOST_PART_FAULT_NEXT i, 15, 0⟩
def Fld.HOST_PART_FAULT_NEXT_OUTSTANDING (i : Nat) : BitField := ⟨Reg.HOST_PART_FAULT_NEXT i, 23, 16⟩
def Reg.HOST_PART_RING_BASE_LO (i : Nat) (j : Nat) : Nat := 0x21040 + i * 0x100 + j * 0x10
def Fld.HOST_PART_RING_BASE_LO_ADDR_LO (i : Nat) (j : Nat) : BitField := ⟨Reg.HOST_PART_RING_BASE_LO i j, 31, 12⟩
def Reg.HOST_PART_RING_BASE_HI (i : Nat) (j : Nat) : Nat := 0x21044 + i * 0x100 + j * 0x10
def Fld.HOST_PART_RING_BASE_HI_ADDR_HI (i : Nat) (j : Nat) : BitField := ⟨Reg.HOST_PART_RING_BASE_HI i j, 6, 0⟩
def Reg.HOST_PART_RING_SIZE (i : Nat) (j : Nat) : Nat := 0x21048 + i * 0x100 + j * 0x10
def Fld.HOST_PART_RING_SIZE_LOG2 (i : Nat) (j : Nat) : BitField := ⟨Reg.HOST_PART_RING_SIZE i j, 4, 0⟩
def Reg.HOST_PART_RING_HEAD (i : Nat) (j : Nat) : Nat := 0x2104c + i * 0x100 + j * 0x10
def Fld.HOST_PART_RING_HEAD_HEAD (i : Nat) (j : Nat) : BitField := ⟨Reg.HOST_PART_RING_HEAD i j, 31, 0⟩
def Reg.HOST_PART_Q_BASE_LO (i : Nat) (j : Nat) : Nat := 0x21080 + i * 0x100 + j * 0x10
def Fld.HOST_PART_Q_BASE_LO_ADDR_LO (i : Nat) (j : Nat) : BitField := ⟨Reg.HOST_PART_Q_BASE_LO i j, 31, 12⟩
def Reg.HOST_PART_Q_BASE_HI (i : Nat) (j : Nat) : Nat := 0x21084 + i * 0x100 + j * 0x10
def Fld.HOST_PART_Q_BASE_HI_ADDR_HI (i : Nat) (j : Nat) : BitField := ⟨Reg.HOST_PART_Q_BASE_HI i j, 6, 0⟩
def Reg.HOST_PART_Q_CTL (i : Nat) (j : Nat) : Nat := 0x21088 + i * 0x100 + j * 0x10
def Fld.HOST_PART_Q_CTL_LOG2_SIZE (i : Nat) (j : Nat) : BitField := ⟨Reg.HOST_PART_Q_CTL i j, 4, 0⟩
def Fld.HOST_PART_Q_CTL_VECTOR (i : Nat) (j : Nat) : BitField := ⟨Reg.HOST_PART_Q_CTL i j, 7, 5⟩
def Fld.HOST_PART_Q_CTL_MOD_COUNT (i : Nat) (j : Nat) : BitField := ⟨Reg.HOST_PART_Q_CTL i j, 15, 8⟩
def Fld.HOST_PART_Q_CTL_MOD_TIME (i : Nat) (j : Nat) : BitField := ⟨Reg.HOST_PART_Q_CTL i j, 25, 16⟩
def Reg.HOST_PART_Q_TAIL (i : Nat) (j : Nat) : Nat := 0x2108c + i * 0x100 + j * 0x10
def Fld.HOST_PART_Q_TAIL_TAIL (i : Nat) (j : Nat) : BitField := ⟨Reg.HOST_PART_Q_TAIL i j, 31, 0⟩
def Reg.HOST_PART_DB_LO (i : Nat) : Nat := 0x210a0 + i * 0x100
def Fld.HOST_PART_DB_LO_ADDR_LO (i : Nat) : BitField := ⟨Reg.HOST_PART_DB_LO i, 31, 6⟩
def Reg.HOST_PART_DB_HI (i : Nat) : Nat := 0x210a4 + i * 0x100
def Fld.HOST_PART_DB_HI_ADDR_HI (i : Nat) : BitField := ⟨Reg.HOST_PART_DB_HI i, 6, 0⟩
def Reg.HOST_PART_POLL (i : Nat) : Nat := 0x210a8 + i * 0x100
def Fld.HOST_PART_POLL_INTERVAL (i : Nat) : BitField := ⟨Reg.HOST_PART_POLL i, 6, 0⟩
def Reg.HOST_PART_RING_STATUS (i : Nat) : Nat := 0x210ac + i * 0x100
def Fld.HOST_PART_RING_STATUS_GEOM_PENDING (i : Nat) : BitField := ⟨Reg.HOST_PART_RING_STATUS i, 0, 0⟩
def Fld.HOST_PART_RING_STATUS_GEOM_ERR (i : Nat) : BitField := ⟨Reg.HOST_PART_RING_STATUS i, 1, 1⟩
def Fld.HOST_PART_RING_STATUS_POLL_ERR (i : Nat) : BitField := ⟨Reg.HOST_PART_RING_STATUS i, 2, 2⟩
def Fld.HOST_PART_RING_STATUS_TAIL_ERR (i : Nat) : BitField := ⟨Reg.HOST_PART_RING_STATUS i, 7, 4⟩
def Fld.HOST_PART_RING_STATUS_Q_FULL (i : Nat) : BitField := ⟨Reg.HOST_PART_RING_STATUS i, 9, 8⟩
def Fld.HOST_PART_RING_STATUS_HEAD_ERR (i : Nat) : BitField := ⟨Reg.HOST_PART_RING_STATUS i, 10, 10⟩
def Fld.HOST_PART_RING_STATUS_BUS_RETRY (i : Nat) : BitField := ⟨Reg.HOST_PART_RING_STATUS i, 11, 11⟩
def Reg.DMA_IMG_RETRY : Nat := 0x30000
def Fld.DMA_IMG_RETRY_COUNT : BitField := ⟨Reg.DMA_IMG_RETRY, 2, 0⟩
def Reg.DMA_IMG_EVENT : Nat := 0x30004
def Ev.DMA_IMG_EVENT_HALT : Nat × Nat := (Reg.DMA_IMG_EVENT, 0)
def Ev.DMA_IMG_EVENT_RETRY : Nat × Nat := (Reg.DMA_IMG_EVENT, 8)
def Reg.DMA_CHAN_STATUS (i : Nat) : Nat := 0x30100 + i * 0x4
def Fld.DMA_CHAN_STATUS_STATE (i : Nat) : BitField := ⟨Reg.DMA_CHAN_STATUS i, 2, 0⟩
def Fld.DMA_CHAN_STATUS_LEVEL (i : Nat) : BitField := ⟨Reg.DMA_CHAN_STATUS i, 5, 4⟩
def Fld.DMA_CHAN_STATUS_PORT (i : Nat) : BitField := ⟨Reg.DMA_CHAN_STATUS i, 6, 6⟩
def Fld.DMA_CHAN_STATUS_PARTITION (i : Nat) : BitField := ⟨Reg.DMA_CHAN_STATUS i, 10, 8⟩
def Fld.DMA_CHAN_STATUS_BURSTS (i : Nat) : BitField := ⟨Reg.DMA_CHAN_STATUS i, 31, 16⟩
def Reg.DMA_IMG_STATUS (i : Nat) : Nat := 0x30200 + i * 0x8
def Fld.DMA_IMG_STATUS_RETRIES (i : Nat) : BitField := ⟨Reg.DMA_IMG_STATUS i, 15, 0⟩
def Fld.DMA_IMG_STATUS_HALT_CAUSE (i : Nat) : BitField := ⟨Reg.DMA_IMG_STATUS i, 23, 16⟩
def Reg.DMA_IMG_DESC (i : Nat) : Nat := 0x30204 + i * 0x8
def Fld.DMA_IMG_DESC_INDEX (i : Nat) : BitField := ⟨Reg.DMA_IMG_DESC i, 31, 0⟩
def Reg.DMA_IMG_CUR (i : Nat) (j : Nat) : Nat := 0x30300 + i * 0x10 + j * 0x4
def Fld.DMA_IMG_CUR_WORD (i : Nat) (j : Nat) : BitField := ⟨Reg.DMA_IMG_CUR i j, 31, 0⟩
def Reg.TXN_STATE (i : Nat) : Nat := 0x40000 + i * 0x1000
def Fld.TXN_STATE_STATE (i : Nat) : BitField := ⟨Reg.TXN_STATE i, 1, 0⟩
def Fld.TXN_STATE_OPEN (i : Nat) : BitField := ⟨Reg.TXN_STATE i, 2, 2⟩
def Fld.TXN_STATE_MODE (i : Nat) : BitField := ⟨Reg.TXN_STATE i, 5, 4⟩
def Fld.TXN_STATE_STAGED (i : Nat) : BitField := ⟨Reg.TXN_STATE i, 25, 16⟩
def Reg.TXN_BEGIN_GEN (i : Nat) : Nat := 0x40004 + i * 0x1000
def Fld.TXN_BEGIN_GEN_GEN (i : Nat) : BitField := ⟨Reg.TXN_BEGIN_GEN i, 31, 0⟩
def Reg.TXN_TRIGGER_LO (i : Nat) : Nat := 0x40008 + i * 0x1000
def Fld.TXN_TRIGGER_LO_VALUE (i : Nat) : BitField := ⟨Reg.TXN_TRIGGER_LO i, 31, 0⟩
def Reg.TXN_TRIGGER_HI (i : Nat) : Nat := 0x4000c + i * 0x1000
def Fld.TXN_TRIGGER_HI_VALUE (i : Nat) : BitField := ⟨Reg.TXN_TRIGGER_HI i, 31, 0⟩
def Reg.TXN_RESULT (i : Nat) : Nat := 0x40010 + i * 0x1000
def Fld.TXN_RESULT_UNITS (i : Nat) : BitField := ⟨Reg.TXN_RESULT i, 7, 0⟩
def Fld.TXN_RESULT_STATUS (i : Nat) : BitField := ⟨Reg.TXN_RESULT i, 15, 8⟩
def Fld.TXN_RESULT_SPAN (i : Nat) : BitField := ⟨Reg.TXN_RESULT i, 31, 16⟩
def Reg.TXN_CONFLICT_ADDR (i : Nat) : Nat := 0x40014 + i * 0x1000
def Fld.TXN_CONFLICT_ADDR_TARGET (i : Nat) : BitField := ⟨Reg.TXN_CONFLICT_ADDR i, 29, 0⟩
def Fld.TXN_CONFLICT_ADDR_IS_TABLE (i : Nat) : BitField := ⟨Reg.TXN_CONFLICT_ADDR i, 30, 30⟩
def Fld.TXN_CONFLICT_ADDR_CAUSE (i : Nat) : BitField := ⟨Reg.TXN_CONFLICT_ADDR i, 31, 31⟩
def Reg.TXN_SWITCH_TIME (i : Nat) (j : Nat) : Nat := 0x40400 + i * 0x1000 + j * 0x4
def Fld.TXN_SWITCH_TIME_TIME (i : Nat) (j : Nat) : BitField := ⟨Reg.TXN_SWITCH_TIME i j, 31, 0⟩
def Reg.TXN_GEN : Nat := 0x48000
def Fld.TXN_GEN_GEN : BitField := ⟨Reg.TXN_GEN, 31, 0⟩
def Reg.TXN_LOG_OLDEST : Nat := 0x48004
def Fld.TXN_LOG_OLDEST_GEN : BitField := ⟨Reg.TXN_LOG_OLDEST, 31, 0⟩
def Reg.SUMP_CFG : Nat := 0x50000
def Fld.SUMP_CFG_RETAIN : BitField := ⟨Reg.SUMP_CFG, 0, 0⟩
def Fld.SUMP_CFG_SNAP_S : BitField := ⟨Reg.SUMP_CFG, 15, 8⟩
def Fld.SUMP_CFG_POST_MS : BitField := ⟨Reg.SUMP_CFG, 31, 16⟩
def Reg.SUMP_TRIG_MASK : Nat := 0x50004
def Fld.SUMP_TRIG_MASK_MASK : BitField := ⟨Reg.SUMP_TRIG_MASK, 9, 0⟩
def Reg.SUMP_TRIG : Nat := 0x50008
def Fld.SUMP_TRIG_FIRE : BitField := ⟨Reg.SUMP_TRIG, 0, 0⟩
def Reg.SUMP_STATUS : Nat := 0x5000c
def Fld.SUMP_STATUS_STATE : BitField := ⟨Reg.SUMP_STATUS, 1, 0⟩
def Fld.SUMP_STATUS_PART : BitField := ⟨Reg.SUMP_STATUS, 4, 2⟩
def Fld.SUMP_STATUS_FILL : BitField := ⟨Reg.SUMP_STATUS, 15, 8⟩
def Fld.SUMP_STATUS_TRIG_CAUSE : BitField := ⟨Reg.SUMP_STATUS, 19, 16⟩
def Reg.SUMP_WR_LO : Nat := 0x50010
def Fld.SUMP_WR_LO_VALUE : BitField := ⟨Reg.SUMP_WR_LO, 31, 0⟩
def Reg.SUMP_WR_HI : Nat := 0x50014
def Fld.SUMP_WR_HI_VALUE : BitField := ⟨Reg.SUMP_WR_HI, 31, 0⟩
def Reg.SUMP_RD_LO : Nat := 0x50018
def Fld.SUMP_RD_LO_VALUE : BitField := ⟨Reg.SUMP_RD_LO, 31, 0⟩
def Reg.SUMP_RD_HI : Nat := 0x5001c
def Fld.SUMP_RD_HI_VALUE : BitField := ⟨Reg.SUMP_RD_HI, 31, 0⟩
def Reg.SUMP_TRIG_SEG_LO : Nat := 0x50020
def Fld.SUMP_TRIG_SEG_LO_VALUE : BitField := ⟨Reg.SUMP_TRIG_SEG_LO, 31, 0⟩
def Reg.SUMP_TRIG_SEG_HI : Nat := 0x50024
def Fld.SUMP_TRIG_SEG_HI_VALUE : BitField := ⟨Reg.SUMP_TRIG_SEG_HI, 31, 0⟩
def Reg.SUMP_GAPS : Nat := 0x50028
def Fld.SUMP_GAPS_COUNT : BitField := ⟨Reg.SUMP_GAPS, 15, 0⟩
def Reg.SUMP_EVENT : Nat := 0x5002c
def Ev.SUMP_EVENT_GAP : Nat × Nat := (Reg.SUMP_EVENT, 0)
def Ev.SUMP_EVENT_TRIGGERED : Nat × Nat := (Reg.SUMP_EVENT, 1)
def Ev.SUMP_EVENT_FROZEN : Nat × Nat := (Reg.SUMP_EVENT, 2)
def Ev.SUMP_EVENT_RD_ERR : Nat × Nat := (Reg.SUMP_EVENT, 3)
def Ev.SUMP_EVENT_CFG_ERR : Nat × Nat := (Reg.SUMP_EVENT, 4)
def Reg.SUMP_REPLAY_POS_LO : Nat := 0x50030
def Fld.SUMP_REPLAY_POS_LO_VALUE : BitField := ⟨Reg.SUMP_REPLAY_POS_LO, 31, 0⟩
def Reg.SUMP_REPLAY_POS_HI : Nat := 0x50034
def Fld.SUMP_REPLAY_POS_HI_VALUE : BitField := ⟨Reg.SUMP_REPLAY_POS_HI, 31, 0⟩
def Reg.STATION_BELT_OFFSET_LO (i : Nat) : Nat := 0x100000 + i * 0x10000
def Fld.STATION_BELT_OFFSET_LO_VALUE (i : Nat) : BitField := ⟨Reg.STATION_BELT_OFFSET_LO i, 31, 0⟩
def Reg.STATION_BELT_OFFSET_HI (i : Nat) : Nat := 0x100004 + i * 0x10000
def Fld.STATION_BELT_OFFSET_HI_VALUE (i : Nat) : BitField := ⟨Reg.STATION_BELT_OFFSET_HI i, 15, 0⟩
def Reg.STATION_EXPO_CTL (i : Nat) : Nat := 0x100008 + i * 0x10000
def Fld.STATION_EXPO_CTL_HIST_EN (i : Nat) : BitField := ⟨Reg.STATION_EXPO_CTL i, 0, 0⟩
def Reg.STATION_CEIL_DUTY (i : Nat) : Nat := 0x100010 + i * 0x10000
def Fld.STATION_CEIL_DUTY_EMIT_CAP (i : Nat) : BitField := ⟨Reg.STATION_CEIL_DUTY i, 10, 0⟩
def Fld.STATION_CEIL_DUTY_TILE_CAP (i : Nat) : BitField := ⟨Reg.STATION_CEIL_DUTY i, 26, 16⟩
def Reg.STATION_CEIL_BIAS (i : Nat) : Nat := 0x100018 + i * 0x10000
def Fld.STATION_CEIL_BIAS_BIAS_MAX (i : Nat) : BitField := ⟨Reg.STATION_CEIL_BIAS i, 11, 0⟩
def Reg.STATION_CEIL_LOCK (i : Nat) : Nat := 0x100020 + i * 0x10000
def Fld.STATION_CEIL_LOCK_LOCK (i : Nat) : BitField := ⟨Reg.STATION_CEIL_LOCK i, 0, 0⟩
def Reg.STATION_CAL_TARGET (i : Nat) : Nat := 0x100024 + i * 0x10000
def Fld.STATION_CAL_TARGET_TARGET (i : Nat) : BitField := ⟨Reg.STATION_CAL_TARGET i, 11, 0⟩
def Reg.STATION_EXPO_EVENT (i : Nat) : Nat := 0x100030 + i * 0x10000
def Ev.STATION_EXPO_EVENT_DUTY_CLAMP (i : Nat) : Nat × Nat := (Reg.STATION_EXPO_EVENT i, 0)
def Ev.STATION_EXPO_EVENT_EMITTER_DISABLED (i : Nat) : Nat × Nat := (Reg.STATION_EXPO_EVENT i, 1)
def Ev.STATION_EXPO_EVENT_TILE_DUTY_BREACH (i : Nat) : Nat × Nat := (Reg.STATION_EXPO_EVENT i, 2)
def Ev.STATION_EXPO_EVENT_WIDTH_SAT (i : Nat) : Nat × Nat := (Reg.STATION_EXPO_EVENT i, 3)
def Ev.STATION_EXPO_EVENT_EXPO_TABLE_BAD (i : Nat) : Nat × Nat := (Reg.STATION_EXPO_EVENT i, 4)
def Reg.STATION_EDGE_SHIFTED (i : Nat) : Nat := 0x100034 + i * 0x10000
def Fld.STATION_EDGE_SHIFTED_COUNT (i : Nat) : BitField := ⟨Reg.STATION_EDGE_SHIFTED i, 31, 0⟩
def Reg.STATION_EDGE_SUM (i : Nat) : Nat := 0x100038 + i * 0x10000
def Fld.STATION_EDGE_SUM_COUNT (i : Nat) : BitField := ⟨Reg.STATION_EDGE_SUM i, 31, 0⟩
def Reg.STATION_WIDTH_SAT (i : Nat) : Nat := 0x10003c + i * 0x10000
def Fld.STATION_WIDTH_SAT_COUNT (i : Nat) : BitField := ⟨Reg.STATION_WIDTH_SAT i, 31, 0⟩
def Reg.STATION_EMIT_DIS (i : Nat) (j : Nat) : Nat := 0x100100 + i * 0x10000 + j * 0x4
def Fld.STATION_EMIT_DIS_DISABLED (i : Nat) (j : Nat) : BitField := ⟨Reg.STATION_EMIT_DIS i j, 15, 0⟩
def Fld.STATION_EMIT_DIS_LAST (i : Nat) (j : Nat) : BitField := ⟨Reg.STATION_EMIT_DIS i j, 19, 16⟩
def Fld.STATION_EMIT_DIS_CAUSE (i : Nat) (j : Nat) : BitField := ⟨Reg.STATION_EMIT_DIS i j, 21, 20⟩
def Reg.STATION_CLAMP (i : Nat) (j : Nat) : Nat := 0x100140 + i * 0x10000 + j * 0x4
def Fld.STATION_CLAMP_TILE_K (i : Nat) (j : Nat) : BitField := ⟨Reg.STATION_CLAMP i j, 8, 0⟩
def Fld.STATION_CLAMP_MIN_EMIT_K (i : Nat) (j : Nat) : BitField := ⟨Reg.STATION_CLAMP i j, 24, 16⟩
def Fld.STATION_CLAMP_MIN_EMIT (i : Nat) (j : Nat) : BitField := ⟨Reg.STATION_CLAMP i j, 31, 28⟩
def Reg.STATION_DRUM_SCALE (i : Nat) : Nat := 0x100400 + i * 0x10000
def Fld.STATION_DRUM_SCALE_SCALE (i : Nat) : BitField := ⟨Reg.STATION_DRUM_SCALE i, 31, 0⟩
def Reg.STATION_SCHED_CTL (i : Nat) : Nat := 0x100404 + i * 0x10000
def Fld.STATION_SCHED_CTL_RIPPLE_EN (i : Nat) : BitField := ⟨Reg.STATION_SCHED_CTL i, 0, 0⟩
def Reg.STATION_REG_OFFSET (i : Nat) : Nat := 0x100408 + i * 0x10000
def Fld.STATION_REG_OFFSET_OFFSET (i : Nat) : BitField := ⟨Reg.STATION_REG_OFFSET i, 23, 0⟩
def Reg.STATION_DRUM_ALIGN_LO (i : Nat) : Nat := 0x10040c + i * 0x10000
def Fld.STATION_DRUM_ALIGN_LO_VALUE (i : Nat) : BitField := ⟨Reg.STATION_DRUM_ALIGN_LO i, 31, 0⟩
def Reg.STATION_DRUM_ALIGN_HI (i : Nat) : Nat := 0x100410 + i * 0x10000
def Fld.STATION_DRUM_ALIGN_HI_VALUE (i : Nat) : BitField := ⟨Reg.STATION_DRUM_ALIGN_HI i, 15, 0⟩
def Reg.STATION_FRONT_LO (i : Nat) : Nat := 0x100414 + i * 0x10000
def Fld.STATION_FRONT_LO_VALUE (i : Nat) : BitField := ⟨Reg.STATION_FRONT_LO i, 31, 0⟩
def Reg.STATION_FRONT_HI (i : Nat) : Nat := 0x100418 + i * 0x10000
def Fld.STATION_FRONT_HI_VALUE (i : Nat) : BitField := ⟨Reg.STATION_FRONT_HI i, 15, 0⟩
def Reg.TILE_CFG (i : Nat) : Nat := 0x200000 + i * 0x4000
def Fld.TILE_CFG_ENABLE (i : Nat) : BitField := ⟨Reg.TILE_CFG i, 0, 0⟩
def Fld.TILE_CFG_STATION (i : Nat) : BitField := ⟨Reg.TILE_CFG i, 6, 4⟩
def Fld.TILE_CFG_POSITION (i : Nat) : BitField := ⟨Reg.TILE_CFG i, 11, 8⟩
def Reg.TILE_LINK_STATUS (i : Nat) : Nat := 0x200004 + i * 0x4000
def Fld.TILE_LINK_STATUS_STATE (i : Nat) : BitField := ⟨Reg.TILE_LINK_STATUS i, 2, 0⟩
def Fld.TILE_LINK_STATUS_DN_LOCK (i : Nat) : BitField := ⟨Reg.TILE_LINK_STATUS i, 3, 3⟩
def Fld.TILE_LINK_STATUS_UP_LOCK (i : Nat) : BitField := ⟨Reg.TILE_LINK_STATUS i, 4, 4⟩
def Fld.TILE_LINK_STATUS_DLL_LOCK (i : Nat) : BitField := ⟨Reg.TILE_LINK_STATUS i, 5, 5⟩
def Fld.TILE_LINK_STATUS_DLL_BYPASS (i : Nat) : BitField := ⟨Reg.TILE_LINK_STATUS i, 6, 6⟩
def Fld.TILE_LINK_STATUS_KILL_ACTIVE (i : Nat) : BitField := ⟨Reg.TILE_LINK_STATUS i, 7, 7⟩
def Fld.TILE_LINK_STATUS_LAST_FAIL (i : Nat) : BitField := ⟨Reg.TILE_LINK_STATUS i, 11, 8⟩
def Reg.TILE_LINK_RT (i : Nat) : Nat := 0x200008 + i * 0x4000
def Fld.TILE_LINK_RT_RT (i : Nat) : BitField := ⟨Reg.TILE_LINK_RT i, 23, 0⟩
def Reg.TILE_LINK_ASYM (i : Nat) : Nat := 0x20000c + i * 0x4000
def Fld.TILE_LINK_ASYM_ASYM (i : Nat) : BitField := ⟨Reg.TILE_LINK_ASYM i, 15, 0⟩
def Reg.TILE_LINK_COUNT (i : Nat) : Nat := 0x200010 + i * 0x4000
def Fld.TILE_LINK_COUNT_RETX (i : Nat) : BitField := ⟨Reg.TILE_LINK_COUNT i, 15, 0⟩
def Fld.TILE_LINK_COUNT_DISCARD (i : Nat) : BitField := ⟨Reg.TILE_LINK_COUNT i, 31, 16⟩
def Reg.TILE_LINK_EVENT (i : Nat) : Nat := 0x200014 + i * 0x4000
def Ev.TILE_LINK_EVENT_LINK_DOWN (i : Nat) : Nat × Nat := (Reg.TILE_LINK_EVENT i, 0)
def Ev.TILE_LINK_EVENT_LINK_RETX (i : Nat) : Nat × Nat := (Reg.TILE_LINK_EVENT i, 1)
def Ev.TILE_LINK_EVENT_LINK_DLL_BYPASS (i : Nat) : Nat × Nat := (Reg.TILE_LINK_EVENT i, 2)
def Ev.TILE_LINK_EVENT_HEAD_FAULT (i : Nat) : Nat × Nat := (Reg.TILE_LINK_EVENT i, 3)
def Ev.TILE_LINK_EVENT_BUCKET_UNDERRUN (i : Nat) : Nat × Nat := (Reg.TILE_LINK_EVENT i, 4)
def Ev.TILE_LINK_EVENT_REFUSED (i : Nat) : Nat × Nat := (Reg.TILE_LINK_EVENT i, 5)
def Ev.TILE_LINK_EVENT_TRAIN_SLOW (i : Nat) : Nat × Nat := (Reg.TILE_LINK_EVENT i, 6)
def Ev.TILE_LINK_EVENT_HEAD_HOT (i : Nat) : Nat × Nat := (Reg.TILE_LINK_EVENT i, 7)
def Reg.TILE_HEAD_ID (i : Nat) (j : Nat) : Nat := 0x200020 + i * 0x4000 + j * 0x4
def Fld.TILE_HEAD_ID_VALUE (i : Nat) (j : Nat) : BitField := ⟨Reg.TILE_HEAD_ID i j, 31, 0⟩
def Reg.TILE_HEAD_STATE (i : Nat) : Nat := 0x200030 + i * 0x4000
def Fld.TILE_HEAD_STATE_FAULT (i : Nat) : BitField := ⟨Reg.TILE_HEAD_STATE i, 5, 0⟩
def Fld.TILE_HEAD_STATE_KILLED (i : Nat) : BitField := ⟨Reg.TILE_HEAD_STATE i, 8, 8⟩
def Fld.TILE_HEAD_STATE_LEN_HIGH (i : Nat) : BitField := ⟨Reg.TILE_HEAD_STATE i, 9, 9⟩
def Fld.TILE_HEAD_STATE_BANK_VALID (i : Nat) : BitField := ⟨Reg.TILE_HEAD_STATE i, 13, 10⟩
def Reg.TILE_HEAD_TEMP (i : Nat) (j : Nat) : Nat := 0x200040 + i * 0x4000 + j * 0x4
def Fld.TILE_HEAD_TEMP_TEMP_LO (i : Nat) (j : Nat) : BitField := ⟨Reg.TILE_HEAD_TEMP i j, 15, 0⟩
def Fld.TILE_HEAD_TEMP_TEMP_HI (i : Nat) (j : Nat) : BitField := ⟨Reg.TILE_HEAD_TEMP i j, 31, 16⟩
def Reg.TILE_TEMP_WARN (i : Nat) : Nat := 0x200048 + i * 0x4000
def Fld.TILE_TEMP_WARN_LIMIT (i : Nat) : BitField := ⟨Reg.TILE_TEMP_WARN i, 15, 0⟩
def Reg.TILE_BIAS (i : Nat) (j : Nat) : Nat := 0x200080 + i * 0x4000 + j * 0x4
def Fld.TILE_BIAS_VALUE (i : Nat) (j : Nat) : BitField := ⟨Reg.TILE_BIAS i j, 11, 0⟩
def Reg.TILE_MPD (i : Nat) (j : Nat) : Nat := 0x2000c0 + i * 0x4000 + j * 0x4
def Fld.TILE_MPD_VALUE (i : Nat) (j : Nat) : BitField := ⟨Reg.TILE_MPD i j, 11, 0⟩
def Reg.TILE_POS_OFFSET (i : Nat) : Nat := 0x200800 + i * 0x4000
def Fld.TILE_POS_OFFSET_X_OFFSET (i : Nat) : BitField := ⟨Reg.TILE_POS_OFFSET i, 15, 0⟩
def Fld.TILE_POS_OFFSET_Y_OFFSET (i : Nat) : BitField := ⟨Reg.TILE_POS_OFFSET i, 31, 16⟩
def Reg.TILE_SCHED_STATUS (i : Nat) : Nat := 0x200804 + i * 0x4000
def Fld.TILE_SCHED_STATUS_STATE (i : Nat) : BitField := ⟨Reg.TILE_SCHED_STATUS i, 1, 0⟩
def Fld.TILE_SCHED_STATUS_DIR (i : Nat) : BitField := ⟨Reg.TILE_SCHED_STATUS i, 2, 2⟩
def Fld.TILE_SCHED_STATUS_BANK (i : Nat) : BitField := ⟨Reg.TILE_SCHED_STATUS i, 3, 3⟩
def Fld.TILE_SCHED_STATUS_WIN_BASE (i : Nat) : BitField := ⟨Reg.TILE_SCHED_STATUS i, 7, 4⟩
def Fld.TILE_SCHED_STATUS_WIN_LINES (i : Nat) : BitField := ⟨Reg.TILE_SCHED_STATUS i, 11, 8⟩
def Fld.TILE_SCHED_STATUS_LPS (i : Nat) : BitField := ⟨Reg.TILE_SCHED_STATUS i, 31, 16⟩
def Reg.TILE_SWEEP_NUM (i : Nat) : Nat := 0x200808 + i * 0x4000
def Fld.TILE_SWEEP_NUM_SWEEP (i : Nat) : BitField := ⟨Reg.TILE_SWEEP_NUM i, 31, 0⟩
def Reg.TILE_HALF_PERIOD (i : Nat) : Nat := 0x20080c + i * 0x4000
def Fld.TILE_HALF_PERIOD_T_H (i : Nat) : BitField := ⟨Reg.TILE_HALF_PERIOD i, 23, 0⟩
def Reg.TILE_SPAN_MEAS (i : Nat) (j : Nat) : Nat := 0x200810 + i * 0x4000 + j * 0x4
def Fld.TILE_SPAN_MEAS_SPAN (i : Nat) (j : Nat) : BitField := ⟨Reg.TILE_SPAN_MEAS i j, 23, 0⟩
def Reg.TILE_PRED_ERR (i : Nat) : Nat := 0x200818 + i * 0x4000
def Fld.TILE_PRED_ERR_LAST (i : Nat) : BitField := ⟨Reg.TILE_PRED_ERR i, 15, 0⟩
def Fld.TILE_PRED_ERR_PEAK (i : Nat) : BitField := ⟨Reg.TILE_PRED_ERR i, 31, 16⟩
def Reg.TILE_LIMIT (i : Nat) : Nat := 0x20081c + i * 0x4000
def Fld.TILE_LIMIT_RUNS (i : Nat) : BitField := ⟨Reg.TILE_LIMIT i, 15, 0⟩
def Fld.TILE_LIMIT_WORST (i : Nat) : BitField := ⟨Reg.TILE_LIMIT i, 31, 16⟩
def Reg.TILE_PLACE_EVENT (i : Nat) : Nat := 0x200820 + i * 0x4000
def Ev.TILE_PLACE_EVENT_PLACEMENT_LIMIT (i : Nat) : Nat × Nat := (Reg.TILE_PLACE_EVENT i, 0)
def Ev.TILE_PLACE_EVENT_TRIM_LATE (i : Nat) : Nat × Nat := (Reg.TILE_PLACE_EVENT i, 1)
def Ev.TILE_PLACE_EVENT_WINDOW_FULL (i : Nat) : Nat × Nat := (Reg.TILE_PLACE_EVENT i, 2)
def Ev.TILE_PLACE_EVENT_TABLE_BAD (i : Nat) : Nat × Nat := (Reg.TILE_PLACE_EVENT i, 3)
def Ev.TILE_PLACE_EVENT_BD_MISS (i : Nat) : Nat × Nat := (Reg.TILE_PLACE_EVENT i, 4)
def Ev.TILE_PLACE_EVENT_MIRROR_WARN (i : Nat) : Nat × Nat := (Reg.TILE_PLACE_EVENT i, 5)
def Ev.TILE_PLACE_EVENT_MIRROR_FAULT (i : Nat) : Nat × Nat := (Reg.TILE_PLACE_EVENT i, 6)
def Ev.TILE_PLACE_EVENT_TXN_FROZEN (i : Nat) : Nat × Nat := (Reg.TILE_PLACE_EVENT i, 7)
def Reg.DRIVE_CFG (i : Nat) : Nat := 0x300000 + i * 0x1000
def Fld.DRIVE_CFG_SRC (i : Nat) : BitField := ⟨Reg.DRIVE_CFG i, 1, 0⟩
def Fld.DRIVE_CFG_PAGE_CRIT (i : Nat) : BitField := ⟨Reg.DRIVE_CFG i, 2, 2⟩
def Fld.DRIVE_CFG_DIR_INV (i : Nat) : BitField := ⟨Reg.DRIVE_CFG i, 3, 3⟩
def Fld.DRIVE_CFG_POLE_PAIRS (i : Nat) : BitField := ⟨Reg.DRIVE_CFG i, 7, 4⟩
def Fld.DRIVE_CFG_ENC_CH (i : Nat) : BitField := ⟨Reg.DRIVE_CFG i, 11, 8⟩
def Fld.DRIVE_CFG_HALL_CH (i : Nat) : BitField := ⟨Reg.DRIVE_CFG i, 15, 12⟩
def Fld.DRIVE_CFG_STOP_MODE (i : Nat) : BitField := ⟨Reg.DRIVE_CFG i, 17, 16⟩
def Fld.DRIVE_CFG_VBUS_CH (i : Nat) : BitField := ⟨Reg.DRIVE_CFG i, 23, 20⟩
def Reg.DRIVE_PWM (i : Nat) : Nat := 0x300004 + i * 0x1000
def Fld.DRIVE_PWM_PERIOD (i : Nat) : BitField := ⟨Reg.DRIVE_PWM i, 15, 0⟩
def Fld.DRIVE_PWM_LOOP_DIV (i : Nat) : BitField := ⟨Reg.DRIVE_PWM i, 19, 16⟩
def Reg.DRIVE_PWM_TIMING (i : Nat) : Nat := 0x300008 + i * 0x1000
def Fld.DRIVE_PWM_TIMING_DT (i : Nat) : BitField := ⟨Reg.DRIVE_PWM_TIMING i, 7, 0⟩
def Fld.DRIVE_PWM_TIMING_SETTLE (i : Nat) : BitField := ⟨Reg.DRIVE_PWM_TIMING i, 16, 8⟩
def Fld.DRIVE_PWM_TIMING_MIN_PULSE (i : Nat) : BitField := ⟨Reg.DRIVE_PWM_TIMING i, 23, 17⟩
def Reg.DRIVE_PWM_PHASE (i : Nat) : Nat := 0x30000c + i * 0x1000
def Fld.DRIVE_PWM_PHASE_OFFSET (i : Nat) : BitField := ⟨Reg.DRIVE_PWM_PHASE i, 15, 0⟩
def Reg.DRIVE_ISCALE (i : Nat) : Nat := 0x300010 + i * 0x1000
def Fld.DRIVE_ISCALE_LSB (i : Nat) : BitField := ⟨Reg.DRIVE_ISCALE i, 15, 0⟩
def Reg.DRIVE_ILIM (i : Nat) : Nat := 0x300014 + i * 0x1000
def Fld.DRIVE_ILIM_I_TRIP (i : Nat) : BitField := ⟨Reg.DRIVE_ILIM i, 11, 0⟩
def Fld.DRIVE_ILIM_BRAKE_ILIM (i : Nat) : BitField := ⟨Reg.DRIVE_ILIM i, 27, 16⟩
def Reg.DRIVE_LOCK (i : Nat) : Nat := 0x300018 + i * 0x1000
def Fld.DRIVE_LOCK_LOCK (i : Nat) : BitField := ⟨Reg.DRIVE_LOCK i, 0, 0⟩
def Reg.DRIVE_LIMITS (i : Nat) : Nat := 0x30001c + i * 0x1000
def Fld.DRIVE_LIMITS_I_MAX (i : Nat) : BitField := ⟨Reg.DRIVE_LIMITS i, 11, 0⟩
def Fld.DRIVE_LIMITS_LR_MIN_I (i : Nat) : BitField := ⟨Reg.DRIVE_LIMITS i, 23, 12⟩
def Fld.DRIVE_LIMITS_LR_TIMEOUT (i : Nat) : BitField := ⟨Reg.DRIVE_LIMITS i, 31, 24⟩
def Reg.DRIVE_CATCH (i : Nat) : Nat := 0x300020 + i * 0x1000
def Fld.DRIVE_CATCH_CATCH_SPEED (i : Nat) : BitField := ⟨Reg.DRIVE_CATCH i, 15, 0⟩
def Fld.DRIVE_CATCH_CATCH_TIMEOUT (i : Nat) : BitField := ⟨Reg.DRIVE_CATCH i, 23, 16⟩
def Fld.DRIVE_CATCH_CATCH_PULSE (i : Nat) : BitField := ⟨Reg.DRIVE_CATCH i, 29, 24⟩
def Reg.DRIVE_START (i : Nat) : Nat := 0x300024 + i * 0x1000
def Fld.DRIVE_START_I_START (i : Nat) : BitField := ⟨Reg.DRIVE_START i, 11, 0⟩
def Fld.DRIVE_START_START_ACC (i : Nat) : BitField := ⟨Reg.DRIVE_START i, 31, 16⟩
def Reg.DRIVE_HALL (i : Nat) : Nat := 0x300028 + i * 0x1000
def Fld.DRIVE_HALL_HALL_OFFSET (i : Nat) : BitField := ⟨Reg.DRIVE_HALL i, 15, 0⟩
def Reg.DRIVE_ALIGN (i : Nat) : Nat := 0x30002c + i * 0x1000
def Fld.DRIVE_ALIGN_ALIGN (i : Nat) : BitField := ⟨Reg.DRIVE_ALIGN i, 15, 0⟩
def Reg.DRIVE_RAMP (i : Nat) : Nat := 0x300030 + i * 0x1000
def Fld.DRIVE_RAMP_ACCEL (i : Nat) : BitField := ⟨Reg.DRIVE_RAMP i, 15, 0⟩
def Fld.DRIVE_RAMP_DECEL (i : Nat) : BitField := ⟨Reg.DRIVE_RAMP i, 31, 16⟩
def Reg.DRIVE_OBS_MODEL (i : Nat) : Nat := 0x300034 + i * 0x1000
def Fld.DRIVE_OBS_MODEL_PHASE_RES (i : Nat) : BitField := ⟨Reg.DRIVE_OBS_MODEL i, 15, 0⟩
def Fld.DRIVE_OBS_MODEL_PHASE_IND (i : Nat) : BitField := ⟨Reg.DRIVE_OBS_MODEL i, 31, 16⟩
def Reg.DRIVE_OBS_FLUX (i : Nat) : Nat := 0x300038 + i * 0x1000
def Fld.DRIVE_OBS_FLUX_FLUX (i : Nat) : BitField := ⟨Reg.DRIVE_OBS_FLUX i, 23, 0⟩
def Reg.DRIVE_OBS_CTL (i : Nat) : Nat := 0x30003c + i * 0x1000
def Fld.DRIVE_OBS_CTL_OBS_THRESH (i : Nat) : BitField := ⟨Reg.DRIVE_OBS_CTL i, 7, 0⟩
def Fld.DRIVE_OBS_CTL_OBS_MIN_SPEED (i : Nat) : BitField := ⟨Reg.DRIVE_OBS_CTL i, 31, 16⟩
def Reg.DRIVE_STATUS (i : Nat) : Nat := 0x300040 + i * 0x1000
def Fld.DRIVE_STATUS_STATE (i : Nat) : BitField := ⟨Reg.DRIVE_STATUS i, 2, 0⟩
def Fld.DRIVE_STATUS_SRC_USED (i : Nat) : BitField := ⟨Reg.DRIVE_STATUS i, 5, 4⟩
def Fld.DRIVE_STATUS_ENC_REF (i : Nat) : BitField := ⟨Reg.DRIVE_STATUS i, 6, 6⟩
def Fld.DRIVE_STATUS_DEPTH_LIM (i : Nat) : BitField := ⟨Reg.DRIVE_STATUS i, 7, 7⟩
def Fld.DRIVE_STATUS_SECTOR (i : Nat) : BitField := ⟨Reg.DRIVE_STATUS i, 10, 8⟩
def Fld.DRIVE_STATUS_CONF (i : Nat) : BitField := ⟨Reg.DRIVE_STATUS i, 23, 16⟩
def Reg.DRIVE_ANGLE (i : Nat) : Nat := 0x300044 + i * 0x1000
def Fld.DRIVE_ANGLE_ANGLE (i : Nat) : BitField := ⟨Reg.DRIVE_ANGLE i, 15, 0⟩
def Fld.DRIVE_ANGLE_SPEED (i : Nat) : BitField := ⟨Reg.DRIVE_ANGLE i, 31, 16⟩
def Reg.DRIVE_I_UV (i : Nat) : Nat := 0x300048 + i * 0x1000
def Fld.DRIVE_I_UV_I_U (i : Nat) : BitField := ⟨Reg.DRIVE_I_UV i, 15, 0⟩
def Fld.DRIVE_I_UV_I_V (i : Nat) : BitField := ⟨Reg.DRIVE_I_UV i, 31, 16⟩
def Reg.DRIVE_I_W (i : Nat) : Nat := 0x30004c + i * 0x1000
def Fld.DRIVE_I_W_I_W (i : Nat) : BitField := ⟨Reg.DRIVE_I_W i, 15, 0⟩
def Fld.DRIVE_I_W_RECON (i : Nat) : BitField := ⟨Reg.DRIVE_I_W i, 17, 16⟩
def Reg.DRIVE_I_OFFSET_UV (i : Nat) : Nat := 0x300050 + i * 0x1000
def Fld.DRIVE_I_OFFSET_UV_OFF_U (i : Nat) : BitField := ⟨Reg.DRIVE_I_OFFSET_UV i, 11, 0⟩
def Fld.DRIVE_I_OFFSET_UV_OFF_V (i : Nat) : BitField := ⟨Reg.DRIVE_I_OFFSET_UV i, 23, 12⟩
def Reg.DRIVE_I_OFFSET_W (i : Nat) : Nat := 0x300054 + i * 0x1000
def Fld.DRIVE_I_OFFSET_W_OFF_W (i : Nat) : BitField := ⟨Reg.DRIVE_I_OFFSET_W i, 11, 0⟩
def Reg.DRIVE_EVENT (i : Nat) : Nat := 0x300060 + i * 0x1000
def Ev.DRIVE_EVENT_DEPTH_LIMIT (i : Nat) : Nat × Nat := (Reg.DRIVE_EVENT i, 0)
def Ev.DRIVE_EVENT_SHUNT_SUM (i : Nat) : Nat × Nat := (Reg.DRIVE_EVENT i, 1)
def Ev.DRIVE_EVENT_OVERCURRENT (i : Nat) : Nat × Nat := (Reg.DRIVE_EVENT i, 2)
def Ev.DRIVE_EVENT_GATE_FAULT (i : Nat) : Nat × Nat := (Reg.DRIVE_EVENT i, 3)
def Ev.DRIVE_EVENT_LOCKED_ROTOR (i : Nat) : Nat × Nat := (Reg.DRIVE_EVENT i, 4)
def Ev.DRIVE_EVENT_OBSERVER_LOST (i : Nat) : Nat × Nat := (Reg.DRIVE_EVENT i, 5)
def Ev.DRIVE_EVENT_OBSERVER_FAIL (i : Nat) : Nat × Nat := (Reg.DRIVE_EVENT i, 6)
def Ev.DRIVE_EVENT_CATCH_FAIL (i : Nat) : Nat × Nat := (Reg.DRIVE_EVENT i, 7)
def Ev.DRIVE_EVENT_HALL_LOST (i : Nat) : Nat × Nat := (Reg.DRIVE_EVENT i, 8)
def Ev.DRIVE_EVENT_ENC_LOST (i : Nat) : Nat × Nat := (Reg.DRIVE_EVENT i, 9)
def Ev.DRIVE_EVENT_OFFSET (i : Nat) : Nat × Nat := (Reg.DRIVE_EVENT i, 10)
def Ev.DRIVE_EVENT_LATE_UPDATE (i : Nat) : Nat × Nat := (Reg.DRIVE_EVENT i, 11)
def Ev.DRIVE_EVENT_CFG_ERR (i : Nat) : Nat × Nat := (Reg.DRIVE_EVENT i, 12)
def Ev.DRIVE_EVENT_MIN_PULSE (i : Nat) : Nat × Nat := (Reg.DRIVE_EVENT i, 13)
def Reg.DRIVE_FAULT_INFO (i : Nat) : Nat := 0x300064 + i * 0x1000
def Fld.DRIVE_FAULT_INFO_CAUSE (i : Nat) : BitField := ⟨Reg.DRIVE_FAULT_INFO i, 3, 0⟩
def Fld.DRIVE_FAULT_INFO_STATE_BEFORE (i : Nat) : BitField := ⟨Reg.DRIVE_FAULT_INFO i, 6, 4⟩
def Fld.DRIVE_FAULT_INFO_FAULTS (i : Nat) : BitField := ⟨Reg.DRIVE_FAULT_INFO i, 31, 16⟩
def Reg.DRIVE_COUNT (i : Nat) : Nat := 0x300068 + i * 0x1000
def Fld.DRIVE_COUNT_DEPTH (i : Nat) : BitField := ⟨Reg.DRIVE_COUNT i, 15, 0⟩
def Fld.DRIVE_COUNT_SUM (i : Nat) : BitField := ⟨Reg.DRIVE_COUNT i, 31, 16⟩
def Reg.FEEDBACK_ENC_CFG (i : Nat) : Nat := 0x310000 + i * 0x40
def Fld.FEEDBACK_ENC_CFG_EN (i : Nat) : BitField := ⟨Reg.FEEDBACK_ENC_CFG i, 0, 0⟩
def Fld.FEEDBACK_ENC_CFG_HYST_EN (i : Nat) : BitField := ⟨Reg.FEEDBACK_ENC_CFG i, 1, 1⟩
def Fld.FEEDBACK_ENC_CFG_DIR_INV (i : Nat) : BitField := ⟨Reg.FEEDBACK_ENC_CFG i, 2, 2⟩
def Fld.FEEDBACK_ENC_CFG_IDX_EN (i : Nat) : BitField := ⟨Reg.FEEDBACK_ENC_CFG i, 3, 3⟩
def Fld.FEEDBACK_ENC_CFG_REREF_EN (i : Nat) : BitField := ⟨Reg.FEEDBACK_ENC_CFG i, 4, 4⟩
def Fld.FEEDBACK_ENC_CFG_SPD_FILT (i : Nat) : BitField := ⟨Reg.FEEDBACK_ENC_CFG i, 7, 5⟩
def Fld.FEEDBACK_ENC_CFG_FILT (i : Nat) : BitField := ⟨Reg.FEEDBACK_ENC_CFG i, 11, 8⟩
def Fld.FEEDBACK_ENC_CFG_PERIOD_N (i : Nat) : BitField := ⟨Reg.FEEDBACK_ENC_CFG i, 13, 12⟩
def Reg.FEEDBACK_ENC_CPR (i : Nat) : Nat := 0x310004 + i * 0x40
def Fld.FEEDBACK_ENC_CPR_CPR (i : Nat) : BitField := ⟨Reg.FEEDBACK_ENC_CPR i, 24, 0⟩
def Reg.FEEDBACK_ENC_SPD_CFG (i : Nat) : Nat := 0x310008 + i * 0x40
def Fld.FEEDBACK_ENC_SPD_CFG_CHG_RATE (i : Nat) : BitField := ⟨Reg.FEEDBACK_ENC_SPD_CFG i, 15, 0⟩
def Fld.FEEDBACK_ENC_SPD_CFG_WIN (i : Nat) : BitField := ⟨Reg.FEEDBACK_ENC_SPD_CFG i, 25, 16⟩
def Fld.FEEDBACK_ENC_SPD_CFG_ZERO_TIME (i : Nat) : BitField := ⟨Reg.FEEDBACK_ENC_SPD_CFG i, 31, 26⟩
def Reg.FEEDBACK_ENC_SLIP (i : Nat) : Nat := 0x31000c + i * 0x40
def Fld.FEEDBACK_ENC_SLIP_SLIP_SPEED (i : Nat) : BitField := ⟨Reg.FEEDBACK_ENC_SLIP i, 15, 0⟩
def Reg.FEEDBACK_ENC_COUNT (i : Nat) : Nat := 0x310010 + i * 0x40
def Fld.FEEDBACK_ENC_COUNT_VALUE (i : Nat) : BitField := ⟨Reg.FEEDBACK_ENC_COUNT i, 31, 0⟩
def Reg.FEEDBACK_ENC_POS (i : Nat) : Nat := 0x310014 + i * 0x40
def Fld.FEEDBACK_ENC_POS_VALUE (i : Nat) : BitField := ⟨Reg.FEEDBACK_ENC_POS i, 31, 0⟩
def Reg.FEEDBACK_ENC_REF_PHASE (i : Nat) : Nat := 0x310018 + i * 0x40
def Fld.FEEDBACK_ENC_REF_PHASE_VALUE (i : Nat) : BitField := ⟨Reg.FEEDBACK_ENC_REF_PHASE i, 31, 0⟩
def Reg.FEEDBACK_ENC_STATUS (i : Nat) : Nat := 0x31001c + i * 0x40
def Fld.FEEDBACK_ENC_STATUS_FRAC (i : Nat) : BitField := ⟨Reg.FEEDBACK_ENC_STATUS i, 15, 0⟩
def Fld.FEEDBACK_ENC_STATUS_DIR (i : Nat) : BitField := ⟨Reg.FEEDBACK_ENC_STATUS i, 16, 16⟩
def Fld.FEEDBACK_ENC_STATUS_STANDSTILL (i : Nat) : BitField := ⟨Reg.FEEDBACK_ENC_STATUS i, 17, 17⟩
def Fld.FEEDBACK_ENC_STATUS_METHOD (i : Nat) : BitField := ⟨Reg.FEEDBACK_ENC_STATUS i, 18, 18⟩
def Fld.FEEDBACK_ENC_STATUS_REF (i : Nat) : BitField := ⟨Reg.FEEDBACK_ENC_STATUS i, 19, 19⟩
def Fld.FEEDBACK_ENC_STATUS_FAULT (i : Nat) : BitField := ⟨Reg.FEEDBACK_ENC_STATUS i, 20, 20⟩
def Reg.FEEDBACK_ENC_SPEED (i : Nat) : Nat := 0x310020 + i * 0x40
def Fld.FEEDBACK_ENC_SPEED_SPEED (i : Nat) : BitField := ⟨Reg.FEEDBACK_ENC_SPEED i, 31, 0⟩
def Reg.FEEDBACK_ENC_INDEX (i : Nat) : Nat := 0x310024 + i * 0x40
def Fld.FEEDBACK_ENC_INDEX_DEV (i : Nat) : BitField := ⟨Reg.FEEDBACK_ENC_INDEX i, 15, 0⟩
def Fld.FEEDBACK_ENC_INDEX_MISMATCH (i : Nat) : BitField := ⟨Reg.FEEDBACK_ENC_INDEX i, 17, 16⟩
def Reg.FEEDBACK_ENC_ERR (i : Nat) : Nat := 0x310028 + i * 0x40
def Fld.FEEDBACK_ENC_ERR_QUAD (i : Nat) : BitField := ⟨Reg.FEEDBACK_ENC_ERR i, 15, 0⟩
def Fld.FEEDBACK_ENC_ERR_SLIP (i : Nat) : BitField := ⟨Reg.FEEDBACK_ENC_ERR i, 31, 16⟩
def Reg.FEEDBACK_HALL_CFG (i : Nat) : Nat := 0x310400 + i * 0x10
def Fld.FEEDBACK_HALL_CFG_EN (i : Nat) : BitField := ⟨Reg.FEEDBACK_HALL_CFG i, 0, 0⟩
def Fld.FEEDBACK_HALL_CFG_FILT (i : Nat) : BitField := ⟨Reg.FEEDBACK_HALL_CFG i, 7, 4⟩
def Fld.FEEDBACK_HALL_CFG_ZERO_TIME (i : Nat) : BitField := ⟨Reg.FEEDBACK_HALL_CFG i, 13, 8⟩
def Reg.FEEDBACK_HALL_STATE (i : Nat) : Nat := 0x310404 + i * 0x10
def Fld.FEEDBACK_HALL_STATE_STATE (i : Nat) : BitField := ⟨Reg.FEEDBACK_HALL_STATE i, 2, 0⟩
def Fld.FEEDBACK_HALL_STATE_SEQ_ERR (i : Nat) : BitField := ⟨Reg.FEEDBACK_HALL_STATE i, 15, 3⟩
def Fld.FEEDBACK_HALL_STATE_INVALID (i : Nat) : BitField := ⟨Reg.FEEDBACK_HALL_STATE i, 31, 16⟩
def Reg.FEEDBACK_HALL_SPEED (i : Nat) : Nat := 0x310408 + i * 0x10
def Fld.FEEDBACK_HALL_SPEED_SPEED (i : Nat) : BitField := ⟨Reg.FEEDBACK_HALL_SPEED i, 31, 0⟩
def Reg.FEEDBACK_BISS_CFG (i : Nat) : Nat := 0x310600 + i * 0x40
def Fld.FEEDBACK_BISS_CFG_EN (i : Nat) : BitField := ⟨Reg.FEEDBACK_BISS_CFG i, 0, 0⟩
def Fld.FEEDBACK_BISS_CFG_MODE (i : Nat) : BitField := ⟨Reg.FEEDBACK_BISS_CFG i, 2, 1⟩
def Fld.FEEDBACK_BISS_CFG_CLK_DIV (i : Nat) : BitField := ⟨Reg.FEEDBACK_BISS_CFG i, 15, 8⟩
def Fld.FEEDBACK_BISS_CFG_DATA_BITS (i : Nat) : BitField := ⟨Reg.FEEDBACK_BISS_CFG i, 21, 16⟩
def Fld.FEEDBACK_BISS_CFG_ERR_BITS (i : Nat) : BitField := ⟨Reg.FEEDBACK_BISS_CFG i, 23, 22⟩
def Fld.FEEDBACK_BISS_CFG_ST_BITS (i : Nat) : BitField := ⟨Reg.FEEDBACK_BISS_CFG i, 29, 24⟩
def Reg.FEEDBACK_BISS_CRC (i : Nat) : Nat := 0x310604 + i * 0x40
def Fld.FEEDBACK_BISS_CRC_POLY (i : Nat) : BitField := ⟨Reg.FEEDBACK_BISS_CRC i, 15, 0⟩
def Fld.FEEDBACK_BISS_CRC_CRC_LEN (i : Nat) : BitField := ⟨Reg.FEEDBACK_BISS_CRC i, 20, 16⟩
def Reg.FEEDBACK_BISS_RATE (i : Nat) : Nat := 0x310608 + i * 0x40
def Fld.FEEDBACK_BISS_RATE_PERIOD (i : Nat) : BitField := ⟨Reg.FEEDBACK_BISS_RATE i, 15, 0⟩
def Fld.FEEDBACK_BISS_RATE_TIMEOUT (i : Nat) : BitField := ⟨Reg.FEEDBACK_BISS_RATE i, 23, 16⟩
def Reg.FEEDBACK_BISS_POS_LO (i : Nat) : Nat := 0x310610 + i * 0x40
def Fld.FEEDBACK_BISS_POS_LO_VALUE (i : Nat) : BitField := ⟨Reg.FEEDBACK_BISS_POS_LO i, 31, 0⟩
def Reg.FEEDBACK_BISS_POS_HI (i : Nat) : Nat := 0x310614 + i * 0x40
def Fld.FEEDBACK_BISS_POS_HI_VALUE (i : Nat) : BitField := ⟨Reg.FEEDBACK_BISS_POS_HI i, 7, 0⟩
def Reg.FEEDBACK_BISS_STATUS (i : Nat) : Nat := 0x310618 + i * 0x40
def Fld.FEEDBACK_BISS_STATUS_DELAY (i : Nat) : BitField := ⟨Reg.FEEDBACK_BISS_STATUS i, 8, 0⟩
def Fld.FEEDBACK_BISS_STATUS_BAD_RUN (i : Nat) : BitField := ⟨Reg.FEEDBACK_BISS_STATUS i, 10, 9⟩
def Fld.FEEDBACK_BISS_STATUS_LAST_ERR (i : Nat) : BitField := ⟨Reg.FEEDBACK_BISS_STATUS i, 12, 11⟩
def Fld.FEEDBACK_BISS_STATUS_REF (i : Nat) : BitField := ⟨Reg.FEEDBACK_BISS_STATUS i, 13, 13⟩
def Fld.FEEDBACK_BISS_STATUS_FAULT (i : Nat) : BitField := ⟨Reg.FEEDBACK_BISS_STATUS i, 14, 14⟩
def Fld.FEEDBACK_BISS_STATUS_WARN (i : Nat) : BitField := ⟨Reg.FEEDBACK_BISS_STATUS i, 31, 16⟩
def Reg.FEEDBACK_BISS_SPEED (i : Nat) : Nat := 0x31061c + i * 0x40
def Fld.FEEDBACK_BISS_SPEED_SPEED (i : Nat) : BitField := ⟨Reg.FEEDBACK_BISS_SPEED i, 31, 0⟩
def Reg.FEEDBACK_BELT_CFG : Nat := 0x310800
def Fld.FEEDBACK_BELT_CFG_CH : BitField := ⟨Reg.FEEDBACK_BELT_CFG, 3, 0⟩
def Fld.FEEDBACK_BELT_CFG_INV : BitField := ⟨Reg.FEEDBACK_BELT_CFG, 4, 4⟩
def Reg.FEEDBACK_BELT_SCALE : Nat := 0x310804
def Fld.FEEDBACK_BELT_SCALE_SCALE : BitField := ⟨Reg.FEEDBACK_BELT_SCALE, 31, 0⟩
def Reg.FEEDBACK_BELT_POS_LO : Nat := 0x310808
def Fld.FEEDBACK_BELT_POS_LO_VALUE : BitField := ⟨Reg.FEEDBACK_BELT_POS_LO, 31, 0⟩
def Reg.FEEDBACK_BELT_POS_HI : Nat := 0x31080c
def Fld.FEEDBACK_BELT_POS_HI_VALUE : BitField := ⟨Reg.FEEDBACK_BELT_POS_HI, 15, 0⟩
def Reg.FEEDBACK_DRUM_CH (i : Nat) : Nat := 0x310820 + i * 0x4
def Fld.FEEDBACK_DRUM_CH_CH (i : Nat) : BitField := ⟨Reg.FEEDBACK_DRUM_CH i, 3, 0⟩
def Reg.FEEDBACK_EVENT : Nat := 0x310900
def Ev.FEEDBACK_EVENT_INDEX_MISMATCH : Nat × Nat := (Reg.FEEDBACK_EVENT, 0)
def Ev.FEEDBACK_EVENT_ENCODER_FAULT : Nat × Nat := (Reg.FEEDBACK_EVENT, 1)
def Ev.FEEDBACK_EVENT_COUNT_SLIP : Nat × Nat := (Reg.FEEDBACK_EVENT, 2)
def Ev.FEEDBACK_EVENT_DIR_FLAG : Nat × Nat := (Reg.FEEDBACK_EVENT, 3)
def Ev.FEEDBACK_EVENT_QUAD_ERR : Nat × Nat := (Reg.FEEDBACK_EVENT, 4)
def Ev.FEEDBACK_EVENT_HALL_INVALID : Nat × Nat := (Reg.FEEDBACK_EVENT, 5)
def Ev.FEEDBACK_EVENT_HALL_SEQ : Nat × Nat := (Reg.FEEDBACK_EVENT, 6)
def Ev.FEEDBACK_EVENT_BISS_ERR : Nat × Nat := (Reg.FEEDBACK_EVENT, 7)
def Ev.FEEDBACK_EVENT_CFG_ERR : Nat × Nat := (Reg.FEEDBACK_EVENT, 8)
def Reg.MULE_CFG (i : Nat) : Nat := 0x320000 + i * 0x800
def Fld.MULE_CFG_EN (i : Nat) : BitField := ⟨Reg.MULE_CFG i, 0, 0⟩
def Fld.MULE_CFG_UNIDIR (i : Nat) : BitField := ⟨Reg.MULE_CFG i, 1, 1⟩
def Fld.MULE_CFG_UNI_DIR (i : Nat) : BitField := ⟨Reg.MULE_CFG i, 2, 2⟩
def Fld.MULE_CFG_DIR_INV (i : Nat) : BitField := ⟨Reg.MULE_CFG i, 3, 3⟩
def Fld.MULE_CFG_ENC_EN (i : Nat) : BitField := ⟨Reg.MULE_CFG i, 4, 4⟩
def Fld.MULE_CFG_ENC_CH (i : Nat) : BitField := ⟨Reg.MULE_CFG i, 8, 5⟩
def Fld.MULE_CFG_HOME_POL (i : Nat) : BitField := ⟨Reg.MULE_CFG i, 9, 9⟩
def Fld.MULE_CFG_LIMN_POL (i : Nat) : BitField := ⟨Reg.MULE_CFG i, 10, 10⟩
def Fld.MULE_CFG_LIMP_POL (i : Nat) : BitField := ⟨Reg.MULE_CFG i, 11, 11⟩
def Reg.MULE_CURRENT (i : Nat) : Nat := 0x320004 + i * 0x800
def Fld.MULE_CURRENT_I_RUN (i : Nat) : BitField := ⟨Reg.MULE_CURRENT i, 8, 0⟩
def Fld.MULE_CURRENT_I_HOLD (i : Nat) : BitField := ⟨Reg.MULE_CURRENT i, 17, 9⟩
def Fld.MULE_CURRENT_HOLD_DELAY (i : Nat) : BitField := ⟨Reg.MULE_CURRENT i, 25, 18⟩
def Reg.MULE_PHASE (i : Nat) : Nat := 0x320008 + i * 0x800
def Fld.MULE_PHASE_PHASE_OFFSET (i : Nat) : BitField := ⟨Reg.MULE_PHASE i, 9, 0⟩
def Reg.MULE_VMAX (i : Nat) : Nat := 0x320010 + i * 0x800
def Fld.MULE_VMAX_VALUE (i : Nat) : BitField := ⟨Reg.MULE_VMAX i, 31, 0⟩
def Reg.MULE_ACC (i : Nat) : Nat := 0x320014 + i * 0x800
def Fld.MULE_ACC_VALUE (i : Nat) : BitField := ⟨Reg.MULE_ACC i, 31, 0⟩
def Reg.MULE_DEC (i : Nat) : Nat := 0x320018 + i * 0x800
def Fld.MULE_DEC_VALUE (i : Nat) : BitField := ⟨Reg.MULE_DEC i, 31, 0⟩
def Reg.MULE_ESTOP_DEC (i : Nat) : Nat := 0x32001c + i * 0x800
def Fld.MULE_ESTOP_DEC_VALUE (i : Nat) : BitField := ⟨Reg.MULE_ESTOP_DEC i, 31, 0⟩
def Reg.MULE_SOFT_MIN (i : Nat) : Nat := 0x320020 + i * 0x800
def Fld.MULE_SOFT_MIN_VALUE (i : Nat) : BitField := ⟨Reg.MULE_SOFT_MIN i, 31, 0⟩
def Reg.MULE_SOFT_MAX (i : Nat) : Nat := 0x320024 + i * 0x800
def Fld.MULE_SOFT_MAX_VALUE (i : Nat) : BitField := ⟨Reg.MULE_SOFT_MAX i, 31, 0⟩
def Reg.MULE_HOME_POS (i : Nat) : Nat := 0x320028 + i * 0x800
def Fld.MULE_HOME_POS_VALUE (i : Nat) : BitField := ⟨Reg.MULE_HOME_POS i, 31, 0⟩
def Reg.MULE_HOME (i : Nat) : Nat := 0x32002c + i * 0x800
def Fld.MULE_HOME_HOME_VEL (i : Nat) : BitField := ⟨Reg.MULE_HOME i, 20, 0⟩
def Fld.MULE_HOME_HOME_SRC (i : Nat) : BitField := ⟨Reg.MULE_HOME i, 22, 21⟩
def Fld.MULE_HOME_HOME_DIR (i : Nat) : BitField := ⟨Reg.MULE_HOME i, 23, 23⟩
def Reg.MULE_HOME_DIST (i : Nat) : Nat := 0x320030 + i * 0x800
def Fld.MULE_HOME_DIST_HOME_DIST (i : Nat) : BitField := ⟨Reg.MULE_HOME_DIST i, 31, 0⟩
def Reg.MULE_STALL (i : Nat) : Nat := 0x320034 + i * 0x800
def Fld.MULE_STALL_STALL_WIN (i : Nat) : BitField := ⟨Reg.MULE_STALL i, 15, 0⟩
def Reg.MULE_ENC_SCALE (i : Nat) : Nat := 0x320038 + i * 0x800
def Fld.MULE_ENC_SCALE_SCALE (i : Nat) : BitField := ⟨Reg.MULE_ENC_SCALE i, 31, 0⟩
def Reg.MULE_POS (i : Nat) : Nat := 0x320040 + i * 0x800
def Fld.MULE_POS_VALUE (i : Nat) : BitField := ⟨Reg.MULE_POS i, 31, 0⟩
def Reg.MULE_TARGET (i : Nat) : Nat := 0x320044 + i * 0x800
def Fld.MULE_TARGET_VALUE (i : Nat) : BitField := ⟨Reg.MULE_TARGET i, 31, 0⟩
def Reg.MULE_SPEED (i : Nat) : Nat := 0x320048 + i * 0x800
def Fld.MULE_SPEED_VALUE (i : Nat) : BitField := ⟨Reg.MULE_SPEED i, 31, 0⟩
def Reg.MULE_LATCH (i : Nat) : Nat := 0x32004c + i * 0x800
def Fld.MULE_LATCH_VALUE (i : Nat) : BitField := ⟨Reg.MULE_LATCH i, 31, 0⟩
def Reg.MULE_DEV (i : Nat) : Nat := 0x320050 + i * 0x800
def Fld.MULE_DEV_VALUE (i : Nat) : BitField := ⟨Reg.MULE_DEV i, 31, 0⟩
def Reg.MULE_STATUS (i : Nat) : Nat := 0x320054 + i * 0x800
def Fld.MULE_STATUS_STATE (i : Nat) : BitField := ⟨Reg.MULE_STATUS i, 2, 0⟩
def Fld.MULE_STATUS_DIR (i : Nat) : BitField := ⟨Reg.MULE_STATUS i, 3, 3⟩
def Fld.MULE_STATUS_HOMED (i : Nat) : BitField := ⟨Reg.MULE_STATUS i, 4, 4⟩
def Fld.MULE_STATUS_IN_GROUP (i : Nat) : BitField := ⟨Reg.MULE_STATUS i, 5, 5⟩
def Fld.MULE_STATUS_HOME_IN (i : Nat) : BitField := ⟨Reg.MULE_STATUS i, 6, 6⟩
def Fld.MULE_STATUS_LIMN_IN (i : Nat) : BitField := ⟨Reg.MULE_STATUS i, 7, 7⟩
def Fld.MULE_STATUS_LIMP_IN (i : Nat) : BitField := ⟨Reg.MULE_STATUS i, 8, 8⟩
def Fld.MULE_STATUS_STALL_OFF (i : Nat) : BitField := ⟨Reg.MULE_STATUS i, 9, 9⟩
def Fld.MULE_STATUS_HOLD_I (i : Nat) : BitField := ⟨Reg.MULE_STATUS i, 10, 10⟩
def Reg.MULE_BUS_STATUS (i : Nat) : Nat := 0x320058 + i * 0x800
def Fld.MULE_BUS_STATUS_WORD (i : Nat) : BitField := ⟨Reg.MULE_BUS_STATUS i, 12, 0⟩
def Fld.MULE_BUS_STATUS_ID_ERR (i : Nat) : BitField := ⟨Reg.MULE_BUS_STATUS i, 23, 16⟩
def Reg.MULE_STALL_COUNT (i : Nat) : Nat := 0x32005c + i * 0x800
def Fld.MULE_STALL_COUNT_STALLS (i : Nat) : BitField := ⟨Reg.MULE_STALL_COUNT i, 15, 0⟩
def Reg.MULE_EVENT (i : Nat) : Nat := 0x320060 + i * 0x800
def Ev.MULE_EVENT_STALL (i : Nat) : Nat × Nat := (Reg.MULE_EVENT i, 0)
def Ev.MULE_EVENT_LIMIT_HIT (i : Nat) : Nat × Nat := (Reg.MULE_EVENT i, 1)
def Ev.MULE_EVENT_HOME_FAIL (i : Nat) : Nat × Nat := (Reg.MULE_EVENT i, 2)
def Ev.MULE_EVENT_PROFILE_DEFERRED (i : Nat) : Nat × Nat := (Reg.MULE_EVENT i, 3)
def Ev.MULE_EVENT_COIL_BUS (i : Nat) : Nat × Nat := (Reg.MULE_EVENT i, 4)
def Ev.MULE_EVENT_STAGE_FAULT (i : Nat) : Nat × Nat := (Reg.MULE_EVENT i, 5)
def Ev.MULE_EVENT_MICROSTEP_BAD (i : Nat) : Nat × Nat := (Reg.MULE_EVENT i, 6)
def Ev.MULE_EVENT_CFG_ERR (i : Nat) : Nat × Nat := (Reg.MULE_EVENT i, 7)
def Reg.WINDLASS_STATUS : Nat := 0x380000
def Fld.WINDLASS_STATUS_LOAD : BitField := ⟨Reg.WINDLASS_STATUS, 7, 0⟩
def Fld.WINDLASS_STATUS_SLOTS_ON : BitField := ⟨Reg.WINDLASS_STATUS, 14, 8⟩
def Reg.WINDLASS_EVENT : Nat := 0x380004
def Ev.WINDLASS_EVENT_FOLLOW_WARN : Nat × Nat := (Reg.WINDLASS_EVENT, 0)
def Ev.WINDLASS_EVENT_FOLLOW_CLAMP : Nat × Nat := (Reg.WINDLASS_EVENT, 1)
def Ev.WINDLASS_EVENT_DANCER_LIMIT : Nat × Nat := (Reg.WINDLASS_EVENT, 2)
def Ev.WINDLASS_EVENT_OVERRUN : Nat × Nat := (Reg.WINDLASS_EVENT, 3)
def Ev.WINDLASS_EVENT_NONFINITE : Nat × Nat := (Reg.WINDLASS_EVENT, 4)
def Ev.WINDLASS_EVENT_HV_ENERGY : Nat × Nat := (Reg.WINDLASS_EVENT, 5)
def Ev.WINDLASS_EVENT_ZC_LOST : Nat × Nat := (Reg.WINDLASS_EVENT, 6)
def Ev.WINDLASS_EVENT_CFG_ERR : Nat × Nat := (Reg.WINDLASS_EVENT, 7)
def Ev.WINDLASS_EVENT_CAP_DONE : Nat × Nat := (Reg.WINDLASS_EVENT, 8)
def Reg.WINDLASS_CFG_ERR_INFO : Nat := 0x380008
def Fld.WINDLASS_CFG_ERR_INFO_SLOT : BitField := ⟨Reg.WINDLASS_CFG_ERR_INFO, 6, 0⟩
def Fld.WINDLASS_CFG_ERR_INFO_CAUSE : BitField := ⟨Reg.WINDLASS_CFG_ERR_INFO, 11, 8⟩
def Reg.WINDLASS_BELT_SLOT : Nat := 0x380010
def Fld.WINDLASS_BELT_SLOT_SLOT : BitField := ⟨Reg.WINDLASS_BELT_SLOT, 6, 0⟩
def Fld.WINDLASS_BELT_SLOT_PRIME_SPEED : BitField := ⟨Reg.WINDLASS_BELT_SLOT, 27, 8⟩
def Reg.WINDLASS_STN_SLOT (i : Nat) : Nat := 0x380020 + i * 0x4
def Fld.WINDLASS_STN_SLOT_SLOT (i : Nat) : BitField := ⟨Reg.WINDLASS_STN_SLOT i, 6, 0⟩
def Fld.WINDLASS_STN_SLOT_EN (i : Nat) : BitField := ⟨Reg.WINDLASS_STN_SLOT i, 7, 7⟩
def Reg.WINDLASS_FOLLOW_CFG : Nat := 0x380040
def Fld.WINDLASS_FOLLOW_CFG_MODE : BitField := ⟨Reg.WINDLASS_FOLLOW_CFG, 1, 0⟩
def Fld.WINDLASS_FOLLOW_CFG_ACH : BitField := ⟨Reg.WINDLASS_FOLLOW_CFG, 8, 4⟩
def Fld.WINDLASS_FOLLOW_CFG_FWIN : BitField := ⟨Reg.WINDLASS_FOLLOW_CFG, 25, 16⟩
def Reg.WINDLASS_FOLLOW_SCALE : Nat := 0x380044
def Fld.WINDLASS_FOLLOW_SCALE_SCALE : BitField := ⟨Reg.WINDLASS_FOLLOW_SCALE, 31, 0⟩
def Reg.WINDLASS_FOLLOW_OFFSET : Nat := 0x380048
def Fld.WINDLASS_FOLLOW_OFFSET_OFFSET : BitField := ⟨Reg.WINDLASS_FOLLOW_OFFSET, 31, 0⟩
def Reg.WINDLASS_FOLLOW_LIMIT : Nat := 0x38004c
def Fld.WINDLASS_FOLLOW_LIMIT_LIMIT : BitField := ⟨Reg.WINDLASS_FOLLOW_LIMIT, 19, 0⟩
def Reg.WINDLASS_FOLLOW_DEMAND : Nat := 0x380050
def Fld.WINDLASS_FOLLOW_DEMAND_DEMAND : BitField := ⟨Reg.WINDLASS_FOLLOW_DEMAND, 19, 0⟩
def Reg.WINDLASS_MIRROR_GAIN (i : Nat) : Nat := 0x380060 + i * 0x4
def Fld.WINDLASS_MIRROR_GAIN_GAIN (i : Nat) : BitField := ⟨Reg.WINDLASS_MIRROR_GAIN i, 31, 0⟩
def Reg.WINDLASS_SADC (i : Nat) : Nat := 0x380100 + i * 0x4
def Fld.WINDLASS_SADC_VALUE (i : Nat) : BitField := ⟨Reg.WINDLASS_SADC i, 31, 0⟩
def Reg.WINDLASS_TH_R25 (i : Nat) : Nat := 0x380180 + i * 0x8
def Fld.WINDLASS_TH_R25_R25 (i : Nat) : BitField := ⟨Reg.WINDLASS_TH_R25 i, 31, 0⟩
def Reg.WINDLASS_TH_BETA (i : Nat) : Nat := 0x380184 + i * 0x8
def Fld.WINDLASS_TH_BETA_BETA (i : Nat) : BitField := ⟨Reg.WINDLASS_TH_BETA i, 15, 0⟩
def Fld.WINDLASS_TH_BETA_RPULL (i : Nat) : BitField := ⟨Reg.WINDLASS_TH_BETA i, 31, 16⟩
def Reg.WINDLASS_RC_CFG (i : Nat) : Nat := 0x380200 + i * 0x10
def Fld.WINDLASS_RC_CFG_SLOT (i : Nat) : BitField := ⟨Reg.WINDLASS_RC_CFG i, 6, 0⟩
def Fld.WINDLASS_RC_CFG_MODE (i : Nat) : BitField := ⟨Reg.WINDLASS_RC_CFG i, 8, 8⟩
def Fld.WINDLASS_RC_CFG_EN (i : Nat) : BitField := ⟨Reg.WINDLASS_RC_CFG i, 9, 9⟩
def Fld.WINDLASS_RC_CFG_LEARN (i : Nat) : BitField := ⟨Reg.WINDLASS_RC_CFG i, 10, 10⟩
def Fld.WINDLASS_RC_CFG_LEARN_RUN (i : Nat) : BitField := ⟨Reg.WINDLASS_RC_CFG i, 11, 11⟩
def Fld.WINDLASS_RC_CFG_STN (i : Nat) : BitField := ⟨Reg.WINDLASS_RC_CFG i, 14, 12⟩
def Fld.WINDLASS_RC_CFG_CH (i : Nat) : BitField := ⟨Reg.WINDLASS_RC_CFG i, 19, 16⟩
def Fld.WINDLASS_RC_CFG_LEAD (i : Nat) : BitField := ⟨Reg.WINDLASS_RC_CFG i, 29, 20⟩
def Reg.WINDLASS_RC_GAIN (i : Nat) : Nat := 0x380204 + i * 0x10
def Fld.WINDLASS_RC_GAIN_GAIN (i : Nat) : BitField := ⟨Reg.WINDLASS_RC_GAIN i, 31, 0⟩
def Reg.WINDLASS_RC_FORGET (i : Nat) : Nat := 0x380208 + i * 0x10
def Fld.WINDLASS_RC_FORGET_FORGET (i : Nat) : BitField := ⟨Reg.WINDLASS_RC_FORGET i, 3, 0⟩
def Reg.WINDLASS_CAP_CTL : Nat := 0x380300
def Fld.WINDLASS_CAP_CTL_SLOT : BitField := ⟨Reg.WINDLASS_CAP_CTL, 6, 0⟩
def Fld.WINDLASS_CAP_CTL_TRIG : BitField := ⟨Reg.WINDLASS_CAP_CTL, 7, 7⟩
def Fld.WINDLASS_CAP_CTL_DECIM : BitField := ⟨Reg.WINDLASS_CAP_CTL, 15, 8⟩
def Fld.WINDLASS_CAP_CTL_LENGTH : BitField := ⟨Reg.WINDLASS_CAP_CTL, 22, 16⟩
def Reg.WINDLASS_CAP_SEL (i : Nat) : Nat := 0x380310 + i * 0x4
def Fld.WINDLASS_CAP_SEL_SLOT (i : Nat) : BitField := ⟨Reg.WINDLASS_CAP_SEL i, 6, 0⟩
def Fld.WINDLASS_CAP_SEL_SIG (i : Nat) : BitField := ⟨Reg.WINDLASS_CAP_SEL i, 10, 8⟩
def Reg.WINDLASS_CAP_STATUS : Nat := 0x380320
def Fld.WINDLASS_CAP_STATUS_STATE : BitField := ⟨Reg.WINDLASS_CAP_STATUS, 1, 0⟩
def Fld.WINDLASS_CAP_STATUS_COUNT : BitField := ⟨Reg.WINDLASS_CAP_STATUS, 18, 2⟩
def Reg.WINDLASS_INJ_STATUS : Nat := 0x380330
def Fld.WINDLASS_INJ_STATUS_SLOT : BitField := ⟨Reg.WINDLASS_INJ_STATUS, 6, 0⟩
def Fld.WINDLASS_INJ_STATUS_POINT : BitField := ⟨Reg.WINDLASS_INJ_STATUS, 9, 8⟩
def Fld.WINDLASS_INJ_STATUS_KIND : BitField := ⟨Reg.WINDLASS_INJ_STATUS, 11, 10⟩
def Fld.WINDLASS_INJ_STATUS_BUSY : BitField := ⟨Reg.WINDLASS_INJ_STATUS, 12, 12⟩
def Reg.WINDLASS_SLOT_CFG (i : Nat) : Nat := 0x390000 + i * 0x40
def Fld.WINDLASS_SLOT_CFG_LAW (i : Nat) : BitField := ⟨Reg.WINDLASS_SLOT_CFG i, 2, 0⟩
def Fld.WINDLASS_SLOT_CFG_TRIG (i : Nat) : BitField := ⟨Reg.WINDLASS_SLOT_CFG i, 5, 4⟩
def Fld.WINDLASS_SLOT_CFG_TSRC (i : Nat) : BitField := ⟨Reg.WINDLASS_SLOT_CFG i, 12, 6⟩
def Fld.WINDLASS_SLOT_CFG_BQ_POS (i : Nat) : BitField := ⟨Reg.WINDLASS_SLOT_CFG i, 23, 16⟩
def Fld.WINDLASS_SLOT_CFG_DEST (i : Nat) : BitField := ⟨Reg.WINDLASS_SLOT_CFG i, 31, 24⟩
def Reg.WINDLASS_SLOT_IO (i : Nat) : Nat := 0x390004 + i * 0x40
def Fld.WINDLASS_SLOT_IO_FB_SRC (i : Nat) : BitField := ⟨Reg.WINDLASS_SLOT_IO i, 7, 0⟩
def Fld.WINDLASS_SLOT_IO_REF_SRC (i : Nat) : BitField := ⟨Reg.WINDLASS_SLOT_IO i, 15, 8⟩
def Reg.WINDLASS_PERIOD (i : Nat) : Nat := 0x390008 + i * 0x40
def Fld.WINDLASS_PERIOD_PERIOD (i : Nat) : BitField := ⟨Reg.WINDLASS_PERIOD i, 27, 0⟩
def Reg.WINDLASS_SETPOINT (i : Nat) : Nat := 0x39000c + i * 0x40
def Fld.WINDLASS_SETPOINT_SETPOINT (i : Nat) : BitField := ⟨Reg.WINDLASS_SETPOINT i, 31, 0⟩
def Reg.WINDLASS_REF_SCALE (i : Nat) : Nat := 0x390010 + i * 0x40
def Fld.WINDLASS_REF_SCALE_REF_SCALE (i : Nat) : BitField := ⟨Reg.WINDLASS_REF_SCALE i, 31, 0⟩
def Reg.WINDLASS_RAMP (i : Nat) : Nat := 0x390014 + i * 0x40
def Fld.WINDLASS_RAMP_RAMP (i : Nat) : BitField := ⟨Reg.WINDLASS_RAMP i, 31, 0⟩
def Reg.WINDLASS_GAIN_P (i : Nat) : Nat := 0x390018 + i * 0x40
def Fld.WINDLASS_GAIN_P_GAIN_P (i : Nat) : BitField := ⟨Reg.WINDLASS_GAIN_P i, 31, 0⟩
def Reg.WINDLASS_GAIN_I (i : Nat) : Nat := 0x39001c + i * 0x40
def Fld.WINDLASS_GAIN_I_GAIN_I (i : Nat) : BitField := ⟨Reg.WINDLASS_GAIN_I i, 31, 0⟩
def Reg.WINDLASS_GAIN_D (i : Nat) : Nat := 0x390020 + i * 0x40
def Fld.WINDLASS_GAIN_D_GAIN_D (i : Nat) : BitField := ⟨Reg.WINDLASS_GAIN_D i, 31, 0⟩
def Reg.WINDLASS_OUT_MIN (i : Nat) : Nat := 0x390024 + i * 0x40
def Fld.WINDLASS_OUT_MIN_OUT_MIN (i : Nat) : BitField := ⟨Reg.WINDLASS_OUT_MIN i, 31, 0⟩
def Reg.WINDLASS_OUT_MAX (i : Nat) : Nat := 0x390028 + i * 0x40
def Fld.WINDLASS_OUT_MAX_OUT_MAX (i : Nat) : BitField := ⟨Reg.WINDLASS_OUT_MAX i, 31, 0⟩
def Reg.WINDLASS_AUX0 (i : Nat) : Nat := 0x39002c + i * 0x40
def Fld.WINDLASS_AUX0_AUX0 (i : Nat) : BitField := ⟨Reg.WINDLASS_AUX0 i, 31, 0⟩
def Reg.WINDLASS_AUX1 (i : Nat) : Nat := 0x390030 + i * 0x40
def Fld.WINDLASS_AUX1_AUX1 (i : Nat) : BitField := ⟨Reg.WINDLASS_AUX1 i, 31, 0⟩
def Reg.WINDLASS_LOCK_TOL (i : Nat) : Nat := 0x390034 + i * 0x40
def Fld.WINDLASS_LOCK_TOL_LOCK_TOL (i : Nat) : BitField := ⟨Reg.WINDLASS_LOCK_TOL i, 31, 0⟩
def Reg.WINDLASS_SLOT_STATUS (i : Nat) : Nat := 0x390038 + i * 0x40
def Fld.WINDLASS_SLOT_STATUS_LOCK (i : Nat) : BitField := ⟨Reg.WINDLASS_SLOT_STATUS i, 0, 0⟩
def Fld.WINDLASS_SLOT_STATUS_SAT (i : Nat) : BitField := ⟨Reg.WINDLASS_SLOT_STATUS i, 1, 1⟩
def Fld.WINDLASS_SLOT_STATUS_OVERRUNS (i : Nat) : BitField := ⟨Reg.WINDLASS_SLOT_STATUS i, 15, 8⟩
def Fld.WINDLASS_SLOT_STATUS_DELAY_MAX (i : Nat) : BitField := ⟨Reg.WINDLASS_SLOT_STATUS i, 31, 16⟩
def Reg.WINDLASS_OUT (i : Nat) : Nat := 0x39003c + i * 0x40
def Fld.WINDLASS_OUT_OUT (i : Nat) : BitField := ⟨Reg.WINDLASS_OUT i, 31, 0⟩
def Reg.WINDLASS_BIQUAD (i : Nat) (j : Nat) (k : Nat) : Nat := 0x3a0000 + i * 0x80 + j * 0x20 + k * 0x4
def Fld.WINDLASS_BIQUAD_COEF (i : Nat) (j : Nat) (k : Nat) : BitField := ⟨Reg.WINDLASS_BIQUAD i j k, 31, 0⟩
def Reg.WINDLASS_HV_CFG (i : Nat) : Nat := 0x3b0000 + i * 0x20
def Fld.WINDLASS_HV_CFG_EN (i : Nat) : BitField := ⟨Reg.WINDLASS_HV_CFG i, 0, 0⟩
def Fld.WINDLASS_HV_CFG_PAGE_CRIT (i : Nat) : BitField := ⟨Reg.WINDLASS_HV_CFG i, 1, 1⟩
def Fld.WINDLASS_HV_CFG_PERIOD (i : Nat) : BitField := ⟨Reg.WINDLASS_HV_CFG i, 19, 4⟩
def Reg.WINDLASS_HV_SCALE_V (i : Nat) : Nat := 0x3b0004 + i * 0x20
def Fld.WINDLASS_HV_SCALE_V_SCALE (i : Nat) : BitField := ⟨Reg.WINDLASS_HV_SCALE_V i, 31, 0⟩
def Reg.WINDLASS_HV_SCALE_I (i : Nat) : Nat := 0x3b0008 + i * 0x20
def Fld.WINDLASS_HV_SCALE_I_SCALE (i : Nat) : BitField := ⟨Reg.WINDLASS_HV_SCALE_I i, 31, 0⟩
def Reg.WINDLASS_HV_CEIL (i : Nat) : Nat := 0x3b000c + i * 0x20
def Fld.WINDLASS_HV_CEIL_E_CEIL (i : Nat) : BitField := ⟨Reg.WINDLASS_HV_CEIL i, 23, 0⟩
def Reg.WINDLASS_HV_STATUS (i : Nat) : Nat := 0x3b0014 + i * 0x20
def Fld.WINDLASS_HV_STATUS_STATE (i : Nat) : BitField := ⟨Reg.WINDLASS_HV_STATUS i, 1, 0⟩
def Reg.WINDLASS_HV_ENERGY (i : Nat) : Nat := 0x3b0018 + i * 0x20
def Fld.WINDLASS_HV_ENERGY_ENERGY (i : Nat) : BitField := ⟨Reg.WINDLASS_HV_ENERGY i, 23, 0⟩
def Reg.WINDLASS_HV_REARM (i : Nat) : Nat := 0x3b001c + i * 0x20
def Fld.WINDLASS_HV_REARM_REARM (i : Nat) : BitField := ⟨Reg.WINDLASS_HV_REARM i, 0, 0⟩
def Reg.WINDLASS_HV_LOCK : Nat := 0x3b0400
def Fld.WINDLASS_HV_LOCK_LOCK : BitField := ⟨Reg.WINDLASS_HV_LOCK, 0, 0⟩
def Reg.WINDLASS_FUSER_CFG (i : Nat) : Nat := 0x3b0800 + i * 0x10
def Fld.WINDLASS_FUSER_CFG_EN (i : Nat) : BitField := ⟨Reg.WINDLASS_FUSER_CFG i, 0, 0⟩
def Fld.WINDLASS_FUSER_CFG_FIRE (i : Nat) : BitField := ⟨Reg.WINDLASS_FUSER_CFG i, 1, 1⟩
def Fld.WINDLASS_FUSER_CFG_ZC_DELAY (i : Nat) : BitField := ⟨Reg.WINDLASS_FUSER_CFG i, 11, 4⟩
def Fld.WINDLASS_FUSER_CFG_FPERIOD (i : Nat) : BitField := ⟨Reg.WINDLASS_FUSER_CFG i, 23, 16⟩
def Reg.WINDLASS_FUSER_PMAX (i : Nat) : Nat := 0x3b0804 + i * 0x10
def Fld.WINDLASS_FUSER_PMAX_P_MAX (i : Nat) : BitField := ⟨Reg.WINDLASS_FUSER_PMAX i, 16, 0⟩
def Reg.WINDLASS_FUSER_STATUS (i : Nat) : Nat := 0x3b0808 + i * 0x10
def Fld.WINDLASS_FUSER_STATUS_STATE (i : Nat) : BitField := ⟨Reg.WINDLASS_FUSER_STATUS i, 1, 0⟩
def Fld.WINDLASS_FUSER_STATUS_POWER (i : Nat) : BitField := ⟨Reg.WINDLASS_FUSER_STATUS i, 31, 16⟩
def Reg.WINDLASS_FUSER_LOCK : Nat := 0x3b0c00
def Fld.WINDLASS_FUSER_LOCK_LOCK : BitField := ⟨Reg.WINDLASS_FUSER_LOCK, 0, 0⟩
def Reg.WINDLASS_ZC_STATUS : Nat := 0x3b0c04
def Fld.WINDLASS_ZC_STATUS_HALF_PERIOD : BitField := ⟨Reg.WINDLASS_ZC_STATUS, 15, 0⟩
def Fld.WINDLASS_ZC_STATUS_PRESENT : BitField := ⟨Reg.WINDLASS_ZC_STATUS, 16, 16⟩
def Reg.SEAM_CTL : Nat := 0x3c0000
def Fld.SEAM_CTL_LSCAN_EN : BitField := ⟨Reg.SEAM_CTL, 0, 0⟩
def Fld.SEAM_CTL_AUTO_EN : BitField := ⟨Reg.SEAM_CTL, 1, 1⟩
def Fld.SEAM_CTL_AUTO_CAL : BitField := ⟨Reg.SEAM_CTL, 2, 2⟩
def Fld.SEAM_CTL_EDGE_EN : BitField := ⟨Reg.SEAM_CTL, 3, 3⟩
def Fld.SEAM_CTL_REF_STN : BitField := ⟨Reg.SEAM_CTL, 6, 4⟩
def Fld.SEAM_CTL_GAIN : BitField := ⟨Reg.SEAM_CTL, 12, 8⟩
def Fld.SEAM_CTL_PART : BitField := ⟨Reg.SEAM_CTL, 18, 16⟩
def Reg.SEAM_GEOM (i : Nat) : Nat := 0x3c0010 + i * 0x4
def Fld.SEAM_GEOM_PITCH (i : Nat) : BitField := ⟨Reg.SEAM_GEOM i, 13, 0⟩
def Fld.SEAM_GEOM_OVERLAP (i : Nat) : BitField := ⟨Reg.SEAM_GEOM i, 25, 16⟩
def Reg.SEAM_STRIP : Nat := 0x3c0030
def Fld.SEAM_STRIP_MARK : BitField := ⟨Reg.SEAM_STRIP, 4, 0⟩
def Reg.SEAM_LSCAN_CFG : Nat := 0x3c0034
def Fld.SEAM_LSCAN_CFG_PIXELS : BitField := ⟨Reg.SEAM_LSCAN_CFG, 14, 0⟩
def Reg.SEAM_LSCAN_TRIG : Nat := 0x3c0038
def Fld.SEAM_LSCAN_TRIG_PITCH : BitField := ⟨Reg.SEAM_LSCAN_TRIG, 15, 0⟩
def Reg.SEAM_CAM_OFFSET_LO : Nat := 0x3c003c
def Fld.SEAM_CAM_OFFSET_LO_VALUE : BitField := ⟨Reg.SEAM_CAM_OFFSET_LO, 31, 0⟩
def Reg.SEAM_CAM_OFFSET_HI : Nat := 0x3c0040
def Fld.SEAM_CAM_OFFSET_HI_VALUE : BitField := ⟨Reg.SEAM_CAM_OFFSET_HI, 15, 0⟩
def Reg.SEAM_LSCAN_MAP : Nat := 0x3c0044
def Fld.SEAM_LSCAN_MAP_SCALE : BitField := ⟨Reg.SEAM_LSCAN_MAP, 23, 0⟩
def Reg.SEAM_LSCAN_DOT0 : Nat := 0x3c0048
def Fld.SEAM_LSCAN_DOT0_DOT0 : BitField := ⟨Reg.SEAM_LSCAN_DOT0, 31, 0⟩
def Reg.SEAM_MEAS (i : Nat) : Nat := 0x3c0050 + i * 0x4
def Fld.SEAM_MEAS_THRESH (i : Nat) : BitField := ⟨Reg.SEAM_MEAS i, 9, 0⟩
def Fld.SEAM_MEAS_POL (i : Nat) : BitField := ⟨Reg.SEAM_MEAS i, 12, 12⟩
def Fld.SEAM_MEAS_MIN_MASS (i : Nat) : BitField := ⟨Reg.SEAM_MEAS i, 31, 16⟩
def Reg.SEAM_EDGE_POS : Nat := 0x3c0070
def Fld.SEAM_EDGE_POS_EDGE_DOT : BitField := ⟨Reg.SEAM_EDGE_POS, 17, 0⟩
def Reg.SEAM_EDGE_SHAPE : Nat := 0x3c0074
def Fld.SEAM_EDGE_SHAPE_EDGE_PITCH : BitField := ⟨Reg.SEAM_EDGE_SHAPE, 15, 0⟩
def Fld.SEAM_EDGE_SHAPE_EDGE_LEN : BitField := ⟨Reg.SEAM_EDGE_SHAPE, 23, 16⟩
def Fld.SEAM_EDGE_SHAPE_EDGE_W : BitField := ⟨Reg.SEAM_EDGE_SHAPE, 31, 24⟩
def Reg.SEAM_AUTO : Nat := 0x3c0078
def Fld.SEAM_AUTO_LEAD : BitField := ⟨Reg.SEAM_AUTO, 15, 0⟩
def Fld.SEAM_AUTO_DB_X : BitField := ⟨Reg.SEAM_AUTO, 23, 16⟩
def Fld.SEAM_AUTO_DB_Y : BitField := ⟨Reg.SEAM_AUTO, 31, 24⟩
def Reg.SEAM_LIMIT : Nat := 0x3c007c
def Fld.SEAM_LIMIT_LIMIT_X : BitField := ⟨Reg.SEAM_LIMIT, 15, 0⟩
def Fld.SEAM_LIMIT_LIMIT_Y : BitField := ⟨Reg.SEAM_LIMIT, 31, 16⟩
def Reg.SEAM_LSCAN_STATUS : Nat := 0x3c0080
def Fld.SEAM_LSCAN_STATUS_DLL_LOCK : BitField := ⟨Reg.SEAM_LSCAN_STATUS, 0, 0⟩
def Fld.SEAM_LSCAN_STATUS_BYPASS : BitField := ⟨Reg.SEAM_LSCAN_STATUS, 1, 1⟩
def Fld.SEAM_LSCAN_STATUS_RATE : BitField := ⟨Reg.SEAM_LSCAN_STATUS, 9, 2⟩
def Fld.SEAM_LSCAN_STATUS_LINE_ID : BitField := ⟨Reg.SEAM_LSCAN_STATUS, 19, 10⟩
def Fld.SEAM_LSCAN_STATUS_LAST_BAD : BitField := ⟨Reg.SEAM_LSCAN_STATUS, 22, 20⟩
def Reg.SEAM_LSCAN_COUNT : Nat := 0x3c0084
def Fld.SEAM_LSCAN_COUNT_BAD : BitField := ⟨Reg.SEAM_LSCAN_COUNT, 15, 0⟩
def Fld.SEAM_LSCAN_COUNT_OVERRUN : BitField := ⟨Reg.SEAM_LSCAN_COUNT, 31, 16⟩
def Reg.SEAM_EVENT : Nat := 0x3c0088
def Ev.SEAM_EVENT_LSCAN_DLL_BYPASS : Nat × Nat := (Reg.SEAM_EVENT, 0)
def Ev.SEAM_EVENT_LINE_BAD : Nat × Nat := (Reg.SEAM_EVENT, 1)
def Ev.SEAM_EVENT_OVERRUN : Nat × Nat := (Reg.SEAM_EVENT, 2)
def Ev.SEAM_EVENT_MEASURED : Nat × Nat := (Reg.SEAM_EVENT, 3)
def Ev.SEAM_EVENT_HANDOVER_BAD : Nat × Nat := (Reg.SEAM_EVENT, 4)
def Ev.SEAM_EVENT_SEAM_REACH : Nat × Nat := (Reg.SEAM_EVENT, 5)
def Ev.SEAM_EVENT_AUTO_PRIV : Nat × Nat := (Reg.SEAM_EVENT, 6)
def Ev.SEAM_EVENT_CFG_ERR : Nat × Nat := (Reg.SEAM_EVENT, 7)
def Reg.SEAM_RES_VAL (i : Nat) (j : Nat) : Nat := 0x3c1000 + i * 0x80 + j * 0x8
def Fld.SEAM_RES_VAL_DX (i : Nat) (j : Nat) : BitField := ⟨Reg.SEAM_RES_VAL i j, 15, 0⟩
def Fld.SEAM_RES_VAL_DY (i : Nat) (j : Nat) : BitField := ⟨Reg.SEAM_RES_VAL i j, 31, 16⟩
def Reg.SEAM_RES_STAT (i : Nat) (j : Nat) : Nat := 0x3c1004 + i * 0x80 + j * 0x8
def Fld.SEAM_RES_STAT_STATUS (i : Nat) (j : Nat) : BitField := ⟨Reg.SEAM_RES_STAT i j, 2, 0⟩
def Fld.SEAM_RES_STAT_APPLIED (i : Nat) (j : Nat) : BitField := ⟨Reg.SEAM_RES_STAT i j, 3, 3⟩
def Fld.SEAM_RES_STAT_SOURCE (i : Nat) (j : Nat) : BitField := ⟨Reg.SEAM_RES_STAT i j, 9, 8⟩
def Fld.SEAM_RES_STAT_COUNT (i : Nat) (j : Nat) : BitField := ⟨Reg.SEAM_RES_STAT i j, 31, 16⟩
def Reg.SEAM_REG_RES_VAL (i : Nat) : Nat := 0x3c1400 + i * 0x8
def Fld.SEAM_REG_RES_VAL_DX (i : Nat) : BitField := ⟨Reg.SEAM_REG_RES_VAL i, 15, 0⟩
def Fld.SEAM_REG_RES_VAL_DY (i : Nat) : BitField := ⟨Reg.SEAM_REG_RES_VAL i, 31, 16⟩
def Reg.SEAM_REG_RES_STAT (i : Nat) : Nat := 0x3c1404 + i * 0x8
def Fld.SEAM_REG_RES_STAT_STATUS (i : Nat) : BitField := ⟨Reg.SEAM_REG_RES_STAT i, 2, 0⟩
def Fld.SEAM_REG_RES_STAT_APPLIED (i : Nat) : BitField := ⟨Reg.SEAM_REG_RES_STAT i, 3, 3⟩
def Fld.SEAM_REG_RES_STAT_SOURCE (i : Nat) : BitField := ⟨Reg.SEAM_REG_RES_STAT i, 9, 8⟩
def Fld.SEAM_REG_RES_STAT_COUNT (i : Nat) : BitField := ⟨Reg.SEAM_REG_RES_STAT i, 31, 16⟩
def Reg.CODEC_LANE_STATUS (i : Nat) : Nat := 0x3e0000 + i * 0x10
def Fld.CODEC_LANE_STATUS_STATE (i : Nat) : BitField := ⟨Reg.CODEC_LANE_STATUS i, 1, 0⟩
def Fld.CODEC_LANE_STATUS_BLOCK (i : Nat) : BitField := ⟨Reg.CODEC_LANE_STATUS i, 15, 8⟩
def Fld.CODEC_LANE_STATUS_BAND (i : Nat) : BitField := ⟨Reg.CODEC_LANE_STATUS i, 31, 16⟩
def Reg.CODEC_LANE_LINE (i : Nat) : Nat := 0x3e0004 + i * 0x10
def Fld.CODEC_LANE_LINE_LINE (i : Nat) : BitField := ⟨Reg.CODEC_LANE_LINE i, 8, 0⟩
def Fld.CODEC_LANE_LINE_K_RUN (i : Nat) : BitField := ⟨Reg.CODEC_LANE_LINE i, 12, 9⟩
def Reg.CODEC_ERR_INFO (i : Nat) : Nat := 0x3e0008 + i * 0x10
def Fld.CODEC_ERR_INFO_CODE (i : Nat) : BitField := ⟨Reg.CODEC_ERR_INFO i, 7, 0⟩
def Fld.CODEC_ERR_INFO_BLOCK (i : Nat) : BitField := ⟨Reg.CODEC_ERR_INFO i, 15, 8⟩
def Fld.CODEC_ERR_INFO_BAND (i : Nat) : BitField := ⟨Reg.CODEC_ERR_INFO i, 31, 16⟩
def Reg.CODEC_ERR_POS (i : Nat) : Nat := 0x3e000c + i * 0x10
def Fld.CODEC_ERR_POS_DOT (i : Nat) : BitField := ⟨Reg.CODEC_ERR_POS i, 17, 0⟩
def Fld.CODEC_ERR_POS_LINE (i : Nat) : BitField := ⟨Reg.CODEC_ERR_POS i, 26, 18⟩
def Reg.CODEC_EVENT : Nat := 0x3e0100
def Ev.CODEC_EVENT_ERR : Nat × Nat := (Reg.CODEC_EVENT, 0)
def Reg.CODEC_SLOT_STATUS : Nat := 0x3e0104
def Fld.CODEC_SLOT_STATUS_HELD : BitField := ⟨Reg.CODEC_SLOT_STATUS, 7, 0⟩
def Fld.CODEC_SLOT_STATUS_PART : BitField := ⟨Reg.CODEC_SLOT_STATUS, 10, 8⟩

end Sys2Proof.Machine
end

