-- ==== Sys2Proof/Machine/Sparse.lean ====
section
/-! DEFINITION. A sparse store in one canonical form: keys strictly rising, no entry equal to what its key reads as when it is not listed. The register file and the table banks are held so, so that equal contents are equal data.
-/
namespace Sys2Proof.Machine

/-- What key `a` reads as: its entry, or the default `d a`. [DESIGN CHOICE: log 8] -/
def Sparse.get {α : Type} (d : Nat → α) (a : Nat) : List (Nat × α) → α
  | [] => d a
  | (b, v) :: l => if a = b then v else Sparse.get d a l

/-- Write `v` at key `a`, keeping the canonical form. [DESIGN CHOICE: log 8] -/
def Sparse.put {α : Type} [DecidableEq α] (d : Nat → α) (a : Nat) (v : α) : List (Nat × α) → List (Nat × α)
  | [] => if v = d a then [] else [(a, v)]
  | (b, w) :: l =>
    if a < b then (if v = d a then (b, w) :: l else (a, v) :: (b, w) :: l)
    else if a = b then (if v = d a then l else (a, v) :: l)
    else (b, w) :: Sparse.put d a v l

/-- Every key of the list lies above `lo`, the keys rise, and no entry is its key's default. -/
def Sparse.wfFrom {α : Type} [DecidableEq α] (d : Nat → α) : Option Nat → List (Nat × α) → Bool
  | _, [] => true
  | lo, (a, v) :: l =>
    (match lo with
     | none => true
     | some b => decide (b < a)) && decide (v ≠ d a) && Sparse.wfFrom d (some a) l

/-- The canonical form of a sparse store. -/
def Sparse.wf {α : Type} [DecidableEq α] (d : Nat → α) (l : List (Nat × α)) : Bool := Sparse.wfFrom d none l

/-- Keep the entries whose key satisfies `p`: every other key reads as its default again. -/
def Sparse.keep {α : Type} (p : Nat → Bool) (l : List (Nat × α)) : List (Nat × α) := l.filter fun e => p e.1

end Sys2Proof.Machine
end

