-- ==== Sys2Proof/Machine/PageState.lean ====
section
/-! DEFINITION. The state of the engine's own supervision, of pages and chains, of the Siphon codec and of the Sump (chapters 01, 05, 06, 15, 18 and 19).
-/
namespace Sys2Proof.Machine

/-- A station of an armed page (R134, R141). -/
structure PageStn where
  station : Nat
  descs : List ImgDesc
  /-- Compressed SIZE of each band (R135). -/
  bands : List Nat
  deriving DecidableEq, Repr

/-- A page from arming to PAGE_END (R139 to R159). -/
structure Page where
  tag : Nat
  part : Nat
  /-- Acceptance sequence number of its PAGE_ARM. -/
  seq : Nat
  lines : Nat
  width : Nat
  /-- Admitted speed, µm/s. -/
  speed : Nat
  gap : Nat
  follow : Bool
  strip : Bool
  feather : Nat
  /-- Mark length M latched with the page's strip (R255). -/
  markM : Nat := 0
  stns : List PageStn
  tiles : List Nat
  /-- Lead in ns at capacity C (R150). -/
  leadNs : Nat := 0
  /-- Keys of the translation entries it locks: level and page. -/
  locks : List (Nat × Nat) := []
  descs : Nat := 0
  origin : Option Nat := none
  joined : Bool := false
  running : Bool := false
  /-- The station offsets latched at arming, and those in force (R141). -/
  own : List (Nat × Nat) := []
  offsets : List (Nat × Nat) := []
  /-- The belt position at which it starts (R146, R150). -/
  startAt : Nat := 0
  /-- Belt position before which tiles may hold lines (R152). -/
  horizon : Nat := 0
  cut : Option Nat := none
  cutCause : Nat := 0
  cutStation : Nat := 0
  /-- The Sump has recorded the cut (R473). -/
  cutLogged : Bool := false
  defect : Bool := false
  /-- Tiles lost from this page. -/
  lost : List Nat := []
  /-- Lines decoded per station of `stns`. -/
  decoded : List Nat := []
  deriving DecidableEq, Repr

/-- The running chain (R148 to R151). -/
structure Chain where
  tag : Nat
  part : Nat
  /-- No further page joins, with the cause of R151. -/
  closed : Option Nat := none
  /-- CHAIN_END commands that complete with the chain. -/
  enders : List Nat := []
  /-- The offsets of the first page (R141). -/
  offsets : List (Nat × Nat) := []
  deriving DecidableEq, Repr

/-- Where a decoded line ended: the bit after its last item, k_run there, the header and table of its block, the line that the history holds above it, and what is still due: lines of the block, the blocks of the band and the band's DCRC where it has one (R182, R184). -/
structure LineEnd where
  pos : Nat := 0
  k : Nat := 2
  head : List Byte := []
  tab : List Byte := []
  above : List Nat := []
  band : Nat := 0
  block : Nat := 0
  left : Nat := 0
  nsb : Nat := 0
  dcrc : Option Nat := none
  deriving DecidableEq, Repr

/-- An error of R176 with the position SIPHON_ERROR reports and the first undecoded line of the band (R177). -/
structure SiphonErr where
  code : Nat
  block : Nat
  line : Nat
  dot : Nat
  /-- Lines of the band that are decoded: the first undecoded line within it. -/
  undecoded : Nat
  deriving DecidableEq, Repr

/-- A Siphon decoder lane (R160 to R178). -/
structure Lane where
  /-- The page being decoded, and the last one finished (R141: pages in arming order), by arming number. -/
  page : Option Nat := none
  done : Nat := 0
  /-- Bytes that the image channel has delivered, by page, and how many of the page's stream were consumed before them. -/
  input : List (Nat × List Byte) := []
  taken : Nat := 0
  /-- The two previous decoded lines, newest first. -/
  prev1 : List Nat := []
  prev2 : List Nat := []
  kRun : Nat := 2
  band : Nat := 0
  line : Nat := 0
  stopped : Bool := false
  /-- Lines decoded of the page, and the tile band buffers of its station, 32 lines of them: the page's arming number, the line and its dots (R27). -/
  decoded : Nat := 0
  buffer : List (Nat × Nat × List Nat) := []
  /-- Lines of the band whose decoding waits for room in the band buffers, with the block and k_run of each, and the error the band ends in, with k_run there: the model's lookahead into the band's bytes. -/
  pend : List (Nat × List Nat × LineEnd) := []
  pendErr : Option (SiphonErr × Nat) := none
  deriving DecidableEq, Repr

/-- The context that a slot of the service codec holds: the two previous lines, the dots taken of the line begun, latest first, the bits of the block begun, whether the next dot is coded by its own context for a run that has just ended, and for a decoder where its last line ended and the DCRC register there (R172, R180, R183). -/
structure CodecCtx where
  up : List Nat := []
  up2 : List Nat := []
  cur : List Nat := []
  bits : Nat := 0
  forced : Bool := false
  at_ : LineEnd := {}
  crc : Nat := 0
  deriving DecidableEq, Repr

/-- A context slot of the service codec (R183). -/
structure CtxSlot where
  held : Bool := false
  gen : Nat := 0
  part : Nat := 0
  /-- The journal slot of the command that works with it, none between BUFFER_FULL and the resumption. -/
  cmd : Option Nat := none
  /-- What it holds between BUFFER_FULL and the resumption. -/
  ctx : CodecCtx := {}
  deriving DecidableEq, Repr

/-- A calibration of emitters: the journal slot of its command, its tiles not yet done, failed emitters, and whether PRIME runs it (R241, R242). -/
structure CalJob where
  slot : Nat
  tiles : List Nat
  fails : Nat := 0
  prime : Bool := false
  deriving DecidableEq, Repr

/-- A Sump record before it is dated within its segment (R473, R475). -/
structure SumpRec where
  typ : Nat
  src : Nat
  time : Nat
  words : List Word
  deriving DecidableEq, Repr

/-- What the reading of a recording found: where it ended, by which end, the snapshot it starts from with its engine time, its sources, and the records after it, each with the place at which its segment ends (R483 to R487). -/
structure Recording where
  pos : Nat := 0
  /-- 0 end of recording, 1 gap, 4 format. -/
  cause : Nat := 0
  start : Nat := 0
  image : List Byte := []
  sources : Nat := 0
  records : List (Nat × SumpRec) := []
  deriving DecidableEq, Repr

/-- A replay from its entry to the return to IDLE: its slot, partition, the host address of its report, and its recording (R484 to R487). -/
structure Replay where
  slot : Nat
  part : Nat
  host : Nat
  tape : Recording
  /-- The report is written and the outcome fixed. -/
  ended : Bool := false
  deriving DecidableEq, Repr

/-- A divergence report that is still to be written: the journal slot and the partition of its REPLAY, the host address, its bytes, and the outcome that follows it (R36, R486, R487). -/
structure OwedReport where
  slot : Nat
  part : Nat
  host : Nat
  bytes : List Byte
  status : Nat
  detail : Nat := 0
  deriving DecidableEq, Repr

/-- The engine's own supervision: state commands, start-up, stop sequence, cores and memories. -/
structure Eng where
  /-- The engine state kept in retention SRAM (R459). -/
  kept : Nat := 1
  /-- Start-up or wake is running (R464, R472). -/
  starting : Bool := true
  /-- The wake has not yet rebuilt imaging SRAM (R472). -/
  rebuilding : Bool := false
  /-- Time 0 of the start-up, and M0 once fixed (R464, R466). -/
  start0 : Nat := 0
  m0 : Option Nat := none
  /-- The tiles that this start-up or wake brings up: those enabled when the ROM firmware read QUAD_EN (R466). -/
  boot : List Nat := []
  /-- The most recent mirror start (R467), and whether the start is a wake (R472). -/
  lastMirror : Option Nat := none
  wake : Bool := false
  /-- GLOBAL.PWR_CTL.QUAD_EN as read at the last start-up, wake or restoration of loads (R72). -/
  quads : Nat := 0xFFFF
  /-- PRIME in progress: its slot and start (R412, R413). -/
  prime : Option (Nat × Nat) := none
  /-- Emitters that failed the calibration of the running PRIME (R412). -/
  primeFails : Nat := 0
  /-- The tiles that were up when the running PRIME started (R470). -/
  primeUp : List Nat := []
  /-- Calibration of the running PRIME is done (R412). -/
  calDone : Bool := false
  /-- Calibrations running, and EMITTER_CALIBRATE commands that wait: slot and tiles (R240). -/
  calJobs : List CalJob := []
  calWait : List (Nat × List Nat) := []
  /-- REPLAY in progress, or ended and not restored. -/
  replay : Option Replay := none
  /-- The reports of replays that are still to be written (R97, R123, R487). -/
  reports : List OwedReport := []
  /-- IDLE commands that wait for their target state. -/
  idleCmds : List Nat := []
  /-- Journal slots of the commands accepted at the present instant: their numbers follow those of the instant's events, once it is over (R30). -/
  accepting : List Nat := []
  /-- SLEEP has completed and enters its state once the completion record is written: the slot and partition (R33). -/
  sleepFor : Option (Nat × Nat) := none
  /-- A stop sequence is running (R382). -/
  stopping : Bool := false
  /-- The stop was entered on main loss and its loads are shed. -/
  shed : Bool := false
  /-- The STATE_CHANGE into SAFE_STOP waits for PAGE_END (R393). -/
  thermalPending : Bool := false
  /-- An engine reset waits for the stop to finish (R461). -/
  resetPending : Bool := false
  /-- Held in reset or unpowered: brown-out, or hold-up ended (R378, R382). -/
  down : Bool := false
  /-- Retention was lost: the next start is a cold start (R379). -/
  coldNext : Bool := false
  /-- REF lost (R22). -/
  refLost : Bool := false
  /-- The SerDes and core PLL run from a held frequency. -/
  refHeld : Bool := false
  /-- The active core pair, and a standby being available (R452). -/
  activePair : Nat := 0
  standby : Bool := true
  /-- The failed pair runs its self-test (R453). -/
  testing : Bool := false
  /-- Both core pairs have failed (R453). -/
  coresFailed : Bool := false
  /-- Counts of corrected errors and ROM parity errors (R26). -/
  eccCount : List Nat := [0, 0, 0]
  romParity : Nat := 0
  /-- The persistent fault log: memory and byte offset (R442). -/
  faultLog : List (Nat × Nat) := []
  /-- Table instances marked invalid (R26). -/
  invalid : List Nat := []
  /-- An interlock opening latched by the Wellhead: its engine time as rebuilt, channels, state (R35). -/
  ilkLatch : Option (Nat × Nat × Nat) := none
  /-- The address pins of the I²C target as sampled when the Wellhead powered up, and its byte pointer (R504). -/
  i2cPins : Nat := 0
  i2cPtr : Nat := 0
  /-- The TAP instruction in effect (R505). -/
  tap : Nat := 0
  /-- The data register that the TAP shifts, and the update stage of its boundary register (R505). -/
  tapShift : List Bool := []
  tapHeld : List Bool := []
  /-- MSEL as sampled (R78). -/
  msel : Port := .a
  deriving DecidableEq, Repr

/-- The safety block beside its registers (R385 to R396). -/
structure Safety where
  /-- Causes of the cut signal that have no status bit of their own. -/
  mainLost : Bool := false
  /-- When main loss was declared (R382). -/
  lossAt : Nat := 0
  /-- When main came back, for R396 and R383. -/
  mainSince : Option Nat := none
  brown : Bool := false
  /-- When HV_EN went low, and the discharge check still owed (R388). -/
  dischargeFrom : Option Nat := none
  dischargeFailed : Bool := false
  /-- When the two interlock inputs began to differ (R387). -/
  differSince : Option Nat := none
  /-- Die readings of the last second, newest first: T in 1/16 °C (R392). -/
  history : List Int := []
  /-- Per sensor: consecutive readings that differ by more than 8 °C, and consecutive readings within 4 °C (R391). -/
  devRun : List Nat := List.replicate 12 0
  okRun : List Nat := List.replicate 12 0
  /-- T is at or above WARN (one record per crossing). -/
  warned : Bool := false
  stopped : Bool := false
  vbackLow : Bool := false
  /-- Thermistor readings of the last second, per channel, newest first: (ns, 1/16 °C). -/
  thHist : List (List (Nat × Int)) := List.replicate 8 []
  /-- Fuser pairs forced off (R395). -/
  forced : List Bool := [false, false, false, false]
  /-- The Wellhead's own sensor, 1/16 °C, and whether the corrections of REF and of the Wellhead tick are limited (R398). -/
  wellTemp : Int := 400
  refRange : Bool := false
  wellRange : Bool := false
  /-- The correction of REF in force, in 1/65,536 ppm (R398). -/
  refCorr : Int := 0
  /-- The tiles that an orderly thermal stop still has to blank at their next sweep boundary, none while it has nothing to blank, and those it has blanked with the first sweep blanked (R393). -/
  blanking : Option (List Nat) := none
  blanked : List (Nat × Nat) := []
  /-- The link cause of KILL asserted on every link, 0 none (R279). -/
  killAll : Nat := 0
  deriving DecidableEq, Repr

/-- A closed Sump segment: header words are made when it streams (R476). -/
structure Segment where
  kind : Nat
  flags : Nat
  seq : Nat
  base : Nat
  end_ : Nat
  rawLen : Nat
  payload : List Byte
  nrec : Nat
  sources : Nat
  cause : Nat := 0
  deriving DecidableEq, Repr

/-- The Sump recorder (R473 to R482). -/
structure Sump where
  /-- The journal slot of a RECORDER start waiting for its snapshot, and of flushes and of a stop, each with the number up to which segments must have been streamed. -/
  starting : Option Nat := none
  waiters : List (Nat × Nat) := []
  base : Nat := 0
  size : Nat := 0
  sources : Nat := 0
  decim : Nat := 0
  decimCount : List Nat := List.replicate 64 0
  /-- The open segment's records, newest first, and the segments that wait. -/
  open_ : List SumpRec := []
  closed : List Segment := []
  /-- Bytes of the open records, and of the closed segments with their headers, in the Sump ring (R477). -/
  openBytes : Nat := 0
  closedBytes : Nat := 0
  nextSeq : Nat := 0
  /-- The gap being open: start, cause, records lost (R481). -/
  gap : Option (Nat × Nat × Nat) := none
  trigAt : Option Nat := none
  /-- POST_MS after the trigger has passed: nothing more is recorded, and STATE 3 follows the last segment (R480). -/
  freezing : Bool := false
  lastSnap : Nat := 0
  /-- Bytes of the segment being streamed that are written, payload first, for a suspended transfer (R91). -/
  sent : Nat := 0
  /-- Segments streamed so far that carry a number. -/
  streamed : Nat := 0
  /-- The value of RD in effect: a write of its HI word applies both (R488). -/
  rd : Nat := 0
  /-- The state of each feedback channel last recorded (R474). -/
  fbLast : List (List Word) := List.replicate 16 []
  deriving DecidableEq, Repr

end Sys2Proof.Machine
end

