-- ==== Sys2Proof/Machine/UnitState.lean ====
section
/-! DEFINITION. The state of the imaging, motion and supply units: tiles and their links, stations, seams, drive axes, feedback, Mule axes and Windlass (chapters 07 to 14).
-/
namespace Sys2Proof.Machine

/-- A sequenced downlink frame not yet acknowledged, or waiting to be sent: one message in each (R269 to R271). -/
structure DnFrame where
  seq : Nat := 0
  /-- The whole message: header and fields (R270). -/
  msg : List Byte
  copies : Nat := 0
  /-- When it was sent last. -/
  at_ : Nat := 0
  /-- It carries the last word of the load of this bank (2 × DIR + BANK). -/
  load : Option Nat := none
  deriving DecidableEq, Repr

/-- A bank load in progress (R278). -/
structure BankLoad where
  /-- 2 × DIR + BANK. -/
  bank : Nat
  words : List Word
  crc : Nat
  /-- Loads of it that have failed in succession. -/
  fails : Nat := 0
  /-- When its last word was sent, and whether the head acknowledged that frame. -/
  sentAt : Option Nat := none
  acked : Bool := false
  deriving DecidableEq, Repr

/-- A line planned in a sweep: the page's arming number, the line, its due position P(n, s) in sub-lines, its due position at the tile in 1/65,536 sub-line modulo 2^64, and its emitter (R8, R193, R196). -/
structure PlanLine where
  page : Nat
  line : Nat
  raw : Nat
  due : Nat
  emitter : Nat := 0
  deriving DecidableEq, Repr

/-- What a calibration sweep fires: the emitter, the pass and the code index 1 to 8 (R241). -/
structure CalKey where
  emitter : Nat
  fine : Bool
  code : Nat
  deriving DecidableEq, Repr

/-- A planned sweep of a tile (R195 to R202). Positions are in 1/65,536 sub-line, instants in 1/128 ns. -/
structure Plan where
  sweep : Nat
  dir : Nat
  bank : Nat
  cross : Int
  e0 : Nat
  /-- Emitters of the window, and the lines they write. -/
  n : Nat := 0
  lines : List PlanLine := []
  /-- The trim offset, and ρ in 1/65,536 sub-line per s. -/
  delta : Int := 0
  rho : Int := 0
  /-- The prediction of W at the mid-instant that the latest trim used, the one of the planned trim, and the mid-instant predicted at planning. -/
  w : Nat := 0
  w0 : Nat := 0
  mid : Nat := 0
  /-- The ripple model enters the sweep's predictions: RIPPLE_EN at planning (R224). -/
  ripple : Bool := false
  /-- The least and greatest placement step of a pulse edge in the sweep (R201, R218), and the residual slant of the latest trim in 1/65,536 sub-line. -/
  ext : Option (Int × Int) := none
  resid : Int := 0
  /-- SPAN_NOM of the bank that it names, and the times in that bank at which the beam crosses the two steps, in 1/64 ns (R201, R218). -/
  nom : Nat := 0
  edges : List Nat := []
  /-- No pulses in the sweep. -/
  blank : Bool := false
  refined : Bool := false
  /-- The sweep met a placement limit (R205). -/
  limited : Bool := false
  cal : Option CalKey := none
  deriving DecidableEq, Repr

/-- A run of sweeps at the placement limit (R205). -/
structure LimitRun where
  line : Nat
  page : Nat
  worst : Int
  lines : Nat
  deriving DecidableEq, Repr

/-- A run of sweeps with a duty clamp (R236). -/
structure ClampRun where
  emitters : Nat := 0
  tile : Bool := false
  lowest : Nat := 256
  sweeps : Nat := 0
  deriving DecidableEq, Repr

/-- Emitter calibration of a tile (R241, R242). -/
structure Cal where
  /-- What the next sweep fires, sweeps already planned at this code, and whether the first reading is awaited before going on. -/
  key : CalKey := ⟨0, false, 1⟩
  fired : Nat := 0
  await : Bool := false
  /-- The codes held before. -/
  old : List Nat := []
  /-- Sweeps whose reading is outstanding; readings taken; emitters given a fine pass; emitters fired and not settled. -/
  sweeps : List (Nat × CalKey) := []
  reads : List (CalKey × Nat) := []
  fines : List Nat := []
  open_ : List Nat := []
  /-- Emitters that the duty limiter disabled since the calibration began, a bit each (R237). -/
  held : Nat := 0
  deriving DecidableEq, Repr

/-- The uplink receiver of a tile: the last 58 bits of the lane, latest in bit 0; consecutive blocks with a valid sync header while it seeks lock; of the last 64 blocks under lock, newest first, which were bad; and the data blocks still due of a frame begun (R266, R268, R269). -/
structure RxLane where
  desc : Nat := 0
  run : Nat := 0
  window : List Bool := []
  left : Nat := 0
  deriving DecidableEq, Repr

/-- A tile: its Trough link, its head as last reported, and its sweep engine context. -/
structure Tile where
  /-- STATION and POSITION of TILE.CFG as read at the last link bring-up or PRIME (R291). -/
  stn : Nat := 0
  pos : Nat := 0
  /-- The page and the line from which on the tile writes with the last automatic correction it has taken (R259). -/
  corrected : Option (Nat × Nat) := none
  /-- Reported missing (R469). -/
  missing : Bool := false
  /-- The entries of the link into TRAIN, oldest first, since which it has not been UP and which are not reported slow (R288, R469). -/
  trainAt : List Nat := []
  /-- When the link failed (R289). -/
  failedAt : Option Nat := none
  /-- When uplink block lock was lost; when the last CRC-valid uplink frame arrived. -/
  lockLost : Option Nat := none
  lastUp : Nat := 0
  /-- The next downlink SEQ, frames in flight and frames waiting (R271). -/
  txSeq : Nat := 0
  flight : List DnFrame := []
  waiting : List DnFrame := []
  /-- The SEQ the engine expects next on the uplink, whether it accepted one, and whether it owes a NAK. -/
  rxNext : Nat := 0
  rxAny : Bool := false
  nak : Bool := false
  /-- The uplink receiver, and the sequenced frames seen lately: SEQ, copies received and when the last one came (R268, R271, R289). -/
  rx : RxLane := {}
  rxSeen : List (Nat × Nat × Nat) := []
  /-- An identity that the head has sent and the engine has not judged (R287, R288). -/
  ident : Option (List Byte) := none
  /-- Epochs: number, launch instants of marks with the LINK_ASYM in use, echo instants, TURN reports, and the last round trips in 1/64 ns (R283, R291). -/
  epoch : Nat := 0
  marks : List (Nat × Nat × Int) := []
  echoes : List (Nat × Nat) := []
  turns : List (Nat × Nat) := []
  trips : List Int := []
  /-- FAULT of the previous KIND 0 status (R281). -/
  prevFault : Option Nat := none
  /-- Identity beyond TILE.HEAD_ID (R287). -/
  bucket : Nat := 0
  slowRange : Nat := 0
  mirrorNom : Nat := 0
  /-- The bank in use of each direction, and the CRC acknowledged for each of the four banks (R217). -/
  bankUse : List Nat := [0, 0]
  bankCrc : List (Option Nat) := [none, none, none, none]
  loads : List BankLoad := []
  /-- A bank whose load failed three times, to be loaded again before the tile rejoins (R281). -/
  failedBank : Option Nat := none
  /-- KILL causes that persist: bits 0, 1, 2 for causes 1, 2, 3 (R279). -/
  kill : Nat := 0
  /-- HEAD_FAULT was declared and the tile has not rejoined (R281). -/
  headFault : Bool := false
  /-- The mirror: driven, drive amplitude in 1/65,536 and frequency in 2^−16 Hz, start, next step and retry instants (R467, R468). -/
  driven : Bool := false
  ampl : Nat := 0
  freq : Nat := 0
  startAt : Option Nat := none
  retryAt : Option Nat := none
  /-- Wanted in operation: the mirror starts when its slot comes (R467, R470). -/
  wantStart : Bool := false
  /-- A sweep with both stamps was seen since the start; beam-detect lock; runs of R220 and R468. -/
  stamped : Bool := false
  locked : Bool := false
  goodRun : Nat := 0
  badRun : Nat := 0
  missRun : Nat := 0
  mirrorFault : Bool := false
  /-- The mirror channel of R371: amplitude as a fraction and frequency in Hz (binary32), the previous errors, and the first MIRROR_SENSE seen. -/
  ampInt : Word := 0
  freqInt : Word := 0
  eA : Option Word := none
  ePhi : Option Word := none
  sensed : Bool := false
  /-- Latest stamped sweep of each direction: number and mid-instant in 1/128 ns; the latest of all; half-periods, newest first. -/
  stamps : List (Option (Nat × Nat)) := [none, none]
  lastMid : Option (Nat × Nat) := none
  halves : List Nat := []
  /-- Directions whose span was measured since the mirror started (R235). -/
  spanSeen : List Bool := [false, false]
  /-- The next sweep to plan, sweeps planned and not yet stamped, oldest first, and the line pointer (R196, R203). -/
  nextSweep : Nat := 0
  plans : List Plan := []
  planPage : Nat := 0
  /-- The due position of the last line planned, in 1/65,536 sub-line (R212). -/
  planDue : Nat := 0
  planLine : Nat := 0
  counts : List Nat := []
  limit : Option LimitRun := none
  clamp : Option ClampRun := none
  /-- Duty: clamp factors of the emitters, recorded on-times by sweep mid-instant, emitters disabled, breach (R235 to R237). -/
  kE : List Nat := List.replicate 16 256
  kT : Nat := 256
  onTimes : List (Nat × List Nat) := []
  disabled : Nat := 0
  breach : Bool := false
  /-- Emitters disabled during a page whose first unwritten line is not yet known: emitter. -/
  defectOwed : List Nat := []
  /-- Lines written: due position P(n, s) and the dots fired, bit x, newest first (R229). -/
  history : List (Nat × Nat) := []
  cal : Option Cal := none
  /-- Took part in the last PRIME (R470). -/
  primed : Bool := false
  deriving DecidableEq, Repr

/-- A station beside its registers. -/
structure Stn where
  /-- Drum surface position D_s in 1/65,536 sub-line modulo 2^64, and the channel and scale latched at PRIME (R191, R192). -/
  drum : Nat := 0
  /-- D_s as the sweep scheduler reads it: latched with the copy of its channel (R474). -/
  drumCopy : Nat := 0
  ch : Nat := 0
  scale : Nat := 0
  /-- K_s in 1/65,536 sub-line, and whether the last PRIME latched it (R192). -/
  align : Int := 0
  aligned : Bool := false
  /-- The latest movements of the drum surface, newest first: the instant of the edge or sample, and how far it moved, in 1/65,536 sub-line (R194). -/
  edges : List (Nat × Int) := []
  /-- Tile pitch and overlap latched at PRIME (R244). -/
  pitch : Nat := 9449
  overlap : Nat := 283
  deriving DecidableEq, Repr

/-- Belt position and the channel read at PRIME (R6, R320): 48.16 sub-lines. -/
structure Belt where
  acc : Nat := 0
  ch : Nat := 0
  inv : Bool := false
  scale : Nat := 0
  deriving DecidableEq, Repr

/-- An expected mark with its window and what was accumulated in it (R254 to R259). Dots are in 1/256 dot, process positions in 1/2 sub-line of page position. -/
structure Mark where
  station : Nat
  /-- Position index of the tile that writes it, its role (0 A, 1 B, 2 R) and its seam. -/
  pos : Nat
  role : Nat
  seam : Nat
  x : Int
  y : Int
  /-- Half sizes of the window in dots and in lines, and the first line of the mark. -/
  m : Nat
  my : Nat
  line : Nat
  mass : Nat := 0
  /-- Σ weight × dot in 1/256 dot, and Σ weight × page position in sub-lines. -/
  sumX : Int := 0
  sumY : Int := 0
  /-- A line inside the window was discarded or skipped; its row was not printed, for its page was cut (R260). -/
  bad : Bool := false
  unprinted : Bool := false
  /-- The argument of its free centroid, where it has no mass: the model's own. -/
  seed : Nat := 0
  deriving DecidableEq, Repr

/-- What a period of edge marks gave for a station: the conditions of R259 on its mark and the reference's, and dY in 1/256 sub-line (R257). -/
structure EdgeSample where
  station : Nat
  bad : Bool
  faint : Bool
  stale : Bool
  dy : Int
  deriving DecidableEq, Repr

/-- One measurement in progress: a strip, a calibration page or the edge marks of a page (R255 to R257). -/
structure Meas where
  /-- 1 mark strip, 2 calibration page, 3 edge. -/
  source : Nat
  /-- The page's arming number, the TAG of the record, the partition, and the slot of a SEAM_MEASURE. -/
  page : Nat
  tag : Nat
  part : Nat
  slot : Option Nat := none
  marks : List Mark
  /-- The page's origin and the offsets of its stations, once it has started. -/
  origin : Option Nat := none
  offsets : List (Nat × Nat) := []
  /-- The last line of the page, for edge marks. -/
  lines : Nat := 0
  /-- The registers of the seam unit as the measurement read them, and CAM_OFFSET then (R263). -/
  regs : List (Nat × Word) := []
  cam : Nat := 0
  /-- The first argument of the free values of its results: the model's own. -/
  seed : Nat := 0
  deriving DecidableEq, Repr

/-- A result of a seam, or of a station's registration as seam 15 (R259). -/
structure SeamResult where
  station : Nat
  seam : Nat
  dx : Int
  dy : Int
  status : Nat
  deriving DecidableEq, Repr

/-- The seam unit and the line-scan port (R244 to R263). -/
structure Seam where
  /-- The position of the next trigger (R251); the trigger outstanding: its time, its line identifier and its belt position. -/
  nextTrig : Option Nat := none
  outstanding : Option (Nat × Nat × Nat) := none
  /-- PIXELS as the last trigger read it (R263). -/
  pixels : Nat := 16384
  /-- The line of the last trigger was discarded (R252), and the next LINE_ID, 10 bits (R250). -/
  gone : Bool := false
  lineId : Nat := 0
  /-- The DLL is locked and takes over at the next line boundary (R253). -/
  pendLock : Bool := false
  /-- The last 64 received lines: identifier and pixels, newest first (R253, R431). -/
  capture : List (Nat × List Nat) := []
  meas : List Meas := []
  /-- A correction held while the partition has a commit waiting (R262): its tag and its register entries, and the results it uses. -/
  heldTag : Nat := 0
  held : List (Nat × Word × Word) := []
  heldFor : List (Nat × Nat) := []
  /-- Its partition and its LEAD, as its measurement read them (R263). -/
  heldPart : Nat := 0
  heldLead : Nat := 0
  /-- The periods of edge marks measured since the last average, newest first (R257). -/
  edges : List (List EdgeSample) := []
  /-- The mark reports of the latest complete result set of each source, four words a mark (R429). -/
  reports : List (List Word) := [[], [], []]
  /-- CAM_OFFSET in effect: a write of its HI word applies both (R263). -/
  cam : Nat := 0
  deriving DecidableEq, Repr

/-- A drive axis beside its registers (R292 to R315). Speeds are electrical, in 0.1 Hz with 16 fraction bits, signed. -/
structure Drive where
  /-- The speed target and the ramped speed; the ramp has not reached the target. -/
  target : Int := 0
  ramp : Int := 0
  ramping : Bool := false
  /-- The speed slot that AXIS_JOG named, and its journal slot. -/
  slot : Nat := 255
  cmd : Option Nat := none
  /-- The duty set in force (U, V, W), its reconstructed phase (0 none) and whether depth limiting shaped it; the set that waits for the next peak (R295, R298). -/
  duty : List Nat := [32768, 32768, 32768]
  recon : Nat := 0
  next : Option (List Nat × Nat × Bool) := none
  /-- A current-loop run was started and its duty set has not been delivered (R295, R296). -/
  owed : Bool := false
  /-- The last carrier peak. -/
  peakAt : Nat := 0
  /-- Offset calibration: samples taken and sums (R300). -/
  calN : Nat := 0
  calSum : List Nat := [0, 0, 0]
  /-- Samples since the last current-loop run (R296). -/
  div : Nat := 0
  /-- When the start was issued, and when the catch began to measure (R309). -/
  startedAt : Nat := 0
  catchAt : Option Nat := none
  /-- What a controlled stop ramps down from: the target and the speed slot's SETPOINT before it (R311). -/
  stopFrom : Int := 0
  stopRef : Word := 0
  /-- What ends a braking: 0 DISABLED, 1 a start toward the target, 2 FAULT with cause 4 (R308 to R311). -/
  after : Nat := 0
  /-- Since when the currents lie below BRAKE_ILIM ÷ 16 (R308, R311). -/
  quiet : Option Nat := none
  /-- The outputs are off for the rest of the period (R310). -/
  off : Bool := false
  /-- The open-loop interval: its start, and whether it follows a loss of the observer (R306, R308). -/
  openAt : Option Nat := none
  lostObs : Bool := false
  lastSpeed : Int := 0
  /-- The observer's estimates: angle and speed; since when it is confident, and since when it is not (R305 to R308). -/
  obsAngle : Nat := 0
  obsSpeed : Int := 0
  confSince : Option Nat := none
  lowSince : Option Nat := none
  /-- The |i_q| reference of the current block in counts, and the locked-rotor timer's start (R312). -/
  iqRef : Nat := 0
  lrFrom : Option Nat := none
  /-- Edges out of sequence, and the loss of the Halls (R304). -/
  hallBad : Nat := 0
  hallLost : Bool := false
  /-- The axis applied a shorter vector than requested, and the vector it applied: phase voltages as fractions of the bus with 16 fraction bits (R298, R355). -/
  shortened : Bool := false
  applied : List Int := [0, 0, 0]
  /-- What the six gate outputs UH, UL, VH, VL, WH and WL do from the last change of the switching pattern on: the intervals in ns in which each is high (R292, R294, R309, R310). -/
  gates : List (List (Nat × Nat)) := [[], [], [], [], [], []]
  /-- What is left of the difference between the Hall angle and the encoder angle at the first index (R303). -/
  encShift : Int := 0
  /-- The angle stands at the centre of the Hall sector until the next Hall edge (R308). -/
  centred : Bool := false
  /-- The state in which the observer was lost (R308). -/
  lostIn : Nat := 4
  /-- The causes acted on in the present carrier period with their instants, whose records are written at its end (R313). -/
  causes : List (Nat × Nat) := []
  deriving DecidableEq, Repr

/-- An incremental feedback channel beside its registers (R316 to R328). -/
structure Enc where
  a : Bool := false
  b : Bool := false
  /-- The direction is determined; E; highest and lowest n since enabling (R322). -/
  seen : Bool := false
  ext : Int := 0
  hi : Int := 0
  lo : Int := 0
  /-- Stamps of the last counts in the present direction, newest first (R324). -/
  stamps : List Nat := []
  /-- Counts of the last window: stamp and sign, newest first. -/
  window : List (Nat × Int) := []
  /-- Raw estimate and filtered speed, counts/s with 16 fraction bits. -/
  raw : Int := 0
  speed : Int := 0
  /-- The stamp of the latest count, absorbed ones included, and of the latest that enters a speed estimate. -/
  last : Option Nat := none
  lastFast : Option Nat := none
  /-- Standstill until two counts of one direction have arrived (R323). -/
  fresh : Bool := true
  lastSlip : Option Nat := none
  slips : Nat := 0
  lastDirRec : Option Nat := none
  dirChanges : Nat := 0
  /-- Net travel since the last index (R328). -/
  travel : Int := 0
  /-- The state last recorded by the Sump (R474). -/
  logged : List Word := []
  deriving DecidableEq, Repr

/-- A Hall triplet beside its registers (R304, R329). -/
structure Hall where
  /-- Position in the forward order of the last valid state, and the stamps of the last two valid in-sequence edges, newest first. -/
  index : Option Nat := none
  edges : List Nat := []
  dir : Int := 0
  /-- The run of invalid entries: count, last invalid state, when the states became valid again. -/
  bad : Nat := 0
  badState : Nat := 0
  validAt : Option Nat := none
  /-- When the present invalid state began. -/
  invalidAt : Option Nat := none
  /-- The latest edge into a valid state: its instant, the way it entered the sector (1 by its start, -1 by its end), and the speed from then on in counts/s with 4 fraction bits, until the instant at which standstill ended it (R304). -/
  edgeAt : Option Nat := none
  way : Int := 1
  rate : Int := 0
  restAt : Option Nat := none
  deriving DecidableEq, Repr

/-- A BiSS-C or SSI master beside its registers (R330). -/
structure Biss where
  /-- The sample instant of the frame in progress, the end of the last one, and the last start due. -/
  frame : Option Nat := none
  lastEnd : Option Nat := none
  /-- The last good position and its sample instant; the speed in counts/s with 16 fraction bits. -/
  pos : Option (Nat × Nat) := none
  speed : Int := 0
  /-- Position unwrapped from the first good frame, its extreme and the direction, 0 while undetermined (R322). -/
  acc : Int := 0
  ext : Int := 0
  dir : Int := 0
  /-- The lowest and the highest position since enabling, which determine the first direction. -/
  lo : Int := 0
  hi : Int := 0
  logged : List Word := []
  deriving DecidableEq, Repr

/-- The state of a feedback channel as Windlass and the sweep scheduler read it: the copy latched every 1 µs of engine time (R474). -/
structure FbCopy where
  /-- Position, the stamp it holds for, the speed in counts/s with 16 fraction bits (4 of them used, as its register and record hold it), whether it is referenced, and the direction, 0 at standstill. -/
  pos : Int := 0
  last : Option Nat := none
  speed : Int := 0
  ref : Bool := false
  dir : Int := 0
  deriving DecidableEq, Repr

/-- What a motion command asks of a Mule axis (R340 to R347). -/
inductive MuleReq where
  | move (target : Int)
  | jog (speed : Int)
  | home
  /-- Axes with their targets, the axis itself the first. -/
  | group (axes : List (Nat × Int))
  deriving DecidableEq, Repr

/-- A group of interpolated axes: the master's distance, its steps so far, and per axis its number, start and signed distance (R347). -/
structure MuleGroup where
  dm : Nat := 0
  n : Nat := 0
  axes : List (Nat × Int × Int) := []
  deriving DecidableEq, Repr

/-- A Mule axis beside its registers (R334 to R350). -/
structure Mule where
  /-- Speed squared; the profile in use: VMAX, ACC, DEC. -/
  v2 : Nat := 0
  vmax : Nat := 10000
  acc : Nat := 100000
  dec : Nat := 100000
  /-- The interval to the next step in CTL cycles. -/
  interval : Nat := 0
  /-- What runs: 0 nothing, 1 move, 2 jog, 3 deceleration to a stop. -/
  kind : Nat := 0
  cmd : Option Nat := none
  /-- The status and detail with which a deceleration ends. -/
  endWith : Nat := 0
  endDetail : Nat := 0
  /-- The requests accepted for the next step or for the rest that comes, oldest first, with their commands (R341). -/
  next : List (MuleReq × Nat) := []
  /-- The axis runs faster than its limit since that was lowered, and decelerates to it (R343). -/
  slow : Bool := false
  /-- Register writes to be applied at the next step: bits 0 VMAX, 1 ACC, 2 DEC (R343). -/
  fresh : Nat := 0
  /-- Jog speed, signed. -/
  jog : Int := 0
  /-- The group that this axis leads, and the axis that leads its group. -/
  group : Option MuleGroup := none
  leader : Option Nat := none
  /-- Homing phase: 0 none, 1 search, 2 stopping after the edge, 3 to HOME_POS, 4 stopping without an edge; and where it started (R345). -/
  home : Nat := 0
  homeFrom : Int := 0
  /-- The position latched at the edge that ended the search (R345). -/
  homeAt : Int := 0
  /-- The levels that count at the home, negative and positive limit inputs (R345). -/
  levels : List Bool := [true, true, true]
  /-- When the last step was taken (R340). -/
  lastStep : Nat := 0
  /-- The latest steps: time and position after it, newest first (R345). -/
  hist : List (Nat × Int) := []
  /-- When a limit switch last stopped the axis (R346). -/
  limitAt : Option Nat := none
  /-- Consecutive frames with a wrong ID, with a stage fault, with a deviation above STALL_WIN. -/
  idRun : Nat := 0
  faultRun : Nat := 0
  stallRun : Nat := 0
  /-- ENC_BASE with 16 fraction bits (R348). -/
  base : Int := 0
  deriving DecidableEq, Repr

/-- The state of a biquad: x₁, x₂, y₁, y₂ (R352). -/
structure Biquad where
  x1 : Word := 0
  x2 : Word := 0
  y1 : Word := 0
  y2 : Word := 0
  deriving DecidableEq, Repr

/-- A Windlass slot beside its registers (R352 to R363). -/
structure SlotSt where
  /-- The integrators of the law and of the d axis of FOC. -/
  integ : Word := 0
  integD : Word := 0
  bq : List Biquad := List.replicate 4 {}
  /-- The ramped reference, none before the first sample. -/
  ramp : Option Word := none
  /-- The instant from which TIMER samples fall due: when LAW was set, or the last execution; the sample instant that waits for its execution under DRIVE and CHAIN; the last sample instant executed. -/
  from_ : Nat := 0
  due : Option Nat := none
  lastT : Option Nat := none
  /-- The feedback of the last sample, for the derivative of PID. -/
  lastY : Option Word := none
  /-- The filtered derivative of PID (R353). -/
  deriv : Word := 0
  /-- Samples in a row with |e| at or below LOCK_TOL (R360). -/
  lockRun : Nat := 0
  /-- The run of skipped samples: count and the last one (R356). -/
  skips : Nat := 0
  lastSkip : Option Nat := none
  /-- The dancer is outside its limits (R363). -/
  outside : Bool := false
  /-- Latest signals: ref, fb, err, out, inject, integrator, repetitive term (R374). -/
  sig : List Word := [0, 0, 0, 0, 0, 0, 0]
  deriving DecidableEq, Repr

/-- An HV channel beside its registers (R366, R367). -/
structure HvSt where
  /-- The latest voltage and current, binary32. -/
  v : Word := 0
  i : Word := 0
  /-- Energy of the present 1 ms bin and of the last 100 bins, newest first, in µJ, binary32. -/
  acc : Word := 0
  bins : List Word := []
  deriving DecidableEq, Repr

/-- A fuser zone beside its registers (R370). -/
structure FuserSt where
  acc : Nat := 0
  /-- P in 1/65,536. -/
  power : Nat := 0
  deriving DecidableEq, Repr

/-- The injection running (R373). -/
structure Inj where
  cmd : Nat
  tag : Nat
  part : Nat
  slot : Nat
  point : Nat
  kind : Nat
  order : Nat
  hold : Nat
  n : Nat
  amp : Word
  f0 : Word
  f1 : Word
  /-- Parameter bytes 0x11 to 0x27 of the command (R473). -/
  params : List Byte := []
  /-- Samples injected, the first sample instant, and the state of the PRBS generator, whose low bit is the present bit of the sequence. -/
  done : Nat := 0
  t0 : Option Nat := none
  lfsr : Nat := 1
  /-- The injection has ended and waits for the capture it started. -/
  ended : Bool := false
  startedCap : Bool := false
  deriving DecidableEq, Repr

/-- An input of Windlass as it stood before a change: a slow-ADC channel, an HV channel's voltage and current, the follow demand, or the latched feedback channels (R354, R358). -/
inductive WlInput where
  | adc (ch : Nat) (w : Word)
  | hv (k : Nat) (v i : Word)
  | demand (w : Word)
  | feedback (l : List FbCopy)
  deriving DecidableEq, Repr

/-- The follow inputs (R361, R501). -/
structure FollowIn where
  /-- The levels of FOLLOW_A and FOLLOW_B accepted last, and in the last sample. -/
  a : Bool := false
  b : Bool := false
  rawA : Bool := false
  rawB : Bool := false
  /-- The net pulses or counts of each of the last 1,000 µs, newest first. -/
  window : List Int := []
  deriving DecidableEq, Repr

/-- What a MODEL table has seen of its drum (R364). -/
structure RcTrack where
  /-- The revolution of the last sample. -/
  turn : Option Int := none
  /-- The last passage of bin 0: its instant and its position in 1/65,536 count. -/
  passage : Option (Nat × Int) := none
  /-- The revolution before it: its duration in ns and its travel in 1/65,536 count. -/
  before : Option (Nat × Int) := none
  deriving DecidableEq, Repr

/-- Windlass beside its registers (R351 to R376). -/
structure Windlass where
  slots : List SlotSt := List.replicate 96 {}
  hv : List HvSt := List.replicate 24 {}
  zones : List FuserSt := List.replicate 8 {}
  /-- The slow ADC's next channel, and conversions since a channel was last recorded (R358, R474). -/
  adc : Nat := 0
  thinned : List Nat := List.replicate 24 0
  /-- Mains: the last crossing, the last valid one, valid half-periods in a row (R369). -/
  zcAt : Option Nat := none
  zcValid : Option Nat := none
  zcRun : Nat := 0
  /-- Follow: the demand in sub-lines/s (binary32), runs open (bit 0 warn, bit 1 clamp), since when below 98 % (R361, R362). -/
  demand : Word := 0
  follow : FollowIn := {}
  runs : Nat := 0
  below : Option Nat := none
  /-- The belt slot read at PRIME, PRIME_SPEED then, and whether the engine owns its SETPOINT (R359). -/
  belt : Nat := 0
  speed : Nat := 0
  owned : Bool := false
  inj : Option Inj := none
  /-- The Windlass capture region: samples newest first, executions until the next one, and the tag and the partition its record carries where a LOOP_INJECT started it (R374, R408, R509). -/
  cap : List (List Word) := []
  capWait : Nat := 0
  capTag : Nat := 0
  capPart : Option Nat := none
  /-- Bytes of the active repetitive-control banks that learning changed since the last master copy, with the master's values (R24, R364). -/
  unsaved : List Host.Cell := []
  /-- What the drum of each repetitive-control table has done (R364). -/
  tracks : List RcTrack := List.replicate 16 {}
  /-- Inputs before their changes, with the instants of the changes, newest first, as far back as a slot's waiting sample reaches (R354, R358). -/
  past : List (Nat × WlInput) := []
  deriving DecidableEq, Repr

end Sys2Proof.Machine
end

