-- ==== Sys2Proof/Machine/State.lean ====
section
/-! DEFINITION. The state of the block: time, the record merge unit, the chip, and the queue of commands that wait.
-/
namespace Sys2Proof.Machine

/-- What stops the machine: nothing of the spec does, so no meaning answers with it. -/
inductive Fault where
  /-- No meaning raises it: the spec ends no command of the table without an effect (safe). -/
  | unreached
  deriving DecidableEq, Repr

/-- Why a command has no meaning. -/
inductive Refusal where
  /-- A row of the opcode table that has no meaning yet (safe: the model stops where the block goes on). -/
  | notModelled (mnemonic : String)
  deriving DecidableEq, Repr

/-- The units of the chip beside the clock and the record merge unit. -/
structure Chip where
  /-- The register file: offsets whose word differs from its reset value (R39, R41). -/
  regs : List (Nat × Word) := []
  /-- The shadow and the active banks of the table window, byte by byte, where they differ from the ROM defaults (R55, R463). -/
  shadow : List Host.Cell := []
  active : List Host.Cell := []
  /-- Default placement banks: the MIRROR_NOM, clamped, that each tile's were generated from, 0 while none (R463). -/
  nominal : List Nat := List.replicate 64 0
  /-- Zero bytes that a placement bank was given before the defaults of its tile were generated: whether of the active bank, and the offset (R463). -/
  zeros : List (Bool × Nat) := []
  /-- HI words latched by a read of their LO word: port and offset (R72, R73). -/
  latch : List (Nat × Word) := []
  guards : List GuardPend := []
  /-- Events of each sequence-clear register since its last successful clear, up to 255 (R49). -/
  sqCount : List (Nat × Nat) := []
  ports : List PortSt := [{}, {}]
  xlat : Xlat := {}
  dma : Dma := {}
  txn : TxnUnit := {}
  pages : List Page := []
  chain : Option Chain := none
  lanes : List Lane := List.replicate 8 {}
  slots : List CtxSlot := List.replicate 8 {}
  eng : Eng := {}
  safety : Safety := {}
  sump : Sump := {}
  tiles : List Tile := List.replicate 64 {}
  stns : List Stn := List.replicate 8 {}
  belt : Belt := {}
  seam : Seam := {}
  drives : List Drive := List.replicate 12 {}
  encs : List Enc := List.replicate 12 {}
  halls : List Hall := List.replicate 12 {}
  biss : List Biss := List.replicate 4 {}
  /-- The copies of the 12 incremental and 4 BiSS channels that Windlass and the sweep scheduler read (R474). -/
  fbCopy : List FbCopy := List.replicate 16 {}
  mules : List Mule := List.replicate 16 {}
  wl : Windlass := {}
  /-- Free values taken so far: the model's own field, the argument of the Config constants. -/
  free : Nat := 0
  /-- What the last command handed to the record merge unit, and what it sent outside: the model's own observation. -/
  emits : List Emit := []
  outs : List Out := []
  deriving DecidableEq, Repr

/-- The whole block. -/
structure State where
  clock : Clock := {}
  merge : Merge := {}
  chip : Chip := {}
  /-- The tasks of the ROM firmware (R94). -/
  firm : Firmware := {}
  /-- The commands that wait, first in, first out. -/
  pending : List Instr := []
  deriving DecidableEq, Repr

/-- The STATE_CHANGE record of a cold start: AWAKE to AWAKE with cause 1, sequence number 0, engine time 0 (R459, R440, R448). [DESIGN CHOICE: log 11] -/
def coldRecord : Rec :=
  { tag := 0, seq := 0, time := 0, status := 0x80, opcode := 0, part := 0, detail := 0x111 }

/-- The machine right after reset: a cold start, no port up and no partition attached. Every register reads its reset value; the record of the cold start waits for PART_0, the only enabled partition (R459, R442, R99, R509). [DESIGN CHOICE: log 10] -/
def State.reset : State := { merge := { nextSeq := 1, held := [(0, coldRecord)] } }

end Sys2Proof.Machine
end

