-- ==== Sys2Proof/Machine/Ops.lean ====
section
/-! DEFINITION. The named operations over the state: registers and fields, event registers, records, outputs, free values, and how a command runs in time.
-/
namespace Sys2Proof.Machine

/-- What a command sees beside the chip: the engine time at which it acts and the record merge unit before it. -/
structure Ctx where
  now : Nat
  merge : Merge
  /-- The firmware's ready tasks as the command before this one left them (R94). -/
  ready : List FwTask

/-- Engine states by code (R32). -/
def St.sleep : Nat := 0
def St.awake : Nat := 1
def St.idle : Nat := 2
def St.primed : Nat := 3
def St.printing : Nat := 4
def St.safeStop : Nat := 5
def St.replay : Nat := 6

/-- The word a register-window offset holds. [DESIGN CHOICE: log 8] -/
def Chip.reg (c : Chip) (off : Nat) : Word := Sparse.get RegMap.resetOf off c.regs

/-- Give a register-window offset a word. [DESIGN CHOICE: log 8] -/
def Chip.setReg (c : Chip) (off : Nat) (v : Word) : Chip :=
  { c with regs := Sparse.put RegMap.resetOf off v c.regs }

/-- The value of a field. -/
def Chip.fld (c : Chip) (f : BitField) : Nat := bits (c.reg f.off).toNat f.hi f.lo

/-- Give a field a value; the rest of its register stays. -/
def Chip.setFld (c : Chip) (f : BitField) (v : Nat) : Chip :=
  c.setReg f.off (BitVec.ofNat 32 (putBits (c.reg f.off).toNat f.hi f.lo v))

/-- A one-bit field as a truth value. -/
def Chip.flag (c : Chip) (f : BitField) : Bool := c.fld f != 0

/-- Set or clear a one-bit field. -/
def Chip.setFlag (c : Chip) (f : BitField) (b : Bool) : Chip := c.setFld f (b2n b)

/-- A field read as a signed number. -/
def Chip.fldS (c : Chip) (f : BitField) : Int := signed (f.hi + 1 - f.lo) (c.fld f)

/-- Give a field a signed number. -/
def Chip.setFldS (c : Chip) (f : BitField) (v : Int) : Chip := c.setFld f (pattern (f.hi + 1 - f.lo) v)

/-- Add to a counting field, which saturates at its greatest value. -/
def Chip.bump (c : Chip) (f : BitField) (n : Nat := 1) : Chip :=
  c.setFld f (satN (2 ^ (f.hi + 1 - f.lo) - 1) (c.fld f + n))

/-- A 64-bit or 48-bit value held in a LO and a HI register. -/
def Chip.pair (c : Chip) (lo hi : Nat) : Nat := (c.reg lo).toNat + (c.reg hi).toNat * 2 ^ 32

/-- Give a LO and HI register a value. -/
def Chip.setPair (c : Chip) (lo hi v : Nat) : Chip :=
  (c.setReg lo (BitVec.ofNat 32 v)).setReg hi (BitVec.ofNat 32 (v / 2 ^ 32))

/-- The events of a sequence-clear register since its last successful clear (R49). -/
def Chip.sqSeen (c : Chip) (off : Nat) : Nat :=
  match c.sqCount.find? (fun e => e.1 == off) with
  | some e => e.2
  | none => 0

/-- Set the count of events of a sequence-clear register. -/
def Chip.setSqSeen (c : Chip) (off n : Nat) : Chip :=
  { c with sqCount := (if n = 0 then [] else [(off, n)]) ++ c.sqCount.filter (fun e => e.1 != off) }

/-- An event of a sequence-clear register: its bit is set; SEQ counts up to the 255th event since the last clear, which also sets OVR (R48, R49). -/
def Chip.raise (c : Chip) (ev : Nat × Nat) : Chip :=
  let w := (c.reg ev.1).toNat
  let n := c.sqSeen ev.1
  let w1 := putBits w ev.2 ev.2 1
  if 255 ≤ n then c.setReg ev.1 (BitVec.ofNat 32 w1)
  else
    let w2 := putBits w1 31 24 (bits w 31 24 + 1)
    let w3 := if n = 254 then putBits w2 23 23 1 else w2
    (c.setReg ev.1 (BitVec.ofNat 32 w3)).setSqSeen ev.1 (n + 1)

/-- The engine state code (R32). -/
def Chip.state (c : Chip) : Nat := c.fld Fld.GLOBAL_STATUS_ENGINE_STATE

/-- The fast clocks run: not in SLEEP and not held in reset (R24, R378). -/
def Chip.fast (c : Chip) : Bool := c.state != St.sleep && !c.eng.down

/-- Hand an item to the record merge unit. -/
def Chip.emit (c : Chip) (e : Emit) : Chip := { c with emits := c.emits ++ [e] }

/-- Raise an event record for every enabled partition (R509). -/
def Chip.event (c : Chip) (status : Nat) (tag detail : Nat := 0) : Chip :=
  c.emit (.event { status := status, tag := tag, detail := detail })

/-- Raise an event record for one partition, with the opcode it carries (R408, R509). -/
def Chip.eventTo (c : Chip) (p status opcode tag detail : Nat) : Chip :=
  c.emit (.event { status := status, opcode := opcode, tag := tag, detail := detail, dest := .part p })

/-- Fix a command's outcome (R444). -/
def Chip.result (c : Chip) (slot status : Nat) (detail : Nat := 0) : Chip := c.emit (.result slot status detail)

/-- A command takes its first effect (R444). -/
def Chip.started (c : Chip) (slot : Nat) : Chip := c.emit (.started slot)

/-- Send something outside. [DESIGN CHOICE: log 133] -/
def Chip.send (c : Chip) (o : Out) : Chip := { c with outs := c.outs ++ [o] }

/-- Drive an output. [DESIGN CHOICE: log 132, 133] -/
def Chip.pin (c : Chip) (name : String) (index value : Nat) : Chip := c.send (.pin name index value)

/-- Take a free word: nothing constrains it. [DESIGN CHOICE: log 9] -/
def Chip.freeWord (c : Chip) : Word × Chip := (Config.freeWord c.free, { c with free := c.free + 1 })

/-- Take a free number. [DESIGN CHOICE: log 9] -/
def Chip.freeNat (c : Chip) : Nat × Chip := (Config.freeNat c.free, { c with free := c.free + 1 })

/-- Take a free decision. [DESIGN CHOICE: log 9] -/
def Chip.freeBool (c : Chip) : Bool × Chip := (Config.freeBool c.free, { c with free := c.free + 1 })

/-- Apply an action for every element of a list, in order. -/
def Chip.each {α : Type} (c : Chip) (l : List α) (f : α → Chip → Chip) : Chip := l.foldl (fun c x => f x c) c

/-- Apply an action only under a condition. -/
def Chip.when (c : Chip) (b : Bool) (f : Chip → Chip) : Chip := if b then f c else c

/-- Change the state of xlat, the rest of the chip staying as it is. -/
def Chip.updXlat (c : Chip) (f : Xlat → Xlat) : Chip := { c with xlat := f c.xlat }

/-- Change the state of dma, the rest of the chip staying as it is. -/
def Chip.updDma (c : Chip) (f : Dma → Dma) : Chip := { c with dma := f c.dma }

/-- Change the state of txn, the rest of the chip staying as it is. -/
def Chip.updTxn (c : Chip) (f : TxnUnit → TxnUnit) : Chip := { c with txn := f c.txn }

/-- Change the state of eng, the rest of the chip staying as it is. -/
def Chip.updEng (c : Chip) (f : Eng → Eng) : Chip := { c with eng := f c.eng }

/-- Change the state of safety, the rest of the chip staying as it is. -/
def Chip.updSafety (c : Chip) (f : Safety → Safety) : Chip := { c with safety := f c.safety }

/-- Change the state of sump, the rest of the chip staying as it is. -/
def Chip.updSump (c : Chip) (f : Sump → Sump) : Chip := { c with sump := f c.sump }

/-- Change the state of seam, the rest of the chip staying as it is. -/
def Chip.updSeam (c : Chip) (f : Seam → Seam) : Chip := { c with seam := f c.seam }

/-- Change the state of wl, the rest of the chip staying as it is. -/
def Chip.updWl (c : Chip) (f : Windlass → Windlass) : Chip := { c with wl := f c.wl }

/-- One of the tiles. -/
def Chip.tile (c : Chip) (i : Nat) : Tile := c.tiles.getD i {}

/-- Change one of the tiles. -/
def Chip.updTile (c : Chip) (i : Nat) (f : Tile → Tile) : Chip := { c with tiles := updAt c.tiles i f }

/-- One of the stns. -/
def Chip.stn (c : Chip) (i : Nat) : Stn := c.stns.getD i {}

/-- Change one of the stns. -/
def Chip.updStn (c : Chip) (i : Nat) (f : Stn → Stn) : Chip := { c with stns := updAt c.stns i f }

/-- One of the drives. -/
def Chip.drive (c : Chip) (i : Nat) : Drive := c.drives.getD i {}

/-- Change one of the drives. -/
def Chip.updDrive (c : Chip) (i : Nat) (f : Drive → Drive) : Chip := { c with drives := updAt c.drives i f }

/-- One of the encs. -/
def Chip.enc (c : Chip) (i : Nat) : Enc := c.encs.getD i {}

/-- Change one of the encs. -/
def Chip.updEnc (c : Chip) (i : Nat) (f : Enc → Enc) : Chip := { c with encs := updAt c.encs i f }

/-- One of the halls. -/
def Chip.hall (c : Chip) (i : Nat) : Hall := c.halls.getD i {}

/-- Change one of the halls. -/
def Chip.updHall (c : Chip) (i : Nat) (f : Hall → Hall) : Chip := { c with halls := updAt c.halls i f }

/-- One of the biss. -/
def Chip.bissCh (c : Chip) (i : Nat) : Biss := c.biss.getD i {}

/-- Change one of the biss. -/
def Chip.updBiss (c : Chip) (i : Nat) (f : Biss → Biss) : Chip := { c with biss := updAt c.biss i f }

/-- One of the mules. -/
def Chip.mule (c : Chip) (i : Nat) : Mule := c.mules.getD i {}

/-- Change one of the mules. -/
def Chip.updMule (c : Chip) (i : Nat) (f : Mule → Mule) : Chip := { c with mules := updAt c.mules i f }

/-- One of the lanes. -/
def Chip.lane (c : Chip) (i : Nat) : Lane := c.lanes.getD i {}

/-- Change one of the lanes. -/
def Chip.updLane (c : Chip) (i : Nat) (f : Lane → Lane) : Chip := { c with lanes := updAt c.lanes i f }

/-- One of the slots. -/
def Chip.slot (c : Chip) (i : Nat) : CtxSlot := c.slots.getD i {}

/-- Change one of the slots. -/
def Chip.updSlot (c : Chip) (i : Nat) (f : CtxSlot → CtxSlot) : Chip := { c with slots := updAt c.slots i f }

/-- One of the ports. -/
def Chip.port (c : Chip) (i : Nat) : PortSt := c.ports.getD i {}

/-- Change one of the ports. -/
def Chip.updPort (c : Chip) (i : Nat) (f : PortSt → PortSt) : Chip := { c with ports := updAt c.ports i f }

/-- A port is down (R96). -/
def Chip.portDown (c : Chip) (q : Port) : Bool := c.flag (Fld.HOST_PORT_STATUS_DOWN q.num)

/-- The port that owns a partition (R72, R80). -/
def Chip.owner (c : Chip) (p : Nat) : Port := Port.ofNum (b2n (bit (c.fld Fld.GLOBAL_PART_OWNER_OWNER_PORT) p))

/-- A partition is enabled. -/
def Chip.enabled (c : Chip) (p : Nat) : Bool := bit (c.fld Fld.GLOBAL_PART_OWNER_ENABLE) p

/-- A partition is attached (R100). -/
def Chip.attached (c : Chip) (p : Nat) : Bool := c.flag (Fld.HOST_PART_CTL_ATTACH p)

/-- A partition can take records, its queue having room (R99). -/
def Chip.taking (c : Chip) (p : Nat) : Bool := c.enabled p && c.attached p && !c.portDown (c.owner p)

/-- The privilege classes of a partition; PART_0 holds all four (R81). -/
def Chip.classes (c : Chip) (p : Nat) : Nat := if p = 0 then 0xF else c.fld (Fld.HOST_PART_PRIV_CLASS p)

/-- The partitions a port owns. -/
def Chip.ownedBy (c : Chip) (q : Port) : List Nat := (List.range 8).filter fun p => c.owner p == q

/-- The Sump ring in imaging SRAM: 2 MiB (R27, R477). -/
def sumpRing : Nat := 2097152

/-- Why a record cannot be stored while the Sump ring is full: port down, host ring full under HOLD, or the ring alone (R481). [DESIGN CHOICE: log 129] -/
def Chip.fullCause (c : Chip) : Nat :=
  if c.portDown (c.owner (c.fld Fld.SUMP_STATUS_PART)) then 2
  else if c.flag Fld.SUMP_CFG_RETAIN && decide (c.sump.rd + c.sump.size
      ≤ c.pair Reg.SUMP_WR_LO Reg.SUMP_WR_HI + 65600) then 4
  else 1

/-- Take a Sump record while the recorder records and its source bit is on (R473). A record that cannot be stored opens a gap, and one that falls into a gap is lost (R481). -/
def Chip.sumpRec (c : Chip) (srcBit : Option Nat) (typ src time : Nat) (words : List Word) : Chip :=
  let st := c.fld Fld.SUMP_STATUS_STATE
  let on := (st == 1 || st == 2) && !c.sump.freezing && (match srcBit with | none => true | some b => bit c.sump.sources b)
  if !on then c
  else
    let n := 8 + 4 * words.length
    match c.sump.gap with
    | some (t0, cause, lost) => c.updSump fun s => { s with gap := some (t0, cause, lost + 1) }
    | none =>
      if sumpRing < c.sump.openBytes + c.sump.closedBytes + n then c.updSump fun s => { s with gap := some (time, c.fullCause, 1) }
      else c.updSump fun s => { s with open_ := ⟨typ, src, time, words⟩ :: s.open_, openBytes := s.openBytes + n }

/-- The fast clocks advance engine time by `dt` ns of REF, corrected by `corr` in 1/65,536 ppm; while they stand still the Wellhead counts instead (R5, R29, R398). [DESIGN CHOICE: log 1, 14] -/
def Clock.elapse (k : Clock) (running : Bool) (corr : Int) (dt : Nat) : Clock :=
  if running then
    let n := (dt : Int) * 65536000000 - dt * corr + k.rest
    { k with time := k.time + (n / 65536000000).toNat, rest := (n % 65536000000).toNat }
  else { k with slept := k.slept + dt, sinceRead := k.sinceRead + dt }

/-- Whole Wellhead ticks of 1/32,768 s in an interval, as ns (R29). [DESIGN CHOICE: log 15] -/
def wellTicks (ns : Nat) : Nat := ns * 32768 / 1000000000 * 1000000000 / 32768

/-- Engine time when the fast clocks restart: the value at the stop plus the corrected Wellhead interval, and at least 1 more (R29). `corr` sums ns × ppm × 2^16. [DESIGN CHOICE: log 15] -/
def Clock.restart (k : Clock) : Clock :=
  let d : Int := (wellTicks k.slept : Int) + k.corr / (1000000 * 65536)
  { k with time := k.time + max 1 d.toNat, slept := 0, sinceRead := 0, corr := 0 }

end Sys2Proof.Machine
end

