-- ==== Sys2Proof/Machine/Tables.lean ====
section
/-! DEFINITION. The table window: where each instance lies, the ROM defaults, the two banks, the checks of a bank, and the switch with its copy (R55 to R58, R214 to R216, R228 to R232, R246, R247, R338, R463).
-/
namespace Sys2Proof.Machine

/-- The byte ranges of a table instance in the table window, in image order (R55, R56). -/
def tableRanges (inst : Nat) : List (Nat × Nat) :=
  let k := inst / 4096
  let i := inst % 4096
  if k = 1 ∧ i < 128 then [(i * 0x1000, 4096), (0x80000 + i * 0x40, 64)]
  else if k = 2 ∧ i < 8 then [(0xA0000 + i * 0x80, 128)]
  else if k = 3 ∧ i < 8 then [(0xA1000 + i * 0x400, 1024)]
  else if k = 4 ∧ i < 64 then [(0xA4000 + i * 0x80, 128)]
  else if k = 5 ∧ i < 64 then [(0xB0000 + i * 0x200, 512)]
  else if k = 6 ∧ i < 16 then [(0xC0000 + i * 0x400, 514)]
  else if k = 7 ∧ i < 16 then [(0xD0000 + i * 0x1000, 4096)]
  else []

/-- The instance that a table-window offset of the shadow half belongs to (R55, R56). -/
def tableAt (off : Nat) : Option Nat :=
  if off < 0x80000 then some (0x1000 + off / 0x1000)
  else if off < 0x82000 then some (0x1000 + (off - 0x80000) / 0x40)
  else if 0xA0000 ≤ off ∧ off < 0xA0400 then some (0x2000 + (off - 0xA0000) / 0x80)
  else if 0xA1000 ≤ off ∧ off < 0xA3000 then some (0x3000 + (off - 0xA1000) / 0x400)
  else if 0xA4000 ≤ off ∧ off < 0xA6000 then some (0x4000 + (off - 0xA4000) / 0x80)
  else if 0xB0000 ≤ off ∧ off < 0xB8000 then some (0x5000 + (off - 0xB0000) / 0x200)
  else if 0xC0000 ≤ off ∧ off < 0xC4000 ∧ (off - 0xC0000) % 0x400 < 514 then some (0x6000 + (off - 0xC0000) / 0x400)
  else if 0xD0000 ≤ off ∧ off < 0xE0000 then some (0x7000 + (off - 0xD0000) / 0x1000)
  else none

/-- The switch unit that owns an instance (R56, R73). -/
def tableUnit (inst : Nat) : Nat :=
  let k := inst / 4096
  let i := inst % 4096
  if k = 1 then 16 + i / 2
  else if k = 2 ∨ k = 3 then 8 + i
  else if k = 4 ∨ k = 5 then 16 + i
  else if k = 6 then 96 + i
  else 5

/-- MIRROR_NOM as the default banks use it (R463). -/
def nomClamp (nom : Nat) : Nat := if nom < 2000 then 2000 else if 8000 < nom then 8000 else nom

/-- The half-period of the default banks, in 1/64 ns (R463). -/
def nomHalf (nom : Nat) : Nat := 32000000000 / nomClamp nom

/-- SPAN_NOM of the default banks (R463). [DESIGN CHOICE: log 78] -/
def nomSpan (nom : Nat) : Nat := (nomHalf nom * 92 + 50) / 100

/-- A value with 64 fraction bits rounded to nearest. -/
def qRound (x : Int) : Int := (x + q1 / 2) / q1

/-- Entry j of a default placement bank, j = 1,024 being END_TIME (R463). [DESIGN CHOICE: log 78] -/
def nomEntry (nom dir j : Nat) : Nat :=
  let y : Int := qmul ((640 * (j : Int) - 327680) * q1 / 327680) (qsin (qPi * 32 / 100))
  let s := qdiv (qasin y * (nomHalf nom : Int)) qPi
  let h := (nomSpan nom : Int) * q1 / 2
  (qRound (if dir = 0 then h + s else h - s)).toNat

/-- The header bytes 0x00 to 0x3B of a default placement bank (R215, R463). [DESIGN CHOICE: log 78] -/
def nomHeader (nom dir : Nat) : List Byte :=
  leBytes 4 (nomEntry nom dir 1024) ++ leBytes 4 (nomSpan nom) ++ leBytes 2 0 ++ leBytes 2 0 ++ leBytes 2 10239
    ++ List.replicate 46 0

/-- TABLE_CRC of a default placement bank. [DESIGN CHOICE: log 78] -/
def nomCrc (nom dir : Nat) : Nat :=
  crc32 ((List.range 1024).flatMap (fun j => leBytes 4 (nomEntry nom dir j)) ++ nomHeader nom dir)

/-- Entry i of the default microstep table (R338). -/
def sineEntry (i : Nat) : Nat := (qRound (32767 * qsin (qPi * (i : Int) / 512))).toNat

/-- The ROM default of a byte of the table window; the placement banks of a tile read 0 until its defaults were generated (R232, R247, R338, R463). -/
def tableDefault (nominal : List Nat) (off : Nat) : Byte :=
  if off < 0x82000 then
    let i := if off < 0x80000 then off / 0x1000 else (off - 0x80000) / 0x40
    let nom := nominal.getD (i / 2) 0
    if nom = 0 then 0
    else if off < 0x80000 then BitVec.ofNat 8 (nomEntry nom (i % 2) (off % 0x1000 / 4) / 256 ^ (off % 4))
    else
      let k := (off - 0x80000) % 0x40
      if k < 60 then (nomHeader nom (i % 2)).getD k 0 else BitVec.ofNat 8 (nomCrc nom (i % 2) / 256 ^ (k - 60))
  else if 0xA0000 ≤ off ∧ off < 0xA0400 then
    BitVec.ofNat 8 (((off % 0x40 / 4 * 8192 * 2 + 15) / 30) / 256 ^ (off % 4))
  else if 0xA1000 ≤ off ∧ off < 0xA3000 then BitVec.ofNat 8 (256 / 256 ^ (off % 4))
  else if 0xA4000 ≤ off ∧ off < 0xA6000 then BitVec.ofNat 8 (1024 / 256 ^ (off % 4))
  else if 0xB0000 ≤ off ∧ off < 0xB8000 then BitVec.ofNat 8 (283 / 256 ^ (off % 2))
  else if 0xC0000 ≤ off ∧ off < 0xC4000 then BitVec.ofNat 8 (sineEntry ((off - 0xC0000) % 0x400 / 2) / 256 ^ (off % 2))
  else 0

/-- A byte of a bank: the shadow half, or the active image (R55). -/
def Chip.tabByte (c : Chip) (act : Bool) (off : Nat) : Byte :=
  Sparse.get (tableDefault c.nominal) off (if act then c.active else c.shadow)

/-- The tile whose placement banks hold an offset of the table window. -/
def placementTile (off : Nat) : Option Nat :=
  if off < 0x80000 then some (off / 0x2000) else if off < 0x82000 then some ((off - 0x80000) / 0x80) else none

/-- Note whether a byte of a placement bank whose defaults are not generated yet was given as 0 (R463). [DESIGN CHOICE: log 78] -/
def Chip.noteZero (c : Chip) (act : Bool) (off : Nat) (b : Byte) : Chip :=
  if (placementTile off).any fun t => c.nominal.getD t 0 == 0 then
    { c with zeros := (if b = 0 then [(act, off)] else []) ++ c.zeros.filter fun z => z != (act, off) }
  else c

/-- Give a byte of a bank a value. -/
def Chip.setTabByte (c : Chip) (act : Bool) (off : Nat) (b : Byte) : Chip :=
  let c := c.noteZero act off b
  if act then { c with active := Sparse.put (tableDefault c.nominal) off b c.active }
  else { c with shadow := Sparse.put (tableDefault c.nominal) off b c.shadow }

/-- The `n`-byte little-endian entry at an offset of a bank. -/
def Chip.tabNat (c : Chip) (act : Bool) (off n : Nat) : Nat := leNat ((List.range n).map fun i => c.tabByte act (off + i))

/-- Write bytes into a bank. -/
def Chip.setTabBytes (c : Chip) (act : Bool) : Nat → List Byte → Chip
  | _, [] => c
  | off, b :: l => Chip.setTabBytes (c.setTabByte act off b) act (off + 1) l

/-- The bytes of an instance in a bank, in image order. -/
def Chip.tabImage (c : Chip) (act : Bool) (inst : Nat) : List Byte :=
  (tableRanges inst).flatMap fun r => (List.range r.2).map fun i => c.tabByte act (r.1 + i)

/-- Exchange the roles of the two banks of an instance (R56). -/
def Chip.swapBanks (c : Chip) (inst : Nat) : Chip :=
  let mine (a : Nat) : Bool := (tableRanges inst).any fun r => decide (r.1 ≤ a) && decide (a < r.1 + r.2)
  let a := c.active.filter fun e => mine e.1
  let s := c.shadow.filter fun e => mine e.1
  let put (l : List Host.Cell) (es : List Host.Cell) : List Host.Cell :=
    es.foldl (fun l e => Sparse.put (tableDefault c.nominal) e.1 e.2 l) l
  { c with
    active := put (c.active.filter fun e => !mine e.1) s, shadow := put (c.shadow.filter fun e => !mine e.1) a
    zeros := c.zeros.map fun z => if mine z.2 then (!z.1, z.2) else z }

/-- Copy the active bank of an instance into its shadow bank (R56, R57). -/
def Chip.copyBank (c : Chip) (inst : Nat) : Chip :=
  let mine (a : Nat) : Bool := (tableRanges inst).any fun r => decide (r.1 ≤ a) && decide (a < r.1 + r.2)
  let add := c.active.filter fun e => mine e.1
  let rest := c.shadow.filter fun e => !mine e.1
  let zs := c.zeros.filter fun z => z.1 || !mine z.2
  { c with
    shadow := add.foldl (fun l e => Sparse.put (tableDefault c.nominal) e.1 e.2 l) rest
    zeros := zs ++ (zs.filter fun z => z.1 && mine z.2).map fun z => (false, z.2) }

/-- The bytes of a word that lie in a table, into the shadow bank. -/
def Chip.putTableWord (c : Chip) (off : Nat) (w : Word) : Chip :=
  ((leBytes 4 w.toNat).zip (List.range 4)).foldl (fun (c : Chip) e =>
    if (tableAt (off + e.2)).isSome then c.setTabByte false (off + e.2) e.1 else c) c

/-- What the master copies hold of an instance is its active bank: nothing of it is unsaved (R24, R56). -/
def Chip.masterCopied (c : Chip) (inst : Nat) : Chip :=
  c.updWl fun w => { w with unsaved := w.unsaved.filter fun (e : Host.Cell) =>
    !((tableRanges inst).any fun r => decide (r.1 ≤ e.1) && decide (e.1 < r.1 + r.2)) }

/-- The post-switch copy of an instance completes: the shadow bank equals the active one, in its mark too, the master copy is up to date, and the writes held for it take effect (R56, R57, R338). -/
def Chip.tableCopied (c : Chip) (inst : Nat) : Chip :=
  match c.txn.copying.find? fun e => e.1 == inst with
  | none => c
  | some e =>
    let c := ((c.copyBank inst).masterCopied inst).updTxn fun x => { x with
      copying := x.copying.filter fun k => k.1 != inst
      pendBad := (if x.bad.contains inst then [inst] else []) ++ x.pendBad.filter fun n => n != inst }
    e.2.foldl (fun (c : Chip) h => c.putTableWord h.1 h.2) c

/-- The bank image of a placement instance that goes to a head: 1,040 words (R278). -/
def Chip.bankWords (c : Chip) (act : Bool) (t dir : Nat) : List Word :=
  let i := t * 2 + dir
  ((List.range 1024).map fun j => BitVec.ofNat 32 (c.tabNat act (i * 0x1000 + 4 * j) 4))
    ++ (List.range 16).map fun j => BitVec.ofNat 32 (c.tabNat act (0x80000 + i * 0x40 + 4 * j) 4)

/-- The CRC-32 of a bank image by R215. -/
def bankCrcOf (ws : List Word) : Nat := crc32 ((ws.take 1039).flatMap fun w => leBytes 4 w.toNat)

/-- Times rise strictly, or fall strictly. -/
def monotone (up : Bool) : List Nat → Bool
  | a :: b :: l => (if up then decide (a < b) else decide (b < a)) && monotone up (b :: l)
  | _ => true

/-- A placement bank passes R216: CRC, fields that must be 0, ranges, and the monotony of its 1,024 segment entries (R214). -/
def placementOk (dir : Nat) (ws : List Word) : Bool :=
  let ns := ws.map (·.toNat)
  let h (k n : Nat) : Nat := leNat (((ns.drop 1024).flatMap (leBytes 4)).drop k |>.take n)
  let within (x : Int) : Bool := decide (-2048 ≤ x) && decide (x ≤ 2047)
  ns.getD 1039 0 == bankCrcOf ws
    && (ns.take 1026).all (fun n => decide (n < 2 ^ 24))
    && monotone (dir == 0) (ns.take 1024)
    && within (signed 16 (h 8 2)) && decide (h 10 2 ≤ 10239) && decide (h 10 2 ≤ h 12 2) && decide (h 12 2 ≤ 10239)
    && h 14 2 == 0 && h 48 12 == 0
    && (List.range 16).all (fun e => within (signed 16 (h (16 + 2 * e) 2)))

/-- How an entry of a level, history scale or trim bank fails: none, out of range, or only a must-be-0 bit (R232). -/
def entryFail (kind w : Nat) : Option Bool :=
  let range : Bool :=
    if kind = 2 then decide (8192 < bits w 13 0) || bits w 18 14 == 16
    else if kind = 3 then decide (bits w 8 0 < 128) || decide (256 < bits w 8 0)
    else decide (bits w 10 0 < 512) || decide (1536 < bits w 10 0)
  let zero : Bool := if kind = 2 then bits w 31 19 != 0 else if kind = 3 then bits w 31 9 != 0 else bits w 31 11 != 0
  if range then some false else if zero then some true else none

/-- The first failing entry of an exposure bank: its index and whether it fails only a must-be-0 bit. -/
def Chip.expoFail (c : Chip) (act : Bool) (inst : Nat) : Option (Nat × Bool) :=
  let bs := c.tabImage act inst
  let n := bs.length / 4
  (List.range n).findSome? fun i =>
    (entryFail (inst / 4096) (leNat ((bs.drop (4 * i)).take 4))).map fun z => (i, z)

/-- The first failing entry of a handover bank against the overlap latched for the station (R247). -/
def Chip.handoverFail (c : Chip) (act : Bool) (t : Nat) : Option Nat :=
  let s := (c.tile t).stn
  (List.range 256).find? fun i => decide ((c.stn s).overlap < c.tabNat act (0xB0000 + t * 0x200 + 2 * i) 2)

/-- The first failing entry of a microstep bank (R338). -/
def Chip.microFail (c : Chip) (act : Bool) (m : Nat) : Option Nat :=
  let w (i : Nat) : Nat := c.tabNat act (0xC0000 + m * 0x400 + 2 * i) 2
  (List.range 257).find? fun i => decide (32767 < w i) || (i == 0 && w 0 != 0) || (decide (0 < i) && decide (w i < w (i - 1)))

/-- Check the shadow bank of an instance whose switch is scheduled: whether it fails, and the report of the failure (R216, R232, R247, R338). -/
def Chip.checkBank (c : Chip) (inst : Nat) : Bool × Chip :=
  let k := inst / 4096
  let i := inst % 4096
  if k = 1 then
    if placementOk (i % 2) (c.bankWords false (i / 2) (i % 2)) then (false, c)
    else (true, (c.raise (Ev.TILE_PLACE_EVENT_TABLE_BAD (i / 2))).event Rc.PLACEMENT_TABLE_BAD 0 (i / 2 + i % 2 * 64))
  else if k = 2 ∨ k = 3 ∨ k = 4 then
    match c.expoFail false inst with
    | none => (false, c)
    | some (e, z) =>
      let s := if k = 4 then (c.tile i).stn else i
      (true, (c.raise (Ev.STATION_EXPO_EVENT_EXPO_TABLE_BAD s)).event Rc.EXPO_TABLE_BAD 0 (inst + e * 65536 + b2n z * 2 ^ 24))
  else if k = 5 then
    match c.handoverFail false i with
    | none => (false, c)
    | some e => (true, (c.raise Ev.SEAM_EVENT_HANDOVER_BAD).event Rc.HANDOVER_BAD 0 (i + e * 256))
  else if k = 6 then
    match c.microFail false i with
    | none => (false, c)
    | some e => (true, (c.raise (Ev.MULE_EVENT_MICROSTEP_BAD i)).event Rc.MICROSTEP_BAD 0 (i + e * 256))
  else (false, c)

/-- The active bank of an instance has failed its check. -/
def Chip.bankBad (c : Chip) (inst : Nat) : Bool := c.txn.bad.contains inst || c.eng.invalid.contains inst

end Sys2Proof.Machine
end

