-- ==== Sys2Proof/Machine/TroughCore.lean ====
section
/-! DEFINITION. The downlink of a tile: frames, the window, KILL, bank loads and the mirror drive (R264 to R279, R467).
-/
namespace Sys2Proof.Machine

/-- Link states (R288). -/
def Lk.off : Nat := 0
def Lk.train : Nat := 1
def Lk.ident : Nat := 2
def Lk.align : Nat := 3
def Lk.tables : Nat := 4
def Lk.up : Nat := 5
def Lk.failed : Nat := 6
def Lk.refused : Nat := 7

/-- The state of a tile's link. -/
def Chip.link (c : Chip) (t : Nat) : Nat := c.fld (Fld.TILE_LINK_STATUS_STATE t)

/-- Set the state of a tile's link. -/
def Chip.setLink (c : Chip) (t n : Nat) : Chip := c.setFld (Fld.TILE_LINK_STATUS_STATE t) n

/-- The engine sends on a downlink: the link has left OFF and has not failed or been refused. -/
def Chip.talks (c : Chip) (t : Nat) : Bool := c.fast && decide (Lk.train ≤ c.link t) && decide (c.link t ≤ Lk.up)

/-- A downlink carries blocks: its link has left OFF. -/
def Chip.lit (c : Chip) (t : Nat) : Bool := c.fast && c.link t != Lk.off

/-- The tile is enabled by TILE.CFG. -/
def Chip.tileOn (c : Chip) (t : Nat) : Bool := c.flag (Fld.TILE_CFG_ENABLE t)

/-- The station of a tile and its position index, as read at its link's bring-up and at PRIME (R291). -/
def Chip.stationOf (c : Chip) (t : Nat) : Nat := (c.tile t).stn
def Chip.positionOf (c : Chip) (t : Nat) : Nat := (c.tile t).pos

/-- The engine reads a tile's TILE.CFG (R291). -/
def Chip.latchTile (c : Chip) (t : Nat) : Chip :=
  c.updTile t fun x => { x with stn := c.fld (Fld.TILE_CFG_STATION t), pos := c.fld (Fld.TILE_CFG_POSITION t) }

/-- The enabled tiles of a station (R213). -/
def Chip.tilesOf (c : Chip) (s : Nat) : List Nat := (List.range 64).filter fun t => c.tileOn t && c.stationOf t == s

/-- The enabled tiles. -/
def Chip.onTiles (c : Chip) : List Nat := (List.range 64).filter c.tileOn

/-- A station is configured: it holds an enabled tile (R411). -/
def Chip.configured (c : Chip) (s : Nat) : Bool := !(c.tilesOf s).isEmpty

/-- One bit through the scrambler x^58 + x^39 + 1, whose register holds the last bits on the lane: the bit sent and the register after it (R266). -/
def scrambleBit (reg : Nat) (b : Bool) : Bool × Nat :=
  let o := b != (bit reg 38 != bit reg 57)
  (o, (2 * reg + b2n o) % 2 ^ 58)

/-- One bit through the descrambler (R266). -/
def descrambleBit (reg : Nat) (b : Bool) : Bool × Nat := (b != (bit reg 38 != bit reg 57), (2 * reg + b2n b) % 2 ^ 58)

/-- Bits through one of the two, in order. -/
def throughBits (f : Nat → Bool → Bool × Nat) : Nat → List Bool → List Bool × Nat
  | reg, [] => ([], reg)
  | reg, b :: l =>
    let (o, reg) := f reg b
    let (os, reg) := throughBits f reg l
    (o :: os, reg)

/-- The number whose bits are given, bit 0 first. -/
def natOfBits (l : List Bool) : Nat := l.foldr (fun b n => b2n b + 2 * n) 0

/-- Blocks as they go over a lane: sync header 1 for data and 2 for control, and 8 bytes scrambled, byte 0 and within it bit 0 first (R266). -/
def laneBlocks : Nat → List (Nat × List Byte) → List LaneBlock
  | _, [] => []
  | reg, (sync, bs) :: l =>
    let (o, reg) := throughBits scrambleBit reg (bs.flatMap fun b => (List.range 8).map fun i => bit b.toNat i)
    { sync := BitVec.ofNat 2 sync, data := BitVec.ofNat 64 (natOfBits o) } :: laneBlocks reg l

/-- Put blocks on the downlink lane, after IDLE blocks of which the manual does not fix the number: the scrambler's register is then a free value (R266, R267). [DESIGN CHOICE: log 146] -/
def Chip.putLane (c : Chip) (t : Nat) (l : List (Nat × List Byte)) : Chip :=
  let (n, c) := c.freeNat
  c.send (.lane t (laneBlocks (n % 2 ^ 58) l))

/-- Put control blocks of one type on the downlink, in succession (R266). -/
def Chip.putBlocks (c : Chip) (t typ n : Nat) (bytes : List Byte) : Chip :=
  (c.each (List.range n) fun _ c => c.send (.block t typ bytes)).putLane t (List.replicate n (2, BitVec.ofNat 8 typ :: bytes))

/-- The data blocks of a frame's body. -/
def dataBlocks : Nat → List Byte → List (Nat × List Byte)
  | 0, _ => []
  | n + 1, l => (1, l.take 8) :: dataBlocks n (l.drop 8)

/-- The header of a downlink frame: SEQ, NBLK, PEER_ACK, FLAGS, VER (R269). [DESIGN CHOICE: log 73] -/
def frameHdr (seq blocks : Nat) (x : Tile) (seqd retx : Bool) : List Byte :=
  leBytes 2 seq ++ leBytes 1 (blocks - 1) ++ leBytes 2 (x.rxNext + 65535)
    ++ leBytes 1 (b2n seqd + 2 * b2n x.rxAny + 4 * b2n x.nak + 8 * b2n retx) ++ leBytes 1 1

/-- The body of a frame: its message, zero bytes and the CRC over header and body (R269, R270). [DESIGN CHOICE: log 73] -/
def frameBody (hdr msg : List Byte) (blocks : Nat) : List Byte :=
  let b := msg ++ List.replicate (8 * blocks - 4 - msg.length) 0
  b ++ leBytes 4 (crc32 (hdr ++ b))

/-- Put a frame with one message on the downlink. [DESIGN CHOICE: log 73] -/
def Chip.putFrame (c : Chip) (t seq : Nat) (msg : List Byte) (seqd retx : Bool) : Chip :=
  let blocks := max 1 (cdiv (msg.length + 4) 8)
  let hdr := frameHdr seq blocks (c.tile t) seqd retx
  let body := frameBody hdr msg blocks
  (c.send (.frame t hdr body)).putLane t ((2, 0x78 :: hdr) :: dataBlocks blocks body)

/-- The window of unacknowledged sequenced frames of the engine (R271). -/
def dnWindow : Nat := 32

/-- Send the frames that wait as far as the window allows. [DESIGN CHOICE: log 73] -/
def Chip.pump (now t : Nat) : Nat → Chip → Chip
  | 0, c => c
  | n + 1, c =>
    let x := c.tile t
    match x.waiting with
    | [] => c
    | f :: rest =>
      if dnWindow ≤ x.flight.length then c
      else
        let f : DnFrame := { f with seq := x.txSeq, copies := 1, at_ := now }
        let c := c.putFrame t f.seq f.msg true false
        let mark (l : List BankLoad) : List BankLoad := l.map fun (b : BankLoad) =>
          if f.load = some b.bank then { b with sentAt := some now } else b
        let c := c.updTile t fun x => { x with
          waiting := rest, flight := x.flight ++ [f], txSeq := (x.txSeq + 1) % 65536, loads := mark x.loads }
        Chip.pump now t n c

/-- A message: TYPE, byte 1, MLEN and the fields (R270). -/
def msgBytes (typ b1 : Nat) (fields : List Byte) : List Byte := leBytes 1 typ ++ leBytes 1 b1 ++ leBytes 2 (4 + fields.length) ++ fields

/-- Send a message: TYPE, byte 1 and the fields after the header. A link that does not work takes none. [DESIGN CHOICE: log 73] -/
def Chip.sendMsg (c : Chip) (now t typ b1 : Nat) (fields : List Byte) (load : Option Nat := none) : Chip :=
  if !c.talks t then c else
  let c := c.updTile t fun x => { x with waiting := x.waiting ++ [{ msg := msgBytes typ b1 fields, load := load }] }
  Chip.pump now t (c.tile t).waiting.length c

/-- Show whether a KILL cause persists for a tile (R279). -/
def Chip.showKill (c : Chip) (t : Nat) : Chip := c.setFlag (Fld.TILE_LINK_STATUS_KILL_ACTIVE t) ((c.tile t).kill != 0)

/-- The KILL message: a link that has failed or was refused keeps no copy of its frame (R274, R279). [DEDUCED: log 80] -/
def Chip.killMsg (c : Chip) (now t cause : Nat) : Chip :=
  let fields := leBytes 2 cause ++ leBytes 2 0
  if c.talks t then c.sendMsg now t 0x08 0 fields
  else (c.putFrame t (c.tile t).txSeq (msgBytes 0x08 0 fields) true false).updTile t fun x => { x with txSeq := (x.txSeq + 1) % 65536 }

/-- A KILL run on every downlink that carries blocks: 8 KILL blocks and the KILL message; the cause persists from now (R279). [DEDUCED: log 80] -/
def Chip.kill (c : Chip) (now t cause : Nat) : Chip :=
  let c := if c.lit t then (c.putBlocks t 0x2D 8 (List.replicate 7 0xA5)).killMsg now t cause else c
  (c.updTile t fun x => { x with kill := if bit x.kill (cause - 1) then x.kill else x.kill + 2 ^ (cause - 1) }).showKill t

/-- A KILL cause ends for a tile. [DEDUCED: log 80] -/
def Chip.unkill (c : Chip) (t cause : Nat) : Chip :=
  (c.updTile t fun x => { x with kill := if bit x.kill (cause - 1) then x.kill - 2 ^ (cause - 1) else x.kill }).showKill t

/-- KILL on every link (R279). -/
def Chip.killAll (c : Chip) (now cause : Nat) : Chip := c.each (List.range 64) fun t c => c.kill now t cause

/-- A KILL cause ends on every link. -/
def Chip.unkillAll (c : Chip) (cause : Nat) : Chip := c.each (List.range 64) fun t c => c.unkill t cause

/-- LASER_BIAS with the 16 codes, each at most the station's BIAS_MAX; REARM ends KILL cause 3. A link that does not work takes no code (R277, R279, R291). -/
def Chip.sendBias (c : Chip) (now t : Nat) (codes : List Nat) (rearm : Bool) : Chip :=
  if !c.talks t then c else
  let top := c.fld (Fld.STATION_CEIL_BIAS_BIAS_MAX (c.stationOf t))
  let l := (List.range 16).map fun e => min top (codes.getD e 0)
  let c := c.each (List.range 16) fun e c => c.setFld (Fld.TILE_BIAS_VALUE t e) (l.getD e 0)
  let c := c.sendMsg now t 0x05 0 (leBytes 2 (b2n rearm) ++ leBytes 2 0 ++ l.flatMap fun v => leBytes 2 v)
  if rearm then c.unkill t 3 else c

/-- The bias codes last sent to a tile. -/
def Chip.biasOf (c : Chip) (t : Nat) : List Nat := (List.range 16).map fun e => c.fld (Fld.TILE_BIAS_VALUE t e)

/-- MIRROR_DRIVE with the tile's present frequency and amplitude (R467, R371). -/
def Chip.sendDrive (c : Chip) (now t : Nat) : Chip :=
  let x := c.tile t
  c.sendMsg now t 0x04 0 (leBytes 4 x.freq ++ leBytes 2 x.ampl ++ leBytes 2 (b2n x.driven))

/-- Disable the mirror drive. -/
def Chip.stopMirror (c : Chip) (now t : Nat) : Chip :=
  if (c.tile t).driven then
    (c.updTile t fun x => { x with
      driven := false, startAt := none, stamped := false, locked := false
      goodRun := 0, badRun := 0, missRun := 0, sensed := false, spanSeen := [false, false] }).sendDrive now t
  else c

/-- Send a bank image in 5 TABLE_SEG messages, the first with START, the last one marked (R278). -/
def Chip.sendBank (c : Chip) (now t bank : Nat) (ws : List Word) : Chip :=
  c.each (List.range 5) fun i c =>
    let part := (ws.drop (i * 208)).take 208
    c.sendMsg now t 0x06 0
      (leBytes 1 (bank / 2 + bank % 2 * 2 + b2n (i == 0) * 4) ++ leBytes 1 0 ++ leBytes 2 (i * 208) ++ leBytes 2 208 ++ leBytes 2 0
        ++ part.flatMap fun w => leBytes 4 w.toNat)
      (if i = 4 then some bank else none)

/-- A frame no longer stands for the load of a bank. -/
def DnFrame.forget (bank : Nat) (f : DnFrame) : DnFrame := if f.load = some bank then { f with load := none } else f

/-- Begin a bank load: the bank counts as unacknowledged until the head reports it, and the frames of an earlier load of it say nothing of this one (R217, R278). [DESIGN CHOICE: log 78] -/
def Chip.loadBank (c : Chip) (now t bank : Nat) (ws : List Word) : Chip :=
  let l : BankLoad := { bank := bank, words := ws, crc := (ws.getD 1039 0).toNat }
  let c := c.updTile t fun x => { x with
    loads := x.loads.filter (fun (b : BankLoad) => b.bank != bank) ++ [l]
    flight := x.flight.map (DnFrame.forget bank), waiting := x.waiting.map (DnFrame.forget bank)
    bankCrc := updAt x.bankCrc bank fun _ => none }
  c.sendBank now t bank ws

/-- A bank was acknowledged by the head. -/
def Chip.bankReady (c : Chip) (t bank : Nat) : Bool := ((c.tile t).bankCrc.getD bank none).isSome

/-- The bank in use of each direction was acknowledged by the head (R217). -/
def Chip.inUseReady (c : Chip) (t : Nat) : Bool := [0, 1].all fun d => c.bankReady t (2 * d + (c.tile t).bankUse.getD d 0)

/-- Begin the loads of all four banks: the active bank of each direction into both of the head's, but a bank whose switch is scheduled into the one not in use (R217, R288, R289). [DESIGN CHOICE: log 78] -/
def Chip.loadAllBanks (c : Chip) (now t : Nat) : Chip :=
  c.each (List.range 4) fun b c =>
    let d := b / 2
    let next := c.txn.commits.any fun (m : Commit) => m.entries.contains (.table (0x1000 + 2 * t + d)) && m.left.contains (16 + t)
    let act := !next || (c.tile t).bankUse.getD d 0 == b % 2
    c.loadBank now t b (c.bankWords act t d)

/-- Count retransmitted frames (R272). -/
def Chip.countRetx (c : Chip) (t n : Nat) : Chip :=
  if n = 0 then c
  else (c.bump (Fld.TILE_LINK_COUNT_RETX t) n).each (List.range n) fun _ c => c.raise (Ev.TILE_LINK_EVENT_LINK_RETX t)

/-- Resend the frames in flight, oldest first; a frame sent 8 times is not sent again (R271). [DESIGN CHOICE: log 73] -/
def Chip.resend (c : Chip) (now t : Nat) : Chip :=
  let again := (c.tile t).flight.filter fun (f : DnFrame) => decide (f.copies < 8)
  let c := c.each again fun f c => c.putFrame t f.seq f.msg true true
  let c := c.updTile t fun x => { x with
    flight := x.flight.map fun (f : DnFrame) => if f.copies < 8 then { f with copies := f.copies + 1, at_ := now } else f }
  c.countRetx t again.length

/-- An acknowledgement of every frame up to a SEQ (R271). -/
def Chip.ackUpTo (c : Chip) (now t seq : Nat) : Chip :=
  let x := c.tile t
  match x.flight.find? fun (f : DnFrame) => f.seq == seq with
  | none => c
  | some _ =>
    let back (s : Nat) : Nat := (seq + 65536 - s) % 65536
    let gone := x.flight.filter fun (f : DnFrame) => decide (back f.seq < 32768)
    let loads := gone.filterMap (·.load)
    let c := c.updTile t fun x => { x with
      flight := x.flight.filter fun (f : DnFrame) => !decide (back f.seq < 32768)
      loads := x.loads.map fun (b : BankLoad) => if loads.contains b.bank then { b with acked := true } else b }
    Chip.pump now t (c.tile t).waiting.length c

end Sys2Proof.Machine
end

