-- ==== Sys2Proof/Machine/PageCore.lean ====
section
/-! DEFINITION. Pages and chains as every unit sees them: due positions, the cut of an abort, lost tiles and defects (R8, R141, R146, R152 to R159, R208).
-/
namespace Sys2Proof.Machine

/-- Belt position in sub-lines (R6). -/
def Chip.beltPos (c : Chip) : Nat := c.belt.acc / 65536 % 2 ^ 48

/-- The station offset in force for a page (R141). -/
def Page.offset (p : Page) (s : Nat) : Nat :=
  match p.offsets.find? (fun x => x.1 == s) with
  | some x => x.2
  | none => 0

/-- The first station of a page: least offset, then lowest index (R146). -/
def Page.firstStn (p : Page) : Nat :=
  (p.stns.foldl (fun (b : Option (Nat × Nat)) x =>
    let o := p.offset x.station
    match b with
    | none => some (o, x.station)
    | some (o', s') => if o < o' ∨ (o = o' ∧ x.station < s') then some (o, x.station) else b) none).elim 0 (·.2)

/-- The offset of the page's first and last station. -/
def Page.firstOffset (p : Page) : Nat := p.offset p.firstStn
def Page.lastOffset (p : Page) : Nat := maxN (p.stns.map fun x => p.offset x.station)

/-- The lines of a page with its mark strip (R159, R255). -/
def Page.total (p : Page) : Nat := p.lines + (if p.strip then 24 * p.markM else 0)

/-- The due position of a line at a station (R8). -/
def Page.due (p : Page) (s n : Nat) : Nat := (p.origin.getD 0 + 64 * n + p.offset s) % 2 ^ 48

/-- The line of the page's first station at or after a belt position. -/
def Page.lineFrom (p : Page) (pos : Nat) : Nat := cdiv (beltDist pos (p.due p.firstStn 0)).toNat 64

/-- A position rounded up to the next line of the page's first station (R154). -/
def Page.roundUp (p : Page) (pos : Nat) : Nat := p.due p.firstStn (p.lineFrom pos)

/-- The send horizon of a page none of whose lines is planned: no line of it is due so early (R152, R206). [DESIGN CHOICE: log 64] -/
def Page.start (p : Page) : Nat := beltAdd (p.due p.firstStn 0) (-64)

/-- Change the page with an arming number. -/
def Chip.updPage (c : Chip) (seq : Nat) (f : Page → Page) : Chip :=
  { c with pages := c.pages.map fun (p : Page) => if p.seq == seq then f p else p }

/-- The page with an arming number. -/
def Chip.pageOf (c : Chip) (seq : Nat) : Option Page := c.pages.find? fun p => p.seq == seq

/-- The pages between their PAGE_START and PAGE_END records (R147). -/
def Chip.running (c : Chip) : List Page := c.pages.filter (·.running)

/-- Bits [31:0] of the tag of the page that runs, the latest started, or 0. -/
def Chip.runTag (c : Chip) : Nat := match c.running.getLast? with
  | some p => p.tag % 2 ^ 32
  | none => 0

/-- No further page joins the running chain (R150, R151). [DESIGN CHOICE: log 53] -/
def Chip.closeChain (c : Chip) (cause : Nat) : Chip :=
  match c.chain with
  | none => c
  | some h =>
    let c := { c with chain := some { h with closed := some (h.closed.getD cause) } }
    { c with pages := c.pages.map fun (p : Page) =>
        if p.joined && !p.running then { p with joined := false, origin := none } else p }

/-- Close the chain for an abort: the abort is why it ends (R151). [DESIGN CHOICE: log 56] -/
def Chip.breakChain (c : Chip) (cause : Nat) : Chip :=
  match c.chain with
  | none => c
  | some h => ({ c with chain := some { h with closed := some cause } }).closeChain cause

/-- FRONT of every station: the send horizon of the page whose lines its tiles plan, the latest running page of which they have planned a line, else the first running page that lists it (R206, R224). [DESIGN CHOICE: log 64] -/
def Chip.showFronts (c : Chip) : Chip :=
  c.each (List.range 8) fun s c =>
    let mine := c.running.filter fun p => p.stns.any (fun x => x.station == s) && p.horizon != p.start
    let begun (p : Page) : Bool := p.tiles.any fun t => c.stationOf t == s && decide (p.seq ≤ (c.tile t).planPage)
    match (match (mine.filter begun).getLast? with | some p => some p | none => mine.head?) with
    | some p => c.setPair (Reg.STATION_FRONT_LO s) (Reg.STATION_FRONT_HI s) p.horizon
    | none => c

/-- The lines decoded of a station. -/
def Page.decodedOf (p : Page) (s : Nat) : Nat := p.decoded.getD ((p.stns.findIdx? fun x => x.station == s).getD 0) 0

/-- The least due position, over the stations of a page that have one, of the first undecoded line; the station of a decoder error found after the last line has line LINES (R154, R177). [DESIGN CHOICE: log 57] -/
def Page.undecoded (p : Page) (error : Option Nat) : Option Nat :=
  let l := (List.range p.stns.length).filterMap fun i =>
    match p.stns[i]? with
    | some x => if p.decoded.getD i 0 < p.lines ∨ error = some x.station then some (p.due x.station (p.decoded.getD i 0)) else none
    | none => none
  l.foldl (fun (b : Option Nat) x => match b with
    | none => some x
    | some y => if beltAtOrAfter y x then some x else some y) none

/-- The cut of an abort: by the first undecoded line under the causes of R152, else by the send horizon (R154). [DESIGN CHOICE: log 56] -/
def Page.cutFor (p : Page) (byData : Bool) (error : Option Nat := none) : Nat :=
  p.roundUp (if byData then (p.undecoded error).getD p.horizon else p.horizon)

/-- The lanes whose page is cut decode no more: those that were decoding are idle (R177, R186). -/
def Chip.restLanes (c : Chip) : Chip :=
  c.each ((List.range 8).filter fun s => ((c.lane s).page.bind c.pageOf).any fun p => p.cut.isSome) fun s c =>
    if c.fld (Fld.CODEC_LANE_STATUS_STATE s) = 1 then c.setFld (Fld.CODEC_LANE_STATUS_STATE s) 0 else c

/-- A cut lies after the last line of the page at every station (R156). -/
def Page.cutPast (p : Page) (cut : Nat) : Bool :=
  p.stns.all fun x => cut != p.due x.station (p.total - 1) && beltAtOrAfter cut (p.due x.station (p.total - 1))

/-- Abort a running page, and every later running page with it: the first abort fixes the cut and the cause, and the chain ends (R152, R154, R156). [DESIGN CHOICE: log 56] -/
def Chip.abortPage (c : Chip) (seq cause station : Nat) (byData : Bool) : Chip :=
  let c := (c.running.filter fun p => decide (seq ≤ p.seq)).foldl (fun (c : Chip) p =>
    let cut := p.cutFor (byData && p.seq == seq) (if cause = 3 then some station else none)
    if p.cut.isSome || (p.cutPast cut && !(byData && p.seq == seq)) then c
    else c.updPage p.seq fun p => { p with cut := some cut, cutCause := cause, cutStation := station }) c
  c.restLanes.breakChain 3

/-- Abort every running page with a cause that names no station. [DESIGN CHOICE: log 56] -/
def Chip.abortAll (c : Chip) (cause : Nat) : Chip :=
  match c.running with
  | [] => c
  | p :: _ => c.abortPage p.seq cause 0 false

/-- A PAGE_DEFECT record: the first line not written (R158), and whether an emitter is the cause (R237). -/
def Chip.defect (c : Chip) (p : Page) (t line : Nat) (emitter : Bool) : Chip :=
  (c.updPage p.seq fun p => { p with defect := true }).eventTo p.part Rc.PAGE_DEFECT 0x20 p.tag
    (line % 2 ^ 24 + t * 2 ^ 24 + b2n emitter * 2 ^ 30 + line / 2 ^ 24 % 2 * 2 ^ 31)

/-- The first line of a page that a tile has not written: the first one planned in a sweep not yet past, else the first unplanned one (R158). [DESIGN CHOICE: log 57] -/
def Chip.firstUnwritten (c : Chip) (t : Nat) (p : Page) : Option Nat :=
  let x := c.tile t
  let waiting := x.plans.flatMap fun (k : Plan) => k.lines.filter fun l => l.page == p.seq
  match waiting with
  | l :: _ => some l.line
  | [] =>
    if x.planPage = p.seq then (if x.planLine < p.total then some x.planLine else none)
    else if x.planPage < p.seq then some 0
    else none

/-- A tile is lost for the running pages: it stops writing, and each running page that still had lines for it is defective (R158, R208). -/
def Chip.losePages (c : Chip) (t : Nat) : Chip :=
  let mine := c.running.filter fun p => p.tiles.contains t && !p.lost.contains t
  if mine.isEmpty then
    (if c.fld (Fld.TILE_SCHED_STATUS_STATE t) = 1 then c.setFld (Fld.TILE_SCHED_STATUS_STATE t) 0 else c)
  else
    let c := mine.foldl (fun (c : Chip) p =>
      match c.firstUnwritten t p with
      | some n => (c.defect p t n false).updPage p.seq fun p => { p with lost := t :: p.lost }
      | none => c.updPage p.seq fun p => { p with lost := t :: p.lost }) c
    if c.fld (Fld.TILE_SCHED_STATUS_STATE t) = 3 then c else c.setFld (Fld.TILE_SCHED_STATUS_STATE t) 2

/-- Declare a tile lost: KILL cause 3 is sent, and it is lost for the running pages (R158, R208, R279). -/
def Chip.loseTile (c : Chip) (now t : Nat) : Chip := (c.kill now t 3).losePages t

/-- The tile's placement, level, history and trim banks in use all passed their checks (R216, R232). -/
def Chip.banksGood (c : Chip) (t : Nat) : Bool :=
  let s := c.stationOf t
  !([0x1000 + 2 * t, 0x1001 + 2 * t, 0x2000 + s, 0x3000 + s, 0x4000 + t].any c.bankBad)

/-- The image channel of a station. -/
def Chip.img (c : Chip) (s : Nat) : ImgChan := c.dma.img.getD s {}

/-- Change an image channel. -/
def Chip.updImg (c : Chip) (s : Nat) (f : ImgChan → ImgChan) : Chip := c.updDma fun d => { d with img := updAt d.img s f }

/-- The descriptor on which a channel works. -/
def ImgChan.desc (k : ImgChan) : Option ImgDesc := k.descs[k.index]?

/-- Show an image channel in its registers: IMG_DESC is 0xFFFF_FFFF when it is idle, and from reset until it first works the 0 of the Reset column (R125, R131). [DESIGN CHOICE: log 48] -/
def Chip.showImg (c : Chip) (s : Nat) : Chip :=
  let k := c.img s
  let idle := (c.setReg (Reg.DMA_IMG_DESC s) 0xFFFFFFFF).setFld (Fld.DMA_CHAN_STATUS_STATE s) 0
  let idle := idle.each (List.range 4) fun w c => c.setReg (Reg.DMA_IMG_CUR s w) 0
  match k.page.bind c.pageOf, k.desc with
  | some p, some d =>
    let c := (c.setReg (Reg.DMA_IMG_DESC s) (BitVec.ofNat 32 k.index)).setFld (Fld.DMA_CHAN_STATUS_STATE s) (if k.halted then 4 else 1)
    let c := (c.setFld (Fld.DMA_CHAN_STATUS_PORT s) (c.owner p.part).num).setFld (Fld.DMA_CHAN_STATUS_PARTITION s) p.part
    let c := (c.setReg (Reg.DMA_IMG_CUR s 0) (BitVec.ofNat 32 d.addr)).setReg (Reg.DMA_IMG_CUR s 1) (BitVec.ofNat 32 (d.addr / 2 ^ 32))
    (c.setReg (Reg.DMA_IMG_CUR s 2) (BitVec.ofNat 32 d.len)).setReg (Reg.DMA_IMG_CUR s 3)
      (BitVec.ofNat 32 (d.band + (b2n d.lastBand + 2 * b2n d.lastPage) * 65536))
  | _, _ => idle

/-- The tile is up (R470): link up, beam-detect lock, not TABLE_BAD, and part of the last PRIME in PRIMED or PRINTING. -/
def Chip.tileUp (c : Chip) (t : Nat) : Bool :=
  let x := c.tile t
  c.link t == Lk.up && x.locked && c.fld (Fld.TILE_SCHED_STATUS_STATE t) != 3
    && (x.primed || !(c.state == St.primed || c.state == St.printing))

/-- Report a tile missing with a step, once until it is reported up (R469). [DESIGN CHOICE: log 79] -/
def Chip.tileMissing (c : Chip) (t step : Nat) : Chip :=
  if (c.tile t).missing then c
  else (c.updTile t fun x => { x with missing := true }).event Rc.TILE_MISSING t (step + c.link t * 256)

/-- Report a missing tile up again (R469). -/
def Chip.tileFound (c : Chip) (t : Nat) : Chip :=
  if (c.tile t).missing then
    (c.updTile t fun x => { x with missing := false }).event Rc.TILE_MISSING t (c.link t * 256)
  else c

end Sys2Proof.Machine
end

