-- ==== Sys2Proof/Machine/Merge.lean ====
section
/-! DEFINITION. The record merge unit and the Cistern journal: numbering of records, acceptance order and completion, held records, delivery, partition reset and journal recovery (R30, R31, R99, R100, R115 to R120, R405, R441 to R451, R457, R509).
-/
namespace Sys2Proof.Machine

/-- The rings and queues of a partition. -/
def Merge.part (m : Merge) (p : Nat) : PartQ := m.parts.getD p {}

/-- Change a partition's rings and queues. -/
def Merge.updPart (m : Merge) (p : Nat) (f : PartQ → PartQ) : Merge := { m with parts := updAt m.parts p f }

/-- The journal entry in a slot. -/
def Merge.entry (m : Merge) (slot : Nat) : Option JEntry := m.journal.find? fun e => e.slot == slot

/-- Change the journal entry in a slot. -/
def Merge.updEntry (m : Merge) (slot : Nat) (f : JEntry → JEntry) : Merge :=
  { m with journal := m.journal.map fun (e : JEntry) => if e.slot == slot then f e else e }

/-- The acceptance order of a ring. -/
def Merge.ringOrder (m : Merge) (p r : Nat) : List OrdItem := m.order.getD (4 * p + r) []

/-- Replace the acceptance order of a ring. -/
def Merge.setOrder (m : Merge) (p r : Nat) (l : List OrdItem) : Merge :=
  { m with order := updAt m.order (4 * p + r) fun _ => l }

/-- The completion record of a journal entry (R114, R445). -/
def JEntry.record (e : JEntry) : Rec :=
  { tag := e.tag, seq := BitVec.ofNat 64 e.cseq, time := BitVec.ofNat 64 e.ctime, status := BitVec.ofNat 8 e.status,
    opcode := BitVec.ofNat 8 e.opcode, ring := e.ring, part := e.part, detail := BitVec.ofNat 32 e.detail }

/-- The phase as the journal holds it (R445). -/
def Phase.code : Phase → Nat
  | .accepted => 0
  | .started => 1
  | .result => 2
  | .completed => 3

/-- The 32 bytes of a journal entry in retention SRAM: the acceptance with its phase, and once it has completed the completion record with entry in use, phase 3 and PHASE 0 (R114, R445). -/
def JEntry.image (e : JEntry) : List Byte :=
  let decided := e.phase == .result || e.phase == .completed
  let done := e.phase == .completed
  leBytes 8 e.tag.toNat ++ leBytes 8 (if done then e.cseq else e.seq) ++ leBytes 8 (if done then e.ctime else e.time)
    ++ [BitVec.ofNat 8 (if decided then e.status else 0), BitVec.ofNat 8 e.opcode,
      BitVec.ofNat 8 (8 + e.ring % 4 * 16 + e.phase.code * 64), BitVec.ofNat 8 (e.part % 8)]
    ++ leBytes 4 (if decided then e.detail else 0)

/-- The acceptance number that the array beside the journal keeps of a completed entry (R27, R445). -/
def JEntry.numberKept (e : JEntry) : Option Nat := if e.phase = .completed then some e.seq else none

/-- Records of an attach still stand before the parked transfers and the polling of a partition (R100). -/
def PartQ.resuming (q : PartQ) : Bool := q.writes.contains .resume

/-- Completion records waiting on the write channel. -/
def PartQ.queuedC (q : PartQ) : Nat :=
  (q.writes.filter fun w => match w with | .completion _ => true | .copy _ => true | _ => false).length

/-- Event records waiting on the write channel. -/
def PartQ.queuedE (q : PartQ) : Nat := (q.writes.filter fun w => match w with | .event _ => true | _ => false).length

/-- Slots of the completion queue that a new record may still take (R117). -/
def PartQ.roomC (q : PartQ) : Nat :=
  2 ^ (q.geom.getD {}).cqLog - ((q.cq.tail + 2 ^ 32 - q.cq.head) % 2 ^ 32 + q.queuedC)

/-- Slots of the event queue that a new record may still take (R117). -/
def PartQ.roomE (q : PartQ) : Nat :=
  2 ^ (q.geom.getD {}).eqLog - ((q.eq.tail + 2 ^ 32 - q.eq.head) % 2 ^ 32 + q.queuedE)

/-- Q_FULL of both queues: tail − head equals the size latched (R117, R130). -/
def PartQ.judgeFull (q : PartQ) : PartQ :=
  let full (z : Queue) (log : Nat) : Bool := q.geom.isSome && decide (2 ^ log ≤ (z.tail + 2 ^ 32 - z.head) % 2 ^ 32)
  let g := q.geom.getD {}
  { q with cq := { q.cq with isFull := full q.cq g.cqLog }, eq := { q.eq with isFull := full q.eq g.eqLog } }

/-- Insert an event record into a held list, which is kept in sequence order (R99). [DESIGN CHOICE: log 42] -/
def insertHeld (x : Nat × Rec) : List (Nat × Rec) → List (Nat × Rec)
  | [] => [x]
  | y :: l => if x.2.seq.toNat < y.2.seq.toNat then x :: y :: l else y :: insertHeld x l

/-- Note that an event record with this sequence number is lost for a partition (R99). [DESIGN CHOICE: log 42] -/
def PartQ.drop (q : PartQ) (seq : Nat) : PartQ :=
  { q with dropped := some (match q.dropped with
      | none => (seq, seq)
      | some (a, b) => (min a seq, max b seq)) }

/-- The reserve of R99: 16,384 records. [DESIGN CHOICE: log 42] -/
def heldCapacity : Nat := 16384

/-- The stop-record area of R99: 512 records. [DESIGN CHOICE: log 42] -/
def stopCapacity : Nat := 512

/-- Keep an event record that a partition cannot take now (R99). [DESIGN CHOICE: log 42] -/
def Merge.hold (m : Merge) (p : Nat) (r : Rec) : Merge :=
  if m.useStopArea then
    if m.stopArea.length < stopCapacity then { m with stopArea := m.stopArea ++ [(p, r)] }
    else m.updPart p (·.drop r.seq.toNat)
  else if m.held.length < heldCapacity then { m with held := insertHeld (p, r) m.held }
  else m.updPart p (·.drop r.seq.toNat)

/-- A partition has event records that must be written before any new one (R31, R99). -/
def Merge.backlogE (m : Merge) (p : Nat) : Bool :=
  m.held.any (fun h => h.1 == p) || m.stopArea.any (fun h => h.1 == p) || (m.part p).dropped.isSome

/-- Hand one copy of an event record to a partition's event queue, or hold it (R99, R117, R509). -/
def Merge.postEvent (c : Chip) (m : Merge) (p : Nat) (r : Rec) : Merge :=
  let r := { r with part := p }
  if c.taking p && !m.backlogE p then
    if (m.part p).roomE = 0 then m.hold p r
    else m.updPart p fun q => { q with writes := q.writes ++ [.event r] }
  else m.hold p r

/-- Number an event record and hand it to the partitions of R509. -/
def Merge.event (c : Chip) (now : Nat) (m : Merge) (e : Ev) : Rec × Merge :=
  let r : Rec := {
    tag := BitVec.ofNat 64 e.tag, seq := BitVec.ofNat 64 m.nextSeq,
    time := BitVec.ofNat 64 (e.time.getD now), status := BitVec.ofNat 8 e.status,
    opcode := BitVec.ofNat 8 e.opcode, detail := BitVec.ofNat 32 e.detail }
  let m := { m with nextSeq := m.nextSeq + 1 }
  let ps := match e.dest with
    | .part p => [p]
    | .enabled => (List.range 8).filter c.enabled
  (r, ps.foldl (fun m p => m.postEvent c p r) m)

/-- An entry of the partition completed earlier and not written yet stands before this one (R31). -/
def Merge.backlogC (m : Merge) (p cseq : Nat) : Bool :=
  m.journal.any fun e => e.part == p && e.phase == .completed && e.posting == .unwritten && decide (e.cseq < cseq)

/-- Queue the completion record of a COMPLETED entry if its partition can take it; else it stays in the journal (R99). -/
def Merge.postCompletion (c : Chip) (m : Merge) (e : JEntry) : Merge :=
  if c.taking e.part && !m.backlogC e.part e.cseq then
    if (m.part e.part).roomC = 0 then m
    else (m.updPart e.part fun q => { q with writes := q.writes ++ [.completion e.slot] }).updEntry e.slot
      fun x => { x with posting := .queued }
  else m

/-- Queue a JOURNAL copy, or keep it for a later delivery: the completions before it are written first (R405, R446). -/
def Merge.postCopy (c : Chip) (m : Merge) (p : Nat) (r : Rec) : Merge :=
  let r := { r with journal := true }
  if c.taking p && (m.part p).copies.isEmpty && !m.backlogC p m.nextSeq && decide (0 < (m.part p).roomC) then
    m.updPart p fun q => { q with writes := q.writes ++ [.copy r] }
  else m.updPart p fun q => { q with copies := q.copies ++ [r] }

/-- Complete the commands at the front of a ring's order whose outcome is fixed, each with its own sequence number, and answer the matched tags among them; one that waited for another takes the TIME of the instant at which that completes; a BARRIER entry waits for its read, and a command accepted at this instant for its number (R30, R115, R119, R405, R446). -/
def Merge.flushList (c : Chip) (now p : Nat) : List OrdItem → Merge → List OrdItem × Merge
  | [], m => ([], m)
  | .dupRec r :: l, m => Merge.flushList c now p l (m.postCopy c p r)
  | .dup slot :: l, m =>
    match m.entry slot with
    | none => Merge.flushList c now p l m
    | some e =>
      if e.phase = .completed then Merge.flushList c now p l (m.postCopy c p e.record)
      else (.dup slot :: l, m)
  | .cmd slot :: l, m =>
    match m.entry slot with
    | none => Merge.flushList c now p l m
    | some e =>
      if e.phase ≠ .result ∨ c.eng.accepting.contains slot then (.cmd slot :: l, m)
      else if e.barrier then
        if e.barriers = 0 then
          (.cmd slot :: l, (m.updEntry slot fun x => { x with barriers := 1 }).updPart p
            fun q => { q with fetches := q.fetches ++ [.barrier slot] })
        else (.cmd slot :: l, m)
      else
        let t := e.stamp.getD now
        let e' := { e with phase := .completed, cseq := m.nextSeq, ctime := t }
        let m := ({ m with nextSeq := m.nextSeq + 1 }).updEntry slot fun _ => e'
        Merge.flushList c t p l (m.postCompletion c e')

/-- Complete what a ring's order allows; nothing once both core pairs have failed (R453). -/
def Merge.flush (c : Chip) (now p r : Nat) (m : Merge) : Merge :=
  if c.eng.coresFailed then m else
  let (l, m) := Merge.flushList c now p (m.ringOrder p r) m
  m.setOrder p r l

/-- Fix a command's outcome and complete what its ring allows; a TIME of its own holds only if it completes at once (R405, R444). -/
def Merge.fixResult (c : Chip) (now : Nat) (m : Merge) (slot status detail : Nat) (stamp : Option Nat := none) : Merge :=
  match m.entry slot with
  | none => m
  | some e =>
    if e.phase = .completed ∨ e.phase = .result then m
    else ((m.updEntry slot fun x => { x with phase := .result, status := status, detail := detail % 2 ^ 32, stamp := stamp }).flush
      c now e.part e.ring).updEntry slot fun x => { x with stamp := none }

/-- Fix the outcome of a command that a check at its acceptance refuses; it completes once its acceptance is numbered (R30, R404). -/
def Merge.refuse (m : Merge) (slot status detail : Nat) : Merge :=
  m.updEntry slot fun x => { x with phase := .result, refused := true, status := status, detail := detail % 2 ^ 32 }

/-- The held-record reserve loses its contents; each partition keeps the first and last number lost (R99). [DESIGN CHOICE: log 42] -/
def Merge.loseHeld (m : Merge) : Merge :=
  let m' := m.held.foldl (fun m h => m.updPart h.1 (·.drop h.2.seq.toNat)) m
  { m' with held := [] }

/-- Put a tile event into the reorder window, by head stamp and then by tile; equal ones keep their arrival order (R457). [DESIGN CHOICE: log 44] -/
def insertReorder (x : Nat × Nat × Nat × Ev) : List (Nat × Nat × Nat × Ev) → List (Nat × Nat × Nat × Ev)
  | [] => [x]
  | y :: l =>
    if x.2.1 < y.2.1 ∨ (x.2.1 = y.2.1 ∧ x.2.2.1 < y.2.2.1) then x :: y :: l else y :: insertReorder x l

/-- The reorder window of R457 in ns. [DESIGN CHOICE: log 44] -/
def reorderWindow : Nat := 16000

/-- Take one item a command handed over; once both core pairs have failed no firmware starts or decides a command, and what is accepted waits in the journal for the next engine reset (R453). [DESIGN CHOICE: log 44] -/
def Merge.absorbOne (c : Chip) (now : Nat) (x : List Rec × Merge) : Emit → List Rec × Merge
  | .event e => let (r, m) := x.2.event c now e; (x.1 ++ [r], m)
  | .tileEvent tile stamp e =>
    if stamp + reorderWindow < now then
      let (r, m) := x.2.event c now { e with time := some stamp }; (x.1 ++ [r], m)
    else (x.1, { x.2 with reorder := insertReorder (now, stamp, tile, e) x.2.reorder })
  | .started slot =>
    if c.eng.coresFailed then x else
    (x.1, x.2.updEntry slot fun e => if e.phase = .accepted then { e with phase := .started } else e)
  | .result slot status detail => if c.eng.coresFailed then x else (x.1, x.2.fixResult c now slot status detail)
  | .resultAt slot status detail t => if c.eng.coresFailed then x else (x.1, x.2.fixResult c now slot status detail (some t))
  | .loseHeld => (x.1, x.2.loseHeld)
  | .stopArea on => (x.1, { x.2 with useStopArea := on })
  | .sealed => (x.1, { x.2 with sealed := true })
  | .amend slot status => (x.1, x.2.updEntry slot fun e =>
      if e.posting matches .written _ then e else { e with status := status, detail := 0 })

/-- Every record of a stop has been written, or is kept as R99 states: none waits on a write channel or in the reorder window (R99, R382). -/
def Merge.stopWritten (m : Merge) : Bool := m.reorder.isEmpty && m.parts.all fun q => q.queuedC == 0 && q.queuedE == 0

/-- Take everything a command handed over, in order; the numbered event records come back for the recorder (R30, R473). [DESIGN CHOICE: log 44] -/
def Merge.absorb (c : Chip) (now : Nat) (m : Merge) (l : List Emit) : List Rec × Merge :=
  l.foldl (Merge.absorbOne c now) ([], m)

/-- Enter the tile events whose window has ended (R457). [DESIGN CHOICE: log 44] -/
def Merge.endWindow (c : Chip) (now : Nat) (m : Merge) : List Rec × Merge :=
  let due := m.reorder.filter fun x => decide (x.2.1 + reorderWindow ≤ now)
  let m := { m with reorder := m.reorder.filter fun x => !decide (x.2.1 + reorderWindow ≤ now) }
  due.foldl (fun (a : List Rec × Merge) x =>
    let (r, m) := a.2.event c now { x.2.2.2 with time := some x.2.1 }; (a.1 ++ [r], m)) ([], m)

/-- A matched tag whose entry is freed keeps the record it will be answered with (R446). -/
def Merge.keepCopies (m : Merge) (e : JEntry) : Merge :=
  { m with order := m.order.map fun l => l.map fun i => if i = .dup e.slot then .dupRec e.record else i }

/-- Acknowledge the completion records below a CQ_HEAD: their journal entries are freed, JOURNAL copies forgotten (R444, R450). -/
def Merge.ackCompletions (m : Merge) (p head : Nat) : Merge :=
  let acked (e : JEntry) : Bool := e.part == p && (match e.posting with
    | .written c => decide ((head + 2 ^ 32 - (c + 1)) % 2 ^ 32 < 2 ^ 31)
    | _ => false)
  let m' := (m.journal.filter acked).foldl Merge.keepCopies m
  { m' with journal := m'.journal.filter fun (e : JEntry) => !acked e }.updPart p fun q => { q with
    copied := q.copied.filter fun k => !decide ((head + 2 ^ 32 - (k.1 + 1)) % 2 ^ 32 < 2 ^ 31) }

/-- Acknowledge event records below an EQ_HEAD. -/
def PartQ.ackEvents (q : PartQ) (head : Nat) : PartQ :=
  let outstanding := (q.eq.tail + 2 ^ 32 - head) % 2 ^ 32
  { q with eqUnacked := q.eqUnacked.drop (q.eqUnacked.length - outstanding) }

/-- Unreserved journal slots, and the slot reserved for a partition's SAFE_STOP (R447). [DESIGN CHOICE: log 40] -/
def unreservedSlots : Nat := 4088

/-- The most unreserved entries a partition may hold (R447). [DESIGN CHOICE: log 40] -/
def partitionCap : Nat := 2048

/-- The lowest unreserved slot that is free, tried from `n` slots up from `a`. [DESIGN CHOICE: log 40] -/
def Merge.freeSlot (m : Merge) : Option Nat :=
  (List.range unreservedSlots).find? fun k => !(m.journal.any fun e => e.slot == k)

/-- The slot an accepted command of a partition takes, none when acceptance stops (R447). [DESIGN CHOICE: log 40] -/
def Merge.slotFor (m : Merge) (p opcode : Nat) (ring : Nat) : Option Nat :=
  let mine := (m.journal.filter fun (e : JEntry) => e.part == p && decide (e.slot < unreservedSlots)).length
  match (if mine < partitionCap then m.freeSlot else none) with
  | some k => some k
  | none =>
    if ring = 0 ∧ opcode = 0x05 ∧ !(m.journal.any fun e => e.slot == unreservedSlots + p) then some (unreservedSlots + p)
    else none

/-- A live journal entry of the partition with this tag, the latest accepted first (R446). [DESIGN CHOICE: log 40] -/
def Merge.matchTag (m : Merge) (p : Nat) (tag : Dword) : Option JEntry :=
  m.journal.reverse.find? fun e => e.part == p && e.tag == tag

/-- Records of a partition that wait to be written, in sequence order: completions by their own number and events by theirs (R31). -/
def insertWrite (x : Nat × WItem) : List (Nat × WItem) → List (Nat × WItem)
  | [] => [x]
  | y :: l => if x.1 < y.1 then x :: y :: l else y :: insertWrite x l

/-- Queue the held records of a partition for which its queues have room, in sequence order, then its JOURNAL copies, then EVENTS_DROPPED if event records were lost (R99, R100, R117). -/
def Merge.deliver (c : Chip) (now p : Nat) (m : Merge) : List Rec × Merge :=
  if !c.taking p then ([], m) else
  let q := m.part p
  let waitC := (m.journal.filter fun (e : JEntry) => e.part == p && e.phase == .completed && e.posting == .unwritten)
  let sortC := waitC.foldl (fun l (e : JEntry) => insertWrite (e.cseq, WItem.completion e.slot) l) []
  let takeC := sortC.take q.roomC
  let waitE := ((m.stopArea ++ m.held).filter fun h => h.1 == p).map (·.2)
  let sortE := waitE.foldl (fun l (r : Rec) => insertWrite (r.seq.toNat, WItem.event r) l) []
  let takeE := sortE.take q.roomE
  let copies := if sortC.length ≤ q.roomC then q.copies.take (q.roomC - sortC.length) else []
  let gone (h : Nat × Rec) : Bool := h.1 == p && takeE.any fun w => w.1 == h.2.seq.toNat
  let items := (takeC.foldl (fun l x => insertWrite x l) takeE).map (·.2)
  let m := { m with
    held := m.held.filter fun h => !gone h
    stopArea := m.stopArea.filter fun h => !gone h
    journal := m.journal.map fun (e : JEntry) =>
      if takeC.any (fun w => w.2 == WItem.completion e.slot) then { e with posting := .queued } else e }
  let m := m.updPart p fun q => { q with
    writes := q.writes ++ items ++ copies.map WItem.copy
    copies := q.copies.drop copies.length }
  match q.dropped with
  | none => ([], m)
  | some (a, b) =>
    if sortE.length < q.roomE then
      let m := m.updPart p fun q => { q with dropped := none }
      let (r, m) := m.event c now { status := 0x95, tag := a, detail := b % 2 ^ 32, dest := .part p }
      ([r], m)
    else ([], m)

/-- A partition stops taking records: what was queued and not written goes back to the journal and the reserve; OWN clears stay to be reissued (R97, R99, R100). -/
def Merge.detach (m : Merge) (p : Nat) : Merge :=
  let q := m.part p
  let evs := q.writes.filterMap fun w => match w with | .event r => some (p, r) | _ => none
  let cps := q.writes.filterMap fun w => match w with | .copy r => some r | _ => none
  let m := m.updPart p fun q => { q with
    writes := q.writes.filter fun w => match w with | .ownClear _ _ _ => true | _ => false
    fetches := []
    busRetry := false
    waitPoll := false
    failed := none
    copies := cps ++ q.copies }
  let m := { m with journal := m.journal.map fun (e : JEntry) =>
    if e.part = p then
      { e with
        posting := if e.posting = .queued then .unwritten else e.posting
        barriers := if e.phase = .completed then e.barriers else 0 }
    else e }
  evs.foldl (fun m h => m.hold h.1 h.2) m

/-- Reissue the barrier reads and rewrites that an attach owes: every completion record written and not acknowledged, at its own count (R100). -/
def Merge.rewrites (m : Merge) (p : Nat) : List WItem :=
  let l := m.journal.filterMap fun (e : JEntry) =>
    if e.part = p then (match e.posting with | .written k => some (e.cseq, WItem.rewrite k e.record) | _ => none) else none
  let k := (m.part p).copied.map fun k => (k.2.seq.toNat, WItem.rewrite k.1 k.2)
  ((l ++ k).foldl (fun a x => insertWrite x a) []).map (·.2)

/-- Partition reset: counts to 0, geometry to be latched afresh, and every record not acknowledged to be written again from count 0 (R103, R450). Matched tags and accepted work stay. [DESIGN CHOICE: log 45] -/
def Merge.resetPart (m : Merge) (p : Nat) : Merge :=
  let m := m.detach p
  let old := m.part p
  let m := old.eqUnacked.foldl (fun m r =>
    if m.held.length < heldCapacity then { m with held := insertHeld (p, r) m.held }
    else m.updPart p (·.drop r.seq.toNat)) m
  let m := { m with journal := m.journal.map fun (e : JEntry) =>
    if e.part = p then { e with posting := .unwritten } else e }
  m.updPart p fun q => { copies := q.copied.map (·.2) ++ q.copies, dropped := q.dropped }

/-- The completion that journal recovery gives an entry (R449). -/
def recoveredResult (fix : Nat → Option (Nat × Nat)) (e : JEntry) : Nat × Nat :=
  match fix e.slot with
  | some r => r
  | none =>
    match e.phase with
    | .accepted => (0x07, 0)
    | .started => (0x07, 1)
    | _ => (e.status, e.detail)

/-- Journal entries by acceptance number. -/
def insertBySeq (x : JEntry) : List JEntry → List JEntry
  | [] => [x]
  | y :: l => if x.seq < y.seq then x :: y :: l else y :: insertBySeq x l

/-- Journal recovery after an engine reset or a power-on reset with the Wellhead held: every entry that is not COMPLETED completes, in sequence order, each with a new number; the records wait for the attach (R449). `fix` gives the outcome of commands whose commit the reset discarded or applied (R71). Held events and matched tags are lost (R99, R446). [DESIGN CHOICE: log 45] -/
def Merge.recover (now : Nat) (fix : Nat → Option (Nat × Nat)) (m : Merge) : Merge :=
  let m := m.loseHeld
  let m := (List.range 8).foldl (fun (m : Merge) p =>
    let evs := (m.part p).writes.filterMap fun w => match w with | .event r => some r.seq.toNat | _ => none
    m.updPart p fun q =>
      let q := evs.foldl PartQ.drop q
      { q with
        writes := q.writes.filter fun w => match w with | .ownClear _ _ _ => true | _ => false
        fetches := [], copies := [], copied := [], busRetry := false, waitPoll := false, failed := none, geom := none }.judgeFull) m
  let m := { m with
    order := List.replicate 32 []
    sealed := false
    useStopArea := false
    reorder := []
    journal := m.journal.map fun (e : JEntry) => if e.posting = Posting.queued then { e with posting := Posting.unwritten } else e }
  let todo := (m.journal.filter fun (e : JEntry) => e.phase != Phase.completed).foldl (fun l (e : JEntry) => insertBySeq e l) []
  todo.foldl (fun (m : Merge) e =>
    let r := recoveredResult fix e
    ({ m with nextSeq := m.nextSeq + 1 }).updEntry e.slot fun x =>
      { x with phase := .completed, status := r.1, detail := r.2, cseq := m.nextSeq, ctime := now, barrier := false }) m

/-- Every command accepted before this one on its ring that starts serially has completed (R405). -/
def serialOpcode (o : Nat) : Bool := !([0x01, 0x04, 0x05, 0x22, 0x23, 0x24, 0x30, 0x31, 0x32, 0x42, 0xF1].contains o)

/-- An accepted command may start now: the order of its ring and the FENCE order of its partition allow it: an earlier command that starts at acceptance has started, an earlier serial one has completed where this one is serial, and what a fence orders must have written its completion record, unless that record is held (R99, R120, R405, R441). [DESIGN CHOICE: log 40] -/
def Merge.mayStart (m : Merge) (e : JEntry) : Bool :=
  let older := m.journal.filter fun x => x.part == e.part && decide (x.seq < e.seq)
  let before := older.filter fun x => x.phase != .completed
  let unwritten := older.filter fun x => x.phase != .completed || x.posting == .queued
  let fenced (x : JEntry) : Bool := x.fence || x.opcode == 0xF0
  e.phase == .accepted
    && (!serialOpcode e.opcode || !(before.any fun x => x.ring == e.ring && serialOpcode x.opcode))
    && !(before.any fun x => x.ring == e.ring && !serialOpcode x.opcode && x.phase == .accepted)
    && (!fenced e || unwritten.isEmpty)
    && !(unwritten.any fenced)

/-- The journal entry of a command that may start with this opcode. [DESIGN CHOICE: log 5] -/
def Merge.startable (m : Merge) (slot opcode : Nat) : Option JEntry :=
  match m.entry slot with
  | some e => if e.opcode = opcode ∧ m.mayStart e then some e else none
  | none => none

end Sys2Proof.Machine
end

