-- ==== Sys2Proof/Machine/Siphon.lean ====
section
/-! DEFINITION. The Siphon codec: bit streams, predictors, contexts, code tables, run mode, the band decoder with its errors, and the service compressor (R160 to R182).
-/
namespace Sys2Proof.Machine

/-- A place in a bit stream: the bytes left, and how many bits of the first are taken (R161). -/
structure Cursor where
  bytes : List Byte
  used : Nat := 0
  /-- Bits taken since the start of the stream. -/
  pos : Nat := 0
  deriving DecidableEq, Repr

/-- Take one bit, most significant first. -/
def Cursor.bit (k : Cursor) : Option (Nat × Cursor) :=
  match k.bytes with
  | [] => none
  | b :: bs =>
    let v := b.toNat / 2 ^ (7 - k.used) % 2
    if k.used = 7 then some (v, { bytes := bs, used := 0, pos := k.pos + 1 })
    else some (v, { k with used := k.used + 1, pos := k.pos + 1 })

/-- Take an `n`-bit field, most significant bit first. -/
def Cursor.field : Nat → Nat → Cursor → Option (Nat × Cursor)
  | 0, acc, k => some (acc, k)
  | n + 1, acc, k => do
    let (b, k) ← k.bit
    Cursor.field n (acc * 2 + b) k

/-- Take whole bytes; the stream stands at a byte boundary. -/
def Cursor.take (k : Cursor) (n : Nat) : Option (List Byte × Cursor) :=
  if k.bytes.length < n then none else some (k.bytes.take n, { bytes := k.bytes.drop n, used := 0, pos := k.pos + 8 * n })

/-- The padding bits up to the next byte boundary are all 0; the place after them (R161). -/
def Cursor.pad (k : Cursor) : Bool × Cursor :=
  if k.used = 0 then (true, k) else
  match k.bytes with
  | [] => (true, k)
  | b :: bs => (b.toNat % 2 ^ (8 - k.used) == 0, { bytes := bs, used := 0, pos := k.pos + (8 - k.used) })

/-- The quantiser of R169. -/
def quant (n : Nat) : Nat := if n = 0 then 0 else if n ≤ 2 then 1 else if n ≤ 6 then 2 else 3

/-- The absolute difference of two dots. -/
def absDiff (a b : Nat) : Nat := if a < b then b - a else a - b

/-- The neighbours of a dot: a, b, c, d of R166. `cur` holds the dots of this line decoded so far, latest first; `up` the line above. -/
def neighbours (cur up : List Nat) (x : Nat) : Nat × Nat × Nat × Nat :=
  (cur.headD 0, up.getD x 0, if x = 0 then 0 else up.getD (x - 1) 0, up.getD (x + 1) 0)

/-- The context of a dot and its activity (R169). -/
def context (n : Nat × Nat × Nat × Nat) : Nat × Nat :=
  let q1 := quant (absDiff n.1 n.2.2.1)
  let q2 := quant (absDiff n.2.1 n.2.2.2)
  (4 * q1 + q2, max q1 q2)

/-- The prediction of a dot (R167). `up2` is the line two above. -/
def predict (pred period : Nat) (cur up up2 : List Nat) (x : Nat) : Nat :=
  let (a, b, c, _) := neighbours cur up x
  let s := if x < period then 0 else cur.getD (period - 1) 0
  if pred = 0 then a
  else if pred = 1 then b
  else if pred = 2 then
    (clampI (min (a : Int) b) (max (a : Int) b) ((a : Int) + b - c)).toNat
  else if pred = 3 then s
  else if pred = 4 then
    let su := if x < period then 0 else up.getD (x - period) 0
    (clampI 0 15 ((s : Int) + b - su)).toNat
  else up2.getD x 0

/-- The residue e of a mapped index m (R168). -/
def residueOf (m : Nat) : Nat := if m % 2 = 1 then (if m = 15 then 8 else (m + 1) / 2) else (16 - m / 2) % 16

/-- The mapped index of a residue (R168). -/
def indexOf (e : Nat) : Nat := if e = 0 then 0 else if e = 8 then 15 else if e < 8 then 2 * e - 1 else 2 * (16 - e)

/-- The truncated Rice parameter of a static set by activity (R171). -/
def staticK (tset g : Nat) : Nat :=
  ([[0, 0, 0, 0], [0, 0, 1, 1], [0, 1, 1, 2], [0, 1, 2, 3], [1, 1, 2, 2], [1, 2, 2, 3], [1, 2, 3, 3], [2, 3, 3, 3]].getD
    tset []).getD g 0

/-- The 16 code lengths of parameter k (R171). -/
def riceLengths (k : Nat) : List Nat :=
  let qmax := 16 / 2 ^ k - 1
  (List.range 16).map fun m => if m / 2 ^ k < qmax then m / 2 ^ k + 1 + k else qmax + k

/-- First code of each length: the value of `next` before length `l` (R170). -/
def firstCode (lens : List Nat) : Nat → Nat
  | 0 => 0
  | l + 1 => (firstCode lens l + (if l = 0 then 0 else lens.count l)) * 2

/-- The canonical code of index m: its length and its bits (R170). -/
def canonical (lens : List Nat) (m : Nat) : Nat × Nat :=
  let l := lens.getD m 0
  (l, firstCode lens l + ((lens.take m).filter (· == l)).length)

/-- The lengths of a context form a complete code, or it is empty (R165). -/
def lengthsOk (lens : List Nat) : Bool :=
  lens.all (· == 0) || sumN (lens.map fun l => if l = 0 then 0 else 2 ^ (15 - l)) == 32768

/-- Read one code word by its lengths: the mapped index. -/
def readCode (lens : List Nat) : Nat → Nat → Nat → Cursor → Option (Nat × Cursor)
  | 0, _, _, _ => none
  | fuel + 1, l, acc, k => do
    let (b, k) ← k.bit
    let acc := acc * 2 + b
    let l := l + 1
    match (List.range 16).find? fun m => canonical lens m == (l, acc) && lens.getD m 0 != 0 with
    | some m => some (m, k)
    | none => readCode lens fuel l acc k

/-- Count one-bits up to 32, then the rest of a run code (R173). -/
def readRun (kRun : Nat) : Nat → Nat → Cursor → Option (Nat × Cursor)
  | 0, _, k => Cursor.field 18 0 k
  | fuel + 1, q, k => do
    let (b, k) ← k.bit
    if b = 1 then readRun kRun fuel (q + 1) k
    else do
      let (low, k) ← Cursor.field kRun 0 k
      some (q * 2 ^ kRun + low, k)

/-- The adaptation of k_run after a run (R173). -/
def adaptK (k r : Nat) : Nat :=
  if 2 ≤ r / 2 ^ k ∧ k < 12 then k + 1 else if 0 < k ∧ r < 2 ^ (k - 1) then k - 1 else k

/-- What a block gives its dots (R164). -/
structure BlockCtl where
  mode : Nat
  run : Bool
  setK : Bool
  pred : Nat
  tset : Nat
  period : Nat
  runK : Nat
  lines : Nat
  /-- Lengths per context of a dynamic table (R165). -/
  table : List (List Nat) := []
  deriving DecidableEq, Repr

/-- The lengths of a context in a block. -/
def BlockCtl.lengths (b : BlockCtl) (ctx g : Nat) : List Nat :=
  if b.mode = 1 then b.table.getD ctx [] else riceLengths (staticK b.tset g)

/-- A line in the decoder: dots so far, latest first, their number, k_run and the place in the stream. -/
structure LineDec where
  cur : List Nat := []
  x : Nat := 0
  k : Nat
  cu : Cursor
  deriving DecidableEq, Repr

/-- Fill `r` dots with their predictions (R172). -/
def fillRun (b : BlockCtl) (up up2 : List Nat) : Nat → LineDec → LineDec
  | 0, s => s
  | r + 1, s => fillRun b up up2 r { s with cur := predict b.pred b.period s.cur up up2 s.x :: s.cur, x := s.x + 1 }

/-- Decode one dot by the code of its own context; an error code of R176. -/
def decodeDot (b : BlockCtl) (up up2 : List Nat) (s : LineDec) : Except Nat LineDec :=
  let (ctx, g) := context (neighbours s.cur up s.x)
  let lens := b.lengths ctx g
  if lens.all (· == 0) then .error 5
  else match readCode lens 15 0 0 s.cu with
    | none => .error 8
    | some (m, cu) =>
      let v := (predict b.pred b.period s.cur up up2 s.x + residueOf m) % 16
      .ok { s with cur := v :: s.cur, x := s.x + 1, cu := cu }

/-- Decode the rest of a line of a coded block; an error comes with the line as far as it got (R172, R176). -/
def decodeLine (b : BlockCtl) (width : Nat) (up up2 : List Nat) : Nat → LineDec → Except (Nat × LineDec) LineDec
  | 0, s => .ok s
  | fuel + 1, s =>
    if width ≤ s.x then .ok s
    else if b.run ∧ (context (neighbours s.cur up s.x)).1 = 0 then
      match readRun s.k 32 0 s.cu with
      | none => .error (8, s)
      | some (r, cu) =>
        if width - s.x < r then .error (6, s)
        else
          let s := fillRun b up up2 r { s with cu := cu, k := adaptK s.k r }
          if width ≤ s.x then .ok s
          else match decodeDot b up up2 s with
            | .error e => .error (e, s)
            | .ok s => decodeLine b width up up2 fuel s
    else match decodeDot b up up2 s with
      | .error e => .error (e, s)
      | .ok s => decodeLine b width up up2 fuel s

/-- Decode a line of a stored block (R174). [DEDUCED: log 59] -/
def storedLine (width : Nat) : Nat → LineDec → Except (Nat × LineDec) LineDec
  | 0, s => .ok s
  | n + 1, s =>
    if width ≤ s.x then .ok s
    else match Cursor.field 4 0 s.cu with
      | none => .error (8, s)
      | some (v, cu) => storedLine width n { s with cur := v :: s.cur, x := s.x + 1, cu := cu }

/-- The history and results of a decoder within a band: lines above, k_run, decoded lines latest first with the place at which each ended, and the lines of the band decoded before them. -/
structure BandDec where
  up : List Nat
  up2 : List Nat
  k : Nat
  cu : Cursor
  lines : List (List Nat × LineEnd) := []
  base : Nat := 0
  deriving DecidableEq, Repr

/-- The lines of the band decoded so far. -/
def BandDec.count (d : BandDec) : Nat := d.base + d.lines.length

/-- Decode the lines of a block; `at_` says which one it is. An error leaves k_run as it stood there. [DEDUCED: log 59] -/
def decodeLines (b : BlockCtl) (at_ : LineEnd) (width : Nat) : Nat → BandDec → Except (SiphonErr × BandDec) BandDec
  | 0, d => .ok d
  | n + 1, d =>
    let s : LineDec := { k := d.k, cu := d.cu }
    let r := if b.mode = 2 then storedLine width width s else decodeLine b width d.up d.up2 (width + 1) s
    match r with
    | .error (e, s) => .error ({ code := e, block := at_.block, line := d.count, dot := s.x, undecoded := d.count }, { d with k := s.k })
    | .ok s =>
      let line := s.cur.reverse
      decodeLines b at_ width n { d with
        up := line, up2 := d.up, k := s.k, cu := s.cu
        lines := (line, { at_ with pos := s.cu.pos, k := s.k, left := n, above := d.up }) :: d.lines }

/-- Read a block header of 8 bytes; none when a field is reserved, out of range or a nonzero must-be-0 field (R164). -/
def blockHeader (h : List Byte) : Option BlockCtl :=
  let f (i : Nat) : Nat := (h.getD i 0).toNat
  let mode := bits (f 0) 1 0
  let run := bit (f 0) 2
  let setK := bit (f 0) 3
  let pred := bits (f 1) 3 0
  let tset := bits (f 1) 6 4
  let period := f 2
  let runK := bits (f 3) 3 0
  let lines := f 4 + 256 * f 5
  let screen := pred == 3 || pred == 4
  if mode = 3 ∨ bits (f 0) 7 4 ≠ 0 ∨ bit (f 1) 7 ∨ 6 ≤ pred ∨ (mode ≠ 0 ∧ tset ≠ 0)
      ∨ (screen ∧ (period < 2 ∨ 64 < period)) ∨ (!screen ∧ period ≠ 0)
      ∨ bits (f 3) 7 4 ≠ 0 ∨ (setK ∧ 12 < runK) ∨ (!setK ∧ runK ≠ 0)
      ∨ lines = 0 ∨ 256 < lines ∨ f 6 ≠ 0 ∨ f 7 ≠ 0
      ∨ (mode = 2 ∧ (run ∨ setK ∨ f 1 ≠ 0)) then none
  else some { mode := mode, run := run, setK := setK, pred := pred, tset := tset, period := period, runK := runK, lines := lines }

/-- The 16 × 16 lengths of a dynamic table of 128 bytes (R165). -/
def dynamicTable (t : List Byte) : List (List Nat) :=
  (List.range 16).map fun c => (List.range 16).map fun m =>
    let v := (t.getD (8 * c + m / 2) 0).toNat
    if m % 2 = 0 then v % 16 else v / 16

/-- The padding after the last line of a block (R161, R176). -/
def BandDec.padded (d : BandDec) (width block : Nat) : Except (SiphonErr × BandDec) BandDec :=
  let (ok, cu) := d.cu.pad
  if ok then .ok { d with cu := cu }
  else .error ({ code := 10, block := block, line := d.count - 1, dot := width, undecoded := d.count }, d)

/-- Decode the blocks of a band (R164, R176, R177): `left` lines are still due. A bad header field comes before LINES above the lines left, and a header is read for every block that NSB counts. [DESIGN CHOICE, DEDUCED: log 59, 142] -/
def decodeBlocks (width total : Nat) (band : LineEnd) : Nat → Nat → BandDec → Except (SiphonErr × BandDec) BandDec
  | 0, _, d => .ok d
  | n + 1, block, d =>
    let at_ := d.count
    let err (code : Nat) : Except (SiphonErr × BandDec) BandDec :=
      .error ({ code := code, block := block, line := at_, dot := 0, undecoded := at_ }, d)
    match d.cu.take 8 with
    | none => err 8
    | some (h, cu) =>
      match blockHeader h with
      | none => err 3
      | some b =>
        if total - at_ < b.lines then err 7
        else
          let tab := if b.mode = 1 then cu.take 128 else some ([], cu)
          match tab with
          | none => err 8
          | some (t, cu) =>
            let b := { b with table := if b.mode = 1 then dynamicTable t else [] }
            if !(b.table.all lengthsOk) then err 4
            else
              match decodeLines b { band with head := h, tab := t, block := block } width b.lines
                  { d with cu := cu, k := if b.setK then b.runK else d.k } with
              | .error e => .error e
              | .ok d =>
                match d.padded width block with
                | .error e => .error e
                | .ok d => decodeBlocks width total band n (block + 1) d

/-- A line packed two dots per byte, the even dot in the low nibble (R175). -/
def packLine : List Nat → List Byte
  | [] => []
  | [a] => [BitVec.ofNat 8 a]
  | a :: b :: l => BitVec.ofNat 8 (a + 16 * b) :: packLine l

/-- The dots of packed bytes, low nibble first (R179). -/
def unpackDots (l : List Byte) : List Nat := l.flatMap fun b => [b.toNat % 16, b.toNat / 16]

/-- The end of a band after its last block: lines that are missing (8) come before bytes that remain (9), then the DCRC; `crc` is its register over the lines decoded before these. [DESIGN CHOICE, DEDUCED: log 59, 142] -/
def BandDec.closeBand (d : BandDec) (total nsb : Nat) (dcrc : Option Nat) (crc : Nat) (more : Bool) : Except (SiphonErr × BandDec) BandDec :=
  let n := d.count
  let err (code : Nat) : Except (SiphonErr × BandDec) BandDec := .error ({ code := code, block := nsb, line := n, dot := 0, undecoded := n }, d)
  if n < total then err 8
  else if !more ∧ d.cu.bytes ≠ [] then err 9
  else if dcrc.any fun v => (crc32More crc (d.lines.reverse.flatMap fun l => packLine l.1) ^^^ 0xFFFFFFFF) != v then err 11
  else .ok d

/-- Decode one band of `total` lines from exactly its SIZE bytes, with the history that comes in; `first` is true at the first band (R160 to R177). The decoded lines come latest first. In a stream of bands, `at_` is the bit at which the band starts, and `more` says that other bands follow. Codes 9 and 11 stand at block NSB, the line after the last, dot 0. [DESIGN CHOICE, DEDUCED: log 59, 142] -/
def decodeBand (width total position : Nat) (first : Bool) (up up2 : List Nat) (k : Nat) (data : List Byte) (at_ : Nat := 0) (more : Bool := false) :
    Except (SiphonErr × BandDec) BandDec :=
  let start : BandDec := { up := up, up2 := up2, k := k, cu := { bytes := data, pos := at_ } }
  let err (code : Nat) : Except (SiphonErr × BandDec) BandDec :=
    .error ({ code := code, block := 0, line := 0, dot := 0, undecoded := 0 }, start)
  match start.cu.take 16 with
  | none => err 8
  | some (h, cu) =>
    let f (i : Nat) : Nat := (h.getD i 0).toNat
    let flags := f 2
    let dcrc := leNat (h.drop 8 |>.take 4)
    let nsb := f 6 + 256 * f 7
    if f 0 ≠ 0xB5 ∨ f 1 ≠ 1 ∨ 4 ≤ flags ∨ f 3 ≠ 0 ∨ leNat (h.drop 12) ≠ 0 ∨ (!bit flags 1 ∧ dcrc ≠ 0) then err 1
    else if f 4 + 256 * f 5 ≠ position ∨ nsb = 0 ∨ 256 < nsb then err 2
    else
      let fresh := first || bit flags 0
      let d : BandDec := if fresh then { up := [], up2 := [], k := 2, cu := cu } else { start with cu := cu }
      let crc := if bit flags 1 then some dcrc else none
      match decodeBlocks width total { band := position, nsb := nsb, dcrc := crc } nsb 0 d with
      | .error e => .error e
      | .ok d => d.closeBand total nsb crc crc32Start more

/-- Go on with a band in the middle, from the place at which a line ended: the rest of its block, the blocks after it and the end of the band; `crc` is the register of its DCRC there (R182). -/
def decodeRest (width total : Nat) (p : LineEnd) (crc : Nat) (more : Bool) (d : BandDec) : Except (SiphonErr × BandDec) BandDec := do
  let b := { (blockHeader p.head).getD { mode := 2, run := false, setK := false, pred := 0, tset := 0, period := 0, runK := 0, lines := 0 } with
    table := if p.tab.isEmpty then [] else dynamicTable p.tab }
  let d ← decodeLines b p width p.left d
  let d ← d.padded width p.block
  let d ← decodeBlocks width total { band := p.band, nsb := p.nsb, dcrc := p.dcrc } (p.nsb - p.block - 1) (p.block + 1) d
  d.closeBand total p.nsb p.dcrc crc more

/-- Decode the bands of a stream: the lines with the places at which they end, and the error that ended it with its band (R182, R433). [DESIGN CHOICE: log 60] -/
def decodeStream (width lines : Nat) : Nat → Nat → BandDec → List (List Nat × LineEnd) → List (List Nat × LineEnd) × Option (Nat × Nat)
  | 0, _, _, acc => (acc, none)
  | fuel + 1, band, d, acc =>
    if lines ≤ 256 * band then (acc, none)
    else
      let total := min 256 (lines - 256 * band)
      match decodeBand width total band (band == 0) d.up d.up2 d.k d.cu.bytes d.cu.pos (decide (256 * band + total < lines)) with
      | .error (x, d) => (acc ++ d.lines.reverse, some (x.code, band))
      | .ok d => decodeStream width lines fuel (band + 1) d (acc ++ d.lines.reverse)

/-- The code word of index m with parameter k, as bits (R171). -/
def riceBits (k m : Nat) : List Bool :=
  let qmax := 16 / 2 ^ k - 1
  let q := m / 2 ^ k
  List.replicate q true ++ (if q < qmax then [false] else []) ++ (List.range k).map fun i => bit m (k - 1 - i)

/-- The run code of r, as bits (R173). -/
def runBits (k r : Nat) : List Bool :=
  let q := r / 2 ^ k
  if q < 32 then List.replicate q true ++ [false] ++ (List.range k).map fun i => bit r (k - 1 - i)
  else List.replicate 32 true ++ (List.range 18).map fun i => bit r (17 - i)

/-- How many dots from here have residue 0 on this line (R172). -/
def zeroRun (b : BlockCtl) (up up2 : List Nat) : List Nat → List Nat → Nat → Nat
  | [], _, _ => 0
  | v :: rest, cur, x => if v = predict b.pred b.period cur up up2 x then 1 + zeroRun b up up2 rest (v :: cur) (x + 1) else 0

/-- An item of the compressor's output: its bits, the input dots taken in once it is emitted, k_run after it, its band, and whether the dot after it is coded by its own context because a run has just ended (R172, R181, R184). -/
structure Item where
  bits : List Bool
  taken : Nat
  k : Nat
  band : Nat
  forced : Bool := false
  deriving DecidableEq, Repr

/-- Encode one dot with the code of its context. -/
def encodeDot (b : BlockCtl) (up up2 cur : List Nat) (x v : Nat) : List Bool :=
  let (_, g) := context (neighbours cur up x)
  riceBits (staticK b.tset g) (indexOf ((v + 16 - predict b.pred b.period cur up up2 x) % 16))

/-- Encode the rest of a line: its items in order, and k_run after it (R172, R179). `taken` counts the input dots before it; the first dot is coded by its own context when `forced`, for a run ended before it. -/
def encodeLine (b : BlockCtl) (band : Nat) (up up2 : List Nat) : Nat → Bool → List Nat → List Nat → Nat → Nat → Nat → List Item × Nat
  | 0, _, _, _, _, k, _ => ([], k)
  | _, _, [], _, _, k, _ => ([], k)
  | fuel + 1, forced, v :: rest, cur, x, k, taken =>
    if !forced ∧ b.run ∧ (context (neighbours cur up x)).1 = 0 then
      let r := zeroRun b up up2 (v :: rest) cur x
      let after := (v :: rest).drop r
      let run : Item := { bits := runBits k r, taken := taken + r, k := adaptK k r, band := band, forced := !after.isEmpty }
      let (l, k') := encodeLine b band up up2 fuel true after (((v :: rest).take r).reverse ++ cur) (x + r) (adaptK k r) (taken + r)
      (run :: l, k')
    else
      let (l, k') := encodeLine b band up up2 fuel false rest (v :: cur) (x + 1) k (taken + 1)
      ({ bits := encodeDot b up up2 cur x v, taken := taken + 1, k := k, band := band } :: l, k')

/-- Room for a run and the dot after it at every dot of a line. -/
def lineFuel (l : List Nat) : Nat := 2 * l.length + 1

/-- The bits of a byte list. -/
def bitsOfBytes (l : List Byte) : List Bool := l.flatMap byteBits

/-- The items of the lines of one block, with the history after them. -/
def encodeLines (b : BlockCtl) (band : Nat) : List (List Nat) → List Nat → List Nat → Nat → Nat → List Item × List Nat × List Nat × Nat
  | [], up, up2, k, _ => ([], up, up2, k)
  | l :: ls, up, up2, k, taken =>
    let (i, k) := encodeLine b band up up2 (lineFuel l) false l [] 0 k taken
    let (is, u, u2, k) := encodeLines b band ls l up k (taken + l.length)
    (i ++ is, u, u2, k)

/-- The number of bits of a list of items. -/
def itemBits (l : List Item) : Nat := sumN (l.map fun i => i.bits.length)

/-- Items with `n` zero bits after the last one. -/
def padItems (n : Nat) (l : List Item) : List Item :=
  match l.reverse with
  | [] => []
  | i :: is => ({ i with bits := i.bits ++ List.replicate n false } :: is).reverse

/-- The 8-byte header of the compressor's block (R164, R179). -/
def compHeader (b : BlockCtl) (lines : Nat) : List Byte :=
  [BitVec.ofNat 8 (b2n b.run * 4), BitVec.ofNat 8 (b.pred + 16 * b.tset), BitVec.ofNat 8 b.period, 0] ++ leBytes 2 lines ++ leBytes 2 0

/-- The rest of a block whose header and payload have `sofar` bits already: its items with the padding up to the byte, all its bits, and whether they reach the `raw` bits of its dots (R161, R180). [DEDUCED: log 59] -/
def closeBlock (sofar raw : Nat) (items : List Item) : List Item × Nat × Bool :=
  let n := sofar + itemBits items
  let pad := (8 - n % 8) % 8
  (padItems pad items, n + pad, decide (raw ≤ n + pad))

/-- The compressor over all bands: its items, and the bit of the stream at which it stops when some block does not shrink (R179, R180). A band's padding goes with its last item. [DEDUCED: log 59] -/
def encodeBands (b : BlockCtl) (width : Nat) : Nat → Nat → List (List Nat) → List Nat → List Nat → Nat → Nat → List Item × Option Nat
  | 0, _, _, _, _, _, _ => ([], none)
  | fuel + 1, band, lines, up, up2, k, taken =>
    if lines.isEmpty then ([], none)
    else
      let mine := lines.take 256
      let head : List Byte := [0xB5, 1, 0, 0] ++ leBytes 2 band ++ leBytes 2 1 ++ leBytes 8 0 ++ compHeader b mine.length
      let first : Item := { bits := bitsOfBytes head, taken := taken, k := k, band := band }
      let (items, u, u2, k) := encodeLines b band mine up up2 k taken
      let (items, n, grown) := closeBlock 64 (mine.length * width * 4) items
      if grown then (first :: items, some (128 + mine.length * width * 4))
      else
        let rest := encodeBands b width fuel (band + 1) (lines.drop 256) u u2 k (taken + mine.length * width)
        (first :: items ++ rest.1, rest.2.map fun m => m + 128 + n)

/-- Bytes of a bit list, most significant bit first, the last one padded with zeros. -/
def bytesOfBits : Nat → List Bool → List Byte
  | 0, _ => []
  | fuel + 1, l =>
    if l.isEmpty then []
    else BitVec.ofNat 8 (sumN ((List.range 8).map fun i => b2n (l.getD i false) * 2 ^ (7 - i))) :: bytesOfBits fuel (l.drop 8)

/-- Cut a dot list into lines. -/
def cutLines (width : Nat) : Nat → List Nat → List (List Nat)
  | 0, _ => []
  | n + 1, l => l.take width :: cutLines width n (l.drop width)

/-- How far the items fill `room` bits: the bits written, the bits of the broken item left over, the last item emitted in whole or in part, and whether items remain (R181). -/
def fillBits : List Item → Nat → List Bool → Item → List Bool × List Bool × Item × Bool
  | [], _, out, last => (out, [], last, false)
  | i :: is, room, out, last =>
    if room = 0 then (out, [], last, true)
    else if i.bits.length ≤ room then fillBits is (room - i.bits.length) (out ++ i.bits) i
    else (out ++ i.bits.take room, i.bits.drop room, i, true)

end Sys2Proof.Machine
end

