-- ==== Sys2Proof/Machine/SumpCore.lean ====
section
/-! DEFINITION. The Sump recorder's records and segments: their bytes, how a segment closes, triggers, snapshots and gaps (R475, R476, R479 to R481).
-/
namespace Sys2Proof.Config

/-- The bytes of a snapshot of the replayed units at an instant: R479 says what they hold and gives no layout. -/
opaque snapshotBytes (units : Machine.Chip) (now : Nat) : List (BitVec 8)

end Sys2Proof.Config
namespace Sys2Proof.Machine

/-- The bytes of a record in a segment with this base time (R475). -/
def SumpRec.bytes (base : Nat) (r : SumpRec) : List Byte :=
  [BitVec.ofNat 8 r.typ, BitVec.ofNat 8 r.words.length] ++ leBytes 2 r.src ++ leBytes 4 (r.time - base)
    ++ r.words.flatMap fun w => leBytes 4 w.toNat

/-- Records by time, then type, then source; equal ones keep their order (R475). -/
def insertSump (x : SumpRec) : List SumpRec → List SumpRec
  | [] => [x]
  | y :: l =>
    let le : Bool := decide (x.time < y.time) || (x.time == y.time
      && (decide (x.typ < y.typ) || (x.typ == y.typ && decide (x.src ≤ y.src))))
    if le then x :: y :: l else y :: insertSump x l

/-- Bytes filled up with zeros to a multiple of `n`. -/
def padTo (n : Nat) (l : List Byte) : List Byte := l ++ List.replicate ((n - l.length % n) % n) 0

/-- The codec pass of the Sump: lines of 8,192 dots, PRED 2, TSET 3, RUN 1; none when it ends in NO_GAIN (R476). [DESIGN CHOICE: log 128] -/
def sumpPass (raw : List Byte) : Option (List Byte) :=
  let n := cdiv raw.length 4096
  let ctl : BlockCtl := {
    mode := 0, run := true, setK := false, pred := 2, tset := 3, period := 0, runK := 0, lines := 0 }
  match encodeBands ctl 8192 (n + 1) 0 (cutLines 8192 n (unpackDots (padTo 4096 raw))) [] [] 2 0 with
  | (_, some _) => none
  | (items, none) =>
    let bs := items.flatMap (·.bits)
    some (bytesOfBits (bs.length + 1) bs)

/-- Stored bytes of a segment: its header and its payload (R476). -/
def Segment.size (s : Segment) : Nat := 64 + s.payload.length

/-- The 64-byte header of a segment (R476). -/
def Segment.header (s : Segment) (id : Nat) : List Byte :=
  let h := leBytes 4 0x504D5553 ++ leBytes 2 1 ++ [BitVec.ofNat 8 s.kind, BitVec.ofNat 8 s.flags] ++ leBytes 8 s.seq ++ leBytes 8 s.base
    ++ leBytes 8 s.end_ ++ leBytes 4 s.rawLen ++ leBytes 4 s.payload.length ++ leBytes 4 s.nrec ++ leBytes 4 s.sources ++ leBytes 4 id
    ++ leBytes 4 s.cause ++ leBytes 4 (crc32 s.payload)
  h ++ leBytes 4 (crc32 h)

/-- Put a segment at the end of those that wait in the Sump ring; it takes the next number (R476, R477). [DESIGN CHOICE: log 128] -/
def Chip.addSegment (c : Chip) (s : Segment) : Chip :=
  c.updSump fun x =>
    let s := { s with seq := x.nextSeq, sources := x.sources }
    { x with closed := x.closed ++ [s], closedBytes := x.closedBytes + s.size, nextSeq := x.nextSeq + 1 }

/-- Close the open segment: order its records, compress them, or store them raw when the pass does not shrink them (R475, R476). [DESIGN CHOICE: log 128] -/
def Chip.closeSegment (c : Chip) : Chip :=
  let rs := c.sump.open_.foldl (fun l r => insertSump r l) []
  match rs with
  | [] => c
  | r :: _ =>
    let raw := rs.flatMap (SumpRec.bytes r.time)
    let pass := sumpPass raw
    let marked := rs.any fun r => r.typ == 0x16
    let c := c.updSump fun x => { x with open_ := [], openBytes := 0 }
    c.addSegment {
      kind := 0, flags := b2n pass.isSome + 2 * b2n marked, seq := 0, base := r.time, end_ := maxN (rs.map (·.time))
      rawLen := raw.length, payload := padTo 64 (pass.getD raw), nrec := rs.length, sources := 0 }

/-- What a snapshot is taken of: the registers of STATION, TILE, DRIVE, FEEDBACK and WINDLASS, the active tables, and the units behind them, with the pages and the commits that wait (R479). -/
def Chip.replayedUnits (c : Chip) : Chip :=
  { regs := c.regs.filter fun r => (decide (0x100000 ≤ r.1) && decide (r.1 < 0x320000)) || (decide (0x380000 ≤ r.1) && decide (r.1 < 0x3C0000))
    active := c.active, nominal := c.nominal, zeros := c.zeros.filter (·.1), txn := { commits := c.txn.commits }, pages := c.pages
    tiles := c.tiles, stns := c.stns, belt := c.belt, drives := c.drives, encs := c.encs, halls := c.halls, biss := c.biss
    fbCopy := c.fbCopy, wl := c.wl }

/-- A snapshot segment. R479 says what it holds and gives no layout: its bytes are a free function of the units and the instant, padded to 64 and within the 2 MiB of the Sump ring. [DESIGN CHOICE: log 127] -/
def Chip.snapshot (c : Chip) (now : Nat) : Segment × Chip :=
  let bs := padTo 64 ((Config.snapshotBytes c.replayedUnits now).take (sumpRing - 64))
  ({ kind := 1, flags := 0, seq := 0, base := now, end_ := now, rawLen := bs.length, payload := bs, nrec := 0, sources := 0 }, c)

/-- A snapshot exceeds a quarter of the host ring (R479). [DESIGN CHOICE: log 127] -/
def Chip.oversize (c : Chip) (s : Segment) : Bool := decide (c.sump.size / 4 < s.size)

/-- The cause of the open gap has ended, or the Sump ring is half empty (R481). [DESIGN CHOICE: log 129] -/
def Chip.gapOver (c : Chip) (cause : Nat) : Bool :=
  if cause = 2 then !c.portDown (c.owner (c.fld Fld.SUMP_STATUS_PART))
  else if cause = 3 then true
  else decide (2 * (c.sump.openBytes + c.sump.closedBytes) ≤ sumpRing)

/-- The end of a gap: the marker, the count, SUMP_GAP, and a snapshot unless it would be oversize again (R479, R481). [DESIGN CHOICE: log 129] -/
def Chip.endGap (c : Chip) (now : Nat) : Chip :=
  match c.sump.gap with
  | none => c
  | some (t0, cause, lost) =>
    if !c.gapOver cause then c
    else
      let c := c.closeSegment
      let n := c.sump.nextSeq
      let c := c.updSump fun x => { x with gap := none }
      let c := c.addSegment {
        kind := 2, flags := 0, seq := 0, base := t0, end_ := now, rawLen := 0, payload := []
        nrec := satN 0xFFFFFFFF lost, sources := 0, cause := cause }
      let c := (c.bump Fld.SUMP_GAPS_COUNT).raise Ev.SUMP_EVENT_GAP
      let c := c.emit (.event { status := Rc.SUMP_GAP, tag := n, detail := cause + satN 0xFFFFFF lost * 256, time := some t0 })
      let (s, c) := c.snapshot now
      if c.oversize s then c else (c.addSegment s).updSump fun x => { x with lastSnap := now }

/-- A gap opens, if none is open (R481). [DESIGN CHOICE: log 129] -/
def Chip.openGap (c : Chip) (t0 cause lost : Nat) : Chip :=
  match c.sump.gap with
  | some (t, k, l) => c.updSump fun x => { x with gap := some (t, k, l + lost) }
  | none => (c.closeSegment).updSump fun x => { x with gap := some (t0, cause, lost) }

/-- A trigger of the recorder: MARK record, the segment closed and its number latched, STATE 2 (R480). Only STATE 1 takes it. -/
def Chip.sumpTrigger (c : Chip) (now cause : Nat) : Chip :=
  if c.fld Fld.SUMP_STATUS_STATE = 1 then
    let c := c.sumpRec none 0x16 0 now [BitVec.ofNat 32 cause]
    let c := c.setPair Reg.SUMP_TRIG_SEG_LO Reg.SUMP_TRIG_SEG_HI c.sump.nextSeq
    let c := (c.setFld Fld.SUMP_STATUS_STATE 2).setFld Fld.SUMP_STATUS_TRIG_CAUSE cause
    (((c.closeSegment).updSump fun x => { x with trigAt := some now }).raise Ev.SUMP_EVENT_TRIGGERED)
  else c

/-- The recorder records: STATE 1 to 3 (R480). -/
def Chip.recording (c : Chip) : Bool := c.fld Fld.SUMP_STATUS_STATE != 0

end Sys2Proof.Machine
end

