-- ==== Sys2Proof/Machine/Run.lean ====
section
/-! DEFINITION. How a command runs: time passes, the chip acts, and the record merge unit takes what it handed over; and how a Jarush command starts (R29 to R31, R404, R405).
-/
namespace Sys2Proof.Machine

/-- The class of SUMP.TRIG_MASK that an event record belongs to (R488). -/
def sumpClass (r : Rec) : Option Nat :=
  let st := r.status.toNat
  if r.opcode.toNat = 0x20 ∧ (st = 0x2D ∨ st = 0x2E) then some 0
  else if st = 0x43 then some 1
  else if st = 0xB8 then some 2
  else if st = 0xA5 then some 3
  else if st = 0xA7 then some 4
  else if st = 0xAF then some 5
  else if st = 0x80 ∧ bits r.detail.toNat 7 4 = 5 then some 6
  else if st = 0x3A ∨ st = 0xBA then some 7
  else if st = 0xC2 ∨ st = 0xC3 then some 8
  else if st = 0xC6 ∨ st = 0xC5 then some 9
  else none

/-- The 32 bytes of a record with the given FLAGS byte (R114). -/
def Rec.bytes (r : Rec) (flags : Nat) : List Byte :=
  leBytes 8 r.tag.toNat ++ leBytes 8 r.seq.toNat ++ leBytes 8 r.time.toNat
    ++ [r.status, r.opcode, BitVec.ofNat 8 flags, BitVec.ofNat 8 r.part] ++ leBytes 4 r.detail.toNat

/-- Little-endian words of a byte list. -/
def wordsOf : List Byte → List Word
  | a :: b :: c :: d :: l => BitVec.ofNat 32 (leNat [a, b, c, d]) :: wordsOf l
  | [] => []
  | l => [BitVec.ofNat 32 (leNat l)]

/-- The recorder takes numbered event records, and the first of an enabled class triggers it (R473, R480). -/
def Chip.logRecords (c : Chip) (now : Nat) (l : List Rec) : Chip :=
  c.each l fun r c =>
    let c := c.sumpRec none 0x15 0 r.time.toNat (wordsOf (r.bytes 2))
    match sumpClass r with
    | some k => if bit (c.fld Fld.SUMP_TRIG_MASK_MASK) k then c.sumpTrigger now (k + 1) else c
    | none => c

/-- The record merge unit takes what the chip handed over at `now`. -/
def publish (now : Nat) (m : Merge) (c : Chip) : Merge × Chip :=
  let x := m.absorb c now c.emits
  (x.2, c.logRecords now x.1)

/-- The chip before a command: the outputs of the command before it are gone. [DESIGN CHOICE: log 9] -/
def Chip.fresh (c : Chip) : Chip := { c with emits := [], outs := [] }

/-- An instant is over: the acceptances made at it take their numbers, after its events, and enter the recorder; those refused at their acceptance complete (R30, R404, R443, R473). [DESIGN CHOICE: log 148] -/
def numberAccepted (now : Nat) (x : Merge × Chip) : Merge × Chip :=
  x.2.eng.accepting.foldl (fun (x : Merge × Chip) slot =>
    let (m, c) := x
    let c := c.updEng fun g => { g with accepting := g.accepting.drop 1 }
    match m.entry slot with
    | none => (m, c)
    | some e =>
      let c := c.sumpRec (some 0) 0x01 (4 * e.part + e.ring) now
        (wordsOf (leBytes 8 m.nextSeq ++ (List.range 64).map fun k => BitVec.ofNat 8 (e.entry.byte k)))
      let m := { m with nextSeq := m.nextSeq + 1 }.updEntry slot fun y => { y with seq := m.nextSeq }
      (m.flush c now e.part e.ring, c)) x

/-- The acceptances of the clock's instant take their numbers. -/
def State.numbered (s : State) : Merge × Chip :=
  let x := numberAccepted s.clock.time (s.merge, s.chip.fresh)
  let y := publish s.clock.time x.1 x.2
  (y.1, { y.2 with emits := [] })

/-- What a command finds: the outputs of the command before it are gone, and where time has passed since, the acceptances of that instant are numbered (R30). [DESIGN CHOICE: log 148] -/
def State.opened (dt : Nat) (s : State) : Merge × Chip :=
  if dt = 0 ∨ s.chip.eng.accepting = [] then (s.merge, s.chip.fresh) else s.numbered

/-- The priority of the task that runs a command (R94); a command that no row names runs with the acceptance of commands. [DESIGN CHOICE: log 149] -/
def taskPriority (opcode : Nat) : Nat :=
  if [0x02, 0x04, 0x05].contains opcode then 1
  else if 0x10 ≤ opcode ∧ opcode ≤ 0x13 then 3
  else if 0x20 ≤ opcode ∧ opcode ≤ 0x24 then 4
  else if [0x40, 0x41, 0x42, 0x43, 0x44].contains opcode then 5
  else if [0x45, 0x46, 0x06].contains opcode then 6
  else if opcode = 0xF1 then 7
  else 2

/-- Put a task in its place: by priority, and within one in order of readiness. -/
def insertTask (t : FwTask) : List FwTask → List FwTask
  | [] => [t]
  | u :: l => if t.prio < u.prio then t :: u :: l else u :: insertTask t l

/-- A command that may start could start now: a service channel of its level is free for it, and no calibration holds it up (R121, R240). -/
def Chip.unhindered (c : Chip) (e : JEntry) : Bool :=
  let level := if [0x40, 0x41, 0x42, 0x43, 0x44].contains e.opcode then c.dma.owner.take 12
    else if [0x06, 0x45, 0x46].contains e.opcode then c.dma.owner.drop 12 else [none]
  level.contains none && !(c.eng.calWait.any fun w => w.1 == e.slot)

/-- The tasks that are ready: fault handling while a failed pair is tested, an orderly stop, acceptance at this instant, every command that may start, and every one that has started, is not decided, and waits for no fault answer (R91, R94). [DESIGN CHOICE: log 149] -/
def readyTasks (now : Nat) (old : List FwTask) (m : Merge) (c : Chip) : List FwTask :=
  if c.eng.coresFailed || !c.fast then []
  else
    let cmds := (m.journal.filter fun e => (m.mayStart e && c.unhindered e)
      || (e.phase == .started && !(c.xlat.susp.any fun s => s.cmd == some e.slot))).map fun e => (taskPriority e.opcode, some e.slot)
    let own := (if c.eng.testing then [(0, none)] else []) ++ (if c.eng.stopping then [(1, none)] else [])
      ++ (if c.eng.accepting.isEmpty then [] else [(2, none)])
    let since (k : Nat × Option Nat) : Nat := match old.find? fun t => t.prio == k.1 && t.slot == k.2 with
      | some t => t.since
      | none => now
    (own ++ cmds).foldl (fun (l : List FwTask) (k : Nat × Option Nat) => insertTask { prio := k.1, slot := k.2, since := since k } l) []

/-- A command of a higher priority than this opcode's has been ready for more than 2 µs and has not started: it has pre-empted every lower task (R94). [DESIGN CHOICE: log 149] -/
def Ctx.outranked (x : Ctx) (opcode : Nat) : Bool :=
  x.ready.any fun t => decide (t.prio < taskPriority opcode) && decide (t.since + 2000 < x.now)
    && t.slot.any fun k => (x.merge.entry k).any x.merge.mayStart

/-- What the checkpoint takes of a task (R94, R95). -/
def saveTask (m : Merge) (c : Chip) (t : FwTask) : FwSaved :=
  let x := c.dma.xfers.find? fun x => some x.slot == t.slot
  { task := t, phase := (t.slot.bind m.entry).elim .accepted (·.phase)
    got := (x.elim [] (·.got)).length, sent := x.elim 0 (·.sent) }

/-- The firmware after a command of the table: the highest ready task runs; one that was running and is still ready has been pre-empted and is saved, and a saved one that runs again or has ended is dropped (R94). [DESIGN CHOICE: log 149] -/
def Firmware.follow (f : Firmware) (now : Nat) (m : Merge) (c : Chip) : Firmware :=
  let ready := readyTasks now f.ready m c
  let run := ready.head?
  let kept := f.saved.filter fun s => ready.contains s.task && some s.task != run
  let cut := match f.running with
    | some t => if ready.contains t && some t != run then [saveTask m c t] else []
    | none => []
  { ready := ready, running := run, saved := cut ++ kept.filter fun s => some s.task != f.running }

/-- The clock after `dt` ns, with the correction of REF that holds (R5, R29, R398). [DESIGN CHOICE: log 1, 14] -/
def State.elapsed (s : State) (dt : Nat) : Clock := s.clock.elapse s.chip.fast s.chip.safety.refCorr dt

/-- A command of the running or sleeping chip: `dt` passes, then `f` acts. [DESIGN CHOICE: log 1] -/
def State.timed (dt : Nat) (f : Ctx → Chip → Chip) (s : State) : State :=
  let clock := s.elapsed dt
  let y := s.opened dt
  let c := f ⟨clock.time, y.1, s.firm.ready⟩ y.2
  let x := publish clock.time y.1 c
  { s with clock := clock, merge := x.1, chip := x.2, firm := s.firm.follow clock.time x.1 x.2 }

/-- A command that also acts on the record merge unit itself. [DESIGN CHOICE: log 1] -/
def State.timedMerge (dt : Nat) (f : Nat → Merge × Chip → Merge × Chip) (s : State) : State :=
  let clock := s.elapsed dt
  let y := f clock.time (s.opened dt)
  let x := publish clock.time y.1 y.2
  { s with clock := clock, merge := x.1, chip := x.2, firm := s.firm.follow clock.time x.1 x.2 }

/-- f(T) of R398 in 1/65,536 ppm for four binary32 coefficients and a temperature in 1/16 °C, before the limit. [DEDUCED: log 14] -/
def xtalPoly (coef : Nat → Word) (temp : Int) : Int :=
  let d := temp - 400
  let k (i : Nat) : Int := F32.floorScaled (coef i) 40
  (k 0 * 4096 + k 1 * d * 256 + k 2 * d * d * 16 + k 3 * d * d * d) / (4096 * 2 ^ 24)

/-- The limited correction, ±200 ppm. [DEDUCED: log 14] -/
def xtalLimit (f : Int) : Int := clampI (-(200 * 65536)) (200 * 65536) f

/-- The clock with the ticks since the last sensor reading corrected at the temperature read last, ready to restart (R29, R398). [DEDUCED: log 14] -/
def State.corrected (s : State) (k : Clock) : Clock :=
  let f := xtalLimit (xtalPoly (fun i => s.chip.reg (Reg.THERMAL_XTAL_WELL i)) s.chip.safety.wellTemp)
  { k with sinceRead := 0, corr := k.corr - (k.sinceRead : Int) * f }

/-- A command after which the fast clocks run again if they stood still: engine time restarts by R29 before `f` acts. `go` says whether this command wakes the block. [DESIGN CHOICE: log 15] -/
def State.restarted (dt : Nat) (go : Chip → Bool) (f : Nat → Merge × Chip → Merge × Chip) (s : State) : State :=
  let k := s.elapsed dt
  let clock := if go s.chip ∧ s.chip.fast = false then (s.corrected k).restart else k
  let y := f clock.time (s.opened dt)
  let x := publish clock.time y.1 y.2
  { s with clock := clock, merge := x.1, chip := x.2, firm := s.firm.follow clock.time x.1 x.2 }

/-- The next state of a command of the chip. [DESIGN CHOICE: log 12] -/
def run (dt : Nat) (f : Ctx → Chip → Chip) (s : State) : Host.Outcome State Fault Refusal := .next (s.timed dt f)

/-- The next state of a command of the chip and the record merge unit. [DESIGN CHOICE: log 12] -/
def runMerge (dt : Nat) (f : Nat → Merge × Chip → Merge × Chip) (s : State) : Host.Outcome State Fault Refusal :=
  .next (s.timedMerge dt f)

/-- The engine states in which each opcode is accepted (R409). -/
def acceptedIn (opcode : Nat) : List Nat :=
  if opcode = 0x01 ∨ opcode = 0xF1 then [1, 2, 3, 4, 5, 6]
  else if opcode = 0x02 ∨ opcode = 0x03 ∨ opcode = 0x06 then [2]
  else if opcode = 0x04 then [3, 5, 6]
  else if opcode = 0x05 then [1, 2, 3, 4, 5, 6]
  else if 0x10 ≤ opcode ∧ opcode ≤ 0x13 then [1, 2, 3, 4, 6]
  else if opcode = 0x21 then [3]
  else if (0x20 ≤ opcode ∧ opcode ≤ 0x24) ∨ (0x30 ≤ opcode ∧ opcode ≤ 0x32) ∨ opcode = 0x34 then [2, 3, 4]
  else if opcode = 0x33 ∨ opcode = 0x40 ∨ opcode = 0x47 then [1, 2, 3, 4]
  else if opcode = 0x41 then [3]
  else if opcode = 0x42 then [3, 4]
  else if 0x43 ≤ opcode ∧ opcode ≤ 0x46 then [1, 2, 3, 4, 6]
  else if opcode = 0xF0 then [1, 2, 3, 4, 6]
  else []

/-- A parameter field of an entry (R403). -/
def JEntry.param (e : JEntry) (off n : Nat) : Nat := e.entry.field off n

/-- Start a Jarush command that stands in a journal slot, if its order allows it and it carries this opcode: check 4 of R404, then its own section. The outcome of a failed check is fixed at once. Only SAFE_STOP starts between SLEEP's completion and its entry, and nothing once both core pairs have failed, nor while a ready command of higher priority has pre-empted it (R94, R453). [DESIGN CHOICE: logs 5, 12] -/
def command (opcode slot : Nat) (body : JEntry → Ctx → Chip → Chip) (x : Ctx) (c : Chip) : Chip :=
  if (c.eng.sleepFor.isSome && opcode != 0x05) || c.eng.coresFailed || x.outranked opcode then c else
  match x.merge.startable slot opcode with
  | none => c
  | some e =>
    if (acceptedIn opcode).contains c.state then body e x c
    else c.result slot 0x04 c.state

/-- The STATE_CHANGE into a state with its cause, and the copy kept in retention SRAM (R32, R440, R459). -/
def Chip.enter (c : Chip) (new cause : Nat) : Chip :=
  let old := c.state
  let c := c.event 0x80 0 (old + new * 16 + cause * 256)
  let c := c.setFld Fld.GLOBAL_STATUS_ENGINE_STATE new
  { c with eng := { c.eng with kept := new } }

end Sys2Proof.Machine
end

