-- ==== Sys2Proof/Machine/RegCore.lean ====
section
/-! DEFINITION. The parts of a register write that every unit shares: unit blocks, attribution and privilege, the capture of faults, guarded pairs, locks and the combination of fields (R39 to R54).
-/
namespace Sys2Proof.Machine

/-- The switch unit of an offset: GLOBAL 0, SAFETY 1, HOST 2, DMA 3, SUMP 4, WINDLASS 5, SEAM 6, CODEC 7, STATION s 8 + s, TILE t 16 + t, DRIVE a 80 + a, FEEDBACK 92, MULE m 96 + m; TXN and the reserved ranges 93 (R39, R73). -/
def unitOf (o : Nat) : Nat :=
  if o < 0x10000 then 0
  else if o < 0x20000 then 1
  else if o < 0x30000 then 2
  else if o < 0x40000 then 3
  else if o < 0x50000 then 93
  else if o < 0x60000 then 4
  else if 0x100000 ≤ o ∧ o < 0x180000 then 8 + (o - 0x100000) / 0x10000
  else if 0x200000 ≤ o ∧ o < 0x300000 then 16 + (o - 0x200000) / 0x4000
  else if 0x300000 ≤ o ∧ o < 0x30C000 then 80 + (o - 0x300000) / 0x1000
  else if 0x310000 ≤ o ∧ o < 0x320000 then 92
  else if 0x320000 ≤ o ∧ o < 0x328000 then 96 + (o - 0x320000) / 0x800
  else if 0x380000 ≤ o ∧ o < 0x3C0000 then 5
  else if 0x3C0000 ≤ o ∧ o < 0x3E0000 then 6
  else if 0x3E0000 ≤ o ∧ o < 0x400000 then 7
  else 93

/-- The partition to which a write of port `q` to a register of privilege class `pr` is attributed; none when no partition of the port may make it (R42, R101). `ix` are the register's indices: the first is the partition of an owner register. No master-only register is written while the port of PART_0 is down (R79). [DESIGN CHOICE: log 18, 139] -/
def Chip.attrib (c : Chip) (q : Port) (pr : Priv) (ix : List Nat) : Option Nat :=
  match pr with
  | .any => some ((c.ownedBy q).headD 0)
  | .master => if c.owner 0 = q ∧ c.portDown q = false then some 0 else none
  | .owner => if c.owner (ix.headD 0) = q then some (ix.headD 0) else none
  | .cls k => (c.ownedBy q).find? fun p => bit (c.classes p) k

/-- Bits of GLOBAL.ERR_EVENT (R72). -/
def Err.guard : Nat := 0
def Err.lock : Nat := 1
def Err.coupled : Nat := 2
def Err.priv : Nat := 3
def Err.busy : Nat := 4

/-- The layout of GLOBAL.ERR_LAST_INFO with COUNT 0 (R72). -/
def errInfo (kind part port cause : Nat) (table : Bool) : Nat :=
  part % 8 + port % 2 * 8 + b2n table * 16 + kind * 256 + cause * 4096

/-- Set a fault in GLOBAL.ERR_EVENT and capture it: the first since the last clear, the latest, and their count (R53). -/
def Chip.errFault (c : Chip) (kind addr part port cause : Nat) (table : Bool) : Chip :=
  let n := c.fld Fld.GLOBAL_ERR_LAST_INFO_COUNT
  let w := errInfo kind part port cause table
  let c := c.raise (Reg.GLOBAL_ERR_EVENT, kind)
  let c := if n = 0 then
      (c.setReg Reg.GLOBAL_ERR_FIRST_ADDR (BitVec.ofNat 32 addr)).setReg Reg.GLOBAL_ERR_FIRST_INFO (BitVec.ofNat 32 w)
    else c
  (c.setReg Reg.GLOBAL_ERR_LAST_ADDR (BitVec.ofNat 32 addr)).setReg Reg.GLOBAL_ERR_LAST_INFO
    (BitVec.ofNat 32 (w + satN 65535 (n + 1) * 65536))

/-- A write that no partition of the writing port may make: captured, and reported to the lowest-numbered enabled partition of the port; its attributed partition is a free value, for the manual names none (R42, R440). [DESIGN CHOICE: log 18] -/
def Chip.privViolation (c : Chip) (q : Port) (addr : Nat) (table : Bool) : Chip :=
  let (n, c) := c.freeNat
  let part := n % 8
  let c := c.errFault Err.priv addr part q.num 0 table
  match (c.ownedBy q).find? c.enabled with
  | some p => c.eventTo p 0x90 0 (addr + b2n table * 2 ^ 32) (errInfo Err.priv part q.num 0 table)
  | none => c

/-- A write that would change a locked field: captured and reported to the attributed partition (R50, R440). -/
def Chip.lockViolation (c : Chip) (q : Port) (p addr : Nat) : Chip :=
  (c.errFault Err.lock addr p q.num 0 false).eventTo p 0x91 0 addr (errInfo Err.lock p q.num 0 false)

/-- A lone write to a coupled register: captured and reported to the attributed partition (R52, R440). -/
def Chip.coupledWrite (c : Chip) (q : Port) (p addr : Nat) : Chip :=
  (c.errFault Err.coupled addr p q.num 0 false).eventTo p 0x92 0 addr (errInfo Err.coupled p q.num 0 false)

/-- A broken guarded pair: captured with its cause, no record (R47, R53). [DESIGN CHOICE: log 19] -/
def Chip.guardFault (c : Chip) (q : Port) (p addr cause : Nat) : Chip := c.errFault Err.guard addr p q.num cause false

/-- The pending guarded write of a unit block. -/
def Chip.guardOf (c : Chip) (unit : Nat) : Option GuardPend := c.guards.find? fun g => g.unit == unit

/-- Forget the pending guarded write of a unit block. -/
def Chip.dropGuard (c : Chip) (unit : Nat) : Chip := { c with guards := c.guards.filter fun g => g.unit != unit }

/-- The 64 µs of a guarded pair, in ns (R47). -/
def guardWindow : Nat := 64000

/-- Pending guarded writes whose 64 µs have passed are discarded with cause 3 (R47). -/
def Chip.expireGuards (c : Chip) (now : Nat) (p : GuardPend → Bool) : Chip :=
  let due := c.guards.filter fun g => p g && decide (g.at_ + guardWindow < now)
  due.foldl (fun c g => (c.guardFault g.port ((c.ownedBy g.port).headD 0) g.off 3).dropGuard g.unit) c

/-- The field that locks an L or G field of a register (R50; the register maps of each chapter). -/
def lockField (base : Nat) (ix : List Nat) (lo : Nat) : Option BitField :=
  if base = Reg.SAFETY_DCHG_LIMIT then some Fld.SAFETY_LOCK_DCHG
  else if base = Reg.THERMAL_CFG then (if lo = 0 then none else some Fld.SAFETY_LOCK_THERM)
  else if base = Reg.THERMAL_FUSER_LIM 0 ∨ base = Reg.THERMAL_TH_RATE 0 then some Fld.SAFETY_LOCK_FUSER
  else if base = Reg.POWER_VBACK_MIN then some Fld.SAFETY_LOCK_VBACK
  else if base = Reg.DRIVE_ILIM 0 then some (Fld.DRIVE_LOCK_LOCK (ix.headD 0))
  else if base = Reg.WINDLASS_FUSER_PMAX 0 then some Fld.WINDLASS_FUSER_LOCK_LOCK
  else if base = Reg.STATION_CEIL_DUTY 0 ∨ base = Reg.STATION_CEIL_BIAS 0 then some (Fld.STATION_CEIL_LOCK_LOCK (ix.headD 0))
  else if base = Reg.WINDLASS_HV_CEIL 0 then some Fld.WINDLASS_HV_LOCK_LOCK
  else none

/-- A field of a register is locked now. -/
def Chip.lockedField (c : Chip) (base : Nat) (ix : List Nat) (lo : Nat) : Bool :=
  match lockField base ix lo with
  | some f => c.flag f
  | none => false

/-- The word a register takes from a direct write, field by field, and whether a locked or set field would have changed (R43, R50). -/
def Chip.combine (c : Chip) (r : RegSpec) (ix : List Nat) (old v : Nat) : Nat × Bool :=
  r.fields.foldl (fun (a : Nat × Bool) f =>
    let new := bits v f.hi f.lo
    let cur := bits old f.hi f.lo
    match f.acc with
    | .rw => (putBits a.1 f.hi f.lo new, a.2)
    | .l => if c.lockedField r.base ix f.lo then (a.1, a.2 || new != cur) else (putBits a.1 f.hi f.lo new, a.2)
    | .w1 => if cur ≠ 0 then (a.1, a.2 || new != cur) else (putBits a.1 f.hi f.lo new, a.2)
    | _ => a) (old, false)

/-- The word an M register takes from a masked write: only bits that M fields cover and the mask selects (R46). -/
def maskedWord (r : RegSpec) (old v : Nat) : Nat :=
  let sel := (v / 65536) &&& (r.maskFor .m % 65536)
  (old &&& (2 ^ 32 - 1 - sel)) ||| (v % 65536 &&& sel)

/-- A clear write of a sequence-clear register: it clears when it carries the present SEQ (R48, R49, R53). -/
def Chip.seqClear (c : Chip) (off : Nat) (v : Word) : Chip :=
  let w := (c.reg off).toNat
  if bits v.toNat 31 24 = bits w 31 24 then
    let c := (c.setReg off (BitVec.ofNat 32 (putBits w 23 0 0))).setSqSeen off 0
    if off = Reg.GLOBAL_ERR_EVENT then c.setFld Fld.GLOBAL_ERR_LAST_INFO_COUNT 0 else c
  else c

/-- The offset of the first alias word (R39, R44). -/
def aliasBase : Nat := 0x8000000

/-- An offset that a write of the register window reaches: a register's own, or that of the register behind an alias word. -/
def targetOf (off : Nat) : Nat := if off < aliasBase then off else (off - aliasBase) / 128 * 4

/-- A ring channel waits behind the repeat of an access of its partition that ended in a bus error (R124, R131). -/
def State.waitsBehind (s : State) (ch : Nat) : Bool :=
  let p := (ch - 8) / 2
  let q := s.merge.parts.getD p {}
  let again := s.chip.dma.xfers.filter fun x => x.part == p && x.again
  (q.failed.isSome || !again.isEmpty) && !s.chip.dma.busy.contains ch
    && (if ch % 2 = 0 then !q.fetches.isEmpty || again.any (·.chan == some ch) else !q.writes.isEmpty || again.any (·.chan == some ch))

/-- The word of a register as it is read: engine time, the last sequence number and the counts of the record merge unit are read where they live; a read of a LO word latches its HI word for the port (R41, R43, R47, R72, R101, R130). [DESIGN CHOICE: log 7] -/
def State.regWord (s : State) (off : Nat) : Word :=
  let p := (off - 0x21000) / 0x100
  let q := s.merge.part p
  if s.chip.state = St.sleep ∧ off ≠ Reg.GLOBAL_ID ∧ off ≠ Reg.GLOBAL_STATUS ∧ off ≠ Reg.GLOBAL_WAKE then 0
  else if off = Reg.GLOBAL_TIME_LO then BitVec.ofNat 32 s.clock.time
  else if off = Reg.GLOBAL_TIME_HI then BitVec.ofNat 32 (s.clock.time / 2 ^ 32)
  else if off = Reg.GLOBAL_SEQ_LO then BitVec.ofNat 32 (s.merge.nextSeq - 1)
  else if off = Reg.GLOBAL_SEQ_HI then BitVec.ofNat 32 ((s.merge.nextSeq - 1) / 2 ^ 32)
  else if off = Reg.SUMP_STATUS then
    BitVec.ofNat 32 (putBits (s.chip.reg off).toNat 15 8 (satN 255 ((s.chip.sump.openBytes + s.chip.sump.closedBytes) / 8192)))
  else if off = Reg.HOST_HELD then BitVec.ofNat 32 s.merge.held.length
  else if 0x21000 ≤ off ∧ off < 0x21800 ∧ (off = Reg.HOST_PART_RING_HEAD p 0 ∨ off = Reg.HOST_PART_RING_HEAD p 1
      ∨ off = Reg.HOST_PART_RING_HEAD p 2 ∨ off = Reg.HOST_PART_RING_HEAD p 3) then
    BitVec.ofNat 32 (q.heads.getD ((off - Reg.HOST_PART_RING_HEAD p 0) / 16) 0)
  else if 0x21000 ≤ off ∧ off = Reg.HOST_PART_Q_TAIL p 0 then BitVec.ofNat 32 q.cq.tail
  else if 0x21000 ≤ off ∧ off = Reg.HOST_PART_Q_TAIL p 1 then BitVec.ofNat 32 q.eq.tail
  else if 0x21000 ≤ off ∧ off < 0x21800 ∧ off = Reg.HOST_PART_RING_STATUS p then
    s.chip.reg off ||| BitVec.ofNat 32 (maskWhere 4 (fun r => q.tailErr.getD r false) * 16
      + b2n q.cq.isFull * 256 + b2n q.eq.isFull * 512 + b2n q.headErr * 1024 + b2n (q.busRetry || s.chip.dma.xfers.any fun x => x.part == p && x.again) * 2048)
  else if Reg.DMA_CHAN_STATUS 8 ≤ off ∧ off < Reg.DMA_CHAN_STATUS 24 ∧ off % 4 = 0 ∧ s.waitsBehind ((off - Reg.DMA_CHAN_STATUS 0) / 4) then
    BitVec.ofNat 32 (putBits (s.chip.reg off).toNat 2 0 5)
  else match RegMap.find off with
    | none =>
      match RegMap.find (off - 4) with
      | some (r, _) => if 4 ≤ off ∧ r.guarded then ~~~(s.chip.reg (off - 4)) else 0
      | none => 0
    | some (r, _) =>
      let w := s.chip.reg off
      if r.masked then w &&& 0xFFFF else w

/-- The register behind an offset holds an M field. -/
def holdsMasked (off : Nat) : Bool := (RegMap.find off).elim false fun e => e.1.masked

/-- Read the register window: the aligned word, or bit 0 of an alias word as the bit that it stands for; the alias words of an M register read 0 (R40, R44, R45). In SLEEP the alias words of registers that respond then, ID and STATUS, answer as the registers do, which R54 leaves open. [DESIGN CHOICE: log 7] -/
def State.readWord (s : State) (off : Nat) : Word :=
  let w := s.regWord (targetOf (off / 4 * 4))
  if off < aliasBase then w
  else if holdsMasked (targetOf (off / 4 * 4)) then 0
  else BitVec.ofNat 32 (bits w.toNat ((off - aliasBase) % 128 / 4) ((off - aliasBase) % 128 / 4))

end Sys2Proof.Machine
end

