-- ==== Sys2Proof/Machine/Txn.lean ====
section
/-! DEFINITION. The TXN unit: staging, the checks of a commit, its scheduling, the switch of each unit at its safe point and the report (R59 to R71, R73, R209 to R213, R217, R365, R415, R416).
-/
namespace Sys2Proof.Machine

/-- The switch unit of a staged entry (R56, R73). -/
def Staged.unit : Staged → Nat
  | .reg off _ _ => unitOf off
  | .table inst => tableUnit inst

/-- The units a list of entries affects, in staging order. -/
def stagedUnits (l : List Staged) : List Nat := (l.map Staged.unit).eraseDups

/-- The commit of a partition that waits or switches (R69: one per partition). -/
def Chip.commitOf (c : Chip) (p : Nat) : Option Commit := c.txn.commits.find? fun (m : Commit) => m.part == p

/-- The open transaction of a partition. -/
def Chip.openTxn (c : Chip) (p : Nat) : Option OpenTxn := c.txn.opens.getD p none

/-- Replace the open transaction of a partition. -/
def Chip.setOpen (c : Chip) (p : Nat) (o : Option OpenTxn) : Chip :=
  c.updTxn fun x => { x with opens := updAt x.opens p fun _ => o }

/-- Change the commit of a partition. -/
def Chip.updCommit (c : Chip) (p : Nat) (f : Commit → Commit) : Chip :=
  c.updTxn fun x => { x with commits := x.commits.map fun (m : Commit) => if m.part == p then f m else m }

/-- Forget the commit of a partition. -/
def Chip.dropCommit (c : Chip) (p : Nat) : Chip :=
  c.updTxn fun x => { x with commits := x.commits.filter fun (m : Commit) => m.part != p }

/-- The mode code of a trigger (R416). -/
def Trigger.mode : Trigger → Nat
  | .safe => 0
  | .belt _ => 1
  | .time _ => 2

/-- The value of a trigger, 0 under SAFE. -/
def Trigger.value : Trigger → Nat
  | .safe => 0
  | .belt t => t
  | .time t => t

/-- Show a partition's transaction and commit in TXN.STATE, BEGIN_GEN and TRIGGER (R73). [DEDUCED: log 25] -/
def Chip.showTxn (c : Chip) (p : Nat) : Chip :=
  let o := c.openTxn p
  let c := match c.commitOf p with
    | some m =>
      (((c.setFld (Fld.TXN_STATE_STATE p) (if m.begun then 3 else 2)).setFld (Fld.TXN_STATE_MODE p) m.trig.mode).setPair
        (Reg.TXN_TRIGGER_LO p) (Reg.TXN_TRIGGER_HI p) m.trig.value)
    | none => ((c.setFld (Fld.TXN_STATE_STATE p) (b2n o.isSome)).setFld (Fld.TXN_STATE_MODE p) 0).setPair
        (Reg.TXN_TRIGGER_LO p) (Reg.TXN_TRIGGER_HI p) 0
  let c := c.setFlag (Fld.TXN_STATE_OPEN p) o.isSome
  c.setFld (Fld.TXN_STATE_STAGED p) (match o with | some t => t.entries.length | none => 0)

/-- Record the outcome of the last commit of a partition in TXN.RESULT (R73). [DEDUCED: log 25] -/
def Chip.showResult (c : Chip) (p status units span : Nat) : Chip :=
  ((c.setFld (Fld.TXN_RESULT_UNITS p) units).setFld (Fld.TXN_RESULT_STATUS p) status).setFld (Fld.TXN_RESULT_SPAN p)
    (satN 65535 (span / 16))

/-- TXN_BEGIN (R59, R63). -/
def Chip.txnBegin (c : Chip) (e : JEntry) : Chip :=
  let c := c.started e.slot
  match c.openTxn e.part with
  | some _ => c.result e.slot Rc.ERR_TXN_OPEN
  | none =>
    (((c.setOpen e.part (some { gen := c.txn.gen })).setReg (Reg.TXN_BEGIN_GEN e.part) (BitVec.ofNat 32 c.txn.gen)).showTxn
      e.part).result e.slot Rc.OK

/-- A partition may write a register of a privilege class (R42, R60, R101). -/
def Chip.mayStage (c : Chip) (p : Nat) (pr : Priv) (ix : List Nat) : Bool :=
  match pr with
  | .any => true
  | .master => p == 0
  | .owner => ix.headD 0 == p
  | .cls k => bit (c.classes p) k

/-- A register entry may be staged: a register lies there, the mask covers only RW, L and T fields, and the partition may write it (R60, R415). -/
def Chip.stageReg (c : Chip) (p off mask : Nat) : Bool :=
  match RegMap.find off with
  | none => false
  | some (r, ix) =>
    let ok := sumN ((r.fields.filter fun f => f.acc == .rw || f.acc == .l || f.acc == .t).map fun f => maskOf f.hi f.lo)
    mask &&& (2 ^ 32 - 1 - ok) == 0 && c.mayStage p r.priv ix

/-- The staged entry that TXN_WRITE names, none when its target fails the check (R60, R415). -/
def Chip.stageEntry (c : Chip) (e : JEntry) : Option Staged :=
  if e.param 0x10 1 = 0 then
    let off := e.param 0x14 4
    if c.stageReg e.part off (e.param 0x18 4) then
      some (.reg off (BitVec.ofNat 32 (e.param 0x18 4)) (BitVec.ofNat 32 (e.param 0x1C 4)))
    else none
  else
    let i := e.param 0x12 2
    if (tableRanges i).isEmpty || !bit (c.classes e.part) 2 then none else some (.table i)

/-- TXN_WRITE: its target is checked before the room for it (R59, R60, R415). [DESIGN CHOICE: log 136] -/
def Chip.txnWrite (c : Chip) (e : JEntry) : Chip :=
  if 1 < e.param 0x10 1 then c.result e.slot Rc.ERR_RANGE 0x10
  else if e.param 0x10 1 = 0 ∧ (e.param 0x14 4 % 4 ≠ 0 ∨ 0x3FFFFFC < e.param 0x14 4) then c.result e.slot Rc.ERR_RANGE 0x14
  else
    let c := c.started e.slot
    match c.openTxn e.part with
    | none => c.result e.slot Rc.ERR_NO_TXN
    | some o =>
      match c.stageEntry e with
      | none => c.result e.slot Rc.ERR_TXN_TARGET
      | some s =>
        if 512 ≤ o.entries.length then c.result e.slot Rc.TXN_FULL
        else ((c.setOpen e.part (some { o with entries := o.entries ++ [s] })).showTxn e.part).result e.slot Rc.OK

/-- What an entry names in the conflict log (R63). -/
def Staged.target : Staged → Bool × Nat
  | .reg off _ _ => (false, off)
  | .table i => (true, i)

/-- Commits that the conflict log holds (R63). -/
def logReach : Nat := 4096

/-- The generation of the oldest commit still in the log (R73). -/
def TxnUnit.oldest (x : TxnUnit) : Nat := if x.gen = 0 then 0 else if x.gen ≤ logReach then 1 else x.gen - logReach + 1

/-- The conflict of a transaction that began at a generation: the value of TXN.CONFLICT_ADDR (R63). [DESIGN CHOICE: log 26] -/
def Chip.conflict (c : Chip) (begin_ : Nat) (l : List Staged) : Option Nat :=
  let late := c.txn.log.filter fun e => decide (begin_ < e.1)
  match l.find? fun s => late.any fun e => e.2 == s.target with
  | some s => some (s.target.2 % 2 ^ 30 + b2n s.target.1 * 2 ^ 30)
  | none => if begin_ + logReach < c.txn.gen then some (2 ^ 31) else none

/-- A register entry would change an L field whose lock is set (R62). [DESIGN CHOICE: log 26] -/
def Chip.lockedEntry (c : Chip) : Staged → Bool
  | .table _ => false
  | .reg off mask data =>
    match RegMap.find off with
    | none => false
    | some (r, ix) =>
      let old := (c.reg off).toNat
      let new := ((c.reg off &&& ~~~mask) ||| (data &&& mask)).toNat
      r.fields.any fun f => f.acc == .l && c.lockedField r.base ix f.lo && bits old f.hi f.lo != bits new f.hi f.lo

/-- Whether a trigger is valid at scheduling (R65, R66). -/
def Chip.badTrigger (c : Chip) (now : Nat) : Trigger → Option (Nat × Nat)
  | .safe => none
  | .belt t =>
    if beltAtOrAfter c.beltPos t then some (Rc.TXN_LATE, 0)
    else if 2 ^ 40 < beltAhead t c.beltPos then some (Rc.ERR_RANGE, 0x18) else none
  | .time t =>
    if t ≤ now then some (Rc.TXN_LATE, 0) else if now + 60000000000 < t then some (Rc.ERR_RANGE, 0x18) else none

/-- A drive axis is in a move (R311). -/
def Chip.driveMoving (c : Chip) (a : Nat) : Bool :=
  let s := c.fld (Fld.DRIVE_STATUS_STATE a)
  s == 2 || s == 3 || s == 5 || s == 6 || (s == 4 && (c.drive a).ramping)

/-- A Mule axis is in a move: MOVING or HOMING (R64, R343). -/
def Chip.muleMoving (c : Chip) (m : Nat) : Bool :=
  let s := c.fld (Fld.MULE_STATUS_STATE m)
  s == 2 || s == 3

/-- An entry waits for a move boundary and its axis is in a move (R64, R311, R343). -/
def Chip.axisBusy (c : Chip) : Staged → Bool
  | .table _ => false
  | .reg off _ _ =>
    if 0x300000 ≤ off ∧ off < 0x30C000 then off % 0x1000 == 0x30 && c.driveMoving ((off - 0x300000) / 0x1000)
    else if 0x320000 ≤ off ∧ off < 0x328000 then
      decide (0x10 ≤ off % 0x800) && decide (off % 0x800 ≤ 0x18) && c.muleMoving ((off - 0x320000) / 0x800)
    else false

/-- An entry names a profile that switches at a move boundary: a drive ramp or a Mule profile (R64, R65, R311, R343). -/
def Staged.onMove : Staged → Bool
  | .table _ => false
  | .reg off _ _ =>
    (decide (0x300000 ≤ off) && decide (off < 0x30C000) && off % 0x1000 == 0x30)
      || (decide (0x320000 ≤ off) && decide (off < 0x328000) && decide (0x10 ≤ off % 0x800) && decide (off % 0x800 ≤ 0x18))

/-- Apply one entry: the masked register write, also of an L field whose lock was set after the scheduling, or the exchange of the banks with the copy that follows; a copy of the same instance that still runs is completed first, with the writes held for it (R56, R57, R61, R62). [DEDUCED: log 29; DESIGN CHOICE: log 135] -/
def Chip.applyEntry (c : Chip) : Staged → Chip
  | .reg off mask data =>
    let old := c.reg off
    let c := c.setReg off ((old &&& ~~~mask) ||| (data &&& mask))
    c.updTxn fun x => { x with
      touched := if x.touched.any (fun e => e.1 == off) then x.touched else x.touched ++ [(off, old)] }
  | .table i =>
    let c := ((c.tableCopied i).swapBanks i).masterCopied i
    let c := c.updTxn fun x => { x with
      switched := x.switched ++ [i]
      copying := x.copying.filter (fun e => e.1 != i) ++ [(i, [])]
      bad := (if x.pendBad.contains i then [i] else []) ++ x.bad.filter (fun n => n != i)
      pendBad := (if x.bad.contains i then [i] else []) ++ x.pendBad.filter fun n => n != i }
    let c := c.updEng fun x => { x with invalid := x.invalid.filter fun n => n != i }
    if i / 4096 = 1 then
      c.updTile (i % 4096 / 2) fun x => { x with bankUse := updAt x.bankUse (i % 2) fun b => 1 - b }
    else c

/-- Apply entries: every register write in staging order, and each table once (R61). -/
def Chip.applyEntries (c : Chip) (l : List Staged) : Chip :=
  ((l.filter fun s => !s.target.1) ++ (l.filter fun s => s.target.1).eraseDups).foldl Chip.applyEntry c

/-- Apply every entry of a commit that belongs to a unit (R61). -/
def Chip.applyUnit (c : Chip) (m : Commit) (u : Nat) : Chip := c.applyEntries (m.entries.filter fun s => s.unit == u)

/-- The DETAIL of a switch report: span in ns, saturating, and the number of units (R416). -/
def Commit.detail (m : Commit) : Nat := satN 0xFFFFFF (m.last - m.first) + m.units % 256 * 2 ^ 24

/-- The report of a commit that is over: the completion of a SAFE commit, or the deferred-commit record (R68, R408). [DESIGN CHOICE: log 31] -/
def Chip.reportCommit (c : Chip) (m : Commit) (now status detail : Nat) (time : Option Nat) : Chip :=
  match m.slot with
  | some k =>
    if status = Rc.TXN_SWITCHED then c.emit (.resultAt k Rc.OK detail (time.getD now)) else c.result k status detail
  | none =>
    c.emit (.event { status := status, opcode := m.opcode, tag := m.tag, detail := detail, dest := .part m.part, time := time })

/-- End a commit whose last unit has switched (R68). -/
def Chip.endCommit (c : Chip) (now p : Nat) : Chip :=
  match c.commitOf p with
  | none => c
  | some m =>
    if !m.left.isEmpty then c else
    let c := c.dropCommit p
    let c := c.showResult p (if m.slot.isSome then Rc.OK else Rc.TXN_SWITCHED) m.units (m.last - m.first)
    (c.showTxn p).reportCommit m now Rc.TXN_SWITCHED m.detail (some m.last)

/-- A part of a commit is taken at an instant: the commit stands, and its first part is the earliest (R67, R71). -/
def Commit.begins (m : Commit) (instant : Nat) : Commit :=
  { m with begun := true, began := some (m.began.elim instant (min instant)) }

/-- A unit of a commit has switched at an instant: SWITCH_TIME, the span, and the end when it was the last (R68, R73). [DESIGN CHOICE: log 31] -/
def Chip.unitSwitched (c : Chip) (now p u instant : Nat) : Chip :=
  let c := c.setReg (Reg.TXN_SWITCH_TIME p u) (BitVec.ofNat 32 instant)
  let c := c.updCommit p fun m => { m.begins instant with
    left := m.left.filter fun k => k != u
    first := if m.units = 0 then instant else min m.first instant
    last := max m.last instant
    units := m.units + 1 }
  (c.showTxn p).endCommit now p

/-- A unit takes its part of a commit now (R67). -/
def Chip.switchUnit (c : Chip) (now p u instant : Nat) : Chip :=
  match c.commitOf p with
  | none => c
  | some m => if m.left.contains u then (c.applyUnit m u).unitSwitched now p u instant else c

/-- A Windlass offset of a slot: the slot's registers and its biquads (R365, R375). -/
def wlSlotOf (off : Nat) : Option Nat :=
  if 0x390000 ≤ off ∧ off < 0x391800 then some ((off - 0x390000) / 64)
  else if 0x3A0000 ≤ off ∧ off < 0x3A3000 then some ((off - 0x3A0000) / 128)
  else none

/-- A slot is enabled: its LAW is set (R352, R353). -/
def Chip.slotRuns (c : Chip) (n : Nat) : Bool := c.fld (Fld.WINDLASS_SLOT_CFG_LAW n) != 0

/-- The repetitive-control table whose registers hold an offset (R364, R375). -/
def rcTableOf (off : Nat) : Option Nat := if 0x380200 ≤ off ∧ off < 0x380300 then some ((off - 0x380200) / 16) else none

/-- The running slot that a repetitive-control table affects: the one that uses it, else the one that a commit gives it to (R364, R365). [DEDUCED: log 28] -/
def Chip.rcSlot (c : Chip) (m : Commit) (j : Nat) : Option Nat :=
  let old := c.reg (Reg.WINDLASS_RC_CFG j)
  let new := m.entries.foldl (fun w s => match s with
    | .reg off mask data => if off = Reg.WINDLASS_RC_CFG j then (w &&& ~~~mask) ||| (data &&& mask) else w
    | .table _ => w) old
  [old, new].findSome? fun w =>
    if bit w.toNat 9 && c.slotRuns (bits w.toNat 6 0) then some (bits w.toNat 6 0) else none

/-- The running slot that an entry of a commit affects: by its own registers and biquads, or by a repetitive-control table (R365). [DEDUCED: log 28] -/
def Chip.entrySlot (c : Chip) (m : Commit) : Staged → Option Nat
  | .reg off _ _ =>
    match wlSlotOf off with
    | some n => if c.slotRuns n then some n else none
    | none => (rcTableOf off).bind (c.rcSlot m)
  | .table i => if i / 4096 = 7 then c.rcSlot m (i % 4096) else none

/-- What each running slot takes of the WINDLASS entries of a commit (R365). [DEDUCED: log 28] -/
def Chip.slotParts (c : Chip) (m : Commit) : List (Nat × List Staged) :=
  let l := m.entries.filterMap fun s => (c.entrySlot m s).map fun n => (n, s)
  ((l.map (·.1)).eraseDups).map fun n => (n, (l.filter fun e => e.1 == n).map (·.2))

/-- A tile plans sweeps (R213). [DESIGN CHOICE: log 65] -/
def Chip.planning (c : Chip) (t : Nat) : Bool := c.fld (Fld.TILE_SCHED_STATUS_STATE t) == 1

/-- The tiles whose switch a unit of a commit waits for. -/
def Chip.unitTiles (c : Chip) (u : Nat) : List Nat :=
  if 8 ≤ u ∧ u < 16 then c.tilesOf (u - 8) else if 16 ≤ u ∧ u < 80 then [u - 16] else []

/-- A tile has switched for a STATION or TILE unit at an instant: the unit switches with its last tile (R213). [DEDUCED: log 27] -/
def Chip.tileSwitched (c : Chip) (now p u t instant : Nat) : Chip :=
  match c.commitOf p with
  | none => c
  | some m =>
    if !m.left.contains u then c else
    let old : Nat × List Nat := (m.tilesLeft.find? fun e => e.1 == u).elim (0, c.unitTiles u) (·.2)
    let at_ := if old.2.contains t then max old.1 instant else old.1
    let rest := old.2.filter fun k => k != t
    let c := c.updCommit p fun m => { m.begins instant with
      tilesLeft := m.tilesLeft.filter (fun e => e.1 != u) ++ [(u, at_, rest)] }
    let c := c.when m.auto fun c => c.updTile t fun x => { x with corrected := some (x.planPage, x.planLine) }
    if rest.isEmpty then c.switchUnit now p u at_ else c.showTxn p

/-- The tiles of a unit that a commit still waits for. [DEDUCED: log 27] -/
def Chip.tilesOwed (c : Chip) (m : Commit) (u : Nat) : List Nat :=
  if m.left.contains u then (m.tilesLeft.find? fun e => e.1 == u).elim (c.unitTiles u) (·.2.2) else []

/-- A commit switches the microstep table of a Mule axis (R338). -/
def Commit.micro (m : Commit) (a : Nat) : Bool := m.entries.any fun s => s.target.1 && s.unit == 96 + a

/-- A commit switches profile fields of a Mule axis that is in a move: they wait for the move boundary (R64, R343). -/
def Chip.midMove (c : Chip) (m : Commit) (a : Nat) : Bool :=
  c.muleMoving a && m.entries.any fun s => s.onMove && s.unit == 96 + a

/-- The trigger of a commit is reached: units without a longer safe point switch now; what WINDLASS applies beside its running slots counts as begun, so that no later rollback or reset leaves a part of it (R64 to R67, R213, R365). [DEDUCED: log 27] -/
def Chip.switchNow (c : Chip) (now p : Nat) : Chip :=
  match c.commitOf p with
  | none => c
  | some m =>
    m.left.foldl (fun (c : Chip) u =>
      if 8 ≤ u ∧ u < 80 then
        let ts := c.unitTiles u
        if ts.isEmpty then c.switchUnit now p u now
        else (ts.filter fun t => !c.planning t).foldl (fun (c : Chip) t => c.tileSwitched now p u t now) c
      else if 80 ≤ u ∧ u < 92 then
        let s := c.fld (Fld.DRIVE_STATUS_STATE (u - 80))
        if s = 0 ∨ s = 7 then c.switchUnit now p u now else c
      else if 96 ≤ u ∧ u < 112 then
        if m.micro (u - 96) && c.flag (Fld.MULE_CFG_EN (u - 96)) || c.midMove m (u - 96) then c else c.switchUnit now p u now
      else if u = 5 ∧ m.trig ≠ .safe then
        let parts := c.slotParts m
        if parts.isEmpty then c.switchUnit now p u now
        else
          let still := m.entries.filter fun s => s.unit == 5 && (c.entrySlot m s).isNone
          ((c.applyEntries still).updCommit p fun m =>
            { (if still.isEmpty then m else m.begins now) with slotsLeft := parts.map (·.1), slotParts := parts }).showTxn p
      else c.switchUnit now p u now) c

/-- Fire a commit whose trigger is reached: with a busy axis nothing applies; else the units switch at their safe points (R65 to R67). -/
def Chip.fire (c : Chip) (now p : Nat) : Chip :=
  match c.commitOf p with
  | none => c
  | some m =>
    if m.fired then c
    else if !m.begun && m.entries.any c.axisBusy then
      (((c.dropCommit p).showResult p Rc.TXN_NO_SAFE_POINT 0 0).showTxn p).reportCommit m now Rc.TXN_NO_SAFE_POINT 0 none
    else (c.updCommit p fun m => { m with
      fired := true, firedAt := match m.trig with | .time t => t | _ => now }).switchNow now p

/-- A trigger is reached. -/
def Chip.reached (c : Chip) (now : Nat) : Trigger → Bool
  | .safe => true
  | .belt t => beltAtOrAfter c.beltPos t
  | .time t => decide (t ≤ now)

/-- Commits by the sequence number of their command (R69). -/
def insertCommit (x : Commit) : List Commit → List Commit
  | [] => [x]
  | y :: l => if x.seq < y.seq then x :: y :: l else y :: insertCommit x l

/-- The commits in the order in which they apply (R69). -/
def Chip.commits (c : Chip) : List Commit := c.txn.commits.foldl (fun l m => insertCommit m l) []

/-- Fire every commit whose trigger is reached, in order (R65, R66, R69). [DEDUCED: log 27] -/
def Chip.fireDue (c : Chip) (now : Nat) : Chip :=
  (c.commits.filter fun m => !m.fired && c.reached now m.trig).foldl (fun (c : Chip) m => c.fire now m.part) c

/-- Ring positions of the placement banks: the head's inactive bank of a direction as 2 × DIR + BANK (R217). -/
def Chip.idleBank (c : Chip) (t dir : Nat) : Nat := 2 * dir + (1 - (c.tile t).bankUse.getD dir 0)

/-- Check the banks that a scheduled commit names, and send new placement banks to the heads (R216, R217, R232, R247, R338). [DESIGN CHOICE: log 30] -/
def Chip.prepareTables (c : Chip) (now : Nat) (l : List Staged) : Chip :=
  (l.eraseDups).foldl (fun (c : Chip) s =>
    match s with
    | .reg _ _ _ => c
    | .table i =>
      let (bad, c) := c.checkBank i
      let c := c.updTxn fun x => { x with pendBad := (if bad then [i] else []) ++ x.pendBad.filter fun n => n != i }
      if i / 4096 = 1 then
        let t := i % 4096 / 2
        c.loadBank now t (c.idleBank t (i % 2)) (c.bankWords false t (i % 2))
      else c) c

/-- A commit affects a tile: it names the tile or its station (R209). -/
def Commit.affects (m : Commit) (t s : Nat) : Bool := m.left.contains (16 + t) || m.left.contains (8 + s)

/-- The due position of a page's line at a tile, in sub-lines, before the tile's own offsets are added by the planner: the position a cut is compared with (R8, R193, R209). -/
def Chip.tileDue (c : Chip) (t : Nat) (p : Page) (n : Nat) (reg pos : Word) : Nat :=
  beltAdd (p.due (c.stationOf t) n) (signed 24 (bits reg.toNat 23 0) + signed 16 (bits pos.toNat 31 16))

/-- The first line of the running pages that a tile has not planned; 0, the first line of a page to come, when every one is planned. [DESIGN CHOICE: log 63] -/
def Chip.firstUnplanned (c : Chip) (t : Nat) : Nat :=
  let x := c.tile t
  let from_ (p : Page) : Nat := if x.planPage = p.seq then x.planLine else 0
  ((c.running.find? fun p => p.tiles.contains t && !p.lost.contains t && decide (x.planPage ≤ p.seq) && decide (from_ p < p.total)).map from_).getD 0

/-- Lines due at or after T that the tile has planned keep the old state, and are reported: the last line planned of a running page is one (R212). -/
def Chip.frozen (c : Chip) (m : Commit) (t : Nat) : Chip :=
  match m.trig with
  | .belt pos =>
    let x := c.tile t
    if m.affects t (c.stationOf t) && (c.pageOf x.planPage).any (fun p => p.running && p.tiles.contains t)
        && beltAtOrAfter (x.planDue / 65536) pos then
      let n := c.firstUnplanned t
      (c.raise (Ev.TILE_PLACE_EVENT_TXN_FROZEN t)).eventTo m.part Rc.TXN_FROZEN 0 m.tag
        (n % 2 ^ 24 + t * 2 ^ 24 + n / 2 ^ 24 % 2 * 2 ^ 30)
    else c
  | _ => c

/-- A commit takes the next generation, enters the conflict log and waits (R63). -/
def Chip.enterCommit (c : Chip) (m : Commit) : Chip :=
  c.updTxn fun x => { x with
    gen := x.gen + 1
    log := ((m.entries.map fun s => (x.gen + 1, s.target)).eraseDups ++ x.log).filter fun e => decide (x.gen + 1 < e.1 + logReach)
    commits := x.commits ++ [{ m with left := stagedUnits m.entries }] }

/-- Schedule a commit that passed its checks (R63, R64, R68, R73). [DEDUCED: log 27] -/
def Chip.schedule (c : Chip) (now : Nat) (m : Commit) : Chip :=
  let c := c.enterCommit m
  let m := { m with left := stagedUnits m.entries }
  let c := (c.setReg Reg.TXN_GEN (BitVec.ofNat 32 c.txn.gen)).setReg Reg.TXN_LOG_OLDEST (BitVec.ofNat 32 c.txn.oldest)
  let c := c.each (List.range 128) fun u c => c.setReg (Reg.TXN_SWITCH_TIME m.part u) 0xFFFFFFFF
  let c := (c.prepareTables now m.entries).showTxn m.part
  let c := c.each (List.range 64) fun t c => c.frozen m t
  if m.trig = .safe then c.fire now m.part else c

/-- The trigger that a command's MODE and TRIGGER parameters give. -/
def triggerOf (mode value : Nat) : Trigger := if mode = 1 then .belt value else if mode = 2 then .time value else .safe

/-- Check and schedule a commit of a command: the checks of R62 from `begin_` on; `keep` says that a failed check leaves the transaction open (R62, R64, R426). -/
def Chip.commitEntries (c : Chip) (now : Nat) (e : JEntry) (trig : Trigger) (begin_ : Nat) (l : List Staged) (checkLocks closes : Bool) : Chip :=
  let fail (c : Chip) (status detail : Nat) : Chip := (c.showResult e.part status 0 0).result e.slot status detail
  if (c.commitOf e.part).isSome then fail c Rc.TXN_BUSY 0
  else
    match c.conflict begin_ l with
    | some a =>
      let c := c.setReg (Reg.TXN_CONFLICT_ADDR e.part) (BitVec.ofNat 32 a)
      let c := if closes then (c.setOpen e.part none).showTxn e.part else c
      fail c Rc.TXN_CONFLICT a
    | none =>
      if checkLocks && l.any c.lockedEntry then fail c Rc.TXN_LOCKED 0
      else
        match c.badTrigger now trig with
        | some (s, d) => fail c s d
        | none =>
          if trig = .safe ∧ l.any c.axisBusy then fail c Rc.TXN_NO_SAFE_POINT 0
          else
            let c := if closes then c.setOpen e.part none else c
            let m : Commit := {
              part := e.part, seq := e.seq, tag := e.tag.toNat, opcode := e.opcode
              slot := if trig = .safe then some e.slot else none
              trig := trig, entries := l }
            if trig = .safe then c.schedule now m
            else ((c.showResult e.part Rc.TXN_SCHEDULED 0 0).result e.slot Rc.TXN_SCHEDULED).schedule now m

/-- TXN_COMMIT; an empty transaction completes before any check (R62 to R68, R416). [DESIGN CHOICE: log 136] -/
def Chip.txnCommit (c : Chip) (x : Ctx) (e : JEntry) : Chip :=
  let mode := e.param 0x10 1
  if 2 < mode then c.result e.slot Rc.ERR_RANGE 0x10
  else
    let c := c.started e.slot
    match c.openTxn e.part with
    | none => c.result e.slot Rc.ERR_NO_TXN
    | some o =>
      if o.entries.isEmpty then (((c.setOpen e.part none).showResult e.part Rc.OK 0 0).showTxn e.part).result e.slot Rc.OK
      else c.commitEntries x.now e (triggerOf mode (e.param 0x18 8)) o.gen o.entries true true

/-- TXN_ROLLBACK (R70). [DESIGN CHOICE: log 26] -/
def Chip.txnRollback (c : Chip) (e : JEntry) : Chip :=
  let c := c.started e.slot
  match c.openTxn e.part with
  | some _ => ((c.setOpen e.part none).showTxn e.part).result e.slot Rc.OK
  | none =>
    match c.commitOf e.part with
    | none => c.result e.slot Rc.ERR_NO_TXN
    | some m =>
      if m.trig = .safe then c.result e.slot Rc.ERR_NO_TXN
      else if m.begun then c.result e.slot Rc.TXN_APPLIED
      else ((c.dropCommit e.part).showTxn e.part).result e.slot Rc.OK

/-- A drive axis is at a move boundary: in RUN with its ramp finished, in DISABLED or in FAULT (R311). -/
def Chip.atMoveBoundary (c : Chip) (a : Nat) : Bool :=
  let s := c.fld (Fld.DRIVE_STATUS_STATE a)
  s == 0 || s == 7 || (s == 4 && !(c.drive a).ramping)

/-- A commit switches a field of an axis that waits for a move boundary (R311). -/
def Commit.ramps (m : Commit) (a : Nat) : Bool :=
  m.entries.any fun | .reg off _ _ => off == 0x300030 + a * 0x1000 | .table _ => false

/-- A carrier peak of a drive axis is a safe point of its fields; its ramps switch only at one that is a move boundary (R305, R311). [DEDUCED: log 28] -/
def Chip.switchDrive (c : Chip) (now a : Nat) : Chip :=
  (c.commits.filter fun m => m.fired && m.left.contains (80 + a) && (!m.ramps a || c.atMoveBoundary a)).foldl (fun (c : Chip) m => c.switchUnit now m.part (80 + a) now) c

/-- A Mule axis takes its tables at a coil-bus frame, with profile fields beside them at one that is a move boundary (R64, R338, R343). [DEDUCED: log 28] -/
def Chip.switchMule (c : Chip) (now m : Nat) : Chip :=
  (c.commits.filter fun k => k.fired && k.left.contains (96 + m) && !c.midMove k m).foldl (fun (c : Chip) k => c.switchUnit now k.part (96 + m) now) c

/-- A Windlass slot executes for a sample instant at or after the trigger: it takes its part; the unit switches with the last slot (R365). [DEDUCED: log 28] -/
def Chip.switchSlot (c : Chip) (now n sample : Nat) : Chip :=
  (c.commits.filter fun m => m.slotsLeft.contains n && decide (m.firedAt ≤ sample)).foldl (fun (c : Chip) m =>
    let c := c.applyEntries ((m.slotParts.filter fun (e : Nat × List Staged) => e.1 == n).flatMap (·.2))
    let c := c.updCommit m.part fun m => { m.begins now with slotsLeft := m.slotsLeft.filter fun k => k != n }
    if (m.slotsLeft.filter fun k => k != n).isEmpty then c.unitSwitched now m.part 5 now else c) c

/-- Tiles that stopped planning, axes that stopped and slots that stopped after the trigger need no safe point of their own: they switch now (R213, R311, R365). [DESIGN CHOICE: log 13] -/
def Chip.catchUp (c : Chip) (now : Nat) : Chip :=
  (c.commits.filter (·.fired)).foldl (fun (c : Chip) m =>
    let c := m.left.foldl (fun (c : Chip) u =>
      if 8 ≤ u ∧ u < 80 then
        ((c.tilesOwed m u).filter fun t => !c.planning t).foldl (fun (c : Chip) t => c.tileSwitched now m.part u t now) c
      else if 80 ≤ u ∧ u < 92 ∧ (c.fld (Fld.DRIVE_STATUS_STATE (u - 80)) = 0 ∨ c.fld (Fld.DRIVE_STATUS_STATE (u - 80)) = 7) then
        c.switchUnit now m.part u now
      else if 96 ≤ u ∧ u < 112 ∧ (!(m.micro (u - 96)) || !c.flag (Fld.MULE_CFG_EN (u - 96))) ∧ !c.midMove m (u - 96) then
        c.switchUnit now m.part u now
      else c) c
    (m.slotsLeft.filter fun n => !c.slotRuns n).foldl (fun (c : Chip) n => c.switchSlot now n now) c) c

/-- The commits a tile has taken and whose station has not switched yet: the tile already works with their new state (R213). -/
def Chip.ahead (c : Chip) (t : Nat) : List Commit :=
  let s := c.stationOf t
  c.commits.filter fun m => m.left.contains (8 + s) && m.tilesLeft.any fun e => e.1 == 8 + s && !e.2.2.contains t

/-- A STATION register as one of its tiles sees it (R213). -/
def Chip.viewReg (c : Chip) (t off : Nat) : Word :=
  (c.ahead t).foldl (fun w m => m.entries.foldl (fun w s => match s with
    | .reg o mask data => if o = off then (w &&& ~~~mask) ||| (data &&& mask) else w
    | .table _ => w) w) (c.reg off)

/-- A STATION table as one of its tiles sees it: the shadow bank is already its active one (R213). -/
def Chip.viewShadow (c : Chip) (t inst : Nat) : Bool := (c.ahead t).any fun m => m.entries.contains (.table inst)

/-- A partition reset: the open transaction is discarded, and the commit of which no unit has switched (R71). [DESIGN CHOICE: log 26] -/
def Chip.resetTxn (c : Chip) (now p : Nat) : Chip :=
  let c := c.setOpen p none
  let c := match c.commitOf p with
    | some m =>
      if m.begun then c
      else ((c.dropCommit p).showResult p Rc.TXN_RESET 0 0).reportCommit m now Rc.TXN_RESET 0 none
    | none => c
  c.showTxn p

end Sys2Proof.Machine
end

