-- ==== Sys2Proof/Machine/Feedback.lean ====
section
/-! DEFINITION. Position and speed feedback: incremental channels, Hall triplets, BiSS-C and SSI masters, belt position and drum surfaces (R191, R192, R316 to R332).
-/
namespace Sys2Proof.Machine

/-- A speed of `k` counts in `dt` ns, in counts/s with 16 fraction bits. [DESIGN CHOICE: log 88] -/
def perSecond (k : Int) (dt : Nat) : Int := k * 65536000000000 / (max 1 dt : Nat)

/-- The way from one 32-bit count to another, over the wrap (R318, R322). -/
def apart (n m : Int) : Int := signed 32 (pattern 32 (n - m))

/-- The further of two counts in a direction (R322). -/
def further (dir n m : Int) : Int := if 0 < apart n m * dir then n else m

/-- D_s of a station jumps by `d` counts (R191). -/
def Stn.shifted (x : Stn) (d : Int) : Stn :=
  { x with drum := pattern 64 ((x.drum : Int) + d * x.scale), drumCopy := pattern 64 ((x.drumCopy : Int) + d * x.scale) }

/-- A raw count and the position of an incremental channel (R318, R319). -/
def Chip.encCount (c : Chip) (e : Nat) : Int := c.fldS (Fld.FEEDBACK_ENC_COUNT_VALUE e)
def Chip.encPos (c : Chip) (e : Nat) : Int := c.fldS (Fld.FEEDBACK_ENC_POS_VALUE e)

/-- D_s of the stations that a channel drives jumps by `d` counts: their position was referenced, not moved (R191, R319). -/
def Chip.shiftDrums (c : Chip) (ch : Nat) (d : Int) : Chip :=
  { c with stns := c.stns.map fun (x : Stn) => if x.ch == ch && x.scale != 0 then x.shifted d else x }

/-- Set REF_PHASE of a channel, the position and the drum surfaces following (R191, R319). -/
def Chip.setPhase (c : Chip) (e : Nat) (ph : Int) : Chip :=
  ((c.setFldS (Fld.FEEDBACK_ENC_REF_PHASE_VALUE e) ph).setFldS (Fld.FEEDBACK_ENC_POS_VALUE e) (c.encCount e - ph)).shiftDrums e
    (c.fldS (Fld.FEEDBACK_ENC_REF_PHASE_VALUE e) - ph)

/-- A channel, 0 to 11 incremental and 12 to 15 BiSS masters, is enabled. -/
def Chip.chanOn (c : Chip) (ch : Nat) : Bool :=
  if ch < 12 then c.flag (Fld.FEEDBACK_ENC_CFG_EN ch) else c.flag (Fld.FEEDBACK_BISS_CFG_EN (ch - 12))

/-- A channel holds ENCODER_FAULT (R331). -/
def Chip.chanFault (c : Chip) (ch : Nat) : Bool :=
  if ch < 12 then c.flag (Fld.FEEDBACK_ENC_STATUS_FAULT ch) else c.flag (Fld.FEEDBACK_BISS_STATUS_FAULT (ch - 12))

/-- A channel is referenced (R327, R330). -/
def Chip.chanRef (c : Chip) (ch : Nat) : Bool :=
  if ch < 12 then c.flag (Fld.FEEDBACK_ENC_STATUS_REF ch) else c.flag (Fld.FEEDBACK_BISS_STATUS_REF (ch - 12))

/-- The filtered speed of a channel in counts/s with 16 fraction bits. -/
def Chip.chanSpeed (c : Chip) (ch : Nat) : Int := if ch < 12 then (c.enc ch).speed else (c.bissCh (ch - 12)).speed

/-- Counts per revolution of a channel, 0 for none (R303, R330). -/
def Chip.chanCpr (c : Chip) (ch : Nat) : Nat :=
  if ch < 12 then c.fld (Fld.FEEDBACK_ENC_CPR_CPR ch) else 2 ^ c.fld (Fld.FEEDBACK_BISS_CFG_ST_BITS (ch - 12))

/-- The position of a channel and the stamp it holds for. -/
def Chip.chanAt (c : Chip) (ch : Nat) : Int × Option Nat :=
  if ch < 12 then (c.encPos ch, (c.enc ch).last)
  else match (c.bissCh (ch - 12)).pos with
    | some (p, t) => ((p : Int), some t)
    | none => (0, none)

/-- The direction of a channel: 1 forward, -1 backward, 0 at standstill or undetermined (R321, R322). -/
def Chip.chanDir (c : Chip) (ch : Nat) : Int :=
  if ch < 12 then
    (if c.flag (Fld.FEEDBACK_ENC_STATUS_STANDSTILL ch) then 0 else if c.fld (Fld.FEEDBACK_ENC_STATUS_DIR ch) = 1 then -1 else 1)
  else (c.bissCh (ch - 12)).dir

/-- The fraction of a count for the present instant: in [0, 1) forward, in (-1, 0] backward, 0 at standstill (R321). -/
def clampFrac (dir f : Int) : Int := if dir = 0 then 0 else if 0 < dir then clampI 0 65535 f else clampI (-65535) 0 f

/-- The fraction by which a channel has moved beyond its latest count at an instant, in 1/65,536 count: clamped for the present, not for the future (R321). [DESIGN CHOICE: log 89] -/
def Chip.chanFrac (c : Chip) (ch t : Nat) (future : Bool) : Int :=
  let v := c.chanSpeed ch
  match (c.chanAt ch).2 with
  | none => 0
  | some t0 =>
    if v = 0 then 0 else
    let f := v * ((t : Int) - t0) / 1000000000
    if future then f else clampFrac (c.chanDir ch) f

/-- A channel as Windlass and the sweep scheduler read it (R474). -/
def Chip.seen (c : Chip) (ch : Nat) : FbCopy := c.fbCopy.getD ch {}

/-- The copy of a channel's present state; the speed is the register's, with its 4 fraction bits, which is what the Sump records (R473, R474). -/
def Chip.copyOf (c : Chip) (ch : Nat) : FbCopy :=
  let v := if ch < 12 then c.fldS (Fld.FEEDBACK_ENC_SPEED_SPEED ch) else c.fldS (Fld.FEEDBACK_BISS_SPEED_SPEED (ch - 12))
  { pos := (c.chanAt ch).1, last := (c.chanAt ch).2, speed := v * 4096, ref := c.chanRef ch, dir := c.chanDir ch }

/-- The copies and the drum surfaces are latched, every 1 µs of engine time: at SPEED_UPDATE (R474). [DESIGN CHOICE: log 23] -/
def Chip.latchFeedback (c : Chip) : Chip :=
  { c with fbCopy := (List.range 16).map c.copyOf, stns := c.stns.map fun (x : Stn) => { x with drumCopy := x.drum } }

/-- The latched position of a channel in 1/65,536 count, interpolated to the present instant: its fraction never passes the next count (R321, R474). [DESIGN CHOICE: log 89] -/
def Chip.seenPos (c : Chip) (ch t : Nat) : Int :=
  let x := c.seen ch
  x.pos * 65536 + match x.last with
    | none => 0
    | some t0 => clampFrac x.dir (x.speed * ((t : Int) - t0) / 1000000000)

/-- Show belt position and fire the commits whose position is reached (R65, R320). [DESIGN CHOICE: log 90] -/
def Chip.beltMoved (c : Chip) (now : Nat) : Chip :=
  (c.setPair Reg.FEEDBACK_BELT_POS_LO Reg.FEEDBACK_BELT_POS_HI c.beltPos).fireDue now

/-- Movements of the last 1 ms and the one before them (R194). [DESIGN CHOICE: log 67] -/
def recentEdges (now : Nat) (l : List (Nat × Int)) : List (Nat × Int) :=
  let (new, old) := l.span fun e => decide (now ≤ e.1 + 1000000)
  new ++ old.take 1

/-- A drum surface moves by `d` counts of its channel at an instant (R191). -/
def Stn.moved (x : Stn) (now at_ : Nat) (d : Int) : Stn :=
  { x with drum := pattern 64 ((x.drum : Int) + d * x.scale), edges := recentEdges now ((at_, d * x.scale) :: x.edges) }

/-- `d` counts of a channel move belt position, when it is the belt channel, and the drum surfaces it drives (R191, R320). -/
def Chip.advance (c : Chip) (now ch : Nat) (d : Int) : Chip :=
  let at_ := (c.chanAt ch).2.getD now
  let c := { c with stns := c.stns.map fun (x : Stn) => if x.ch == ch && x.scale != 0 then x.moved now at_ d else x }
  if c.belt.scale ≠ 0 ∧ c.belt.ch = ch then
    let d := if c.belt.inv then -d else d
    ({ c with belt := { c.belt with acc := pattern 64 ((c.belt.acc : Int) + d * c.belt.scale) } }).beltMoved now
  else c

/-- D_s of a station by the position of its drum channel, in 1/65,536 sub-line (R191, R319). -/
def Chip.drumAt (c : Chip) (s : Nat) : Nat :=
  pattern 64 ((c.chanAt (c.fld (Fld.FEEDBACK_DRUM_CH_CH s))).1 * c.fld (Fld.STATION_DRUM_SCALE_SCALE s))

/-- The write position of a station at an instant, in 1/65,536 sub-line: D_s interpolated, plus K_s (R191, R192). -/
def Chip.writePos (c : Chip) (s t : Nat) (future : Bool) : Int :=
  let x := c.stn s
  signed 64 x.drum + c.chanFrac x.ch t future * x.scale / 65536 + x.align

/-- The rate of a station's write position in 1/65,536 sub-line per s, by the latched speed (R199, R474). [DESIGN CHOICE: log 66] -/
def Chip.writeRate (c : Chip) (s : Nat) : Int := (c.seen (c.stn s).ch).speed * (c.stn s).scale / 65536

/-- The belt speed in sub-lines/s with 16 fraction bits, by the latched speed of its channel (R320, R474). -/
def Chip.beltRate (c : Chip) : Int :=
  let v := (c.seen c.belt.ch).speed * c.belt.scale / 65536
  if c.belt.inv then -v else v

/-- A channel is the belt channel or the drum channel of a configured station, as read at PRIME (R320, R331). [DESIGN CHOICE: log 90] -/
def Chip.pageChannel (c : Chip) (ch : Nat) : Bool :=
  (c.belt.scale != 0 && c.belt.ch == ch) || (List.range 8).any fun s => c.configured s && (c.stn s).scale != 0 && (c.stn s).ch == ch

/-- ENCODER_FAULT of a channel; a page of which it is a channel aborts with cause AXIS (R331, R332). -/
def Chip.encoderFault (c : Chip) (ch cause : Nat) : Chip :=
  if c.chanFault ch then c else
  let c := if ch < 12 then c.setFlag (Fld.FEEDBACK_ENC_STATUS_FAULT ch) true else c.setFlag (Fld.FEEDBACK_BISS_STATUS_FAULT (ch - 12)) true
  let c := (c.raise Ev.FEEDBACK_EVENT_ENCODER_FAULT).event Rc.ENCODER_FAULT ch cause
  if c.pageChannel ch then c.abortAll 6 else c

/-- Put a speed and the present fraction into a channel's registers: 4 fraction bits of a count/s, and the 16 fraction bits of a count, whose sign is the direction's (R321, R333). [DESIGN CHOICE: log 89] -/
def Chip.showSpeed (c : Chip) (now e : Nat) : Chip :=
  (c.setFldS (Fld.FEEDBACK_ENC_SPEED_SPEED e) (satS 32 ((c.enc e).speed / 4096))).setFldS (Fld.FEEDBACK_ENC_STATUS_FRAC e)
    (c.chanFrac e now false)

/-- The K of the period method (R324). -/
def Chip.periodK (c : Chip) (e : Nat) : Nat := 2 ^ c.fld (Fld.FEEDBACK_ENC_CFG_PERIOD_N e)

/-- The period estimate of a channel: K counts over the time they span, limited once the time since the last count exceeds the last interval (R324). [DESIGN CHOICE: log 88] -/
def Chip.periodEstimate (c : Chip) (now e : Nat) : Int :=
  let x := c.enc e
  match x.stamps with
  | a :: b :: _ =>
    let k := min (c.periodK e) (x.stamps.length - 1)
    let v := perSecond k (a - x.stamps.getD k a)
    let v := if a - b < now - a then min v (perSecond 1 (now - a)) else v
    if c.fld (Fld.FEEDBACK_ENC_STATUS_DIR e) = 1 then -v else v
  | _ => 0

/-- The count estimate of a channel: counts in the last WIN µs (R324). [DESIGN CHOICE: log 88] -/
def Chip.countEstimate (c : Chip) (now e : Nat) : Int :=
  let w := c.fld (Fld.FEEDBACK_ENC_SPD_CFG_WIN e) * 1000
  let inWin := (c.enc e).window.filter fun x => decide (now < x.1 + w)
  perSecond (sumI (inWin.map (·.2))) w

/-- Take a speed directly: the output filter is set to it (R323, R324). [DESIGN CHOICE: log 88] -/
def Chip.seedSpeed (c : Chip) (now e : Nat) (v : Int) : Chip :=
  (c.updEnc e fun x => { x with raw := v, speed := v }).showSpeed now e

/-- The 1 µs update of a channel's speed: estimate, change-over and filter (R324). [DESIGN CHOICE: log 88] -/
def Chip.updateSpeed (c : Chip) (now e : Nat) : Chip :=
  let x := c.enc e
  let chg : Int := c.fld (Fld.FEEDBACK_ENC_SPD_CFG_CHG_RATE e) * 1000 * 65536
  let c := c.updEnc e fun x => { x with window := x.window.filter fun w => decide (now ≤ w.1 + 1000000) }
  if c.flag (Fld.FEEDBACK_ENC_STATUS_STANDSTILL e) || x.stamps.length < 2 then (c.updEnc e fun x => { x with raw := 0, speed := 0 }).showSpeed now e
  else if c.fld (Fld.FEEDBACK_ENC_STATUS_METHOD e) = 0 then
    let pe := c.periodEstimate now e
    if chg * 9 < (pe.natAbs : Int) * 8 then (c.setFld (Fld.FEEDBACK_ENC_STATUS_METHOD e) 1).seedSpeed now e pe
    else
      let sh := 2 ^ c.fld (Fld.FEEDBACK_ENC_CFG_SPD_FILT e)
      (c.updEnc e fun y => { y with raw := pe, speed := x.speed + (pe - x.speed) / (sh : Nat) }).showSpeed now e
  else
    let ce := c.countEstimate now e
    if (ce.natAbs : Int) * 8 < chg * 7 then (c.setFld (Fld.FEEDBACK_ENC_STATUS_METHOD e) 0).seedSpeed now e ce
    else
      let sh := 2 ^ c.fld (Fld.FEEDBACK_ENC_CFG_SPD_FILT e)
      (c.updEnc e fun y => { y with raw := ce, speed := x.speed + (ce - x.speed) / (sh : Nat) }).showSpeed now e

/-- An ENC_DIR record with the changes since the last one, at most one per 1 ms (R326). [DESIGN CHOICE: log 89] -/
def Chip.dirRecord (c : Chip) (now e : Nat) : Chip :=
  let x := c.enc e
  if x.dirChanges = 0 then c
  else if (match x.lastDirRec with | some t => decide (now < t + 1000000) | none => false) then c
  else
    (c.updEnc e fun x => { x with dirChanges := 0, lastDirRec := some now }).event Rc.ENC_DIR e
      (c.fld (Fld.FEEDBACK_ENC_STATUS_DIR e) + satN 65535 x.dirChanges * 65536)

/-- SPEED_UPDATE: every enabled channel, the Hall triplets' standstill, and ENC_DIR records that waited (R323, R324, R326, R329). [DESIGN CHOICE: log 89] -/
def Chip.speedUpdate (c : Chip) (now : Nat) : Chip :=
  let c := c.each (List.range 12) fun e c => if c.chanOn e then (c.updateSpeed now e).dirRecord now e else c
  c.each (List.range 12) fun h c =>
    match (c.hall h).edges with
    | t :: _ =>
      if t + c.fld (Fld.FEEDBACK_HALL_CFG_ZERO_TIME h) * 1000000 ≤ now then
        (c.updHall h fun x => { x with edges := [], dir := 0, restAt := some now }).setFld (Fld.FEEDBACK_HALL_SPEED_SPEED h) 0
      else c
    | [] => c

/-- The direction of a channel is set by a count: DIR, the extreme, and the two stamps of the new direction (R322, R323). [DESIGN CHOICE: log 89] -/
def Chip.setDirection (c : Chip) (now e : Nat) (sign n : Int) (stamps : List Nat) : Chip :=
  let c := c.setFld (Fld.FEEDBACK_ENC_STATUS_DIR e) (if sign < 0 then 1 else 0)
  let c := c.updEnc e fun x => { x with seen := true, ext := n, stamps := stamps }
  if stamps.length < 2 then c.seedSpeed now e 0
  else (c.setFlag (Fld.FEEDBACK_ENC_STATUS_STANDSTILL e) false).seedSpeed now e (c.periodEstimate now e)

/-- A count in the present direction enters the estimates (R323, R324). -/
def Chip.alongCount (c : Chip) (now e : Nat) (sign n : Int) : Chip :=
  let x := c.enc e
  let first := decide (x.stamps.length = 1)
  let c := c.updEnc e fun x => { x with
    stamps := (now :: x.stamps).take (c.periodK e + 1)
    window := (now, sign) :: x.window
    ext := further sign n x.ext }
  if first then (c.setFlag (Fld.FEEDBACK_ENC_STATUS_STANDSTILL e) false).seedSpeed now e (c.periodEstimate now e) else c

/-- Direction and speed after a count to n (R322, R323, R326). [DESIGN CHOICE: log 89] -/
def Chip.judgeCount (c : Chip) (now e : Nat) (sign n : Int) (prev : Option Nat) : Chip :=
  let x := c.enc e
  let dir : Int := if c.fld (Fld.FEEDBACK_ENC_STATUS_DIR e) = 1 then -1 else 1
  let two := now :: prev.toList
  if c.flag (Fld.FEEDBACK_ENC_CFG_HYST_EN e) then
    if !x.seen then
      let lo := further (-1) n x.lo
      let hi := further 1 n x.hi
      let found := (c.updEnc e fun x => { x with lo := lo, hi := hi, window := (now, sign) :: x.window })
      if 2 ≤ apart n lo then found.setDirection now e 1 n two
      else if apart n hi ≤ -2 then found.setDirection now e (-1) n two
      else c.updEnc e fun x => { x with lo := lo, hi := hi }
    else if sign = dir then c.alongCount now e sign n
    else if apart n x.ext * dir ≤ -2 then
      (c.updEnc e fun x => { x with window := (now, sign) :: x.window }).setDirection now e sign n two
    else c
  else if !x.seen then (c.updEnc e fun x => { x with window := (now, sign) :: x.window }).setDirection now e sign n [now]
  else if sign = dir then c.alongCount now e sign n
  else
    let c := c.updEnc e fun x => { x with window := (now, sign) :: x.window, dirChanges := x.dirChanges + 1 }
    ((c.setDirection now e sign n [now]).raise Ev.FEEDBACK_EVENT_DIR_FLAG).dirRecord now e

/-- A mismatch of the index: recorded, and the third in a row faults the channel (R328, R332). [DESIGN CHOICE: log 89] -/
def Chip.indexMismatch (c : Chip) (e dev : Nat) (missed : Bool) : Chip :=
  let k := satN 3 (c.fld (Fld.FEEDBACK_ENC_INDEX_MISMATCH e) + 1)
  let c := c.setFld (Fld.FEEDBACK_ENC_INDEX_MISMATCH e) k
  let c := (c.raise Ev.FEEDBACK_EVENT_INDEX_MISMATCH).event Rc.INDEX_MISMATCH e (dev % 65536 + k * 65536 + b2n missed * 2 ^ 18)
  if k = 3 then c.encoderFault e 1 else c

/-- Index checking is on: IDX_EN with a valid CPR (R327). -/
def Chip.indexOn (c : Chip) (e : Nat) : Bool :=
  c.flag (Fld.FEEDBACK_ENC_CFG_IDX_EN e) && decide (4 ≤ c.fld (Fld.FEEDBACK_ENC_CPR_CPR e))

/-- A count to n against the present direction changes it: at once without hysteresis, else at the second count (R322). -/
def Chip.turnsAt (c : Chip) (e : Nat) (dir n : Int) : Bool :=
  !c.flag (Fld.FEEDBACK_ENC_CFG_HYST_EN e) || decide (apart n (c.enc e).ext * dir ≤ -2)

/-- A counted transition of a channel; the count that changes the direction is no slip, as the worked example of R326 shows (R318, R325, R328). -/
def Chip.countOne (c : Chip) (now e : Nat) (sign : Int) : Chip :=
  let x := c.enc e
  let n := c.encCount e + sign
  let dir : Int := if c.fld (Fld.FEEDBACK_ENC_STATUS_DIR e) = 1 then -1 else 1
  let slip := x.seen && sign != dir && !c.turnsAt e dir n && decide ((c.fld (Fld.FEEDBACK_ENC_SLIP_SLIP_SPEED e) * 1000 * 65536 : Nat) ≤ (x.speed.natAbs))
  let prev := if x.fresh then none else x.last
  let c := c.setFldS (Fld.FEEDBACK_ENC_COUNT_VALUE e) n
  let c := c.setFldS (Fld.FEEDBACK_ENC_POS_VALUE e) (n - c.fldS (Fld.FEEDBACK_ENC_REF_PHASE_VALUE e))
  let c := c.when slip fun c => ((c.bump (Fld.FEEDBACK_ENC_ERR_SLIP e)).raise Ev.FEEDBACK_EVENT_COUNT_SLIP).updEnc e
    fun x => { x with slips := x.slips + 1, lastSlip := some now }
  let c := c.judgeCount now e sign (c.encCount e) prev
  let c := c.updEnc e fun x => { x with last := some now, fresh := false, travel := x.travel + sign }
  let c := (c.showSpeed now e).advance now e sign
  if c.indexOn e && c.flag (Fld.FEEDBACK_ENC_STATUS_REF e) && decide (c.fld (Fld.FEEDBACK_ENC_CPR_CPR e) + 4 < (c.enc e).travel.natAbs) then
    let (d, c) := c.freeNat
    (c.updEnc e fun x => { x with travel := 0 }).indexMismatch e d true
  else c

/-- The step of a quadrature pair: the four states in the order of forward rotation are 00, 10, 11, 01 of (A, B) (R317, R318). [DESIGN CHOICE: log 88] -/
def quadStep (a b a' b' : Bool) : Option Int :=
  if a = a' ∧ b = b' then some 0
  else if a ≠ a' ∧ b ≠ b' then none
  else some (if a ≠ a' then (if a' = b then -1 else 1) else (if b' = a then 1 else -1))

/-- The digital filter accepts levels that have stood for FILT + 1 equal CTL samples (R317). -/
def filtered (filt samples : Nat) : Bool := decide (filt + 1 ≤ samples)

/-- ENCODER_COUNT: the inputs of a channel have stood at new levels for a number of CTL samples; the filter accepts them, and an enabled channel counts (R317, R318). -/
def Chip.encoderInput (c : Chip) (now e : Nat) (inp : QuadIn) (samples : Nat) : Chip :=
  if !filtered (c.fld (Fld.FEEDBACK_ENC_CFG_FILT e)) samples then c else
  let x := c.enc e
  let c := c.updEnc e fun x => { x with a := inp.a, b := inp.b }
  if !c.chanOn e then c
  else match quadStep x.a x.b inp.a inp.b with
    | none => (c.bump (Fld.FEEDBACK_ENC_ERR_QUAD e)).raise Ev.FEEDBACK_EVENT_QUAD_ERR
    | some 0 => c
    | some d => c.countOne now e (if c.flag (Fld.FEEDBACK_ENC_CFG_DIR_INV e) then -d else d)

/-- SLIP_RUN_END (R325, R332). -/
def Chip.slipRunEnd (c : Chip) (now e : Nat) : Chip :=
  let x := c.enc e
  match x.lastSlip with
  | some t =>
    if 0 < x.slips ∧ t + 1000000 ≤ now then
      (c.updEnc e fun x => { x with slips := 0, lastSlip := none }).event Rc.COUNT_SLIP e (satN 65535 x.slips)
    else c
  | none => c

/-- STANDSTILL: no count for ZERO_TIME ms (R323). [DESIGN CHOICE: log 89] -/
def Chip.standstill (c : Chip) (now e : Nat) : Chip :=
  match (c.enc e).last with
  | some t =>
    if c.chanOn e && decide (t + c.fld (Fld.FEEDBACK_ENC_SPD_CFG_ZERO_TIME e) * 1000000 ≤ now) then
      ((c.setFlag (Fld.FEEDBACK_ENC_STATUS_STANDSTILL e) true).updEnc e fun x => { x with
        fresh := true, stamps := [], window := [] }).seedSpeed now e 0
    else c
  | none => c

/-- INDEX_EDGE: the first index references the channel, a later one is checked (R327, R328). -/
def Chip.indexEdge (c : Chip) (e : Nat) : Chip :=
  if !c.chanOn e || !c.indexOn e then c else
  let cpr : Int := c.fld (Fld.FEEDBACK_ENC_CPR_CPR e)
  let n := c.encCount e
  let c := c.updEnc e fun x => { x with travel := 0 }
  if !c.flag (Fld.FEEDBACK_ENC_STATUS_REF e) then (c.setPhase e (n % cpr)).setFlag (Fld.FEEDBACK_ENC_STATUS_REF e) true
  else
    let ph := c.fldS (Fld.FEEDBACK_ENC_REF_PHASE_VALUE e)
    let d := (n - ph) % cpr
    let dev := if cpr ≤ 2 * d then d - cpr else d
    let c := c.setFldS (Fld.FEEDBACK_ENC_INDEX_DEV e) (satS 16 dev)
    if dev.natAbs ≤ 4 then
      let c := c.setFld (Fld.FEEDBACK_ENC_INDEX_MISMATCH e) 0
      if dev ≠ 0 ∧ c.flag (Fld.FEEDBACK_ENC_CFG_REREF_EN e) ∧ c.running.isEmpty then c.setPhase e (ph + dev) else c
    else c.indexMismatch e (pattern 16 (satS 16 dev)) false

/-- The position of a valid Hall state in the order of R304. -/
def hallIndex (st : Nat) : Option Nat := [1, 3, 2, 6, 4, 5].findIdx? (· == st)

/-- HALL_EDGE in the feedback block: the state, invalid entries, sequence errors and the Hall speed (R304, R329). The answer says whether the edge was valid and in sequence, and whether it was out of sequence. -/
def Chip.hallEdge (c : Chip) (now h st : Nat) : Chip :=
  if !c.flag (Fld.FEEDBACK_HALL_CFG_EN h) then c else
  let x := c.hall h
  let old := c.fld (Fld.FEEDBACK_HALL_STATE_STATE h)
  let c := c.setFld (Fld.FEEDBACK_HALL_STATE_STATE h) st
  match hallIndex st with
  | none =>
    ((c.bump (Fld.FEEDBACK_HALL_STATE_INVALID h)).raise Ev.FEEDBACK_EVENT_HALL_INVALID).updHall h fun x => { x with
      bad := x.bad + 1, badState := st, validAt := none
      invalidAt := if (hallIndex old).isSome then some now else some (x.invalidAt.getD now) }
  | some i =>
    let c := c.updHall h fun x => { x with
      index := some i, invalidAt := none
      validAt := if (hallIndex old).isSome then x.validAt else some now }
    match x.index with
    | none => c.updHall h fun x => { x with edgeAt := some now }
    | some j =>
      if i = j then c
      else if i = (j + 1) % 6 ∨ j = (i + 1) % 6 then
        let d : Int := if i = (j + 1) % 6 then 1 else -1
        let es := if x.dir = d then (now :: x.edges).take 2 else [now]
        let v := match es with
          | a :: b :: _ => d * perSecond 1 (a - b)
          | _ => 0
        (c.updHall h fun x => { x with
          dir := d, edges := es, edgeAt := some now, way := d, rate := satS 32 (v / 4096), restAt := none }).setFldS
          (Fld.FEEDBACK_HALL_SPEED_SPEED h) (satS 32 (v / 4096))
      else ((c.updHall h fun x => { x with edgeAt := some now }).bump (Fld.FEEDBACK_HALL_STATE_SEQ_ERR h)).raise Ev.FEEDBACK_EVENT_HALL_SEQ

/-- HALL_INVALID_RUN_END (R329, R332). -/
def Chip.hallRunEnd (c : Chip) (now h : Nat) : Chip :=
  let x := c.hall h
  match x.validAt with
  | some t =>
    if 0 < x.bad ∧ t + 10000000 ≤ now then
      (c.updHall h fun x => { x with bad := 0 }).event Rc.HALL_INVALID h (satN 65535 x.bad + x.badState * 65536)
    else c
  | none => c

/-- BISS_FRAME_START: a frame due starts unless the previous one has not ended or ended within 20 µs (R330). -/
def Chip.bissStart (c : Chip) (now b : Nat) : Chip :=
  let x := c.bissCh b
  if !c.flag (Fld.FEEDBACK_BISS_CFG_EN b) || x.frame.isSome
      || (match x.lastEnd with | some t => decide (now < t + 20000) | none => false) then c
  else (c.updBiss b fun x => { x with frame := some now }).pin "BISS_MA" b 1

/-- The number a list of bits spells, first bit highest. -/
def msbNat (l : List Bool) : Nat := l.foldl (fun n b => 2 * n + b2n b) 0

/-- A Gray-coded number decoded. -/
def grayNat (l : List Bool) : Nat := (l.foldl (fun (a : Nat × Bool) b => let v := a.2 != b; (2 * a.1 + b2n v, v)) (0, false)).1

/-- The CRC of a BiSS-C frame: polynomial without its leading term, initial value 0, most significant bit first (R330). -/
def bissCrc (poly len : Nat) (l : List Bool) : Nat :=
  l.foldl (fun r b =>
    let top := bit r (len - 1) != b
    let r := r * 2 % 2 ^ len
    if top then r ^^^ (poly % 2 ^ len) else r) 0

/-- What a frame says: its position and whether nW was low, or the cause of its failure (R330). [DESIGN CHOICE: log 89] -/
def Chip.bissRead (c : Chip) (b : Nat) : Option (List Bool) → Except Nat (Nat × Bool)
  | none => .error 1
  | some l =>
    let mode := c.fld (Fld.FEEDBACK_BISS_CFG_MODE b)
    let n := c.fld (Fld.FEEDBACK_BISS_CFG_DATA_BITS b)
    if mode = 1 then .ok (msbNat (l.take n), false)
    else if mode = 2 then .ok (grayNat (l.take n), false)
    else
      let e := c.fld (Fld.FEEDBACK_BISS_CFG_ERR_BITS b)
      let k := c.fld (Fld.FEEDBACK_BISS_CRC_CRC_LEN b)
      let body := (l.drop 1).take (n + e)
      let sent := msbNat (((l.drop (1 + n + e)).take k).map (!·))
      if k ≠ 0 ∧ sent ≠ bissCrc (c.fld (Fld.FEEDBACK_BISS_CRC_POLY b)) k body then .error 2
      else if 1 ≤ e ∧ body.getD n true = false then .error 3
      else .ok (msbNat (body.take n), decide (2 ≤ e) && !body.getD (n + 1) true)

/-- BISS_FRAME_END: a good frame gives position and speed, a failed one is discarded; the third in a row faults the master (R330). -/
def Chip.bissEnd (c : Chip) (now b : Nat) (frame : Option (List Bool)) (delay : Nat) : Chip :=
  match (c.bissCh b).frame with
  | none => c
  | some t =>
    let x := c.bissCh b
    let c := (c.updBiss b fun x => { x with frame := none, lastEnd := some now }).setFld (Fld.FEEDBACK_BISS_STATUS_DELAY b) delay
    match c.bissRead b frame with
    | .error cause =>
      let k := satN 3 (c.fld (Fld.FEEDBACK_BISS_STATUS_BAD_RUN b) + 1)
      let c := (c.setFld (Fld.FEEDBACK_BISS_STATUS_LAST_ERR b) cause).setFld (Fld.FEEDBACK_BISS_STATUS_BAD_RUN b) k
      let c := c.raise Ev.FEEDBACK_EVENT_BISS_ERR
      if k = 3 then c.encoderFault (12 + b) 2 else c
    | .ok (p, warn) =>
      let c := (c.setFld (Fld.FEEDBACK_BISS_STATUS_BAD_RUN b) 0).setFlag (Fld.FEEDBACK_BISS_STATUS_REF b) true
      let c := if warn then c.bump (Fld.FEEDBACK_BISS_STATUS_WARN b) else c
      let c := c.setPair (Reg.FEEDBACK_BISS_POS_LO b) (Reg.FEEDBACK_BISS_POS_HI b) p
      match x.pos with
      | none => (c.updBiss b fun x => { x with pos := some (p, t) }).shiftDrums (12 + b) p
      | some (p0, t0) =>
        let w := c.fld (Fld.FEEDBACK_BISS_CFG_DATA_BITS b)
        let d := signed w (pattern w ((p : Int) - p0))
        let n := x.acc + d
        let lo := min x.lo n
        let hi := max x.hi n
        let turn := if x.dir = 0 then decide (lo + 2 ≤ n) || decide (n ≤ hi - 2)
          else (x.dir == 1 && decide (n ≤ x.ext - 2)) || (x.dir == -1 && decide (x.ext + 2 ≤ n))
        let dir := if turn then (if d < 0 then -1 else 1) else x.dir
        let absorbed := dir == 0 || (d != 0 && (if d < 0 then (-1 : Int) else 1) != dir)
        let v := if absorbed then x.speed else perSecond d (t - t0)
        let ext := if turn then n else if dir = 1 then max x.ext n else if dir = -1 then min x.ext n else x.ext
        let c := c.updBiss b fun x => { x with pos := some (p, t), speed := v, acc := n, ext := ext, dir := dir, lo := lo, hi := hi }
        (c.setFldS (Fld.FEEDBACK_BISS_SPEED_SPEED b) (satS 32 (v / 4096))).advance now (12 + b) d

/-- Enabling a channel: n = 0, unreferenced, FAULT clear (R318, R322, R331). -/
def Chip.enableEnc (c : Chip) (e : Nat) : Chip :=
  let c := (((c.shiftDrums e (-c.encPos e)).setReg (Reg.FEEDBACK_ENC_COUNT e) 0).setReg (Reg.FEEDBACK_ENC_POS e) 0).setReg (Reg.FEEDBACK_ENC_REF_PHASE e) 0
  let c := (c.setReg (Reg.FEEDBACK_ENC_STATUS e) 0x20000).setReg (Reg.FEEDBACK_ENC_SPEED e) 0
  let c := c.setFld (Fld.FEEDBACK_ENC_INDEX_MISMATCH e) 0
  c.updEnc e fun x => { a := x.a, b := x.b, slips := x.slips, lastSlip := x.lastSlip }

/-- Enabling a master: unreferenced, FAULT clear (R330, R331). -/
def Chip.enableBiss (c : Chip) (b : Nat) : Chip :=
  let c := (((c.shiftDrums (12 + b) (-(c.chanAt (12 + b)).1)).setFlag (Fld.FEEDBACK_BISS_STATUS_REF b) false).setFlag (Fld.FEEDBACK_BISS_STATUS_FAULT b) false).setFld
    (Fld.FEEDBACK_BISS_STATUS_BAD_RUN b) 0
  (c.setReg (Reg.FEEDBACK_BISS_SPEED b) 0).updBiss b fun _ => {}

/-- Enabling a triplet. -/
def Chip.enableHall (c : Chip) (h : Nat) : Chip := (c.setReg (Reg.FEEDBACK_HALL_SPEED h) 0).updHall h fun _ => {}

end Sys2Proof.Machine
end

