-- ==== Sys2Proof/Machine/Expose.lean ====
section
/-! DEFINITION. Dot exposure: placement banks, dot words with history control and trims, the mark strip, edge windows, the duty limiter and the DOT_WORDS messages (R215, R218, R225 to R239, R245, R246, R255, R275).
-/
namespace Sys2Proof.Machine

/-- A segment entry of a tile's active placement bank, entry 1,024 being END_TIME (R214, R215). -/
def Chip.segTime (c : Chip) (t d j : Nat) : Nat :=
  (if j < 1024 then c.tabNat true ((2 * t + d) * 0x1000 + 4 * j) 4 else c.tabNat true (0x80000 + (2 * t + d) * 0x40) 4) % 2 ^ 24

/-- A field of the header of a tile's active placement bank (R215). -/
def Chip.placeHdr (c : Chip) (t d k n : Nat) : Nat := c.tabNat true (0x80000 + (2 * t + d) * 0x40 + k) n

/-- SPAN_NOM, ALIGN, FIRST_DOT, LAST_DOT and EMIT_X of a bank. -/
def Chip.spanNom (c : Chip) (t d : Nat) : Nat := c.placeHdr t d 4 4 % 2 ^ 24
def Chip.alignOf (c : Chip) (t d : Nat) : Int := signed 16 (c.placeHdr t d 8 2)
def Chip.firstDot (c : Chip) (t d : Nat) : Nat := c.placeHdr t d 10 2
def Chip.lastDot (c : Chip) (t d : Nat) : Nat := c.placeHdr t d 12 2
def Chip.emitX (c : Chip) (t d e : Nat) : Int := signed 16 (c.placeHdr t d (16 + 2 * e) 2)

/-- The time at which the beam crosses placement step p, in 1/64 ns after the leading instant (R218). [DESIGN CHOICE: log 69] -/
def Chip.timeOf (c : Chip) (t d : Nat) (p : Int) : Nat :=
  let p := (clampI 0 655360 p).toNat
  let j := min (p / 640) 1023
  let a : Int := c.segTime t d j
  (a + (((c.segTime t d (j + 1) : Int) - a) * (p - 640 * j : Nat)).tdiv 640).toNat

/-- The BD span that scales the edge times: measured, or nominal until one was measured since the mirror started (R235). -/
def Chip.spanOf (c : Chip) (t d : Nat) : Nat :=
  if (c.tile t).spanSeen.getD d false then c.fld (Fld.TILE_SPAN_MEAS_SPAN t d) else c.spanNom t d

/-- The edge-window shift of a pulse with width w whose centre without it is pc0 (R233). [DESIGN CHOICE: log 69] -/
def edgeShift (d e w : Nat) (pc0 : Int) : Int :=
  let h : Int := w / 2
  let r0 := if d = 0 then pc0 - h else pc0 + w - h
  let n := r0 / 64
  let ph := r0 - 64 * n
  let own := ((e % 4 : Nat) + n) % 4
  let rel := (ph - 4 * own) % 16
  if rel ≤ 3 then 0 else if rel ≤ 9 then 3 - rel else 16 - rel

/-- The edge-window shift of a pulse and the placement steps of its two edges (R218, R233). [DESIGN CHOICE: log 69] -/
def Chip.pulseEdges (c : Chip) (t d : Nat) (cross : Int) (e x w : Nat) (cc : Int) : Int × Int × Int :=
  let pc0 : Int := 64 * x + 32 + cross + c.emitX t d e + cc
  let g := edgeShift d e w pc0
  let h : Int := w / 2
  (g, pc0 + g - h, pc0 + g + w - h)

/-- The edge-window shift of a pulse and its on-time in 1/64 ns (R218, R233, R235). [DESIGN CHOICE: log 69] -/
def Chip.pulse (c : Chip) (t d : Nat) (cross : Int) (e x w : Nat) (cc : Int) : Int × Nat :=
  let (g, lo, hi) := c.pulseEdges t d cross e x w cc
  let nom := c.spanNom t d
  let rise := c.timeOf t d lo * c.spanOf t d / nom
  let fall := c.timeOf t d hi * c.spanOf t d / nom
  (g, if nom = 0 then 0 else max rise fall - min rise fall)

/-- A station register or table as a tile sees it: whether the shadow half already holds its bank (R213). -/
def Chip.tileBank (c : Chip) (t inst : Nat) : Bool := !c.viewShadow t inst

/-- The bank of an instance that a tile works with has failed its check (R216, R232). -/
def Chip.viewBad (c : Chip) (t inst : Nat) : Bool :=
  if c.viewShadow t inst then c.txn.pendBad.contains inst else c.bankBad inst

/-- A tile writes no pulses because of a failed level, history scale or trim bank (R232). [DESIGN CHOICE: log 65] -/
def Chip.expoBad (c : Chip) (t : Nat) : Bool :=
  let s := c.stationOf t
  c.viewBad t (0x2000 + s) || c.viewBad t (0x3000 + s) || c.bankBad (0x4000 + t)

/-- The entry of the handover table of a tile for a line of a page; the midpoint while its bank fails (R246, R247). -/
def Chip.handover (c : Chip) (t : Nat) (p : Page) (n : Nat) : Nat :=
  if c.bankBad (0x5000 + t) then (c.stn (c.stationOf t)).overlap / 2
  else c.tabNat true (0xB0000 + t * 0x200 + 2 * (if p.feather = 1 then 0 else n % 256)) 2 % 1024

/-- The tile of a page at a station and a position. [DESIGN CHOICE: log 52] -/
def Chip.pageTileAt (c : Chip) (p : Page) (s : Nat) (pos : Int) : Option Nat :=
  p.tiles.find? fun t => c.stationOf t == s && decide ((c.positionOf t : Int) = pos)

/-- First and last page dot that the seams and the page's width give a tile in a line (R225, R246). [DEDUCED: log 68] -/
def Chip.share (c : Chip) (t : Nat) (p : Page) (n : Nat) : Int × Int :=
  let s := c.stationOf t
  let x := c.stn s
  let pos : Int := c.positionOf t
  let half : Int := (x.overlap / 2 : Nat)
  let lo : Int := match c.pageTileAt p s (pos - 1) with
    | some u => max 0 (pos * x.pitch - half + (c.handover u p n : Nat))
    | none => 0
  let hi : Int := match c.pageTileAt p s (pos + 1) with
    | some _ => min ((p.width : Int) - 1) ((pos + 1) * x.pitch - half + (c.handover t p n : Nat) - 1)
    | none => (p.width : Int) - 1
  (lo, hi)

/-- The local dot of page dot 0 at a tile (R245). [DEDUCED: log 68] -/
def Chip.dotBase (c : Chip) (t : Nat) : Int :=
  let x := c.stn (c.stationOf t)
  (c.firstDot t 0 : Int) - (c.positionOf t : Int) * x.pitch + (x.overlap / 2 : Nat)

/-- Consecutive page dots from `a`, `n` of them, with a level each. -/
def levelRun (a : Int) (l : List Nat) : List (Int × Nat) := (List.range l.length).zip l |>.map fun e => (a + e.1, e.2)

/-- The page dots of a mark-strip line that a tile writes, at level 15, those within the page's width (R225, R255). [DEDUCED: log 68] -/
def Chip.stripDots (c : Chip) (t : Nat) (p : Page) (n : Nat) : List (Int × Nat) :=
  let s := c.stationOf t
  let m := p.markM
  let q := n - p.lines
  if q < 3 * m * s + m ∨ 3 * m * s + 2 * m ≤ q then [] else
  let pitch := (c.stn s).pitch
  let pos := c.positionOf t
  let mark (centre : Nat) : List (Int × Nat) := levelRun ((centre : Int) - (m / 2 : Nat)) (List.replicate m 15)
  ((if pos = 0 then mark (pitch / 2) else [])
    ++ (if 0 < pos ∧ pos * pitch < p.width then mark (pos * pitch + m) else [])
    ++ (if (pos + 1) * pitch < p.width then mark ((pos + 1) * pitch - m) else [])).filter fun e =>
      decide (0 ≤ e.1) && decide (e.1 < p.width)

/-- The page dots of a line that a tile is given, with their levels: the band buffer through the handover, or the mark strip. [DEDUCED: log 68] -/
def Chip.tileDots (c : Chip) (t : Nat) (p : Page) (n : Nat) : List (Int × Nat) :=
  if p.lines ≤ n then (c.stripDots t p n).mergeSort fun a b => decide (a.1 ≤ b.1)
  else
    match (c.lane (c.stationOf t)).buffer.find? fun (e : Nat × Nat × List Nat) => e.1 == p.seq && e.2.1 == n with
    | none => []
    | some (_, _, dots) =>
      let (lo, hi) := c.share t p n
      levelRun lo ((dots.drop lo.toNat).take (hi + 1 - lo).toNat)

/-- The history pattern of a dot from the eight lines before it (R229). -/
def histPattern (masks : List Nat) (x : Nat) : Nat := maskWhere 8 fun i => bit (masks.getD i 0) x

/-- A line is blank by the cut of its page (R207). -/
def Page.blankAt (p : Page) (raw : Nat) : Bool :=
  match p.cut with
  | some k => beltAtOrAfter raw k
  | none => false

/-- A dot word with a pulse: local dot, width and centre shift. -/
abbrev DotPulse := Nat × Nat × Int

/-- The dots that fired on a line, as a mask. -/
def firedMask (l : List DotPulse) : Nat := sumN (l.map fun q => 2 ^ q.1)

/-- The history of a tile after a line due at `raw`: lines further back than eight leave it, and it holds no more than eight (R27, R229). -/
def pushHistory (raw mask : Nat) (h : List (Nat × Nat)) : List (Nat × Nat) :=
  ((raw, mask) :: h.filter fun e => decide (beltAhead raw e.1 ≤ 512)).take 8

/-- The dot words with pulses of a line in a sweep, over the history bits of the lines before it, and the widths held at 64 (R225, R227, R229). [DESIGN CHOICE: log 69] -/
def Chip.exposeLine (c : Chip) (t : Nat) (k : Plan) (hist : List (Nat × Nat)) (p : Page) (l : PlanLine) : List DotPulse × Nat :=
  let x := c.tile t
  let s := c.stationOf t
  let d := k.dir
  if c.expoBad t || x.breach || bit x.disabled l.emitter || p.blankAt l.raw then ([], 0) else
  let base := c.dotBase t
  let lo : Int := c.firstDot t d
  let hi : Int := c.lastDot t d
  let lev := c.tileBank t (0x2000 + s)
  let his := c.tileBank t (0x3000 + s)
  let on := bit (c.viewReg t (Reg.STATION_EXPO_CTL s)).toNat 0
  let masks := (List.range 8).map fun (i : Nat) =>
    ((hist.find? fun (e : Nat × Nat) => e.1 == beltAdd l.raw (-(64 * ((i : Int) + 1)))).elim 0 (·.2) : Nat)
  let trim := c.tabNat true (0xA4000 + t * 0x80 + d * 0x40 + 4 * l.emitter) 4 % 2048
  let ka := x.kE.getD l.emitter 256 * x.kT / 256
  let out := (c.tileDots t p l.line).foldl (fun (a : List DotPulse × Nat) e =>
    let y := e.1 + base
    if y < lo ∨ hi < y then a else
    let w := c.tabNat lev (0xA0000 + s * 0x80 + d * 0x40 + 4 * (e.2 % 16)) 4
    let sc := if on then c.tabNat his (0xA1000 + s * 0x400 + 4 * histPattern masks y.toNat) 4 % 512 else 256
    let v := (bits w 13 0 * sc * trim * ka + 2 ^ 32) / 2 ^ 33
    if v = 0 then a else ((y.toNat, min 64 v, signed 5 (bits w 18 14)) :: a.1, a.2 + b2n (decide (64 < v)))) ([], 0)
  (out.1.reverse, out.2)

/-- The lines of a sweep exposed in line order: each line sees the history bits of those before it in the same sweep (R225, R229). -/
def Chip.exposeLines (c : Chip) (t : Nat) (k : Plan) : List PlanLine → List (Nat × Nat) → List (Nat × List DotPulse × Nat)
  | [], _ => []
  | l :: ls, hist =>
    let out := (c.pageOf l.page).elim ([], 0) fun p => c.exposeLine t k hist p l
    (l.emitter, out) :: Chip.exposeLines c t k ls (pushHistory l.raw (firedMask out.1) hist)

/-- The pulses of a calibration sweep: every dot the tile may write, unless a table in use has failed its check, or the tile or, since the calibration began, the emitter is held off by the limiter (R232, R236, R237, R241). [DESIGN CHOICE: log 70] -/
def Chip.calDots (c : Chip) (t d e : Nat) : List DotPulse :=
  let x := c.tile t
  if x.breach || c.expoBad t || (x.cal.elim 0 (·.held) |> (bit · e)) then [] else
  (rangeFrom (c.firstDot t d) (c.lastDot t d + 1 - c.firstDot t d)).map fun x => (x, 32, 0)

/-- Show the clamp factors of a tile for its next planned sweep (R236, R243). -/
def Chip.showClamp (c : Chip) (t : Nat) : Chip :=
  let x := c.tile t
  let s := c.stationOf t
  let i := c.positionOf t
  let low := x.kE.foldl min 256
  ((c.setFld (Fld.STATION_CLAMP_TILE_K s i) x.kT).setFld (Fld.STATION_CLAMP_MIN_EMIT_K s i) low).setFld
    (Fld.STATION_CLAMP_MIN_EMIT s i) (x.kE.findIdx (· == low))

/-- Show the disabled emitters of a tile. -/
def Chip.showDisabled (c : Chip) (t : Nat) : Chip :=
  c.setFld (Fld.STATION_EMIT_DIS_DISABLED (c.stationOf t) (c.positionOf t)) (c.tile t).disabled

/-- Disable an emitter: bit, record, and a PAGE_DEFECT owed while a page that uses the tile runs (R237). -/
def Chip.disableEmitter (c : Chip) (t e cause : Nat) : Chip :=
  if bit (c.tile t).disabled e then c else
  let s := c.stationOf t
  let i := c.positionOf t
  let owed := c.running.any fun p => p.tiles.contains t
  let c := c.updTile t fun x => { x with
    disabled := x.disabled + 2 ^ e, defectOwed := if owed then x.defectOwed ++ [e] else x.defectOwed }
  let c := ((c.showDisabled t).setFld (Fld.STATION_EMIT_DIS_LAST s i) e).setFld (Fld.STATION_EMIT_DIS_CAUSE s i) cause
  (c.raise (Ev.STATION_EXPO_EVENT_EMITTER_DISABLED s)).event Rc.EMITTER_DISABLED (t * 2 ^ 24 + e * 2 ^ 32 + cause * 2 ^ 36) c.runTag

/-- Re-enable an emitter (R237). -/
def Chip.enableEmitter (c : Chip) (t e : Nat) : Chip :=
  (c.updTile t fun x => { x with disabled := if bit x.disabled e then x.disabled - 2 ^ e else x.disabled }).showDisabled t

/-- A run of sweeps with a clamp factor below 256 goes on, or ends with its record (R236). -/
def Chip.clampRun (c : Chip) (t : Nat) : Chip :=
  let x := c.tile t
  let low := (x.kT :: x.kE).foldl min 256
  if low < 256 then
    let r := x.clamp.getD {}
    let mine := maskWhere 16 fun e => decide (x.kE.getD e 256 < 256)
    c.updTile t fun x => { x with clamp := some {
      emitters := r.emitters ||| mine, tile := r.tile || decide (x.kT < 256), lowest := min r.lowest low, sweeps := r.sweeps + 1 } }
  else match x.clamp with
    | none => c
    | some r => (c.updTile t fun x => { x with clamp := none }).event Rc.DUTY_CLAMP
        (r.emitters + b2n r.tile * 2 ^ 16 + t * 2 ^ 24 + r.lowest * 2 ^ 32 + satN 65535 r.sweeps * 2 ^ 48) c.runTag

/-- On-times are sums in 1/64 ns: the caps of R236 as sums over 1 ms and over 16 × 10 ms, times 1,024. -/
def Chip.emitCap (c : Chip) (s : Nat) : Nat := c.fld (Fld.STATION_CEIL_DUTY_EMIT_CAP s) * 64000000
def Chip.tileCap (c : Chip) (s : Nat) : Nat := c.fld (Fld.STATION_CEIL_DUTY_TILE_CAP s) * 16 * 640000000

/-- A clamp factor for the next planned sweep: lowered near the cap, else raised (R236 rows 3 to 5). [DESIGN CHOICE: log 69] -/
def nextClamp (k sum cap : Nat) : Nat := if cap * 7 < sum * 8192 then k * (cap * 7) / (sum * 8192) else min 256 (k + 16)

/-- The duty limiter on a sweep with the pulses of each emitter of its window: the pulses that remain; DUTY_CLAMP is raised in every sweep above A, the run of such sweeps being one event of its record alone (R235, R236, R239). [DESIGN CHOICE: log 69] -/
def Chip.limiter (c : Chip) (now t : Nat) (k : Plan) (ws : List (Nat × List DotPulse)) : List (Nat × List DotPulse) × Chip :=
  let x := c.tile t
  let s := c.stationOf t
  let mine := (List.range 16).map fun e =>
    match ws.find? fun (w : Nat × List DotPulse) => w.1 == e with
    | none => 0
    | some w => sumN (w.2.map fun q => (c.pulse t k.dir k.cross e q.1 q.2.1 q.2.2).2)
  let old := x.onTimes.filter fun (o : Nat × List Nat) => decide (k.mid < o.1 + 1280000000)
  let near := old.filter fun (o : Nat × List Nat) => decide (k.mid < o.1 + 128000000)
  let dE := (List.range 16).map fun e => mine.getD e 0 + sumN (near.map fun o => o.2.getD e 0)
  let dT := sumN mine + sumN (old.map fun o => sumN o.2)
  let eCap := c.emitCap s
  let tCap := c.tileCap s
  let c := c.clampRun t
  let breach := decide (tCap < dT * 1024)
  let high := if breach then [] else (List.range 16).filter fun e => decide (eCap < dE.getD e 0 * 1024)
  let ws := ws.map fun (w : Nat × List DotPulse) => if breach || high.contains w.1 then (w.1, []) else w
  let kept := (List.range 16).map fun e => if breach || high.contains e then 0 else mine.getD e 0
  let near8 := decide (tCap * 7 < dT * 8192) || dE.any fun v => decide (eCap * 7 < v * 8192)
  let c := c.updTile t fun x => { x with
    kT := nextClamp x.kT dT tCap
    kE := (List.range 16).map fun e => nextClamp (x.kE.getD e 256) (dE.getD e 0) eCap
    onTimes := (k.mid, kept) :: old
    breach := x.breach || breach }
  let c := (c.when near8 fun c => c.raise (Ev.STATION_EXPO_EVENT_DUTY_CLAMP s)).showClamp t
  let c := c.each high fun e c => (c.disableEmitter t e 1).updTile t fun x => { x with
    cal := x.cal.map fun (y : Cal) => if bit y.held e then y else { y with held := y.held + 2 ^ e } }
  let c := c.when breach fun c =>
    let c := (c.raise (Ev.STATION_EXPO_EVENT_TILE_DUTY_BREACH s)).event Rc.TILE_DUTY_BREACH (t * 2 ^ 24) c.runTag
    if c.running.any fun p => p.tiles.contains t then c.loseTile now t else c
  (ws, c)

/-- Count the edge-window shifts of the pulses sent and the widths held at 64; WIDTH_SAT is raised once in a sweep that holds any (R227, R234). [DESIGN CHOICE: log 69] -/
def Chip.countPulses (c : Chip) (t : Nat) (k : Plan) (ws : List (Nat × List DotPulse)) (sat : Nat) : Chip :=
  let s := c.stationOf t
  let gs := ws.flatMap fun w => w.2.map fun q => (c.pulse t k.dir k.cross w.1 q.1 q.2.1 q.2.2).1.natAbs
  let add (c : Chip) (f : BitField) (n : Nat) : Chip := c.setFld f (c.fld f + n)
  let c := add (add c (Fld.STATION_EDGE_SHIFTED_COUNT s) (gs.filter (· != 0)).length) (Fld.STATION_EDGE_SUM_COUNT s) (sumN gs)
  if sat = 0 then c else (add c (Fld.STATION_WIDTH_SAT_COUNT s) sat).raise (Ev.STATION_EXPO_EVENT_WIDTH_SAT s)

/-- The history bits of a sweep's lines enter the tile's history, and a PAGE_DEFECT owed for a disabled emitter is written with the first line planned on it (R229, R237). -/
def Chip.keepHistory (c : Chip) (t : Nat) (k : Plan) (ws : List (Nat × List DotPulse)) : Chip :=
  c.each k.lines fun l c =>
    let fired := (ws.find? fun (w : Nat × List DotPulse) => w.1 == l.emitter).elim [] (·.2)
    let c := c.updTile t fun x => { x with history := pushHistory l.raw (firedMask fired) x.history }
    if (c.tile t).defectOwed.contains l.emitter then
      match c.pageOf l.page with
      | some p => (c.updTile t fun x => { x with defectOwed := x.defectOwed.filter (· != l.emitter) }).defect p t l.line true
      | none => c
    else c

/-- Tokens for `n` blank dots between two dot words (R275). -/
def blankTokens : Nat → Nat → List Nat
  | 0, _ => []
  | fuel + 1, n =>
    if n = 0 then [] else if n = 1 then [0]
    else if n ≤ 31 then [(n - 1) * 128]
    else [0xF80, min 4095 (n - 32)] ++ blankTokens fuel (n - 32 - min 4095 (n - 32))

/-- Dot words cut into messages: the first dot of each and its tokens, at most 672 (R274, R275). -/
def dotMessages (l : List DotPulse) : List (Nat × List Nat) :=
  let tok (q : DotPulse) : Nat := q.2.1 + pattern 5 q.2.2 * 128
  let out := l.foldl (fun (a : List (Nat × List Nat) × Option (Nat × Nat × List Nat)) q =>
    match a.2 with
    | none => (a.1, some (q.1, q.1, [tok q]))
    | some (x0, last, ts) =>
      let gap := blankTokens 4 (q.1 - last - 1)
      if ts.length + gap.length + 1 ≤ 672 then (a.1, some (x0, q.1, tok q :: gap.reverse ++ ts))
      else (a.1 ++ [(x0, ts.reverse)], some (q.1, q.1, [tok q]))) ([], none)
  match out.2 with
  | none => out.1
  | some (x0, _, ts) => out.1 ++ [(x0, ts.reverse)]

/-- Twelve-bit tokens, two in three bytes (R275). -/
def packTokens : List Nat → List Byte
  | a :: b :: l => leBytes 3 (a + b * 4096) ++ packTokens l
  | [a] => leBytes 3 a
  | [] => []

/-- Token bytes filled with zero bytes to a multiple of four (R275). -/
def tokenBytes (ts : List Nat) : List Byte :=
  let b := packTokens ts
  b ++ List.replicate ((4 - b.length % 4) % 4) 0

/-- The fields of the DOT_WORDS messages of a sweep: emitter and fields (R275). -/
def dotWordsMsgs (sweep : Nat) (ws : List (Nat × List DotPulse)) : List (Nat × List Byte) :=
  ws.flatMap fun w => (dotMessages w.2).map fun m =>
    (w.1, leBytes 2 sweep ++ leBytes 2 m.1 ++ leBytes 2 m.2.length ++ leBytes 2 0 ++ tokenBytes m.2)

end Sys2Proof.Machine
end

