-- ==== Sys2Proof/Machine/Calib.lean ====
section
/-! DEFINITION. Emitter calibration: the codes fired, the readings taken, the bias each emitter receives, and how a calibration begins and ends (R240 to R242).
-/
namespace Sys2Proof.Machine

/-- The highest bias code of a tile's station (R238). -/
def Chip.biasMax (c : Chip) (t : Nat) : Nat := c.fld (Fld.STATION_CEIL_BIAS_BIAS_MAX (c.stationOf t))

/-- Code i of the eight codes up to `top`: i × top ÷ 8 rounded (R241). [DESIGN CHOICE: log 70] -/
def calStep (top i : Nat) : Nat := (2 * i * top + 8) / 16

/-- The bias code of a calibration step (R241). -/
def Chip.calCode (c : Chip) (t : Nat) (k : CalKey) : Nat :=
  let top := c.biasMax t
  calStep (if k.fine then calStep top 1 else top) k.code

/-- The sum of the eight readings of a step, once all have arrived. -/
def Cal.sumOf (x : Cal) (k : CalKey) : Option Nat :=
  let l := x.reads.filter fun r => r.1 == k
  if 8 ≤ l.length then some (sumN ((l.take 8).map (·.2))) else none

/-- CAL_TARGET as a sum of eight readings. [DESIGN CHOICE: log 70] -/
def Chip.calTarget (c : Chip) (t : Nat) : Nat := 8 * c.fld (Fld.STATION_CAL_TARGET_TARGET (c.stationOf t))

/-- Change the calibration of a tile. -/
def Chip.updCal (c : Chip) (t : Nat) (f : Cal → Cal) : Chip := c.updTile t fun x => { x with cal := x.cal.map f }

/-- The step after a code was fired for eight sweeps: the next code, the fine pass when the first reading lies above the target, or the next emitter; none while that reading is awaited (R241). [DESIGN CHOICE: log 70] -/
def Chip.calAfter (c : Chip) (t : Nat) (x : Cal) : Option Cal :=
  let k := x.key
  if k.code < 8 then some { x with key := { k with code := k.code + 1 }, fired := 0 }
  else if k.fine then some { x with key := ⟨k.emitter + 1, false, 1⟩, fired := 0, open_ := x.open_ ++ [k.emitter] }
  else match x.sumOf ⟨k.emitter, false, 1⟩ with
    | none => none
    | some r =>
      if c.calTarget t < r then some { x with key := ⟨k.emitter, true, 1⟩, fired := 0, fines := x.fines ++ [k.emitter] }
      else some { x with key := ⟨k.emitter + 1, false, 1⟩, fired := 0, open_ := x.open_ ++ [k.emitter] }

/-- What the next planned sweep of a tile fires, when it is calibrated (R241). -/
def Chip.calNext (c : Chip) (t sweep : Nat) : Option CalKey × Chip :=
  match (c.tile t).cal with
  | none => (none, c)
  | some x =>
    match (if x.fired < 8 then some x else c.calAfter t x) with
    | none => (none, c)
    | some x =>
      if 16 ≤ x.key.emitter then (none, c.updCal t fun _ => x)
      else (some x.key, c.updCal t fun _ => { x with fired := x.fired + 1, sweeps := x.sweeps ++ [(sweep, x.key)] })

/-- Give one emitter of a tile a bias code, the others staying. -/
def Chip.setBias (c : Chip) (now t e code : Nat) : Chip := c.sendBias now t (updAt (c.biasOf t) e fun _ => code) false

/-- Linear interpolation between two codes with their readings, rounded to nearest (R241). [DESIGN CHOICE: log 70] -/
def calBetween (target c0 r0 c1 r1 : Nat) : Nat :=
  (rdivI ((c0 : Int) * (r1 - r0 : Nat) + ((target : Int) - r0) * ((c1 : Int) - c0)) (r1 - r0)).toNat

/-- The code at which readings that rise strictly reach the target, none when no pair brackets it. -/
def calBracket (target : Nat) : List (Nat × Nat) → Option Nat
  | (c0, r0) :: (c1, r1) :: l =>
    if r0 = target then some c0
    else if r0 < target ∧ target ≤ r1 then some (if r1 = target then c1 else calBetween target c0 r0 c1 r1)
    else calBracket target ((c1, r1) :: l)
  | [(c0, r0)] => if r0 = target then some c0 else none
  | [] => none

/-- Numbers rise strictly. -/
def rising : List Nat → Bool
  | a :: b :: l => decide (a < b) && rising (b :: l)
  | _ => true

/-- The bias that the readings of an emitter give: none for a failure (R241, R242). [DESIGN CHOICE: log 70] -/
def Chip.calBias (c : Chip) (t e : Nat) (fine : Bool) (coarse fines : List Nat) : Option Nat :=
  let target := c.calTarget t
  let code (f : Bool) (i : Nat) : Nat := c.calCode t ⟨e, f, i⟩
  if !rising coarse || !rising fines then none
  else if !fine then calBracket target ((List.range 8).map fun i => (code false (i + 1), coarse.getD i 0))
  else if target < fines.getD 0 0 then none
  else if fines.getD 7 0 < target then
    calBracket target [(code true 8, fines.getD 7 0), (code false 2, coarse.getD 1 0)]
  else calBracket target ((List.range 8).map fun i => (code true (i + 1), fines.getD i 0))

/-- A calibration job of a tile counts a failed emitter. -/
def Chip.calFailed (c : Chip) (t : Nat) : Chip :=
  let count (j : CalJob) : CalJob := if j.tiles.contains t then { j with fails := j.fails + 1 } else j
  c.updEng fun x => { x with calJobs := x.calJobs.map count }

/-- An emitter's readings are complete: it takes its bias, or keeps the old one and is disabled (R241, R242). -/
def Chip.calSettle (c : Chip) (now t e : Nat) : Chip :=
  match (c.tile t).cal with
  | none => c
  | some x =>
    let fine := x.fines.contains e
    let coarse := (List.range 8).filterMap fun i => x.sumOf ⟨e, false, i + 1⟩
    let fines := (List.range 8).filterMap fun i => x.sumOf ⟨e, true, i + 1⟩
    if coarse.length < 8 ∨ (fine ∧ fines.length < 8) then c else
    let c := c.updCal t fun x => { x with open_ := x.open_.filter (· != e) }
    match c.calBias t e fine coarse fines with
    | some b => (c.setBias now t e b).enableEmitter t e
    | none => ((c.setBias now t e (x.old.getD e 0)).disableEmitter t e 2).calFailed t

/-- MONITOR_PD: the readings are kept, and emitters whose passes are complete are settled (R241). -/
def Chip.monitorPd (c : Chip) (now t sweep : Nat) (codes : List Nat) : Chip :=
  let c := c.each (List.range 16) fun e c => c.setFld (Fld.TILE_MPD_VALUE t e) (codes.getD e 0)
  match (c.tile t).cal with
  | none => c
  | some x =>
    match x.sweeps.find? fun (s : Nat × CalKey) => s.1 == sweep with
    | none => c
    | some (_, k) =>
      let c := c.updCal t fun x => { x with
        sweeps := x.sweeps.filter fun (s : Nat × CalKey) => s.1 != sweep
        reads := x.reads ++ [(k, codes.getD k.emitter 0 % 4096)] }
      c.each ((c.tile t).cal.elim [] (·.open_)) fun e c => c.calSettle now t e

/-- The first sweep at a calibration code is about to begin: the code is sent (R241, R277). -/
def Chip.calBias1 (c : Chip) (now t : Nat) (k : CalKey) : Chip :=
  let code := c.calCode t k
  if (c.biasOf t).getD k.emitter 0 = code then c else c.setBias now t k.emitter code

/-- A tile's calibration has ended: every emitter fired and settled. -/
def Chip.calDone (c : Chip) (t : Nat) : Bool :=
  match (c.tile t).cal with
  | none => true
  | some x => decide (16 ≤ x.key.emitter) && x.open_.isEmpty

/-- A tile leaves its calibration: emitters not settled keep the bias they held before (R242). [DESIGN CHOICE: log 70] -/
def Chip.calDrop (c : Chip) (now t : Nat) : Chip :=
  match (c.tile t).cal with
  | none => c
  | some x =>
    let codes := (List.range 16).map fun e =>
      if e < x.key.emitter ∧ x.open_.contains e = false then (c.biasOf t).getD e 0 else x.old.getD e 0
    let c := c.updTile t fun x => { x with cal := none }
    if codes = c.biasOf t then c else c.sendBias now t codes false

/-- The drum of a station turns at 0.02 m/s or more with its speed loop locked (R240). -/
def Chip.drumReady (c : Chip) (s : Nat) : Bool :=
  c.flag (Fld.WINDLASS_STN_SLOT_EN s) && c.flag (Fld.WINDLASS_SLOT_STATUS_LOCK (c.fld (Fld.WINDLASS_STN_SLOT_SLOT s)))
    && decide (20000 * 6 * 64 * 65536 ≤ (c.writeRate s).natAbs * 127)

/-- The failed precondition of a calibration of tiles, 0 for none (R240). -/
def Chip.calRefusal (c : Chip) (tiles : List Nat) : Nat :=
  let ss := (tiles.map c.stationOf).eraseDups
  if !c.flag Fld.SAFETY_STATUS_ILK_A || !c.flag Fld.SAFETY_STATUS_ILK_B then 1
  else if !ss.all c.drumReady then 2
  else if !ss.all (fun s => c.flag (Fld.STATION_CEIL_LOCK_LOCK s)) then 3 else 0

/-- Begin to calibrate tiles for the command in a slot. -/
def Chip.calBegin (c : Chip) (slot : Nat) (tiles : List Nat) (prime : Bool) : Chip :=
  let c := c.each tiles fun t c => c.updTile t fun x => { x with cal := some { old := c.biasOf t } }
  c.updEng fun x => { x with calJobs := x.calJobs ++ [{ slot := slot, tiles := tiles, prime := prime }] }

/-- One of these tiles is being calibrated (R240). -/
def Chip.calBusy (c : Chip) (tiles : List Nat) : Bool := c.eng.calJobs.any fun (j : CalJob) => j.tiles.any tiles.contains

/-- EMITTER_CALIBRATE with its tiles as it starts: its preconditions are checked (R240). [DESIGN CHOICE: log 70] -/
def Chip.calCommand (c : Chip) (slot : Nat) (tiles : List Nat) : Chip :=
  match c.calRefusal tiles with
  | 0 => c.calBegin slot tiles false
  | k => c.result slot Rc.CAL_PRECONDITION k

/-- CALIBRATION_COMPLETE: a calibration all of whose tiles are done completes its command, or PRIME goes on (R242, R412). -/
def Chip.calComplete (c : Chip) : Chip :=
  let jobs := c.eng.calJobs.map fun (j : CalJob) => { j with tiles := j.tiles.filter fun t => !c.calDone t }
  let gone := c.eng.calJobs.flatMap fun (j : CalJob) => j.tiles.filter c.calDone
  let c := c.each gone fun t c => c.updTile t fun x => { x with cal := none }
  let (ended, left) := jobs.partition fun (j : CalJob) => j.tiles.isEmpty
  let c := c.updEng fun x => { x with calJobs := left }
  c.each ended fun j c =>
    if j.prime then c.updEng fun x => { x with calDone := true, primeFails := j.fails }
    else if j.fails = 0 then c.result j.slot Rc.OK else c.result j.slot Rc.CAL_PARTIAL (satN 65535 j.fails)

/-- A drum that falls below 0.02 m/s ends its calibrations with condition 2; the command of a PRIME ends by its own rule (R242). [DESIGN CHOICE: log 70] -/
def Chip.calDrumCheck (c : Chip) (now : Nat) : Chip :=
  let bad := c.eng.calJobs.filter fun (j : CalJob) => !j.prime && j.tiles.any fun t =>
    decide ((c.writeRate (c.stationOf t)).natAbs * 127 < 20000 * 6 * 64 * 65536)
  if bad.isEmpty then c else
  c.each bad fun j c =>
    let rest := c.eng.calJobs.filter fun (k : CalJob) => k.slot != j.slot
    ((c.each j.tiles fun t c => c.calDrop now t).updEng fun x => { x with calJobs := rest }).result j.slot Rc.CAL_PRECONDITION 2

/-- Every calibration ends without a result of its own: SAFE_STOP completes the commands (R36, R242). [DESIGN CHOICE: log 70] -/
def Chip.calAbort (c : Chip) (now : Nat) : Chip :=
  let c := c.each (c.eng.calJobs.flatMap (·.tiles)) fun t c => c.calDrop now t
  c.updEng fun x => { x with calJobs := [], calWait := [] }

end Sys2Proof.Machine
end

