-- ==== Sys2Proof/Machine/MuleAxis.lean ====
section
/-! DEFINITION. Mule axes: profiles, homing, limits, interpolation, stall detection, the coil bus and faults (R334 to R349, R419 to R422).
-/
namespace Sys2Proof.Machine

/-- The state and the commanded position of a Mule axis (R350). -/
def Chip.muleState (c : Chip) (m : Nat) : Nat := c.fld (Fld.MULE_STATUS_STATE m)
def Chip.mulePos (c : Chip) (m : Nat) : Int := c.fldS (Fld.MULE_POS_VALUE m)

/-- The direction of a Mule axis as +1 or −1. -/
def Chip.muleDir (c : Chip) (m : Nat) : Int := if c.flag (Fld.MULE_STATUS_DIR m) then -1 else 1

/-- Set the direction. -/
def Chip.setMuleDir (c : Chip) (m : Nat) (d : Int) : Chip := c.setFlag (Fld.MULE_STATUS_DIR m) (decide (d < 0))

/-- The axis code of a Mule axis in DETAIL [15:8] (R418, R422). -/
def axisDetail (m : Nat) : Nat := (0x10 + m) * 256

/-- End the command of an axis. -/
def Chip.endMule (c : Chip) (m status detail : Nat) : Chip :=
  match (c.mule m).cmd with
  | some k => (c.updMule m fun x => { x with cmd := none }).result k status detail
  | none => c

/-- End the requests that wait on an axis. -/
def Chip.dropNext (c : Chip) (m status detail : Nat) : Chip :=
  (c.updMule m fun x => { x with next := [] }).each (c.mule m).next fun e c => c.result e.2 status detail

/-- A request is for a group. -/
def MuleReq.isGroup : MuleReq → Bool
  | .group _ => true
  | _ => false

/-- The axes that a request for a group names. -/
def MuleReq.axes : MuleReq → List Nat
  | .group l => l.map (·.1)
  | _ => []

/-- End the requests for a group that name an axis and wait for its axes to rest: one of them has stopped for another reason (R347). -/
def Chip.dropPending (c : Chip) (m status detail : Nat) : Chip :=
  c.each ((List.range 16).filter fun h => (c.mule h).next.any fun e => e.1.axes.contains m) fun h c => c.dropNext h status detail

/-- Integer square root of the speed squared. -/
def speedOf (v2 : Nat) : Nat := Nat.sqrt v2

/-- CTL cycles to the next step (R340): round(250,000,000 ÷ isqrt(v2)), at least 125. -/
def stepCycles (v2 : Nat) : Nat := let v := max 1 (speedOf v2); max 125 ((500000000 + v) / (2 * v))

/-- The axis goes to HOLD; its current falls at once when `now_` says so or HOLD_DELAY is 0 (R339). -/
def Chip.muleHold (c : Chip) (m : Nat) (atOnce : Bool) : Chip :=
  let c := ((c.setFld (Fld.MULE_STATUS_STATE m) 1).setFlag (Fld.MULE_STATUS_IN_GROUP m) false).setReg (Reg.MULE_SPEED m) 0
  let c := c.setFlag (Fld.MULE_STATUS_HOLD_I m) (atOnce || c.flag (Fld.MULE_STATUS_HOLD_I m) || c.fld (Fld.MULE_CURRENT_HOLD_DELAY m) == 0)
  c.updMule m fun x => { x with
    v2 := 0, kind := 0, home := 0, group := none, leader := none, interval := 0, endWith := 0, endDetail := 0, slow := false }

/-- The deceleration-limited speed one step later (R340). -/
def brakeV2 (v2 dec : Nat) : Nat := if 2 * dec < v2 then v2 - 2 * dec else 0

/-- The speed one step later toward a limit: acceleration up to it, or, when the limit was lowered below the speed, deceleration down to it (R340, R343). -/
def towardV2 (v2 goal acc dec : Nat) (slow : Bool) : Nat :=
  if slow && decide (goal < v2) then max goal (v2 - 2 * dec) else min goal (v2 + 2 * acc)

/-- The profile of R340 after a step, for the distance left: the new v2 and direction, none at the end of the move. [DESIGN CHOICE: log 91] -/
def profileStep (toGo dir : Int) (v2 vmax acc dec : Nat) (slow : Bool) : Option (Nat × Int) :=
  if toGo = 0 then none
  else
    let back := decide (toGo * dir < 0)
    let w := if back || decide (2 * dec * toGo.natAbs ≤ v2) then brakeV2 v2 dec else towardV2 v2 (vmax * vmax) acc dec slow
    if w = 0 then some (2 * acc, if toGo < 0 then -1 else 1) else some (w, dir)

/-- The profile of a jog after a step: toward the wanted speed, through zero when it points the other way; none at standstill with speed 0 (R344, R420). [DESIGN CHOICE: log 91] -/
def jogStep (want dir : Int) (v2 acc dec : Nat) (slow : Bool) : Option (Nat × Int) :=
  if want = 0 ∨ want * dir < 0 then
    let w := brakeV2 v2 dec
    if w = 0 then (if want = 0 then none else some (2 * acc, if want < 0 then -1 else 1)) else some (w, dir)
  else some (towardV2 v2 (want.natAbs * want.natAbs) acc dec slow, dir)

/-- Load the profile registers of an axis for a new move. -/
def Chip.loadProfile (c : Chip) (m : Nat) : Chip :=
  c.updMule m fun x => { x with
    vmax := c.fld (Fld.MULE_VMAX_VALUE m), acc := c.fld (Fld.MULE_ACC_VALUE m), dec := c.fld (Fld.MULE_DEC_VALUE m), fresh := 0 }

/-- Give an axis its speed and the interval to the next step. -/
def Chip.setMuleSpeed (c : Chip) (m v2 : Nat) (dir : Int) : Chip :=
  ((c.setMuleDir m dir).setFldS (Fld.MULE_SPEED_VALUE m) (dir * (speedOf v2 : Nat))).updMule m fun x => { x with
    v2 := v2, interval := stepCycles v2, slow := x.slow && decide (v2 < x.v2) }

/-- Give a group its master's speed: every axis of it runs at |d_i| ÷ |d_m| of that (R347, R350). [DESIGN CHOICE: log 91] -/
def Chip.setGroupSpeed (c : Chip) (lead : Nat) (g : MuleGroup) (v2 : Nat) : Chip :=
  let c := c.updMule lead fun x => { x with v2 := v2, interval := stepCycles v2, slow := x.slow && decide (v2 < x.v2) }
  g.axes.foldl (fun (c : Chip) a =>
    c.setFldS (Fld.MULE_SPEED_VALUE a.1) (Int.tdiv (a.2.2 * (speedOf v2 : Nat)) (max 1 g.dm : Nat))) c

/-- The axis begins to move from rest: the first interval follows v2 = 2 × ACC (R340). -/
def Chip.muleGo (c : Chip) (now m : Nat) (dir : Int) (st kind : Nat) : Chip :=
  let c := (c.setFld (Fld.MULE_STATUS_STATE m) st).setFlag (Fld.MULE_STATUS_HOLD_I m) false
  let c := c.updMule m fun x => { x with kind := kind, hist := [(now, c.mulePos m)], slow := false }
  c.setMuleSpeed m (2 * (c.mule m).acc) dir

/-- ENC_BASE is set so that the deviation is 0 (R348). -/
def Chip.setEncBase (c : Chip) (m : Nat) : Chip :=
  let p := (c.chanAt (c.fld (Fld.MULE_CFG_ENC_CH m))).1
  c.updMule m fun x => { x with base := c.mulePos m * 65536 - p * c.fldS (Fld.MULE_ENC_SCALE_SCALE m), stallRun := 0 }

/-- A limit input is active in a direction (R346). -/
def Chip.limitActive (c : Chip) (m : Nat) (dir : Int) : Bool :=
  if dir < 0 then c.flag (Fld.MULE_STATUS_LIMN_IN m) else c.flag (Fld.MULE_STATUS_LIMP_IN m)

/-- Decelerate to a stop at a rate, the command ending with a status (R344 to R349). -/
def Chip.muleStop (c : Chip) (m dec status detail : Nat) : Chip :=
  c.updMule m fun x => { x with kind := 3, dec := dec, endWith := status, endDetail := detail }

/-- The axis is stopping under LIMIT_HIT, SAFE_STOPPED, a stall or a fault, or after HOME_FAIL: a stop that no new target replaces (R345 to R349). -/
def Mule.stops (x : Mule) : Bool := x.kind == 3 && x.endWith != Rc.OK

/-- The stop runs at ESTOP_DEC (R346, R347, R349). -/
def Mule.emergency (x : Mule) : Bool := x.stops && x.endWith != Rc.HOME_FAIL

/-- The status and DETAIL with which a command ends that two causes stop: the first one's, but SAFE_STOPPED goes before all (R347, R349). [DESIGN CHOICE: log 91] -/
def Mule.cause (x : Mule) (status detail : Nat) : Nat × Nat :=
  if x.emergency && status != Rc.SAFE_STOPPED then (x.endWith, x.endDetail) else (status, detail)

/-- Decelerate to a stop at ESTOP_DEC (R346, R347, R349). -/
def Chip.muleEstop (c : Chip) (m dec status detail : Nat) : Chip :=
  c.muleStop m dec ((c.mule m).cause status detail).1 ((c.mule m).cause status detail).2

/-- A target breaks the travel direction of a unidirectional axis: behind the stopping point, by the DEC that the new move would have (R342, R343). -/
def Chip.reverses (c : Chip) (m : Nat) (target : Int) : Bool :=
  c.flag (Fld.MULE_CFG_UNIDIR m) &&
    (let dir : Int := if c.flag (Fld.MULE_CFG_UNI_DIR m) then -1 else 1
     let x := c.mule m
     let stop := c.mulePos m + (if x.kind = 0 then 0 else dir * (cdiv x.v2 (2 * max 1 (c.fld (Fld.MULE_DEC_VALUE m))) : Nat))
     decide ((target - stop) * dir < 0))

/-- A direction is forbidden to a unidirectional axis (R342). -/
def Chip.wrongWay (c : Chip) (m : Nat) (dir : Int) : Bool :=
  c.flag (Fld.MULE_CFG_UNIDIR m) && c.flag (Fld.MULE_CFG_UNI_DIR m) != decide (dir < 0)

/-- The soft limit in a direction. -/
def Chip.softLimit (c : Chip) (m : Nat) (dir : Int) : Int :=
  if dir < 0 then c.fldS (Fld.MULE_SOFT_MIN_VALUE m) else c.fldS (Fld.MULE_SOFT_MAX_VALUE m)

/-- Scale a rate to the master: rate ÷ k, k = |d| ÷ |d_m| (R347). -/
def overK (rate dm : Nat) (d : Int) : Option Nat := if d = 0 then none else some (rate * dm / d.natAbs)

/-- The least of the scaled rates of a group (R347). -/
def groupRate (dm : Nat) (axes : List (Nat × Int × Int)) (rate : Nat → Nat) : Nat :=
  match axes.filterMap fun a => overK (rate a.1) dm a.2.2 with
  | [] => 1
  | r :: rs => max 1 (rs.foldl min r)

/-- The profile of a group: the least of its members' scaled rates (R347). -/
def Chip.groupVmax (c : Chip) (g : MuleGroup) : Nat := groupRate g.dm g.axes fun m => c.fld (Fld.MULE_VMAX_VALUE m)
def Chip.groupAcc (c : Chip) (g : MuleGroup) : Nat := groupRate g.dm g.axes fun m => c.fld (Fld.MULE_ACC_VALUE m)
def Chip.groupDec (c : Chip) (g : MuleGroup) : Nat := groupRate g.dm g.axes fun m => c.fld (Fld.MULE_DEC_VALUE m)

/-- Begin a group move from rest (R347). [DESIGN CHOICE: log 91] -/
def Chip.groupGo (c : Chip) (now : Nat) (l : List (Nat × Int)) (cmd : Nat) : Chip :=
  let axes := l.map fun (m, t) => (m, c.mulePos m, t - c.mulePos m)
  let dm := maxN (axes.map fun a => a.2.2.natAbs)
  if dm = 0 then c.result cmd Rc.OK
  else
    let lead := (axes.foldl (fun (b : Option Nat) a => if a.2.2.natAbs = dm then some (match b with
      | some k => min k a.1
      | none => a.1) else b) none).getD 0
    let c := axes.foldl (fun (c : Chip) a =>
      let c := ((c.setFldS (Fld.MULE_TARGET_VALUE a.1) (a.2.1 + a.2.2)).setFld (Fld.MULE_STATUS_STATE a.1) 2).setFlag (Fld.MULE_STATUS_IN_GROUP a.1) true
      let c := (c.setFlag (Fld.MULE_STATUS_HOLD_I a.1) false).setMuleDir a.1 a.2.2
      c.updMule a.1 fun x => { x with leader := some lead, hist := [(now, a.2.1)], fresh := 0 }) c
    let g : MuleGroup := { dm := dm, n := 0, axes := axes }
    let c := c.updMule lead fun x => { x with
      group := some g, cmd := some cmd, kind := 1, vmax := c.groupVmax g, acc := c.groupAcc g, dec := c.groupDec g }
    c.setGroupSpeed lead g (2 * (c.mule lead).acc)

/-- Floor of (|d| × n + |d_m| ÷ 2) ÷ |d_m|, with the sign of d (R347). -/
def lineStep (d : Int) (n dm : Nat) : Int :=
  let k := (d.natAbs * n + dm / 2) / max 1 dm
  if d < 0 then -(k : Int) else k

/-- The first axis of a group whose new target lies behind its stopping point on the old line (R342, R347). -/
def Chip.groupReverses (c : Chip) (lead : Nat) (g : MuleGroup) (l : List (Nat × Int)) : Option Nat :=
  let x := c.mule lead
  let stop := min g.dm (g.n + cdiv x.v2 (2 * max 1 (c.groupDec g)))
  (l.find? fun t =>
    let dir : Int := if c.flag (Fld.MULE_CFG_UNI_DIR t.1) then -1 else 1
    c.flag (Fld.MULE_CFG_UNIDIR t.1) && g.axes.any fun a =>
      a.1 == t.1 && decide ((t.2 - (a.2.1 + lineStep a.2.2 stop g.dm)) * dir < 0)).map (·.1)

/-- What refuses a target before anything moves: state, group, soft limits, limit switches, direction (R342, R344, R346, R347, R419). A single axis that moves is judged for its direction at its step, a group as a whole before it moves. -/
def Chip.moveRefused (c : Chip) (m : Nat) (t : Int) (whole : Bool) : Option (Nat × Nat) :=
  let d := axisDetail m
  if c.flag (Fld.MULE_STATUS_HOMED m) && (decide (t < c.fldS (Fld.MULE_SOFT_MIN_VALUE m)) || decide (c.fldS (Fld.MULE_SOFT_MAX_VALUE m) < t)) then
    some (Rc.ERR_RANGE, d)
  else if t ≠ c.mulePos m ∧ c.limitActive m (t - c.mulePos m) then some (Rc.ERR_LIMIT, d)
  else if (whole ∨ (c.mule m).kind = 0) ∧ (c.mule m).leader = none ∧ c.reverses m t then some (Rc.ERR_REVERSE, d)
  else none

/-- The axis for which a request is refused with ERR_REVERSE, judged by the state at this step (R342, R347). -/
def Chip.requestRefused (c : Chip) (m : Nat) (r : MuleReq) : Option Nat :=
  match r with
  | .move t => if c.reverses m t then some m else none
  | .jog v => if v ≠ 0 ∧ c.wrongWay m v then some m else none
  | .home => if c.wrongWay m (if c.flag (Fld.MULE_HOME_HOME_DIR m) then -1 else 1) then some m else none
  | .group l => (c.mule m).group.bind fun g => c.groupReverses m g l

/-- What runs on an axis gives way to a request: its command ends with MOVE_REPLACED, the profile registers hold for what follows, and a speed above the new limit is brought down at DEC (R341, R343, R422). -/
def Chip.muleReplace (c : Chip) (m limit : Nat) : Chip :=
  ((c.endMule m Rc.MOVE_REPLACED 0).loadProfile m).updMule m fun x => { x with home := 0, slow := decide (limit * limit < x.v2) }

/-- Begin a request on an axis at rest or, replacing a move, at its step; a group begins when every axis that it names rests, and is checked then (R340, R341, R344, R345, R347). [DESIGN CHOICE: log 91] -/
def Chip.muleBegin (c : Chip) (now m : Nat) (r : MuleReq) (cmd : Nat) : Chip :=
  let moving := decide ((c.mule m).kind ≠ 0)
  match c.requestRefused m r with
  | some a => c.result cmd Rc.ERR_REVERSE (axisDetail a)
  | none =>
  match r with
  | .group l =>
    match l.find? fun e => (c.mule e.1).kind != 0 with
    | some e => c.updMule e.1 fun x => { x with next := x.next ++ [(r, cmd)] }
    | none =>
      match l.findSome? fun e => c.moveRefused e.1 e.2 true with
      | some (s, d) => c.result cmd s d
      | none => c.groupGo now l cmd
  | .move t =>
    let c := if moving then c.muleReplace m (c.fld (Fld.MULE_VMAX_VALUE m)) else c.loadProfile m
    if !moving && t == c.mulePos m then c.result cmd Rc.OK
    else
      let c := ((c.setFldS (Fld.MULE_TARGET_VALUE m) t).updMule m fun x => { x with cmd := some cmd }).setFld (Fld.MULE_STATUS_STATE m) 2
      if moving then c.updMule m fun x => { x with kind := 1 }
      else c.muleGo now m (if t < c.mulePos m then -1 else 1) 2 1
  | .jog v =>
    let c := if moving then c.muleReplace m v.natAbs else c.loadProfile m
    if !moving && v == 0 then c.result cmd Rc.OK
    else if !moving && c.flag (Fld.MULE_STATUS_HOMED m)
        && decide ((c.softLimit m v - c.mulePos m) * (if v < 0 then -1 else 1) ≤ 0) then
      c.result cmd Rc.SOFT_LIMIT (axisDetail m)
    else
      let c := (c.updMule m fun x => { x with cmd := some cmd, jog := v }).setFld (Fld.MULE_STATUS_STATE m) 2
      if moving then c.updMule m fun x => { x with kind := 2 } else c.muleGo now m v 2 2
  | .home =>
    let back := c.flag (Fld.MULE_HOME_HOME_DIR m)
    let v : Int := if back then -(c.fld (Fld.MULE_HOME_HOME_VEL m) : Int) else c.fld (Fld.MULE_HOME_HOME_VEL m)
    let c := if moving then c.muleReplace m v.natAbs else c.loadProfile m
    let c := (c.setFlag (Fld.MULE_STATUS_HOMED m) false).setFld (Fld.MULE_STATUS_STATE m) 3
    let c := c.updMule m fun x => { x with cmd := some cmd, jog := v, home := 1, homeFrom := c.mulePos m }
    if moving then c.updMule m fun x => { x with kind := 2 } else c.muleGo now m v 3 2

/-- Of the requests that wait on an axis, those that its travel direction forbids are refused, and of the others the latest replaces the earlier: the chip with their outcomes, and the one that is left (R341, R342). -/
def Chip.pruneNext (c : Chip) (m : Nat) : Chip × Option (MuleReq × Nat) :=
  let l := (c.mule m).next
  let left := (l.filter fun e => (c.requestRefused m e.1).isNone).getLast?
  let c := (l.filter fun e => left != some e).foldl (fun (d : Chip) e => match c.requestRefused m e.1 with
    | some a => d.result e.2 Rc.ERR_REVERSE (axisDetail a)
    | none => d.result e.2 Rc.MOVE_REPLACED 0) c
  (c.updMule m fun x => { x with next := left.toList }, left)

/-- An axis takes what waits for its step, or for its rest (R341). -/
def Chip.takeNext (c : Chip) (now m : Nat) : Chip :=
  match c.pruneNext m with
  | (c, some (r, k)) => (c.updMule m fun x => { x with next := [] }).muleBegin now m r k
  | (c, none) => c

/-- PROFILE_DEFERRED of an axis (R343). -/
def Chip.profileDeferred (c : Chip) (m : Nat) : Chip := (c.raise (Ev.MULE_EVENT_PROFILE_DEFERRED m)).event Rc.PROFILE_DEFERRED 0 m

/-- Register writes that wait for the step are applied; a DEC that the move cannot follow is deferred, and none replaces ESTOP_DEC (R343, R346). [DESIGN CHOICE: log 91] -/
def Chip.applyFresh (c : Chip) (m : Nat) (rem : Option Nat) : Chip :=
  let x := c.mule m
  if x.emergency then c.updMule m fun y => { y with fresh := 0 } else
  let c := c.updMule m fun y => { y with
    vmax := if bit x.fresh 0 then c.fld (Fld.MULE_VMAX_VALUE m) else y.vmax
    slow := y.slow || (bit x.fresh 0 && decide (c.fld (Fld.MULE_VMAX_VALUE m) ^ 2 < y.v2))
    acc := if bit x.fresh 1 then c.fld (Fld.MULE_ACC_VALUE m) else y.acc, fresh := 0 }
  if bit x.fresh 2 then
    let d := c.fld (Fld.MULE_DEC_VALUE m)
    if (match rem with | some r => decide (2 * d * r < x.v2) | none => false) then
      c.profileDeferred m
    else c.updMule m fun y => { y with dec := d }
  else c

/-- The same for a group: a write to any of its axes changes the master's rates (R343, R347). [DESIGN CHOICE: log 91] -/
def Chip.applyGroupFresh (c : Chip) (lead : Nat) (g : MuleGroup) : Chip :=
  let x := c.mule lead
  let wrote (k : Nat) : List Nat := (g.axes.map (·.1)).filter fun m => bit (c.mule m).fresh k
  let clear (c : Chip) : Chip := (g.axes.map (·.1)).foldl (fun (c : Chip) m => c.updMule m fun y => { y with fresh := 0 }) c
  if x.emergency then clear c
  else
    let d := c.groupDec g
    let late := decide (2 * d * (g.dm - g.n) < x.v2)
    let c := if late then (wrote 2).foldl Chip.profileDeferred c else c
    clear (c.updMule lead fun y => { y with
      vmax := if (wrote 0).isEmpty then y.vmax else c.groupVmax g
      slow := y.slow || (!(wrote 0).isEmpty && decide (c.groupVmax g ^ 2 < y.v2))
      acc := if (wrote 1).isEmpty then y.acc else c.groupAcc g
      dec := if (wrote 2).isEmpty || late then y.dec else d })

/-- A stop has come to rest: the second half of homing, or HOLD with the status of the stop and then the request that waited for it; an axis that left its group keeps its state (R344 to R348). -/
def Chip.muleRested (c : Chip) (now m : Nat) : Chip :=
  let x := c.mule m
  match x.home, x.endWith with
  | 2, _ =>
    let p := c.mulePos m + (c.fldS (Fld.MULE_HOME_POS_VALUE m) - x.homeAt)
    let c := (((c.setFldS (Fld.MULE_POS_VALUE m) p).updMule m fun y => { y with hist := [] }).setFlag (Fld.MULE_STATUS_HOMED m) true).setEncBase m
    let t := c.fldS (Fld.MULE_HOME_POS_VALUE m)
    let c := c.setFldS (Fld.MULE_TARGET_VALUE m) t
    if c.mulePos m = t then (c.muleHold m false).endMule m Rc.OK 0
    else ((c.loadProfile m).updMule m fun x => { x with home := 3 }).muleGo now m (t - c.mulePos m) 3 1
  | _, _ =>
    let axes : List Nat := match x.group with
      | some g => g.axes.map fun (a : Nat × Int × Int) => a.1
      | none => [m]
    let safe := decide (x.endWith = Rc.SAFE_STOPPED)
    let c := c.updMule m fun y => { y with v2 := 0, kind := 0, home := 0, group := none, interval := 0, endWith := 0, endDetail := 0 }
    ((axes.foldl (fun (c : Chip) k => c.muleHold k safe) c).endMule m x.endWith x.endDetail).takeNext now m

/-- Record a step of an axis. -/
def Chip.stepped (c : Chip) (now m : Nat) (p : Int) : Chip :=
  (c.setFldS (Fld.MULE_POS_VALUE m) p).updMule m fun x => { x with
    lastStep := now, hist := ((now, signed 32 (pattern 32 p)) :: x.hist).take 8 }

/-- What waits for the step of a group: a new target of the same axes, refused when an axis would turn back, else the cause of a deceleration along the old line (R341, R342, R347). -/
def Chip.groupTurn (c : Chip) (m : Nat) (g : MuleGroup) : Chip :=
  if (c.mule m).stops then c
  else
    match c.pruneNext m with
    | (c, some _) => if (c.mule m).kind = 1 then (c.endMule m Rc.MOVE_REPLACED 0).muleStop m (c.groupDec g) Rc.OK 0 else c
    | (c, none) => c

/-- The master of a group steps: every axis of the group moves in the same cycle (R347). [DESIGN CHOICE: log 91] -/
def Chip.groupStep (c : Chip) (now m : Nat) (g : MuleGroup) : Chip :=
  let n := g.n + 1
  let c := g.axes.foldl (fun (c : Chip) a =>
    let p := a.2.1 + lineStep a.2.2 n g.dm
    if p = c.mulePos a.1 then c else c.stepped now a.1 p) c
  let g := { g with n := n }
  let c := ((c.updMule m fun x => { x with group := some g, lastStep := now }).applyGroupFresh m g).groupTurn m g
  let x := c.mule m
  if x.kind = 3 then
    let w := brakeV2 x.v2 x.dec
    if w = 0 ∨ g.dm ≤ n then c.muleRested now m else c.setGroupSpeed m g w
  else match profileStep ((g.dm : Int) - n) 1 x.v2 x.vmax x.acc x.dec x.slow with
    | none => (c.muleStop m x.dec Rc.OK 0).muleRested now m
    | some (w, _) => c.setGroupSpeed m g w

/-- MULE_STEP: one microstep, then what waits for the step, then the next interval; a request that comes during a stop waits until the axis rests (R340 to R346). [DESIGN CHOICE: log 91] -/
def Chip.muleStep (c : Chip) (now m : Nat) : Chip :=
  let x := c.mule m
  if x.kind = 0 then c
  else match x.group with
  | some g => c.groupStep now m g
  | none =>
    let c := c.stepped now m (c.mulePos m + c.muleDir m)
    let toGo := c.fldS (Fld.MULE_TARGET_VALUE m) - c.mulePos m
    let c := c.applyFresh m (if x.kind = 1 then some toGo.natAbs else none)
    let c := if x.stops then c else if x.next.any fun e => e.1.isGroup then (c.pruneNext m).1 else c.takeNext now m
    let x := c.mule m
    let p := c.mulePos m
    let dir := c.muleDir m
    if x.kind = 1 then
      match profileStep (c.fldS (Fld.MULE_TARGET_VALUE m) - p) dir x.v2 x.vmax x.acc x.dec x.slow with
      | none => (c.muleHold m false).endMule m Rc.OK 0
      | some (w, d) => c.setMuleSpeed m w d
    else if x.kind = 2 then
      let lost := x.home == 1 && decide ((c.fld (Fld.MULE_HOME_DIST_HOME_DIST m) : Int) ≤ (p - x.homeFrom).natAbs)
      if lost then
        let c := (c.raise (Ev.MULE_EVENT_HOME_FAIL m)).muleStop m x.dec Rc.HOME_FAIL (axisDetail m)
        let w := brakeV2 x.v2 x.dec
        let c := c.updMule m fun y => { y with home := 4 }
        if w = 0 then c.muleRested now m else c.setMuleSpeed m w dir
      else
        let rem := (c.softLimit m dir - p) * dir
        if c.flag (Fld.MULE_STATUS_HOMED m) && x.home == 0 && decide (rem ≤ 0) && decide (0 < x.jog * dir) then
          (c.muleHold m false).endMule m Rc.SOFT_LIMIT (axisDetail m)
        else if c.flag (Fld.MULE_STATUS_HOMED m) && x.home == 0 && decide (0 < x.jog * dir) && decide ((2 * x.dec : Int) * rem ≤ x.v2) then
          let w := brakeV2 x.v2 x.dec
          c.setMuleSpeed m (if w = 0 then 2 * x.acc else w) dir
        else match jogStep (if x.home = 0 then clampI (-(x.vmax : Int)) x.vmax x.jog else x.jog) dir x.v2 x.acc x.dec x.slow with
          | none => (c.muleHold m false).endMule m Rc.OK 0
          | some (w, d) => c.setMuleSpeed m w d
    else
      let w := brakeV2 x.v2 x.dec
      if w = 0 then c.muleRested now m else c.setMuleSpeed m w dir

/-- The run of a group passes from an axis that has stopped at once to another of its axes, whose step timer is the group's from then on. [DESIGN CHOICE: log 91] -/
def Chip.handOver (c : Chip) (lead heir : Nat) (g : MuleGroup) : Chip :=
  let x := c.mule lead
  let c := c.updMule heir fun y => { y with
    v2 := x.v2, vmax := x.vmax, acc := x.acc, dec := x.dec, interval := x.interval, kind := x.kind, cmd := x.cmd, slow := x.slow
    endWith := x.endWith, endDetail := x.endDetail, next := x.next, group := some g }
  let c := c.updMule lead fun y => { y with
    v2 := 0, interval := 0, kind := 0, cmd := none, slow := false, endWith := 0, endDetail := 0, next := [], group := none }
  c.each (g.axes.map (·.1)) fun k c => c.updMule k fun y => { y with leader := some heir }

/-- The axes of the group that an axis leads stop along the line at ESTOP_DEC, and its command and those that wait for it end with the cause; an axis that has stopped at once leaves the group (R347). -/
def Chip.groupStop (c : Chip) (lead gone status detail : Nat) : Chip :=
  match (c.mule lead).group with
  | none => c
  | some g =>
    let g' := { g with axes := g.axes.filter fun a => a.1 != gone }
    let d := groupRate g.dm g.axes fun m => c.fld (Fld.MULE_ESTOP_DEC_VALUE m)
    let c := ((c.dropNext lead status detail).updMule lead fun x => { x with group := some g' }).muleEstop lead d status detail
    match g'.axes with
    | [] =>
      let x := c.mule lead
      (c.updMule lead fun x => { x with kind := 0, v2 := 0, interval := 0, group := none, endWith := 0, endDetail := 0 }).endMule lead x.endWith x.endDetail
    | a :: _ => if gone = lead then c.handOver lead a.1 g' else c

/-- The axis stops stepping at once and holds at I_HOLD (R348). -/
def Chip.muleHalt (c : Chip) (m status detail : Nat) : Chip :=
  match (c.mule m).leader with
  | some lead =>
    let c := c.groupStop lead m status detail
    let c := ((c.setFld (Fld.MULE_STATUS_STATE m) 1).setFlag (Fld.MULE_STATUS_IN_GROUP m) false).setFlag (Fld.MULE_STATUS_HOLD_I m) true
    (c.setReg (Reg.MULE_SPEED m) 0).updMule m fun y => { y with leader := none }
  | none =>
    let (st, d) := (c.mule m).cause status detail
    (((c.dropPending m st d).dropNext m st d).muleHold m true).endMule m st d

/-- A limit switch becomes active in the direction of travel (R346). -/
def Chip.limitHit (c : Chip) (now m : Nat) : Chip :=
  let c := (c.raise (Ev.MULE_EVENT_LIMIT_HIT m)).updMule m fun x => { x with limitAt := some now }
  match (c.mule m).leader with
  | some lead => c.groupStop lead 255 Rc.LIMIT_HIT (axisDetail m)
  | none =>
    let c := (c.dropPending m Rc.LIMIT_HIT (axisDetail m)).dropNext m Rc.LIMIT_HIT (axisDetail m)
    (c.muleEstop m (c.fld (Fld.MULE_ESTOP_DEC_VALUE m)) Rc.LIMIT_HIT (axisDetail m)).updMule m fun x => { x with home := 0 }

/-- The position an axis had at an instant (R345). [DESIGN CHOICE: log 91] -/
def Chip.posAt (c : Chip) (m t : Nat) : Int :=
  match (c.mule m).hist.find? fun h => decide (h.1 ≤ t) with
  | some h => h.2
  | none => c.mulePos m

/-- The switch inputs of an axis as STATUS shows them: active at the levels that CFG gives (R345, R350). -/
def Chip.showSwitches (c : Chip) (m : Nat) : Chip :=
  let on (k : Nat) (pol : BitField) : Bool := (c.mule m).levels.getD k true == c.flag pol
  ((c.setFlag (Fld.MULE_STATUS_HOME_IN m) (on 0 (Fld.MULE_CFG_HOME_POL m))).setFlag (Fld.MULE_STATUS_LIMN_IN m) (on 1 (Fld.MULE_CFG_LIMN_POL m))).setFlag
    (Fld.MULE_STATUS_LIMP_IN m) (on 2 (Fld.MULE_CFG_LIMP_POL m))

/-- The direction in which an axis travels: in a group that of its distance, 0 for none (R346, R347). -/
def Chip.travel (c : Chip) (m : Nat) : Int :=
  match ((c.mule m).leader.bind fun k => (c.mule k).group).bind fun g => g.axes.find? fun a => a.1 == m with
  | some a => if a.2.2 = 0 then 0 else if a.2.2 < 0 then -1 else 1
  | none => c.muleDir m

/-- MULE_SWITCH: an input has been stable for 2 µs (R345, R346). -/
def Chip.muleSwitch (c : Chip) (now m : Nat) (which : MuleInput) (level : Bool) : Chip :=
  let (fldIn, code) : BitField × Nat := match which with
    | .home => (Fld.MULE_STATUS_HOME_IN m, 0)
    | .limN => (Fld.MULE_STATUS_LIMN_IN m, 1)
    | .limP => (Fld.MULE_STATUS_LIMP_IN m, 2)
  if (c.mule m).levels.getD code true == level then c
  else
    let at_ := c.posAt m (now - 2000)
    let c := (c.updMule m fun x => { x with levels := updAt x.levels code fun _ => level }).showSwitches m
    let c := c.setFldS (Fld.MULE_LATCH_VALUE m) at_
    if !c.flag fldIn then c
    else
      let x := c.mule m
      let src := decide (c.fld (Fld.MULE_HOME_HOME_SRC m) = code)
      if x.home = 1 ∧ src then
        (c.muleStop m x.dec Rc.OK 0).updMule m fun y => { y with home := 2, homeAt := at_ }
      else
        let moving := c.muleState m == 2 || c.muleState m == 3
        let dir := c.travel m
        if moving && ((code == 1 && decide (dir < 0)) || (code == 2 && decide (0 < dir))) && !(x.home != 0 && src) then c.limitHit now m
        else c

/-- The axis enters FAULT (R336, R339, R349). -/
def Chip.muleFault (c : Chip) (m cause bits_ : Nat) : Chip :=
  let c := c.raise (if cause = 1 then Ev.MULE_EVENT_COIL_BUS m else Ev.MULE_EVENT_STAGE_FAULT m)
  let c := c.muleHalt m Rc.AXIS_FAULT (cause + axisDetail m)
  (((c.setFld (Fld.MULE_STATUS_STATE m) 4).setFlag (Fld.MULE_STATUS_HOLD_I m) false).pin "CB_SETPOINT" m 0).event Rc.MULE_FAULT m (cause + bits_ * 256)

/-- The entry of the microstep table that an axis uses: its active bank, or the ROM default while that failed (R338). -/
def Chip.microEntry (c : Chip) (m i : Nat) : Int :=
  if c.bankBad (0x6000 + m) then sineEntry i else bits (c.tabNat true (0xC0000 + m * 0x400 + 2 * i) 2) 14 0

/-- The coil set-points of an axis: A in bits [15:0] and B in bits [31:16] (R336, R337). [DESIGN CHOICE: log 91] -/
def Chip.coilWord (c : Chip) (m : Nat) : Nat :=
  let s := c.muleState m
  if s = 0 ∨ s = 4 then 0
  else
    let p := if c.flag (Fld.MULE_CFG_DIR_INV m) then -c.mulePos m else c.mulePos m
    let ph := pattern 10 (p + c.fld (Fld.MULE_PHASE_PHASE_OFFSET m))
    let q := ph / 256
    let i := ph % 256
    let cur : Int := if s = 1 ∧ c.flag (Fld.MULE_STATUS_HOLD_I m) then c.fld (Fld.MULE_CURRENT_I_HOLD m) else c.fld (Fld.MULE_CURRENT_I_RUN m)
    let up := c.microEntry m i
    let down := c.microEntry m (256 - i)
    let (a, b) : Int × Int := if q = 0 then (down, up) else if q = 1 then (-up, down) else if q = 2 then (-down, -up) else (up, -down)
    let w (x : Int) : Nat := pattern 16 (Int.tdiv (x * cur) 256)
    w a + w b * 65536

/-- The position of an axis by its encoder (R348). -/
def Chip.encMule (c : Chip) (m : Nat) : Int :=
  ((c.chanAt (c.fld (Fld.MULE_CFG_ENC_CH m))).1 * c.fldS (Fld.MULE_ENC_SCALE_SCALE m) + (c.mule m).base) / 65536

/-- Stall detection is on: ENC_EN, and no ENCODER_FAULT of the channel (R348). -/
def Chip.stallOn (c : Chip) (m : Nat) : Bool := c.flag (Fld.MULE_CFG_ENC_EN m) && !c.chanFault (c.fld (Fld.MULE_CFG_ENC_CH m))

/-- What a frame shows of stall detection, in FAULT too: STALL_OFF, and the deviation (R348). -/
def Chip.stallShow (c : Chip) (m : Nat) : Chip :=
  let c := c.setFlag (Fld.MULE_STATUS_STALL_OFF m) (c.flag (Fld.MULE_CFG_ENC_EN m) && !c.stallOn m)
  if c.stallOn m then c.setFldS (Fld.MULE_DEV_VALUE m) (satS 32 (c.mulePos m - c.encMule m)) else c

/-- Stall detection of an axis at a frame (R348). -/
def Chip.stallCheck (c : Chip) (now m : Nat) : Chip :=
  let c := c.stallShow m
  if !c.stallOn m then c.updMule m fun x => { x with stallRun := 0 }
  else
      let enc := c.encMule m
      let dev := c.mulePos m - enc
      if dev.natAbs ≤ c.fld (Fld.MULE_STALL_STALL_WIN m) then c.updMule m fun x => { x with stallRun := 0 }
      else if (c.mule m).stallRun = 0 then c.updMule m fun x => { x with stallRun := 1 }
      else
        let c := (c.bump (Fld.MULE_STALL_COUNT_STALLS m)).updMule m fun x => { x with stallRun := 0 }
        if (match (c.mule m).limitAt with | some t => decide (now ≤ t + 10000) | none => false) then c
        else
          let d := pattern 16 (satS 16 dev)
          let c := c.muleHalt m Rc.STALL (axisDetail m + d * 65536)
          let c := (c.setFldS (Fld.MULE_POS_VALUE m) enc).updMule m fun x => { x with hist := [] }
          (c.raise (Ev.MULE_EVENT_STALL m)).event Rc.MULE_STALL 0 (m + d * 65536)

/-- A status word of an enabled axis is shown, and a wrong ID counted, in FAULT too (R336, R350). -/
def Chip.stageWord (c : Chip) (m w : Nat) : Chip :=
  let c := c.setFld (Fld.MULE_BUS_STATUS_WORD m) (bits w 12 0)
  if bits w 7 0 ≠ 0xA5 then c.bump (Fld.MULE_BUS_STATUS_ID_ERR m) else c

/-- What the status word of an enabled axis outside FAULT leads to (R336). -/
def Chip.stageStatus (c : Chip) (m w : Nat) : Chip :=
  let x := c.mule m
  let wrong := decide (bits w 7 0 ≠ 0xA5)
  let bad := decide (bits w 12 8 ≠ 0)
  let c := c.updMule m fun x => { x with
    idRun := if wrong then x.idRun + 1 else 0, faultRun := if bad then x.faultRun + 1 else 0 }
  if wrong && decide (2 ≤ x.idRun) then c.muleFault m 1 (bits w 12 8)
  else if bad && decide (1 ≤ x.faultRun) then c.muleFault m 2 (bits w 12 8)
  else c

/-- The signals of a frame: CB_SYNC low for 5,520 ns, the 128 bits on CB_DO from 200 ns on, one per 40 ns, in the order stage 3, 2, 1, 0, most significant first (R335). -/
def Chip.sendCoilFrame (c : Chip) (chain : Nat) : Chip :=
  let words := (List.range 4).map fun k => c.coilWord (4 * chain + 3 - k)
  let bitsOut := words.flatMap fun w => (List.range 32).map fun i => b2n (bit w (31 - i))
  let c := (c.send (.wave "CB_SYNC" chain [(0, 0), (5520, 1)])).send (.wave "CB_DO" chain (bitsOut.zipIdx.map fun b => (200 + 40 * b.2, b.1)))
  c.send (.wave "CB_CLK" chain ((List.range 128).flatMap fun i => [(220 + 40 * i, 1), (240 + 40 * i, 0)]))

/-- COIL_BUS_FRAME: set-points go out, status words come in the order stage 3, 2, 1, 0 (R335 to R337, R348). -/
def Chip.coilFrame (c : Chip) (now chain : Nat) (status : List Nat) : Chip :=
  let axes := (List.range 4).map fun k => 4 * chain + k
  if !(axes.any fun m => c.flag (Fld.MULE_CFG_EN m)) then c
  else
    let c := (c.each axes fun m c => (c.switchMule now m).pin "CB_SETPOINT" m (c.coilWord m)).sendCoilFrame chain
    c.each axes fun m c =>
      let w := status.getD (3 - m % 4) 0
      let c := if c.flag (Fld.MULE_CFG_EN m) then c.stageWord m w else c
      if !c.flag (Fld.MULE_CFG_EN m) then c
      else if c.muleState m = 4 then c.stallShow m
      else
        let c := c.stageStatus m w
        if c.muleState m = 4 then c else c.stallCheck now m

/-- HOLD_DELAY (R339). -/
def Chip.holdDelay (c : Chip) (now m : Nat) : Chip :=
  if c.muleState m = 1 ∧ (c.mule m).lastStep + c.fld (Fld.MULE_CURRENT_HOLD_DELAY m) * 1000000 ≤ now then
    c.setFlag (Fld.MULE_STATUS_HOLD_I m) true
  else c

/-- Setting EN: DISABLED or FAULT goes to HOLD (R339, R348). [DESIGN CHOICE: log 92] -/
def Chip.muleEnable (c : Chip) (now m : Nat) : Chip :=
  let s := c.muleState m
  if s = 0 ∨ s = 4 then
    (((c.setFld (Fld.MULE_STATUS_STATE m) 1).setFlag (Fld.MULE_STATUS_HOLD_I m) (c.fld (Fld.MULE_CURRENT_HOLD_DELAY m) == 0)).updMule m
      fun x => { x with lastStep := now, idRun := 0, faultRun := 0 }).setEncBase m
  else c

/-- Clearing EN: any state goes to DISABLED, HOMED clears, position stays; a running command ends with `status` (R339, R345). [DESIGN CHOICE: log 91] -/
def Chip.muleDisable (c : Chip) (m status : Nat) : Chip :=
  let c := (c.dropNext m status 0).muleHalt m status 0
  let c := (c.setFld (Fld.MULE_STATUS_STATE m) 0).setFlag (Fld.MULE_STATUS_HOMED m) false
  (c.setFlag (Fld.MULE_STATUS_HOLD_I m) false).pin "CB_SETPOINT" m 0

/-- Entry to SAFE_STOP: every moving axis decelerates at ESTOP_DEC and holds at I_HOLD (R349). -/
def Chip.mulesSafeStop (c : Chip) : Chip :=
  c.each (List.range 16) fun m c =>
    let x := c.mule m
    if x.kind = 0 then c
    else
      let c := (c.dropPending m Rc.SAFE_STOPPED 0).dropNext m Rc.SAFE_STOPPED 0
      match x.group with
      | some _ => c.groupStop m 255 Rc.SAFE_STOPPED 0
      | none => (c.muleEstop m (c.fld (Fld.MULE_ESTOP_DEC_VALUE m)) Rc.SAFE_STOPPED 0).updMule m fun x => { x with home := 0 }

/-- Thermal trip and end of hold-up: every set-point to 0, every axis DISABLED with EN clear (R349). -/
def Chip.mulesOff (c : Chip) : Chip :=
  c.each (List.range 16) fun m c => (c.muleDisable m Rc.SAFE_STOPPED).setFlag (Fld.MULE_CFG_EN m) false

/-- The axes of a motion command that are Mule axes, by code. -/
def muleCode (k : Nat) : Option Nat := if 0x10 ≤ k ∧ k < 0x20 then some (k - 0x10) else none

/-- The first axis of a list in DISABLED or FAULT (R419). -/
def Chip.deadAxis (c : Chip) (l : List Nat) : Option Nat := l.find? fun m => c.muleState m == 0 || c.muleState m == 4

/-- Hand a request to an axis: at once from rest, else at the next step, behind those that wait (R341). [DESIGN CHOICE: log 91] -/
def Chip.muleRequest (c : Chip) (now m : Nat) (r : MuleReq) (cmd : Nat) : Chip :=
  if (c.mule m).kind = 0 then c.muleBegin now m r cmd
  else c.updMule m fun x => { x with next := x.next ++ [(r, cmd)] }

/-- The axis on which the run of a group stands, or the request for one that waits for its axes to rest, and the axes of that group, for one of them. [DESIGN CHOICE: log 91] -/
def Chip.groupOf (c : Chip) (m : Nat) : Option (Nat × List Nat) :=
  match (c.mule m).leader with
  | some lead => (c.mule lead).group.map fun g => (lead, g.axes.map (·.1))
  | none => (List.range 16).findSome? fun h =>
      ((c.mule h).next.find? fun e => e.1.axes.contains m).map fun e => (h, e.1.axes)

/-- The first axis that a command may not take: a member of a group that it does not name whole (R347, R422). [DESIGN CHOICE: log 91] -/
def Chip.busyAxis (c : Chip) (l : List Nat) : Option Nat :=
  l.find? fun m => match c.groupOf m with
    | some (_, g) => !(g.length == l.length && l.all g.contains)
    | none => false

/-- An axis that runs a move of its own gives way to a group that names it: its commands end with MOVE_REPLACED and it decelerates at DEC; a stop goes on (R341, R347, R422). [DESIGN CHOICE: log 91] -/
def Chip.muleYield (c : Chip) (m : Nat) : Chip :=
  if (c.mule m).kind = 0 ∨ (c.mule m).stops then c
  else
    let c := (c.dropNext m Rc.MOVE_REPLACED 0).endMule m Rc.MOVE_REPLACED 0
    (c.muleStop m (c.fld (Fld.MULE_DEC_VALUE m)) Rc.OK 0).updMule m fun x => { x with home := 0 }

/-- A group asks for its axes: in place of the group of the same axes that runs or waits, else once those that move by themselves have given way (R341, R347, R422). [DESIGN CHOICE: log 91] -/
def Chip.groupRequest (c : Chip) (now : Nat) (goals : List (Nat × Int)) (cmd : Nat) : Chip :=
  let m := (goals.headD (0, 0)).1
  match c.groupOf m with
  | some (h, _) => c.muleRequest now h (.group goals) cmd
  | none => (c.each (goals.map (·.1)) fun k c => c.muleYield k).muleBegin now m (.group goals) cmd

/-- AXIS_MOVE (R340 to R347, R419, R422). -/
def Chip.axisMove (c : Chip) (now : Nat) (e : JEntry) : Chip :=
  let n := e.param 0x10 1
  let codes := (List.range n).map fun i => e.param (0x11 + i) 1
  let l := codes.filterMap muleCode
  if n = 0 ∨ 4 < n then c.result e.slot Rc.ERR_RANGE 0x10
  else match (List.range n).find? fun i => (muleCode (codes.getD i 0)).isNone || (codes.take i).contains (codes.getD i 0) with
  | some i => c.result e.slot Rc.ERR_RANGE (0x11 + i * 256)
  | none =>
    let goals := (List.range n).map fun i => (l.getD i 0, signed 32 (e.param (0x18 + 4 * i) 4))
    match c.deadAxis l, c.busyAxis l with
    | some m, _ => c.result e.slot Rc.ERR_STATE (axisDetail m)
    | none, some m => c.result e.slot Rc.ERR_AXIS_BUSY (axisDetail m)
    | none, none =>
      match goals.findSome? fun g => c.moveRefused g.1 g.2 (decide (1 < n)) with
      | some (s, d) => c.result e.slot s d
      | none =>
        let c := c.started e.slot
        if n = 1 then c.muleRequest now (l.getD 0 0) (.move (goals.headD (0, 0)).2) e.slot
        else c.groupRequest now goals e.slot

/-- AXIS_JOG of a Mule axis (R344, R346, R420). -/
def Chip.muleJog (c : Chip) (now m : Nat) (e : JEntry) : Chip :=
  let v := signed 32 (e.param 0x14 4)
  if e.param 0x11 1 ≠ 0 then c.result e.slot Rc.ERR_RANGE 0x11
  else if c.fld (Fld.MULE_VMAX_VALUE m) < v.natAbs then c.result e.slot Rc.ERR_RANGE 0x14
  else match c.deadAxis [m], c.busyAxis [m] with
    | some _, _ => c.result e.slot Rc.ERR_STATE (axisDetail m)
    | none, some _ => c.result e.slot Rc.ERR_AXIS_BUSY (axisDetail m)
    | none, none =>
      if v ≠ 0 ∧ c.limitActive m v then c.result e.slot Rc.ERR_LIMIT (axisDetail m)
      else (c.started e.slot).muleRequest now m (.jog v) e.slot

/-- AXIS_HOME (R345, R421). -/
def Chip.axisHome (c : Chip) (now : Nat) (e : JEntry) : Chip :=
  match muleCode (e.param 0x10 1) with
  | none => c.result e.slot Rc.ERR_RANGE 0x10
  | some m =>
    match c.deadAxis [m], c.busyAxis [m] with
    | some _, _ => c.result e.slot Rc.ERR_STATE (axisDetail m)
    | none, some _ => c.result e.slot Rc.ERR_AXIS_BUSY (axisDetail m)
    | none, none =>
      let dir : Int := if c.flag (Fld.MULE_HOME_HOME_DIR m) then -1 else 1
      let code := c.fld (Fld.MULE_HOME_HOME_SRC m)
      let own := if dir < 0 then code == 1 else code == 2
      if c.limitActive m dir && !own then c.result e.slot Rc.ERR_LIMIT (axisDetail m)
      else (c.started e.slot).muleRequest now m .home e.slot

end Sys2Proof.Machine
end

