-- ==== Sys2Proof/Machine/Xlat.lean ====
section
/-! DEFINITION. The translation unit: table walks, the cache and its locks, invalidation, faults and suspended transfers; and reads and writes of host memory by device address (R82 to R93).
-/
namespace Sys2Proof.Machine

/-- The byte of host memory at a host address; none where a read ends in a bus error. [DESIGN CHOICE: log 6] -/
def hostByte (mem : HostImg) (a : Nat) : Option Byte := (mem.find? fun e => e.1 == a).map (·.2)

/-- `n` bytes of host memory; none when any of them ends in a bus error. [DESIGN CHOICE: log 6] -/
def hostBytes (mem : HostImg) : Nat → Nat → Option (List Byte)
  | _, 0 => some []
  | a, n + 1 => do
    let b ← hostByte mem a
    let l ← hostBytes mem (a + 1) n
    pure (b :: l)

/-- The size of a page by the level of its leaf (R82). -/
def pageSize (level : Nat) : Nat := if level = 1 then 2 ^ 30 else if level = 2 then 2 ^ 21 else 2 ^ 12

/-- The index of a device address in the table of a level (R82). -/
def levelIndex (level a : Nat) : Nat :=
  if level = 1 then bits a 38 30 else if level = 2 then bits a 29 21 else bits a 20 12

/-- A valid entry breaks the table of R83. -/
def badEntry (level e : Nat) : Bool :=
  let leaf := bit e 3
  bits e 11 5 != 0 || bits e 63 52 != 0 || (level == 3 && !leaf)
    || (leaf && level == 2 && bits e 20 12 != 0) || (leaf && level == 1 && bits e 29 12 != 0)

/-- Walk the tables of a partition from a table at a level down to a leaf; a failure gives its cause code of R90. [DESIGN CHOICE: log 37] -/
def walkFrom (mem : HostImg) (part a : Nat) : List Nat → Nat → Except Nat Leaf
  | [], _ => .error 4
  | level :: rest, table =>
    match hostBytes mem (table + levelIndex level a * 8) 8 with
    | none => .error 6
    | some bs =>
      let e := leNat bs
      if !bit e 0 then .error 1
      else if badEntry level e then .error 4
      else if bit e 3 then
        .ok { part := part, level := level, page := a / pageSize level, host := bits e 51 12 * 4096,
              rd := bit e 1, wr := bit e 2, ns := bit e 4 }
      else walkFrom mem part a rest (bits e 51 12 * 4096)

/-- Walk the tables of a partition from its root (R82). [DESIGN CHOICE: log 37] -/
def Chip.walk (c : Chip) (mem : HostImg) (part a : Nat) : Except Nat Leaf :=
  if 2 ^ 39 ≤ a then .error 5 else walkFrom mem part a [1, 2, 3] (c.xlat.roots.getD part 0)

/-- A leaf maps a device address of a partition. -/
def Leaf.maps (l : Leaf) (part a : Nat) : Bool := l.part == part && l.page == a / pageSize l.level

/-- The cached leaf for a device address. -/
def Chip.cached (c : Chip) (part a : Nat) : Option Leaf := c.xlat.cache.find? fun l => l.maps part a

/-- The locked leaf for a device address (R86, R89). -/
def Chip.lockedLeaf (c : Chip) (part a : Nat) : Option Leaf := c.xlat.cache.find? fun l => l.maps part a && l.locks != 0

/-- Entries of the translation cache (R85). -/
def cacheSize : Nat := 4096

/-- The most entries that may be locked at a time (R86). -/
def lockLimit : Nat := 2048

/-- Put a leaf at the most recently used place; when the cache is full the least recently used unlocked entry leaves (R85). A walk that bypassed the cache does not change the result locked for the same page: that entry stays as it was locked (R86, R88). [DESIGN CHOICE: log 36] -/
def Chip.cacheLeaf (c : Chip) (l : Leaf) : Chip :=
  let same (x : Leaf) : Bool := x.part == l.part && x.level == l.level && x.page == l.page
  let l := match c.xlat.cache.find? fun x => same x && x.locks != 0 with
    | some k => if l.locks = 0 then k else l
    | none => l
  let rest := c.xlat.cache.filter fun x => !(x.part == l.part && x.level == l.level && x.page == l.page)
  let rest := if rest.length < cacheSize then rest else
    match (rest.reverse.find? fun x => x.locks == 0) with
    | some v => rest.filter fun x => x != v
    | none => rest
  c.updXlat fun x => { x with cache := l :: rest }

/-- Two pages overlap. -/
def Leaf.overlaps (l : Leaf) (start size : Nat) : Bool :=
  decide (l.page * pageSize l.level < start + size) && decide (start < (l.page + 1) * pageSize l.level)

/-- Drop the unlocked cached leaves of a partition that overlap a range (R87). [DESIGN CHOICE: log 36] -/
def Chip.dropLeaves (c : Chip) (part start size : Nat) : Chip :=
  c.updXlat fun x => { x with cache := x.cache.filter fun (l : Leaf) =>
    !(l.part == part && l.locks == 0 && l.overlaps start size) }

/-- Locked entries in all, and of one partition (R86, R101). -/
def Chip.lockedCount (c : Chip) : Nat := (c.xlat.cache.filter fun l => l.locks != 0).length
def Chip.lockedOf (c : Chip) (p : Nat) : Nat := (c.xlat.cache.filter fun l => l.locks != 0 && l.part == p).length

/-- Write the lock counts into the HOST registers (R101). -/
def Chip.showLocks (c : Chip) : Chip :=
  let n := c.lockedCount
  let c := c.setFld Fld.HOST_XLAT_LOCKED_COUNT n
  let c := if c.fld Fld.HOST_XLAT_LOCKED_PEAK < n then c.setFld Fld.HOST_XLAT_LOCKED_PEAK n else c
  c.each (List.range 8) fun p c => c.setFld (Fld.HOST_PART_INVAL_STATUS_LOCKED p) (c.lockedOf p)

/-- Take one lock away from an entry. -/
def Chip.unlock (c : Chip) (part : Nat) (keys : List (Nat × Nat)) : Chip :=
  (c.updXlat fun x => { x with cache := x.cache.map fun (l : Leaf) =>
    if l.part == part && keys.contains (l.level, l.page) then { l with locks := l.locks - 1 } else l }).showLocks

/-- Translate an access through the cache or, on a miss, by a walk whose result is cached; `fresh` bypasses the cache (R85, R92). The failure is a cause of R90. [DESIGN CHOICE: log 36] -/
def Chip.translate (c : Chip) (mem : HostImg) (part a : Nat) (write fresh : Bool) : Except Nat (Nat × Chip) :=
  if 2 ^ 39 ≤ a then .error 5 else
  let found : Except Nat Leaf := match (if fresh then none else c.cached part a) with
    | some l => .ok l
    | none => c.walk mem part a
  match found with
  | .error e => .error e
  | .ok l =>
    if write && !l.wr then .error 3
    else if !write && !l.rd then .error 2
    else .ok (l.host + a % pageSize l.level, c.cacheLeaf l)

/-- Count the suspended transfers of a partition into its registers (R91, R101). -/
def Chip.showSusp (c : Chip) (p : Nat) : Chip :=
  let n := (c.xlat.susp.filter fun s => s.part == p).length
  (c.setFlag (Fld.HOST_PART_CTL_SUSPENDED p) (n != 0)).setFld (Fld.HOST_PART_FAULT_NEXT_OUTSTANDING p) (satN 255 n)

/-- Suspend a transfer on a failed translation: it takes the partition's next FAULT_ID and reports XLAT_FAULT (R91). -/
def Chip.suspend (c : Chip) (part source chan a cause ring opcode : Nat) (write : Bool) (cmd : Option Nat) (key : Nat := 0) : Chip :=
  let id := c.fld (Fld.HOST_PART_FAULT_NEXT_FAULT_ID part)
  let s : Susp := { part := part, id := id, source := source, chan := chan, key := key, addr := a, write := write, cmd := cmd }
  let c := c.updXlat fun x => { x with
    susp := x.susp.filter (fun (y : Susp) => !(y.part == part && y.cmd == cmd && (cmd.isSome || (y.chan == chan && y.source == source && y.key == key)))) ++ [s] }
  let c := c.setFld (Fld.HOST_PART_FAULT_NEXT_FAULT_ID part) (id + 1)
  let c := c.showSusp part
  let c := if chan < 40 then c.setFld (Fld.DMA_CHAN_STATUS_STATE chan) 3 else c
  c.eventTo part 0x09 opcode (a % 2 ^ 39)
    (id % 65536 + cause * 65536 + b2n write * 2 ^ 20 + source * 2 ^ 21 + (if source = 0 ∨ source = 2 then ring else 0) * 2 ^ 24)

/-- A suspended transfer is over: resumed to its end, or abandoned. Its channel no longer shows it (R91, R131). -/
def Chip.unsuspend (c : Chip) (s : Susp) : Chip :=
  let c := (c.updXlat fun x => { x with susp := x.susp.filter fun y => y != s }).showSusp s.part
  if s.chan < 40 ∧ c.fld (Fld.DMA_CHAN_STATUS_STATE s.chan) = 3 ∧ !(c.xlat.susp.any fun y => y.chan == s.chan) then
    c.setFld (Fld.DMA_CHAN_STATUS_STATE s.chan) 0
  else c

/-- The start of the next run of a device address: an access does not cross a 4 KiB boundary (R122). -/
def runLength (a n : Nat) : Nat := min n (4096 - a % 4096)

/-- Read `n` bytes at a device address, run by run; a failure gives the device address and cause (0 a bus error of the data read itself). [DESIGN CHOICE: log 6] -/
def Chip.readDev (mem : HostImg) (part : Nat) (fresh : Bool) : Nat → Nat → Nat → Chip → Except (Nat × Nat) (List Byte × Chip)
  | 0, _, _, c => .ok ([], c)
  | fuel + 1, a, n, c =>
    if n = 0 then .ok ([], c)
    else
      match c.translate mem part a false fresh with
      | .error e => .error (a, e)
      | .ok (h, c) =>
        let k := runLength a n
        match hostBytes mem h k with
        | none => .error (a, 0)
        | some bs =>
          match Chip.readDev mem part fresh fuel (a + k) (n - k) c with
          | .error e => .error e
          | .ok (rest, c) => .ok (bs ++ rest, c)

/-- A read request through a port, split into TLPs by the max read request size; image channels use relaxed ordering where the port enables it (R74, R122). [PRESUMED: log 137] -/
def Chip.sendRead (c : Chip) (q : Port) (h n : Nat) (image : Bool := false) : Chip :=
  let k := (c.port q.num).cfg.mrrs
  let relaxed := image && (c.port q.num).cfg.relaxed
  c.each (List.range (cdiv n k)) fun i c =>
    c.send ((if relaxed then Out.relaxedRead else Out.hostRead) q (h + i * k) (min k (n - i * k)))

/-- A write through a port, split into TLPs by the max payload size (R74, R122). [PRESUMED: log 137] -/
def Chip.sendWrite (c : Chip) (q : Port) (h : Nat) (bs : List Byte) : Chip :=
  let k := (c.port q.num).cfg.mps
  c.each (List.range (cdiv bs.length k)) fun i c => c.send (.hostWrite q (h + i * k) ((bs.drop (i * k)).take k))

/-- A read through a port ended in a bus error: where it was a completion timeout, which the manual does not tell, Advanced Error Reporting notes it (R74). [DESIGN CHOICE: log 137] -/
def Chip.noteBusError (c : Chip) (q : Port) : Chip :=
  let (b, c) := c.freeBool
  if b then c.updPort q.num fun x => { x with cfg := { x.cfg with aer := updAt x.cfg.aer 0 fun w => w ||| 0x4000 } } else c

/-- A suspended transfer of a command waits: no retry was asked for, or it is parked (R92, R97). -/
def Chip.waiting (c : Chip) (part slot : Nat) : Bool :=
  c.xlat.susp.any fun s => s.part == part && s.cmd == some slot && (!s.retry || s.parked)

/-- A retry was asked for: the next walk bypasses the cache. -/
def Chip.retrying (c : Chip) (part slot : Nat) : Bool :=
  c.xlat.susp.any fun s => s.part == part && s.cmd == some slot && s.retry

/-- The suspended transfers of a command are over. -/
def Chip.resumed (c : Chip) (part slot : Nat) : Chip :=
  (c.xlat.susp.filter fun s => s.part == part && s.cmd == some slot).foldl Chip.unsuspend c

end Sys2Proof.Machine
end

