-- ==== Sys2Proof/Machine/PageTree.lean ====
section
/-! DEFINITION. The page descriptor tree: its layout, the rules of R138, the locking of its translations, and the arithmetic of admission (R86, R132 to R145, R397).
-/
namespace Sys2Proof.Machine

/-- The root header (R133). -/
structure RootHdr where
  nstn : Nat
  flags : Nat
  feather : Nat
  lines : Nat
  width : Nat
  speed : Nat
  gap : Nat
  crc : Nat
  deriving DecidableEq, Repr

/-- A station entry (R134). -/
structure StnEntry where
  station : Nat
  nblock : Nat
  bandTable : Nat
  blockList : Nat
  clean : Bool
  deriving DecidableEq, Repr

/-- A band-table entry (R135). -/
structure BandEntry where
  size : Nat
  first : Nat
  nblocks : Nat
  deriving DecidableEq, Repr

/-- A block-list entry (R136). -/
structure BlockEntry where
  addr : Nat
  len : Nat
  firstBand : Nat
  lastBand : Nat
  deriving DecidableEq, Repr

/-- The little-endian field of `n` bytes at offset `k` of a byte list. -/
def fieldAt (l : List Byte) (k n : Nat) : Nat := leNat ((l.drop k).take n)

/-- Read the root header. -/
def rootHdr (l : List Byte) : RootHdr :=
  { nstn := fieldAt l 5 1, flags := fieldAt l 6 1, feather := fieldAt l 7 1, lines := fieldAt l 8 4, width := fieldAt l 12 4,
    speed := fieldAt l 16 4, gap := fieldAt l 20 4, crc := fieldAt l 24 4 }

/-- Read a station entry of 32 bytes. -/
def stnEntry (l : List Byte) : StnEntry :=
  { station := fieldAt l 0 1, nblock := fieldAt l 4 4, bandTable := fieldAt l 8 8, blockList := fieldAt l 16 8,
    clean := fieldAt l 1 3 == 0 && fieldAt l 24 8 == 0 }

/-- Cut a byte list into `n` pieces of `k` bytes. -/
def pieces (k : Nat) : Nat → List Byte → List (List Byte)
  | 0, _ => []
  | n + 1, l => l.take k :: pieces k n (l.drop k)

/-- Read a band-table entry. -/
def bandEntry (l : List Byte) : BandEntry := { size := fieldAt l 0 4, first := fieldAt l 4 3, nblocks := fieldAt l 7 1 }

/-- Read a block-list entry. -/
def blockEntry (l : List Byte) : BlockEntry :=
  { addr := fieldAt l 0 8, len := fieldAt l 8 4, firstBand := fieldAt l 12 2, lastBand := fieldAt l 14 2 }

/-- Rules 1, 2, 3 and 7 of R138 for the root: the rule code and the station-entry position; `configured s` says that station s holds a configured tile. Where a tree breaks several rules the code reported is the first of 1, 2, 3, 7, and then 4, 5 or 6 of the first station entry that breaks one. [DESIGN CHOICE: log 141] -/
def rootRules (raw : List Byte) (h : RootHdr) (es : List StnEntry) (configured : Nat → Bool) : Option (Nat × Nat) :=
  let badStn := (List.range es.length).find? fun i =>
    let e := es.getD i { station := 0, nblock := 0, bandTable := 0, blockList := 0, clean := true }
    decide (7 < e.station) || (es.take i).any (fun x => x.station == e.station) || !configured e.station
  if fieldAt raw 0 4 ≠ 0x45474150 ∨ fieldAt raw 4 1 ≠ 1 then some (1, 0)
  else if h.nstn = 0 ∨ 8 < h.nstn then some (2, 0)
  else match badStn with
    | some i => some (2, i)
    | none =>
      if h.lines = 0 ∨ 16777216 < h.lines ∨ h.width = 0 ∨ 158740 < h.width ∨ h.speed < 20000 ∨ 600000 < h.speed
          ∨ 16777215 < h.gap ∨ 1 < h.feather then some (3, 0)
      else if 4 ≤ h.flags ∨ fieldAt raw 28 36 ≠ 0 then some (7, 0)
      else match (List.range es.length).find? fun i => !((es[i]?).map (·.clean)).getD true with
        | some i => some (7, i)
        | none => none

/-- A band entry that runs past the block list (rule 4). -/
def bandOver (nblock : Nat) (b : BandEntry) : Bool := decide (nblock < b.first + b.nblocks)

/-- The blocks stand in band order, every band is covered contiguously, and no block of several bands holds part of one (rule 5). -/
def blocksOrdered (bands : List BandEntry) (blocks : List BlockEntry) : Bool :=
  let nb := bands.length
  let d : BlockEntry := { addr := 0, len := 0, firstBand := 0, lastBand := 0 }
  let order := (List.range blocks.length).all fun i =>
    let k := blocks.getD i d
    let prev := blocks.getD (i - 1) d
    decide (k.firstBand ≤ k.lastBand)
      && (if i = 0 then k.firstBand == 0
          else k.firstBand == prev.lastBand + 1 || (k.firstBand == prev.lastBand && k.firstBand == k.lastBand && prev.firstBand == prev.lastBand))
  let last := blocks.getD (blocks.length - 1) d
  let cover := (List.range nb).all fun b =>
    match bands[b]? with
    | none => false
    | some e =>
      decide (0 < e.nblocks) && ((List.range blocks.length).all fun i =>
        let k := blocks.getD i d
        (decide (k.firstBand ≤ b) && decide (b ≤ k.lastBand)) == (decide (e.first ≤ i) && decide (i < e.first + e.nblocks)))
  order && cover && last.lastBand + 1 == nb && !blocks.isEmpty

/-- The bands' sizes fit the blocks they occupy (rule 6). -/
def sizesFit (bands : List BandEntry) (blocks : List BlockEntry) : Bool :=
  let multi := blocks.all fun k =>
    decide (sumN (((bands.drop k.firstBand).take (k.lastBand + 1 - k.firstBand)).map fun b => if b.nblocks = 1 then b.size else 0) ≤ k.len)
  let span := bands.all fun b => decide (b.size ≤ sumN (((blocks.drop b.first).take b.nblocks).map (·.len))) && decide (1 ≤ b.size)
  multi && span

/-- The rules that remain after the checksum: 4, 5 and 6 of R138. [DESIGN CHOICE: log 51] -/
def treeRules (i : Nat) (bands : List BandEntry) (blocks : List BlockEntry) : Option (Nat × Nat) :=
  if bands.any (bandOver blocks.length) then some (4, i)
  else if !blocksOrdered bands blocks then some (5, i)
  else if !sizesFit bands blocks then some (6, i)
  else none

/-- An arming that fails on a translation: XLAT_FAULT, whose DETAIL names the device address and the cause (R86). [DESIGN CHOICE: log 50] -/
def armFault (a cause : Nat) : Nat × Nat := (0x09, (Config.armFault a cause).toNat)

/-- Lock the translation of a device address for a page: a result already locked for an armed page is counted once more, otherwise the walk starts at the root and its result replaces every unlocked one that overlaps it (R86). The failure is a status and its DETAIL. -/
def Chip.lockAt (c : Chip) (mem : HostImg) (part a : Nat) (keys : List (Nat × Nat)) :
    Except (Nat × Nat) (Leaf × List (Nat × Nat) × Chip) :=
  if 2 ^ 39 ≤ a then .error (armFault a 5) else
  match c.lockedLeaf part a with
  | some l =>
    if keys.contains (l.level, l.page) then .ok (l, keys, c)
    else .ok (l, (l.level, l.page) :: keys, c.updXlat fun x => { x with cache := x.cache.map fun (y : Leaf) =>
      if y = l then { y with locks := y.locks + 1 } else y })
  | none =>
    match c.walk mem part a with
    | .error e => .error (armFault a e)
    | .ok l =>
      if !l.rd then .error (armFault a 2)
      else if lockLimit ≤ c.lockedCount then .error (0x0A, 0)
      else
        let c := c.dropLeaves part (l.page * pageSize l.level) (pageSize l.level)
        .ok (l, (l.level, l.page) :: keys, c.cacheLeaf { l with locks := 1 })

/-- Lock every page that a range of device addresses touches. [DESIGN CHOICE: log 37] -/
def Chip.lockRange (mem : HostImg) (part : Nat) : Nat → Nat → Nat → List (Nat × Nat) → Chip →
    Except ((Nat × Nat) × List (Nat × Nat) × Chip) (List (Nat × Nat) × Chip)
  | 0, _, _, keys, c => .ok (keys, c)
  | fuel + 1, a, n, keys, c =>
    if n = 0 then .ok (keys, c)
    else match c.lockAt mem part a keys with
      | .error e => .error (e, keys, c)
      | .ok (l, keys, c) =>
        let next := (l.page + 1) * pageSize l.level
        Chip.lockRange mem part fuel next (a + n - next) keys c

/-- Read a range through the locked translations, run by run. -/
def Chip.readRuns (c : Chip) (mem : HostImg) (part : Nat) : Nat → Nat → Nat → Except Nat (List Byte)
  | 0, _, _ => .ok []
  | fuel + 1, a, n =>
    if n = 0 then .ok []
    else
      let k := runLength a n
      match (c.lockedLeaf part a).bind fun l => hostBytes mem (l.host + a % pageSize l.level) k with
      | none => .error a
      | some bs => (c.readRuns mem part fuel (a + k) (n - k)).map (bs ++ ·)

/-- Read a range through the locked translations; a read that fails ends in a bus error at a device address, which counts as a failed read of the walk (R86, R90). [DESIGN CHOICE: log 37] -/
def Chip.readLocked (c : Chip) (mem : HostImg) (part a n : Nat) : Except (Nat × Nat) (List Byte) :=
  match c.readRuns mem part (n / 4096 + 2) a n with
  | .ok bs => .ok bs
  | .error at' => .error (armFault at' 6)

/-- The descriptors of a station's image channel, one per data block (R125). -/
def imageDescs (blocks : List BlockEntry) : List ImgDesc :=
  (List.range blocks.length).filterMap fun i => (blocks[i]?).map fun k =>
    let next := blocks[i + 1]?
    { addr := k.addr, len := k.len, band := k.firstBand,
      lastBand := (match next with | none => true | some n => n.firstBand != k.lastBand),
      lastPage := next.isNone }

/-- The largest total of any 4 consecutive sizes (R143). -/
def maxFour : List Nat → Nat
  | [] => 0
  | a :: l => max (sumN ((a :: l).take 4)) (maxFour l)

/-- The image capacity of a port in bytes per second: 12 of 16 grants of its usable read rate (R144). -/
def imageCapacity (rate width : Nat) : Nat :=
  (if rate = 1 then 150000000 else if rate = 2 then 300000000 else if rate = 3 then 600000000 else if rate = 4 then 1200000000 else 0) * width

/-- What admission knows of a page and of the engine (R143). Half-periods are in 1/64 ns, the die temperature in 1/16 °C, θ in 1/256 °C/W. -/
structure Admission where
  speed : Nat
  halfPeriods : List (Nat × Nat)
  sumB : Nat
  capacity : Nat
  temp : Int
  theta : Nat
  /-- P_now in µW. -/
  powerNow : Nat
  stations : Nat
  tiles : Nat
  follow : Bool
  followLimit : Option Nat

/-- A speed no check reaches. -/
def unbounded : Nat := 1000000000

/-- The highest speed of check 1 for a tile, µm/s: 14 × sweep rate × line pitch (R143). -/
def coverSpeed (th : Nat) : Nat := if th = 0 then 0 else 14 * 64000000000 * 127 / (6 * th)

/-- The highest speed of check 2, µm/s (R143). -/
def bandSpeed (a : Admission) : Nat := if a.sumB = 0 then unbounded else 4 * a.capacity * 1024 * 127 / (30 * a.sumB)

/-- The highest speed of check 3 for a tile, µm/s (R143). -/
def linkSpeed (th : Nat) : Nat :=
  if th = 0 then 0 else
  ((54545400000 * (th : Int) - 40960 * 64000000000) * 127 / (6 * 1265664 * (th : Int))).toNat

/-- The highest speed of check 4, µm/s (R143, R397). -/
def thermalSpeed (a : Admission) : Nat :=
  let p := a.theta * (1000 * a.stations + 95 * a.tiles)
  if a.theta = 0 then (if a.temp ≤ 1520 then unbounded else 0)
  else if p = 0 then (if a.temp * 16000000 ≤ 1520 * 16000000 + a.theta * a.powerNow then unbounded else 0)
  else (((1520 - a.temp) * 16000000 + a.theta * a.powerNow) * 600 / (p : Int)).toNat

/-- Every applicable check with its highest speed and the tile it names (R143, R145). -/
def admissionChecks (a : Admission) : List (Nat × Nat × Nat) :=
  let least (f : Nat → Nat) : Nat × Nat :=
    a.halfPeriods.foldl (fun b x => if f x.2 < b.2 then (x.1, f x.2) else b) (0, unbounded)
  let k1 := least coverSpeed
  let k3 := least linkSpeed
  [(1, k1.2, k1.1), (2, bandSpeed a, 0), (3, k3.2, k3.1), (4, thermalSpeed a, 0)]
    ++ (if a.follow then [(5, a.followLimit.getD 0, 0)] else [])

/-- The DETAIL of ADMIT_FAIL, or none when every check passes (R145). -/
def admitPage (a : Admission) : Option Nat :=
  let ks := admissionChecks a
  match ks.find? fun k => decide (k.2.1 < a.speed) with
  | none => none
  | some k =>
    let best := ks.foldl (fun b x => min b x.2.1) unbounded
    some ((if best < 20000 then 0 else best) + k.1 * 2 ^ 20 + k.2.2 * 2 ^ 24)

/-- Tiles a page uses at a station, by position: those whose range placed by the pitch overlaps the page, and both sides of every seam inside it (R142). [DESIGN CHOICE: log 52] -/
def usesPosition (pitch overlap width i : Nat) : Bool :=
  decide (i * pitch < width) || (decide (0 < i) && decide (i * pitch - overlap / 2 < width))

end Sys2Proof.Machine
end

