-- ==== Sys2Proof/Machine/Lanes.lean ====
section
/-! DEFINITION. Decoder lanes: which page each decodes, the decoding of a band, and its lines on their way into the tile band buffers (R27, R135, R136, R141, R160 to R177, R186).
-/
namespace Sys2Proof.Machine

/-- Where a band begins in the bytes that a station's descriptors deliver (R135, R136). [DESIGN CHOICE: log 58] -/
def PageStn.bandStart (x : PageStn) (b : Nat) : Nat :=
  let i := match x.descs.findIdx? (fun d => d.band == b) with
    | some i => i
    | none => (x.descs.filter fun d => decide (d.band < b)).length - 1
  let f := match x.descs[i]? with | some d => d.band | none => 0
  sumN ((x.descs.take i).map (·.len)) + sumN ((x.bands.drop f).take (b - f))

/-- The page a lane decodes, or takes up now: pages of its station in arming order (R141). [DESIGN CHOICE: log 58] -/
def Chip.lanePage (c : Chip) (s : Nat) : Option Page :=
  let l := c.lane s
  match l.page with
  | some q => c.pageOf q
  | none => c.running.find? fun p => decide (l.done < p.seq) && p.stns.any fun x => x.station == s

/-- Show a lane in its registers (R186). [DESIGN CHOICE: log 58] -/
def Chip.showLane (c : Chip) (s state band block line k : Nat) : Chip :=
  let c := (c.setFld (Fld.CODEC_LANE_STATUS_STATE s) state).setFld (Fld.CODEC_LANE_STATUS_BAND s) band
  let c := (c.setFld (Fld.CODEC_LANE_STATUS_BLOCK s) block).setFld (Fld.CODEC_LANE_LINE_LINE s) (line % 256)
  c.setFld (Fld.CODEC_LANE_LINE_K_RUN s) k

/-- The decoded lines of a station's page. -/
def Chip.setDecoded (c : Chip) (p : Page) (s n : Nat) : Chip :=
  c.updPage p.seq fun q => { q with decoded := updAt q.decoded ((q.stns.findIdx? fun x => x.station == s).getD 0) fun _ => n }

/-- A Siphon error of a lane: it stops, SIPHON_ERROR is written and the page aborts (R176, R177). [DESIGN CHOICE: log 58] -/
def Chip.laneError (c : Chip) (s : Nat) (p : Page) (b : Nat) (e : SiphonErr) (k : Nat) : Chip :=
  let c := c.updLane s fun l => { l with stopped := true }
  let c := (c.setDecoded p s (256 * b + e.undecoded)).showLane s 2 b e.block e.undecoded k
  let c := (c.setFld (Fld.CODEC_ERR_INFO_CODE s) e.code).setFld (Fld.CODEC_ERR_INFO_BLOCK s) e.block
  let c := (c.setFld (Fld.CODEC_ERR_INFO_BAND s) b).setFld (Fld.CODEC_ERR_POS_DOT s) e.dot
  let c := (c.setFld (Fld.CODEC_ERR_POS_LINE s) e.line).raise (Reg.CODEC_EVENT, s)
  let c := c.event Rc.SIPHON_ERROR (b + e.block % 512 * 65536 + e.line % 512 * 2 ^ 32) (e.code + s * 256 + e.dot * 2048)
  c.abortPage p.seq 3 s true

/-- Lines of a station's band buffers that a tile still has to plan: those of its pages that are not yet planned by each tile that writes them (R27). [DESIGN CHOICE: log 58] -/
def Chip.keptLines (c : Chip) (s : Nat) : List (Nat × Nat × List Nat) :=
  (c.lane s).buffer.filter fun e => (c.pageOf e.1).any fun p => p.tiles.any fun t =>
    c.stationOf t == s && !p.lost.contains t
      && (decide ((c.tile t).planPage < e.1) || ((c.tile t).planPage == e.1 && decide ((c.tile t).planLine ≤ e.2.1)))

/-- A lane goes on with the lines of its band as far as the band buffers, of 32 lines, have room; at the band's end its error is found, or the next band or page begins. A lane whose page is cut decodes no more (R27, R141, R177, R186). [DESIGN CHOICE: log 58] -/
def Chip.feedLane (c : Chip) (s : Nat) : Chip :=
  let l := c.lane s
  match l.page.bind c.pageOf with
  | none => c
  | some p =>
    if p.cut.isSome || l.stopped || (l.pend.isEmpty && l.pendErr.isNone) then c
    else
      let kept := c.keptLines s
      let n := 32 - kept.length
      let came := l.pend.take n
      let left := l.pend.drop n
      let l := { l with buffer := kept ++ came.map (fun (y : Nat × List Nat × LineEnd) => (p.seq, y.1, y.2.1)), pend := left }
      let b := l.band
      let c := match came.getLast? with
        | some (line, _, e) => (c.setDecoded p s (line + 1)).showLane s 1 b e.block (line + 1) e.k
        | none => c
      let l := { l with decoded := (came.getLast?).elim l.decoded fun y => y.1 + 1 }
      if !left.isEmpty then c.updLane s fun _ => l
      else
        match l.pendErr with
        | some (e, k) => (c.updLane s fun _ => { l with pendErr := none }).laneError s p b e k
        | none =>
          if cdiv p.lines 256 ≤ b + 1 then
            let c := c.updLane s fun _ => { done := p.seq, buffer := l.buffer, input := l.input.filter fun e => e.1 != p.seq }
            c.showLane s 0 b 0 0 l.kRun
          else (c.updLane s fun _ => { l with band := b + 1 }).showLane s 1 (b + 1) 0 0 l.kRun

/-- The lines of a decoded band, in order, as they wait for room in the band buffers. -/
def BandDec.waiting (d : BandDec) (b : Nat) : List (Nat × List Nat × LineEnd) :=
  (d.lines.reverse.zipIdx).map fun y => (256 * b + y.2, y.1)

/-- SIPHON_BAND_DECODE: a lane decodes the next band of its page once the band's bytes have arrived and the band before has gone into the band buffers, and fills these (R27, R160 to R178). [DESIGN CHOICE: log 58] -/
def Chip.bandDecode (c : Chip) (s : Nat) : Chip :=
  match c.lanePage s with
  | none => c
  | some p =>
    match p.stns.find? fun x => x.station == s with
    | none => c
    | some x =>
      let l := c.lane s
      let l : Lane := if l.page.isSome then l else { done := l.done, buffer := l.buffer, input := l.input, page := some p.seq }
      let b := l.band
      let bands := cdiv p.lines 256
      let got := (l.input.find? fun e => e.1 == p.seq).elim [] (·.2)
      let start := x.bandStart b
      let size := x.bands.getD b 0
      if p.cut.isSome || l.stopped || decide (bands ≤ b) || !l.pend.isEmpty || l.pendErr.isSome
          || decide (l.taken + got.length < start + size) then c
      else
        let total := min 256 (p.lines - 256 * b)
        let (d, err) := match decodeBand p.width total b (b == 0) l.prev1 l.prev2 l.kRun ((got.drop (start - l.taken)).take size) with
          | .error (e, d) => (d, some (e, d.k))
          | .ok d => (d, none)
        (c.updLane s fun _ => { l with
          prev1 := d.up, prev2 := d.up2, kRun := d.k, taken := start + size, pend := d.waiting b, pendErr := err
          input := (l.input.filter fun e => e.1 != p.seq) ++ [(p.seq, got.drop (start - l.taken + size))] }).feedLane s

end Sys2Proof.Machine
end

