-- ==== Sys2Proof/Machine/Sweep.lean ====
section
/-! DEFINITION. The sweep scheduler: prediction, planning, cuts, trims, limits and refinement (R187 to R213, R217, R221).
-/
namespace Sys2Proof.Machine

/-- The distance from sweep number b to a, modulo 2^32 (R188). -/
def sweepDist (a b : Nat) : Int := signed 32 (pattern 32 ((a : Int) - b))

/-- The distance from position b to a in 1/65,536 sub-line, modulo 2^64 (R6, R196). -/
def posDist (a b : Nat) : Int := signed 64 (pattern 64 ((a : Int) - b))

/-- The direction of a sweep, by the latest stamped sweep an even number of sweeps away (R188). [DESIGN CHOICE: log 61] -/
def Tile.dirOf (x : Tile) (k : Nat) : Option Nat :=
  [0, 1].find? fun d => match x.stamps.getD d none with
    | some (j, _) => sweepDist k j % 2 == 0
    | none => false

/-- The predicted mid-instant of a sweep in 1/128 ns: m_j + (k − j) × T_h (R190). [DESIGN CHOICE: log 61] -/
def Tile.midOf (x : Tile) (k : Nat) : Option Nat :=
  match x.dirOf k with
  | none => none
  | some d =>
    match x.stamps.getD d none with
    | none => none
    | some (j, m) =>
      if x.halves.isEmpty then none
      else some ((m : Int) + sweepDist k j * (sumN x.halves : Nat) / (x.halves.length : Nat)).toNat

/-- The predicted leading instant of a sweep in 1/128 ns. [DESIGN CHOICE: log 61] -/
def Chip.leadOf (c : Chip) (t k : Nat) : Option Nat :=
  let x := c.tile t
  match x.dirOf k, x.midOf k with
  | some d, some m => some (m - c.spanOf t d)
  | _, _ => none

/-- The sweep whose predicted leading instant lies nearest to now: the sweep that begins (R195). [DESIGN CHOICE: log 61] -/
def Chip.sweepAt (c : Chip) (now t : Nat) : Option Nat :=
  let x := c.tile t
  match x.lastMid with
  | none => none
  | some (j, _) =>
    match c.leadOf t j with
    | none => none
    | some lead => some (pattern 32 ((j : Int) + rdivI (((128 * now : Nat) : Int) - lead) (sumN x.halves / x.halves.length)))

/-- The latched position of a channel in 1/65,536 count at an instant in 1/128 ns, interpolated with the speed estimate (R191, R321, R474). -/
def Chip.chanAhead (c : Chip) (ch m : Nat) : Int :=
  let a := c.seen ch
  match a.last with
  | none => a.pos * 65536
  | some t0 => a.pos * 65536 + a.speed * ((m : Int) - (128 * t0 : Nat)) / 128000000000

/-- The ripple model of a station: the lowest-numbered enabled MODEL table that names it (R191, R364). [DESIGN CHOICE: log 66] -/
def Chip.rippleTable (c : Chip) (s : Nat) : Option Nat :=
  (List.range 16).find? fun j => c.flag (Fld.WINDLASS_RC_CFG_EN j) && c.fld (Fld.WINDLASS_RC_CFG_MODE j) == 1
    && c.fld (Fld.WINDLASS_RC_CFG_STN j) == s

/-- Bin i of a MODEL table in 2^−32 sub-line (R364). -/
def Chip.rippleBin (c : Chip) (j i : Nat) : Int :=
  F32.floorScaled (BitVec.ofNat 32 (c.tabNat true (0xD0000 + j * 0x1000 + 4 * (i % 1024)) 4)) 32

/-- Where a drum channel stands in the bins of the model at an instant: the bin and the way into it, of CPR × 65,536 parts; none while the channel has no reference. -/
def Chip.rippleAt (c : Chip) (ch m : Nat) : Option (Nat × Nat) :=
  let n := c.chanCpr ch * 65536
  if n = 0 ∨ !(c.seen ch).ref then none
  else
    let a := (c.chanAhead ch m % (n : Int)).toNat * 1024
    some (a / n, a % n)

/-- The ripple model of a station at an instant, in 1/65,536 sub-line: 1,024 bins, linear between bins (R191, R364). [DESIGN CHOICE: log 66] -/
def Chip.ripple (c : Chip) (s m : Nat) : Int :=
  match c.rippleTable s with
  | none => 0
  | some j =>
    let ch := c.fld (Fld.WINDLASS_RC_CFG_CH j)
    match c.rippleAt ch m with
    | none => 0
    | some (b, f) =>
      let y := c.rippleBin j b
      (y + (c.rippleBin j (b + 1) - y) * f / (c.chanCpr ch * 65536 : Nat)) / 65536

/-- The rate at which the ripple model changes at an instant, in 1/65,536 sub-line per s: the slope of its bin times the speed of the channel (R191, R199). [DESIGN CHOICE: log 66] -/
def Chip.rippleRate (c : Chip) (s m : Nat) : Int :=
  match c.rippleTable s with
  | none => 0
  | some j =>
    let ch := c.fld (Fld.WINDLASS_RC_CFG_CH j)
    match c.rippleAt ch m with
    | none => 0
    | some (b, _) => (c.rippleBin j (b + 1) - c.rippleBin j b) * (c.seen ch).speed * 1024 / (65536 * (c.chanCpr ch * 65536 : Nat))

/-- The predicted rate of a station's write position at an instant, in 1/65,536 sub-line per s, with the ripple model where it is in force (R199). -/
def Chip.predictRate (c : Chip) (s m : Nat) (rip : Bool) : Int := c.writeRate s + if rip then c.rippleRate s m else 0

/-- The predicted write position of a station at an instant in 1/128 ns, in 1/65,536 sub-line modulo 2^64, with the ripple model where it is in force, from the latched copies (R191, R192, R224, R474). [DESIGN CHOICE: log 66] -/
def Chip.predictW (c : Chip) (s m : Nat) (rip : Bool) : Nat :=
  let x := c.stn s
  let y := c.seen x.ch
  let moved := match y.last with
    | none => 0
    | some t0 => y.speed * x.scale * ((m : Int) - (128 * t0 : Nat)) / (128000000000 * 65536)
  pattern 64 ((x.drumCopy : Int) + moved + x.align + if rip then c.ripple s m else 0)

/-- The next lines of a tile that it has not planned, at most `n`, in increasing due position over the pages that run (R193, R196, R203). [DEDUCED: log 62] -/
def Chip.nextLines (c : Chip) (t n : Nat) : List PlanLine :=
  let x := c.tile t
  let s := c.stationOf t
  let reg := c.viewReg t (Reg.STATION_REG_OFFSET s)
  let pos := c.reg (Reg.TILE_POS_OFFSET t)
  ((c.running.filter fun p => p.tiles.contains t && !p.lost.contains t && decide (x.planPage ≤ p.seq)).flatMap fun p =>
    let from_ := if x.planPage = p.seq then x.planLine else 0
    (rangeFrom from_ (min n (p.total - from_))).map fun l =>
      ({ page := p.seq, line := l, raw := p.due s l, due := c.tileDue t p l reg pos * 65536 } : PlanLine)).take n

/-- How many line positions a line lies beyond the first of a sweep: gap positions between pages count (R193, R196). [DEDUCED: log 62] -/
def lineIndex (first l : PlanLine) : Nat := (posDist l.due first.due / (64 * 65536)).toNat

/-- Line positions of a sweep whose lines lie before a position. [DEDUCED: log 62] -/
def linesBefore (ls : List PlanLine) (end_ : Nat) : List PlanLine := ls.filter fun l => decide (posDist l.due end_ < 0)

/-- The end of the interval of a sweep after the nearest cut of a waiting commit (R210). `e0` is the window base, `end2` the natural end of the next sweep. [DEDUCED: log 63] -/
def applyCut (ls : List PlanLine) (e0 end_ end2 : Nat) (cuts : List Nat) : Nat :=
  match ls with
  | [] => end_
  | first :: _ =>
    let ahead := cuts.filter fun k => decide (0 < posDist k first.due)
    match ahead.foldl (fun (b : Option Nat) k => match b with
        | none => some k
        | some j => if posDist k j < 0 then some k else some j) none with
    | none => end_
    | some k =>
      if 0 < posDist end_ k then k
      else
        let room := min 14 (16 - e0)
        let next := ls.find? fun l => decide (0 ≤ posDist l.due end_) || decide (room ≤ lineIndex first l)
        let old := linesBefore ls k
        let fits := old.all fun l => decide (lineIndex first l < room)
        match next, ls.find? fun l => decide (0 ≤ posDist l.due k) with
        | some f, some g =>
          if posDist f.due k < 0 ∧ posDist g.due end2 < 0 ∧ fits then k else end_
        | _, _ => end_

/-- The interval, window, lines and trim of a sweep (R196): e0, the lines with their emitters, the window's size, the unclamped trim, and whether lines were left over. [DEDUCED: log 62] -/
def planWindow (ls : List PlanLine) (w end_ end2 : Nat) (cuts : List Nat) : Nat × List PlanLine × Nat × Int × Bool :=
  match ls with
  | [] => (0, [], 0, 0, false)
  | first :: _ =>
    let u := posDist first.due w
    let b := (u + 32 * 65536) / (64 * 65536)
    let e0 := b.toNat
    let d := if b < 0 then u else u - 64 * 65536 * b
    if 15 < e0 then (15, [], 0, d, false)
    else
      let mine := linesBefore ls (applyCut ls e0 end_ end2 cuts)
      let room := min 14 (16 - e0)
      let got := (mine.filter fun l => decide (lineIndex first l < room)).map fun l => { l with emitter := e0 + lineIndex first l }
      (e0, got, (got.getLast?).elim 0 (fun l => l.emitter + 1 - e0), d, decide (got.length < mine.length))

/-- The reach of the trim: ±96 sub-lines (R201). -/
def trimReach : Int := 96 * 65536

/-- The least and greatest placement step of a pulse edge of a sweep, with the cross shift, EMIT_X, the centre and the edge-window shift of its pulse (R201, R218). -/
def Chip.edgeSpan (c : Chip) (t : Nat) (k : Plan) (ws : List (Nat × List DotPulse)) : Option (Int × Int) :=
  ws.foldl (fun b w => w.2.foldl (fun (b : Option (Int × Int)) q =>
    let (_, lo, hi) := c.pulseEdges t k.dir k.cross w.1 q.1 q.2.1 q.2.2
    some (b.elim (lo, hi) fun e => (min e.1 lo, max e.2 hi))) b) none

/-- The outermost edge times of a sweep relative to its mid-instant, in 1/64 ns, scaled by the measured span; none in a sweep without pulses (R201, R218, R235). -/
def Chip.edgeTimes (c : Chip) (t : Nat) (k : Plan) : List Int :=
  let span := if (c.tile t).spanSeen.getD k.dir false then c.fld (Fld.TILE_SPAN_MEAS_SPAN t k.dir) else k.nom
  if k.nom = 0 then [] else k.edges.map fun a => (2 * (a : Int) - k.nom) * (span : Nat) / (2 * k.nom : Nat)

/-- The ramp: ρ = −v_W in 1/65,536 sub-line per s, reduced until |δ + ρτ| stays within 544 sub-lines at every edge; whether it was reduced, and the residual slant in 1/65,536 sub-line (R199, R201). -/
def rampFor (delta v : Int) (edges : List Int) : Int × Bool × Int :=
  let rho := -v
  let bound (tau : Int) : Int :=
    let room := 544 * 65536 - (if 0 < rho * tau then delta else -delta)
    room * 64000000000 / (tau.natAbs : Int)
  let top := (edges.filter (· != 0)).foldl (fun (m : Int) tau => min m (bound tau)) (rho.natAbs : Int)
  let top := max 0 top
  let far := maxN (edges.map Int.natAbs)
  if top = (rho.natAbs : Int) then (rho, false, 0)
  else (if rho < 0 then -top else top, true, ((rho.natAbs : Int) - top) * far / 64000000000)

/-- Send a TRIM_WAVE (R199, R276). -/
def Chip.sendTrim (c : Chip) (now t : Nat) (k : Plan) : Chip :=
  let delta := pattern 16 (clampI (-6144) 6144 (rdivI k.delta 1024))
  let rho := pattern 32 (satS 32 (rdivI (k.rho * 65536) 1000000000))
  let c := c.sumpRec none 0x10 t now [BitVec.ofNat 32 k.sweep,
    BitVec.ofNat 32 (k.dir + 2 * k.bank + 4 * b2n k.cal.isSome + 8 * b2n k.blank + 256 * (k.e0 + 16 * k.n) + 65536 * pattern 16 k.cross),
    BitVec.ofNat 32 ((k.lines.head?).elim 0 (·.line) % 2 ^ 24), BitVec.ofNat 32 (delta + b2n k.refined * 65536), BitVec.ofNat 32 rho]
  c.sendMsg now t 0x03 0 (leBytes 4 k.sweep ++ leBytes 2 delta ++ leBytes 2 (b2n k.refined) ++ leBytes 4 rho
    ++ leBytes 4 (k.nom / 2))

/-- A run of placement limits of a tile ends with its record (R205). [DESIGN CHOICE: log 64] -/
def Chip.endLimit (c : Chip) (t : Nat) : Chip :=
  match (c.tile t).limit with
  | none => c
  | some r =>
    let worst := pattern 16 (satS 16 (rdivI r.worst 65536))
    let c := c.updTile t fun x => { x with limit := none }
    let c := (c.bump (Fld.TILE_LIMIT_RUNS t)).setFld (Fld.TILE_LIMIT_WORST t) worst
    c.event Rc.PLACEMENT_LIMIT (r.line % 2 ^ 24 + t * 2 ^ 24 + r.line / 2 ^ 24 % 2 * 2 ^ 30 + worst * 2 ^ 32 + satN 65535 r.lines * 2 ^ 48)
      ((c.pageOf r.page).elim 0 fun p => p.tag % 2 ^ 32)

/-- A sweep's placement is judged: at the limit it continues or opens a run, whose event it is, else it ends one (R205). [DESIGN CHOICE: log 64] -/
def Chip.judgeLimit (c : Chip) (t : Nat) (k : Plan) : Chip :=
  match k.lines with
  | [] => if k.limited then c else c.endLimit t
  | l :: _ =>
    let c := c.when ((c.tile t).limit.any fun r => !k.limited || r.page != l.page) fun c => c.endLimit t
    if !k.limited then c else
    let e := posDist k.w l.due + 64 * 65536 * l.emitter + k.delta
    let e := if e < 0 then e - k.resid else e + k.resid
    let r : LimitRun := ((c.tile t).limit).getD { line := l.line, page := l.page, worst := e, lines := 0 }
    let c := c.when (c.tile t).limit.isNone fun c => c.raise (Ev.TILE_PLACE_EVENT_PLACEMENT_LIMIT t)
    c.updTile t fun x => { x with limit := some { r with
      worst := if r.worst.natAbs < e.natAbs then e else r.worst, lines := r.lines + k.lines.length } }

/-- The send horizons of the pages of a sweep's lines, and FRONT of their stations (R206). -/
def Chip.moveHorizon (c : Chip) (ls : List PlanLine) : Chip :=
  if ls.isEmpty then c else
  (c.each ls fun l c => c.updPage l.page fun p =>
    let h := beltAdd l.raw 64
    if beltAtOrAfter h p.horizon then { p with horizon := h } else p).showFronts

/-- The commits of which a tile has not taken its part, with the units it is owed for (R209, R213). [DESIGN CHOICE, DEDUCED: log 30, 63] -/
def Chip.owedCommits (c : Chip) (t : Nat) : List (Commit × List Nat) :=
  (c.commits.map fun m => (m, [16 + t, 8 + c.stationOf t].filter fun u => (c.tilesOwed m u).contains t)).filter fun e => !e.2.isEmpty

/-- A commit's placement banks of a tile have been acknowledged by its head (R217). [DESIGN CHOICE: log 30] -/
def Chip.banksAcked (c : Chip) (t : Nat) (m : Commit) : Bool :=
  [0, 1].all fun d => !m.entries.contains (.table (0x1000 + 2 * t + d)) || c.bankReady t (c.idleBank t d)

/-- A tile takes the commits whose point it has reached, from the sweep it plans now; one that also names a move-boundary profile waits until T is reached, where a busy axis still ends it (R65, R67, R210, R213, R217). `instant` is the predicted leading instant of that sweep in ns. [DESIGN CHOICE: log 30] -/
def Chip.takeCommits (c : Chip) (now t instant : Nat) : Chip :=
  (c.owedCommits t).foldl (fun (c : Chip) e =>
    let ready := match e.1.trig with
      | .belt k => match c.nextLines t 1 with
        | l :: _ => beltAtOrAfter (l.due / 65536) k && (e.1.fired || !e.1.entries.any Staged.onMove)
        | [] => e.1.fired
      | _ => e.1.fired
    if ready && c.banksAcked t e.1 then e.2.foldl (fun (c : Chip) u => c.tileSwitched now e.1.part u t instant) c else c) c

/-- The cuts of a tile: the triggers of the AT_BELT commits that affect it and that it has not taken (R209). [DEDUCED: log 63] -/
def Chip.cutsOf (c : Chip) (t : Nat) : List Nat :=
  (c.owedCommits t).filterMap fun e => match e.1.trig with
    | .belt k => some (k * 65536)
    | _ => none

/-- The lines from which a tile may plan its next sweep: none while the first of them lies at or after a cut that it has not taken (R209, R210, R217). [DESIGN CHOICE: log 30] -/
def Chip.openLines (c : Chip) (t n : Nat) : List PlanLine :=
  let ls := c.nextLines t n
  match ls with
  | [] => []
  | l :: _ => if (c.cutsOf t).any fun k => decide (0 ≤ posDist l.due k) then [] else ls

/-- A tile is lost for a page that runs and has not rejoined (R208). [DESIGN CHOICE: log 65] -/
def Chip.lostNow (c : Chip) (t : Nat) : Bool :=
  bit (c.tile t).kill 2 && c.running.any fun p => p.tiles.contains t && p.lost.contains t

/-- A placement bank in use of a tile has failed its check (R216). [DESIGN CHOICE: log 65] -/
def Chip.placeBad (c : Chip) (t : Nat) : Bool := c.bankBad (0x1000 + 2 * t) || c.bankBad (0x1001 + 2 * t)

/-- TILE.SCHED_STATUS.STATE follows from the link, the mirror, the arms, the banks with their acknowledgement and the loss of the tile (R208, R213, R216, R217, R223, R470). [DESIGN CHOICE: log 65] -/
def Chip.refreshSched (c : Chip) (t : Nat) : Chip :=
  let x := c.tile t
  let ready := c.link t == Lk.up && x.locked && x.stamps.all Option.isSome && !x.halves.isEmpty && x.primed
    && c.flag Fld.SAFETY_STATUS_LEN_ARM && c.fast && c.inUseReady t
  let st := if c.placeBad t then 3 else if c.lostNow t then 2 else if ready && !bit x.kill 2 then 1 else 0
  if c.fld (Fld.TILE_SCHED_STATUS_STATE t) = st then c else c.setFld (Fld.TILE_SCHED_STATUS_STATE t) st

/-- Send a planned sweep: SWEEP_PLAN, the planned TRIM_WAVE, DOT_WORDS (R195, R274). -/
def Chip.sendPlan (c : Chip) (now t : Nat) (k : Plan) (ws : List (Nat × List DotPulse)) : Chip :=
  let msgs := dotWordsMsgs (k.sweep % 65536) ws
  let c := c.sendMsg now t 0x01 0 (leBytes 4 k.sweep ++ leBytes 1 (k.dir + 2 * k.bank + 4 * b2n k.cal.isSome + 8 * b2n k.blank)
    ++ leBytes 1 (k.e0 + 16 * k.n) ++ leBytes 2 (pattern 16 k.cross) ++ leBytes 2 msgs.length ++ leBytes 2 0)
  let c := c.sendTrim now t k
  c.each msgs fun m c => c.sendMsg now t 0x02 m.1 m.2

/-- Show a planned sweep in the tile's registers (R223). [DEDUCED: log 62] -/
def Chip.showPlan (c : Chip) (t : Nat) (k : Plan) : Chip :=
  let c := c.updTile t fun x => { x with counts := (k.lines.length :: x.counts).take 16 }
  let l := (c.tile t).counts
  let c := (c.setFld (Fld.TILE_SCHED_STATUS_DIR t) k.dir).setFld (Fld.TILE_SCHED_STATUS_BANK t) k.bank
  let c := (c.setFld (Fld.TILE_SCHED_STATUS_WIN_BASE t) k.e0).setFld (Fld.TILE_SCHED_STATUS_WIN_LINES t)
    (if k.cal.isSome then k.n else k.lines.length)
  (c.setFld (Fld.TILE_SCHED_STATUS_LPS t) (satN 65535 (sumN l * 256 / l.length))).setFld (Fld.TILE_SWEEP_NUM_SWEEP t) k.sweep

/-- The plan of a sweep with its dot words: the lines, the trim and the pulses, the sweep being sent at once (R195 to R201). [DEDUCED: log 62] -/
def Chip.makePlan (c : Chip) (now t sweep d m : Nat) : Chip :=
  let s := c.stationOf t
  let x := c.tile t
  let mid (i : Nat) : Nat := (x.midOf (pattern 32 (sweep + i : Nat))).getD m
  let rip := bit (c.viewReg t (Reg.STATION_SCHED_CTL s)).toNat 0
  let w := c.predictW s m rip
  let end_ (i : Nat) : Nat := pattern 64 ((c.predictW s (mid i) rip : Int) + 32 * 65536)
  let (e0, ls, n, d0, full) := planWindow (c.openLines t 64) w (end_ 1) (end_ 2) (c.cutsOf t)
  let (cal, c) := if (c.nextLines t 1).isEmpty then c.calNext t sweep else (none, c)
  let delta := clampI (-trimReach) trimReach d0
  let k : Plan := {
    sweep := sweep, dir := d, bank := x.bankUse.getD d 0
    cross := c.alignOf t d + signed 16 (c.fld (Fld.TILE_POS_OFFSET_X_OFFSET t))
    e0 := cal.elim e0 (·.emitter), n := cal.elim n fun _ => 1
    lines := ls, delta := delta, w := w, w0 := w, mid := m, ripple := rip, cal := cal, nom := c.spanNom t d }
  let exposed := c.exposeLines t k ls x.history
  let ws : List (Nat × List DotPulse) := match cal with
    | some q => [(q.emitter, c.calDots t d q.emitter)]
    | none => exposed.map fun e => (e.1, e.2.1)
  let (ws, c) := c.limiter now t k ws
  let c := (ls.getLast?).elim c fun l => c.updTile t fun x => { x with planPage := l.page, planLine := l.line + 1, planDue := l.due }
  let c := c.moveHorizon ls
  let c := c.countPulses t k ws (sumN (exposed.map fun e => e.2.2))
  let c := c.keepHistory t k ws
  let c := c.when full fun c => c.raise (Ev.TILE_PLACE_EVENT_WINDOW_FULL t)
  let ext := c.edgeSpan t k ws
  let k := { k with ext := ext, edges := ext.elim [] fun e => [c.timeOf t d e.1, c.timeOf t d e.2] }
  let (rho, cutRamp, resid) := rampFor delta (c.predictRate s m rip) (c.edgeTimes t k)
  let k := { k with
    blank := ws.all fun q => q.2.isEmpty
    rho := rho, resid := resid, limited := !ls.isEmpty && (delta != d0 || cutRamp) }
  let c := c.updTile t fun x => { x with plans := x.plans ++ [k], nextSweep := pattern 32 (sweep + 1 : Nat) }
  (c.sendPlan now t k ws).showPlan t k

/-- A sweep of a tile begins that an orderly thermal stop blanks: its KILL, from this boundary on (R393). [DESIGN CHOICE: log 108] -/
def Chip.blankTile (c : Chip) (now t sweep : Nat) : Chip :=
  (c.updSafety fun x => { x with blanking := x.blanking.map fun l => l.filter fun u => u != t, blanked := x.blanked ++ [(t, sweep)] }).kill now t 2

/-- SWEEP_PLAN: sweep k − 3 begins and the engine plans sweep k, once, or blanks the tile from this sweep on (R195, R196, R393). [DESIGN CHOICE: log 61] -/
def Chip.sweepPlan (c : Chip) (now t : Nat) : Chip :=
  if !c.planning t then c else
  match c.sweepAt now t with
  | none => c
  | some j =>
    let k := pattern 32 (j + 3 : Nat)
    let x := c.tile t
    if c.safety.blanking.any fun l => l.contains t then c.blankTile now t j
    else if c.safety.blanked.any fun b => b.1 == t then c
    else if x.plans.any fun (p : Plan) => decide (0 ≤ sweepDist p.sweep k) then c else
    match x.dirOf k, x.midOf k, c.leadOf t k with
    | some d, some m, some lead =>
      let c := c.takeCommits now t (lead / 128)
      let c := c.refreshSched t
      if !c.planning t then
        if c.placeBad t && (c.running.any fun p => p.tiles.contains t && !p.lost.contains t) then c.loseTile now t else c
      else if c.expoBad t && (c.running.any fun p => p.tiles.contains t && !p.lost.contains t) then c.loseTile now t
      else (c.makePlan now t k d m).feedLane (c.stationOf t)
    | _, _, _ => c

/-- TRIM_REFINE: sweep k − 1 begins; the trim of sweep k is computed again from the latest stamps and edges and sent (R195, R202). -/
def Chip.trimRefine (c : Chip) (now t : Nat) : Chip :=
  match c.sweepAt now t with
  | none => c
  | some j =>
    let k := pattern 32 (j + 1 : Nat)
    match (c.tile t).plans.find? fun (p : Plan) => p.sweep == k && !p.refined with
    | none => c
    | some p =>
      if !c.planning t then c else
      let s := c.stationOf t
      let m := ((c.tile t).midOf k).getD p.mid
      let w := c.predictW s m p.ripple
      let d0 := p.delta + posDist p.w w
      let delta := clampI (-trimReach) trimReach d0
      let (rho, cutRamp, resid) := rampFor delta (c.predictRate s m p.ripple) (c.edgeTimes t p)
      let limited := !p.lines.isEmpty && (p.limited || delta != d0 || cutRamp)
      let p := { p with delta := delta, rho := rho, w := w, refined := true, resid := resid, limited := limited }
      let c := c.updTile t fun x => { x with plans := x.plans.map fun (q : Plan) => if q.sweep == k then p else q }
      let c := (c.sendTrim now t p).judgeLimit t p
      match p.cal with
      | some q => c.calBias1 now t q
      | none => c

end Sys2Proof.Machine
end

