-- ==== Sys2Proof/Machine/Mirror.lean ====
section
/-! DEFINITION. Mirrors: start, amplitude steps, beam-detect stamps, lock, faults and the mirror channel (R188 to R190, R194, R202, R219, R220, R235, R274, R280, R371, R467 to R470).
-/
namespace Sys2Proof.Machine

/-- A TIME48 value as 64-bit engine time in 1/64 ns: the one nearest the engine's own (R274). -/
def extendTime (now v : Nat) : Nat := ((64 * now : Nat) + signed 48 (pattern 48 ((v : Int) - (64 * now : Nat)))).toNat

/-- The least time between two mirror starts outside the group slots, 50 ms (R470). [DESIGN CHOICE: log 71] -/
def mirrorGap : Nat := 50000000

/-- The instant from which a tile's mirror may start: its group's slot for a tile that start-up brings up, else 50 ms after the latest start; a retry waits for its 1 s (R467, R468, R470). -/
def Chip.mirrorSlot (c : Chip) (t : Nat) : Option Nat :=
  let x := c.tile t
  let late := match c.eng.lastMirror with
    | none => 0
    | some l => l + mirrorGap
  match x.retryAt with
  | some r => some (max r late)
  | none =>
    if c.eng.starting && c.eng.boot.contains t && !x.missing then c.eng.m0.map fun m => m + t / 8 * mirrorGap
    else some late

/-- A tile waits for its mirror to be started: its link is up, it is not driven, and no replay keeps it stopped (R484). [DESIGN CHOICE: log 71] -/
def Chip.mirrorWaits (c : Chip) (t : Nat) : Bool :=
  let x := c.tile t
  x.wantStart && !x.driven && c.link t == Lk.up && c.eng.replay.all fun (r : Replay) => r.ended

/-- Start a mirror: MIRROR_DRIVE with MIRROR_NOM and 1/16 of full scale; a tile whose MIRROR_NOM lies outside 2,000 to 8,000 Hz is reported missing (R467). [DESIGN CHOICE: log 71] -/
def Chip.startMirror (c : Chip) (now t : Nat) : Chip :=
  let nom := (c.tile t).mirrorNom
  if nom < 2000 ∨ 8000 < nom then (c.updTile t fun x => { x with wantStart := false, retryAt := none }).tileMissing t 2
  else
    let c := c.updEng fun x => { x with lastMirror := some now }
    let c := c.updTile t fun x => { x with
      wantStart := false, retryAt := none, driven := true, ampl := 4096, freq := nom * 65536, startAt := some now
      stamped := false, locked := false, goodRun := 0, badRun := 0, missRun := 0, mirrorFault := false
      ampInt := (F32.ofRatio 1 16).getD 0, freqInt := (F32.ofScaled nom 0).getD 0, eA := none, ePhi := none, sensed := false
      stamps := [none, none], lastMid := none, halves := [], spanSeen := [false, false], plans := [], nextSweep := 0 }
    c.sendDrive now t

/-- MIRROR_START: a mirror whose slot has come starts (R467, R470). -/
def Chip.mirrorStart (c : Chip) (now t : Nat) : Chip :=
  if c.mirrorWaits t && (c.tile t).retryAt.isNone && (c.mirrorSlot t).any fun m => decide (m ≤ now) then c.startMirror now t else c

/-- MIRROR_RETRY: 1 s after a start that found no lock the mirror starts again (R468). -/
def Chip.mirrorRetry (c : Chip) (now t : Nat) : Chip :=
  if c.mirrorWaits t && (c.tile t).retryAt.isSome && (c.mirrorSlot t).any fun m => decide (m ≤ now) then c.startMirror now t else c

/-- MIRROR_AMPL_STEP: 1/16 of full scale more every 25 ms, up to 1/2, until the first sweep with both stamps (R467). [DESIGN CHOICE: log 71] -/
def Chip.mirrorStep (c : Chip) (now t : Nat) : Chip :=
  let x := c.tile t
  match x.startAt with
  | some t0 =>
    if x.driven && !x.stamped && decide (x.ampl < 32768) && decide (t0 + x.ampl / 4096 * 25000000 ≤ now) then
      let a := x.ampl + 4096
      (c.updTile t fun x => { x with ampl := a, ampInt := (F32.ofRatio a 65536).getD 0 }).sendDrive now t
    else c
  | none => c

/-- The time a mirror has to reach beam-detect lock: 2,400 ms, or 700 ms at a wake (R468, R472). [DESIGN CHOICE: log 72] -/
def Chip.lockLimit (c : Chip) : Nat := if c.eng.starting && c.eng.wake then 700000000 else 2400000000

/-- BD_LOCK_TIMEOUT: reported missing with step 2, the drive disabled, the start tried again after 1 s (R468). [DESIGN CHOICE: log 72] -/
def Chip.lockTimeout (c : Chip) (now t : Nat) : Chip :=
  let x := c.tile t
  match x.startAt with
  | some t0 =>
    if x.driven && !x.locked && decide (t0 + c.lockLimit ≤ now) then
      let c := (c.tileMissing t 2).stopMirror now t
      (c.updTile t fun x => { x with wantStart := true, retryAt := some (now + 1000000000) }).refreshSched t
    else c
  | none => c

/-- MIRROR_FAULT with its cause: the tile stops writing, the mirror stays driven (R208, R220). `stamp` is the head stamp of its sweep. [DESIGN CHOICE: log 72] -/
def Chip.mirrorFault (c : Chip) (now t cause : Nat) (stamp : Option Nat) : Chip :=
  if (c.tile t).mirrorFault then c else
  let c := c.updTile t fun x => { x with mirrorFault := true, goodRun := 0 }
  let c := c.raise (Ev.TILE_PLACE_EVENT_MIRROR_FAULT t)
  let e : Ev := { status := Rc.MIRROR_FAULT, detail := t + cause * 256, time := stamp }
  let c := match stamp with
    | some k => c.emit (.tileEvent t k e)
    | none => c.emit (.event e)
  (c.loseTile now t).refreshSched t

/-- A gain of the mirror channels: KP_F, KI_F, KP_A, KI_A (R371). -/
def Chip.mirrorGain (c : Chip) (i : Nat) : Word := c.reg (Reg.WINDLASS_MIRROR_GAIN i)

/-- One step of a mirror loop: y + KP × Δe + KI × e in binary32; the first sample has no Δe; a result that is not finite leaves y (R371). [DESIGN CHOICE: log 71] -/
def mirrorStepOf (y kp ki e : Word) (prev : Option Word) : Word :=
  (do
    let de ← match prev with
      | some p => F32.sub e p
      | none => some 0
    let a ← F32.mul kp de
    let b ← F32.mul ki e
    let s ← F32.add a b
    F32.add y s).getD y

/-- Send the output of a mirror channel, and record it (R219, R371, R473). [DESIGN CHOICE: log 71] -/
def Chip.mirrorOut (c : Chip) (now t lag : Nat) : Chip :=
  let c := c.updTile t fun x => { x with
    ampl := satN 65535 (F32.nearScaled x.ampInt 16).toNat, freq := (F32.nearScaled x.freqInt 16).toNat }
  let c := c.sumpRec (some 7) 0x08 (0x100 + t) now [BitVec.ofNat 32 lag, (c.tile t).freqInt, (c.tile t).ampInt]
  c.sendDrive now t

/-- The amplitude loop of a mirror channel at a sweep's stamps (R371). [DESIGN CHOICE: log 71] -/
def Chip.amplitudeLoop (c : Chip) (now t span trail : Nat) : Chip :=
  let nom := c.spanNom t 0
  match F32.ofRatio ((nom : Int) - span) nom with
  | none => c
  | some e =>
    let x := c.tile t
    let top := (F32.ofRatio 65535 65536).getD 0
    let a := F32.clamp 0 top (mirrorStepOf x.ampInt (c.mirrorGain 2) (c.mirrorGain 3) e x.eA)
    (c.updTile t fun x => { x with ampInt := a, eA := some e }).mirrorOut now t (now - trail / 64)

/-- MIRROR_SENSE: the frequency loop; a value outside 2,000 to 8,000 Hz is held and reported (R371). [DESIGN CHOICE: log 72] -/
def Chip.mirrorSense (c : Chip) (now t phase : Nat) : Chip :=
  let x := c.tile t
  if !x.driven || !x.stamped then c else
  let e := (F32.ofRatio (16384 - signed 16 phase) 65536).getD 0
  let lo := (F32.ofScaled 2000 0).getD 0
  let hi := (F32.ofScaled 8000 0).getD 0
  let f := mirrorStepOf x.freqInt (c.mirrorGain 0) (c.mirrorGain 1) e x.ePhi
  let out := F32.lt f lo || F32.lt hi f
  let c := (c.updTile t fun x => { x with freqInt := F32.clamp lo hi f, ePhi := some e, sensed := true }).mirrorOut now t 0
  if out then c.mirrorFault now t 2 none else c

/-- How far a drum surface has moved since an instant in 1/128 ns: its movements since, less the part of the first of them that lies before the instant, linear between the edges on its two sides (R194). -/
def movedSince (edges : List (Nat × Int)) (m : Nat) : Int :=
  let after := edges.filter fun e => decide (m < 128 * e.1)
  let n := sumI (after.map (·.2))
  match after.getLast?, edges.find? fun e => decide (128 * e.1 ≤ m) with
  | some (t1, s), some (t0, _) => n - s * (m - 128 * t0 : Nat) / (128 * (t1 - t0) : Nat)
  | _, _ => n

/-- The write position of a station at a past instant, from the encoder edges on both sides of it; where no edge has come since, from the present prediction (R194). [DESIGN CHOICE: log 67] -/
def Chip.pastW (c : Chip) (s m : Nat) (rip : Bool) : Nat :=
  let x := c.stn s
  if x.edges.any fun e => decide (m < 128 * e.1) then
    pattern 64 ((x.drum : Int) - movedSince x.edges m + x.align + if rip then c.ripple s m else 0)
  else c.predictW s m rip

/-- TILE.PRED_ERR: the write position at the actual mid-instant against the prediction `w` of the final trim (R194). [DESIGN CHOICE: log 67] -/
def Chip.showPredErr (c : Chip) (t m : Nat) (k : Plan) (w : Nat) : Chip :=
  let e := rdivI (posDist (c.pastW (c.stationOf t) m k.ripple) w) 4096
  let peak := max (c.fld (Fld.TILE_PRED_ERR_PEAK t)) (satN 65535 e.natAbs)
  (c.setFldS (Fld.TILE_PRED_ERR_LAST t) (satS 16 e)).setFld (Fld.TILE_PRED_ERR_PEAK t) peak

/-- A sweep without stamps: BD_MISS, and the eighth in a row is a MIRROR_FAULT; it neither breaks nor counts in a run of sweeps off by 2 % (R208, R220). [DESIGN CHOICE: log 72] -/
def Chip.missedSweep (c : Chip) (now t : Nat) : Chip :=
  let c := (c.raise (Ev.TILE_PLACE_EVENT_BD_MISS t)).updTile t fun x => { x with missRun := x.missRun + 1, goodRun := 0 }
  if (c.tile t).missRun == 8 then c.mirrorFault now t 3 none else c

/-- Beam-detect lock after 256 sweeps within 1 %; a fault clears by the same count (R220, R468). [DESIGN CHOICE: log 72] -/
def Chip.judgeLock (c : Chip) (t : Nat) : Chip :=
  let x := c.tile t
  if x.goodRun < 256 then c
  else
    let c := c.updTile t fun x => { x with locked := true, mirrorFault := false }
    (if x.locked then c else c.tileFound t).refreshSched t

/-- The span and the frequency of a stamped sweep are judged (R219, R220). [DESIGN CHOICE: log 72] -/
def Chip.judgeSpan (c : Chip) (now t span trail : Nat) : Chip :=
  let nom := c.spanNom t 0
  let off := max span nom - min span nom
  let far := decide (nom < off * 50)
  let warn := decide (nom < off * 100)
  let c := c.when warn fun c => c.raise (Ev.TILE_PLACE_EVENT_MIRROR_WARN t)
  let c := c.updTile t fun x => { x with
    goodRun := if warn then 0 else min 256 (x.goodRun + 1), badRun := if far then x.badRun + 1 else 0 }
  let x := c.tile t
  let n := x.halves.length
  let sum := sumN x.halves
  let c := c.when (decide (16 ≤ x.badRun)) fun c => c.mirrorFault now t 1 (some (trail / 64))
  let slow := decide (0 < n) && (decide (sum < 8000000 * n) || decide (32000000 * n < sum))
  let c := c.when slow fun c => c.mirrorFault now t 2 (some (trail / 64))
  c.judgeLock t

/-- A sweep with both stamps: mid-instant, span, half-period, prediction error, the mirror channel and the judgements (R189, R190, R194, R219, R220). -/
def Chip.stampedSweep (c : Chip) (now t sweep d lead trail : Nat) (plan : Option Plan) (late : Bool) : Chip :=
  let x := c.tile t
  let m := lead + trail
  let span := trail - lead
  let half := match x.lastMid with
    | some (j, m0) => if sweepDist sweep j = 1 then [m - m0] else []
    | none => []
  let c := c.updTile t fun x => { x with
    stamped := true, missRun := 0
    stamps := updAt x.stamps d fun _ => some (sweep, m), lastMid := some (sweep, m)
    halves := (half ++ x.halves).take 16, spanSeen := updAt x.spanSeen d fun _ => true }
  let c := c.setFld (Fld.TILE_SPAN_MEAS_SPAN t d) span
  let h := (c.tile t).halves
  let c := if h.isEmpty then c else c.setFld (Fld.TILE_HALF_PERIOD_T_H t) (sumN h / (2 * h.length))
  let c := match plan with
    | some k => c.showPredErr t m k (if late then k.w0 else k.w)
    | none => c
  ((c.amplitudeLoop now t span trail).judgeSpan now t span trail).refreshSched t

/-- A bucket underrun: the tile is lost for the running page and a LINK_FAULT with cause 5 is written (R280, R289, R290). -/
def Chip.underrun (c : Chip) (now t sweep : Nat) (stamp : Option Nat) : Chip :=
  let c := (c.loseTile now t).refreshSched t
  let c := (c.raise (Ev.TILE_LINK_EVENT_BUCKET_UNDERRUN t)).setFld (Fld.TILE_LINK_STATUS_LAST_FAIL t) 5
  let e : Ev := { status := Rc.LINK_FAULT, tag := t, detail := 5 + sweep % 65536 * 65536, time := stamp }
  match stamp with
  | some k => c.emit (.tileEvent t k e)
  | none => c.emit (.event e)

/-- BD_STAMP: stamps, misses, late trims and underruns of a sweep (R189, R202, R220, R274, R280). -/
def Chip.bdStamp (c : Chip) (now t sweep lead48 trail48 flags : Nat) : Chip :=
  let x := c.tile t
  if !x.driven then c else
  let plan := x.plans.find? fun (k : Plan) => k.sweep == sweep
  let killed := x.kill != 0 || bit flags 7
  let lead := extendTime now lead48
  let trail := extendTime now trail48
  let whole := !bit flags 2 && !bit flags 3
  let late := plan.any fun k => k.refined && !bit flags 1
  let c := c.when late fun c => c.raise (Ev.TILE_PLACE_EVENT_TRIM_LATE t)
  let c := match plan with
    | some k => if k.refined then c else c.judgeLimit t k
    | none => c
  let c := c.updTile t fun x => { x with plans := x.plans.filter fun (k : Plan) => decide (0 < sweepDist k.sweep sweep) }
  let c := if whole then c.stampedSweep now t sweep (flags % 2) lead trail plan late else c.missedSweep now t
  if plan.isSome && (bit flags 5 || bit flags 6) && !killed then
    c.underrun now t sweep (if whole then some (trail / 64) else none)
  else c

/-- An enabled tile whose link is up gets its mirror: it is driven again, or it waits for its slot (R289, R467, R470). [DESIGN CHOICE: log 72] -/
def Chip.wakeMirror (c : Chip) (now t : Nat) : Chip :=
  if (c.tile t).driven then
    (c.updTile t fun x => { x with startAt := some now }).sendDrive now t
  else c.updTile t fun x => { x with wantStart := true }

/-- The stamps of a tile are forgotten: its link failed or its mirror stopped. [DESIGN CHOICE: log 72] -/
def Chip.forgetStamps (c : Chip) (t : Nat) : Chip :=
  (c.updTile t fun x => { x with
    locked := false, goodRun := 0, badRun := 0, missRun := 0, stamps := [none, none], lastMid := none, halves := []
    plans := [] }).refreshSched t

/-- A lost tile can rejoin: link up, beam-detect lock, no mirror fault, banks good and acknowledged, no head fault, failed bank loaded again (R158, R216, R217, R220, R232, R281, R289). -/
def Chip.canRejoin (c : Chip) (t : Nat) : Bool :=
  let x := c.tile t
  c.link t == Lk.up && x.locked && !x.mirrorFault && c.banksGood t && c.fld (Fld.TILE_HEAD_STATE_FAULT t) == 0
    && x.failedBank.isNone && x.primed && c.inUseReady t

/-- A lost tile rejoins at a page start or at PRIME: REARM with the bias in use, history cleared (R158, R229, R277, R279). -/
def Chip.rejoin (c : Chip) (now t : Nat) : Chip :=
  let c := c.sendBias now t (c.biasOf t) true
  (c.updTile t fun x => { x with history := [], breach := false, headFault := false }).refreshSched t

end Sys2Proof.Machine
end

