-- ==== Sys2Proof/Machine/Link.lean ====
section
/-! DEFINITION. Trough links: training, identity, alignment, bank loads, acknowledgement, failure, engine time at the heads, the DLLs and head reports (R265 to R291, R466, R469, R470).
-/
namespace Sys2Proof.Machine

/-- The quad of a tile is powered: QUAD_EN as read at the last start-up, wake or restoration of loads (R24, R72, R265). [DESIGN CHOICE: log 79] -/
def Chip.quadOn (c : Chip) (t : Nat) : Bool := bit c.eng.quads (t / 4)

/-- A link enters TRAIN, the block lock of its receiver staying as it is: TILE.CFG is read, and both directions number from 0 again (R271, R288, R291). [DESIGN CHOICE: log 73] -/
def Chip.enterTrain (c : Chip) (now t : Nat) : Chip :=
  let c := ((c.setLink t Lk.train).setFlag (Fld.TILE_LINK_STATUS_DN_LOCK t) false).latchTile t
  c.updTile t fun x => { x with
    rxSeen := [], ident := none
    trainAt := x.trainAt ++ [now], failedAt := none, lastUp := now, txSeq := 0, flight := [], waiting := []
    rxNext := 0, rxAny := false, nak := false, marks := [], echoes := [], turns := [], trips := [], prevFault := none, loads := [] }

/-- Ask the head for its identity: LASER_BIAS with IDENT and every code 0 (R274, R287). [DESIGN CHOICE: log 76] -/
def Chip.askIdentity (c : Chip) (now t : Nat) : Chip := c.sendMsg now t 0x05 0 (leBytes 2 0x8000 ++ List.replicate 34 0)

/-- A link that may train does: quad powered and ENABLE 1 (R288). -/
def Chip.tryTrain (c : Chip) (now t : Nat) : Chip :=
  if c.link t == Lk.off && c.tileOn t && c.quadOn t && c.fast then c.enterTrain now t else c

/-- A link returns to OFF: the head is no longer served, and KILL cause 3 ends (R279, R470). -/
def Chip.linkOff (c : Chip) (t : Nat) : Chip :=
  let c := (c.setLink t Lk.off).unkill t 3
  let c := (c.setFlag (Fld.TILE_LINK_STATUS_DN_LOCK t) false).setFlag (Fld.TILE_LINK_STATUS_UP_LOCK t) false
  (c.updTile t fun x => { x with
    trainAt := [], failedAt := none, lockLost := none, rx := {}, ident := none, flight := [], waiting := [], loads := []
    driven := false, wantStart := false, startAt := none, retryAt := none, primed := false }).forgetStamps t

/-- Clearing ENABLE: KILL with cause 3, the mirror drive disabled, the link OFF (R470). A running page loses the tile. [DESIGN CHOICE: log 79] -/
def Chip.disableTile (c : Chip) (now t : Nat) : Chip :=
  ((c.loseTile now t).stopMirror now t).linkOff t

/-- A LINK_FAULT record, with the cause in LAST_FAIL (R290, R291). -/
def Chip.linkFault (c : Chip) (t cause more : Nat) : Chip :=
  (c.setFld (Fld.TILE_LINK_STATUS_LAST_FAIL t) cause).event Rc.LINK_FAULT t (cause + more)

/-- HEAD_FAULT: the tile is lost without failing the link (R281, R289). -/
def Chip.declareHeadFault (c : Chip) (now t more : Nat) : Chip :=
  let c := (c.updTile t fun x => { x with headFault := true }).raise (Ev.TILE_LINK_EVENT_HEAD_FAULT t)
  ((c.loseTile now t).linkFault t 4 more).refreshSched t

/-- Load a bank again after a failure, the third in succession declaring HEAD_FAULT first (R278, R281). -/
def Chip.loadFailed (c : Chip) (now t : Nat) (l : BankLoad) : Chip :=
  let n := l.fails + 1
  let c := if n < 3 then c else
    (c.updTile t fun x => { x with failedBank := some l.bank }).declareHeadFault now t
      (2 ^ 16 + l.bank / 2 * 2 ^ 17 + l.bank % 2 * 2 ^ 18)
  let c := c.loadBank now t l.bank l.words
  c.updTile t fun x => { x with loads := x.loads.map fun (b : BankLoad) => if b.bank == l.bank then { b with fails := n % 3 } else b }

/-- BANK_LOAD_TIMEOUT: loads not acknowledged within 1 ms of their last word have failed (R278). -/
def Chip.bankTimeout (c : Chip) (now t : Nat) : Chip :=
  c.each ((c.tile t).loads.filter fun (l : BankLoad) => l.sentAt.any fun s => decide (s + 1000000 ≤ now)) fun l c => c.loadFailed now t l

/-- The link is up: its mirror is wanted, and the scheduler learns of it (R288, R289). -/
def Chip.linkUp (c : Chip) (now t : Nat) : Chip :=
  let c := (c.setLink t Lk.up).updTile t fun x => { x with trainAt := [] }
  (c.wakeMirror now t).refreshSched t

/-- A bank is acknowledged: the tile may plan with it, and in TABLES the fourth brings the link up (R217, R288). -/
def Chip.bankAcked (c : Chip) (now t : Nat) (l : BankLoad) : Chip :=
  let c := c.updTile t fun x => { x with
    bankCrc := updAt x.bankCrc l.bank fun _ => some l.crc
    loads := x.loads.filter fun (b : BankLoad) => b.bank != l.bank
    failedBank := if x.failedBank = some l.bank then none else x.failedBank }
  if c.link t = Lk.tables ∧ (c.tile t).bankCrc.all Option.isSome then c.linkUp now t else c.refreshSched t

/-- The bank loads of a tile judged by a status: `valid` has bit b for bank b, `crcs` their CRCs (R278). -/
def Chip.judgeLoads (c : Chip) (now t valid : Nat) (crcs : List Nat) : Chip :=
  c.each ((c.tile t).loads.filter (·.acked)) fun l c =>
    if !bit valid l.bank then c
    else if crcs.getD l.bank 0 = l.crc then c.bankAcked now t l else c.loadFailed now t l

/-- The median of round trips: the middle one, or the mean of the middle two rounded down (R283). [DESIGN CHOICE: log 75] -/
def medianTrip (l : List Int) : Int :=
  let s := l.mergeSort fun a b => decide (a ≤ b)
  let n := s.length
  if n % 2 = 1 then s.getD (n / 2) 0 else (s.getD (n / 2 - 1) 0 + s.getD (n / 2) 0) / 2

/-- Default placement banks for a tile whose head is known: every byte of them that was not given before (R463, R470). [DESIGN CHOICE: log 78] -/
def Chip.makeDefaults (c : Chip) (t : Nat) : Chip :=
  if c.nominal.getD t 0 = 0 then
    let nom := updAt c.nominal t fun _ => nomClamp (c.tile t).mirrorNom
    let keep (e : Host.Cell) : Bool := decide (0x82000 ≤ e.1) || e.2 != tableDefault nom e.1
    let (mine, rest) := c.zeros.partition fun z => placementTile z.2 == some t
    let c := { c with nominal := nom, shadow := c.shadow.filter keep, active := c.active.filter keep, zeros := rest }
    c.each mine fun z c => c.setTabByte z.1 z.2 0
  else c

/-- ALIGN ends with 8 echoes and the DLL locked or in bypass: the four banks are loaded (R278, R288, R289). [DESIGN CHOICE: log 78] -/
def Chip.tryTables (c : Chip) (now t : Nat) : Chip :=
  if c.link t == Lk.align && decide (8 ≤ (c.tile t).echoes.length)
      && (c.flag (Fld.TILE_LINK_STATUS_DLL_LOCK t) || c.flag (Fld.TILE_LINK_STATUS_DLL_BYPASS t)) then
    ((c.setLink t Lk.tables).makeDefaults t).loadAllBanks now t
  else c

/-- A round trip is known once an epoch's echo and TURN are: the median of the last eight (R283). [DESIGN CHOICE: log 75] -/
def Chip.roundTrip (c : Chip) (t epoch : Nat) : Chip :=
  let x := c.tile t
  let find (l : List (Nat × Nat)) : Option Nat := (l.find? fun (e : Nat × Nat) => e.1 == epoch).map (·.2)
  match (x.marks.find? fun (e : Nat × Nat × Int) => e.1 == epoch).map (·.2.1), find x.echoes, find x.turns with
  | some t1, some t4, some turn =>
    let c := c.updTile t fun x => { x with
      trips := (((t4 : Int) - t1 - turn) :: x.trips).take 8, turns := x.turns.filter fun (e : Nat × Nat) => e.1 != epoch }
    c.setFldS (Fld.TILE_LINK_RT_RT t) (medianTrip (c.tile t).trips)
  | _, _, _ => c

/-- The identity of a head is acceptable (R287). [DESIGN CHOICE: log 76] -/
def identityOk (b : List Byte) : Bool :=
  let f (k n : Nat) : Nat := leNat ((b.drop k).take n)
  f 5 1 == 1 && decide (4 ≤ f 6 1) && f 14 2 == 16 && decide (544 ≤ f 24 2)

/-- The identity of a head is judged: it is refused, or its identity registers are set, and the link leaves IDENT (R287, R288). [DESIGN CHOICE: log 76] -/
def Chip.acceptIdentity (c : Chip) (now t : Nat) (b : List Byte) : Chip :=
  let f (k n : Nat) : Nat := leNat ((b.drop k).take n)
  let c := c.updTile t fun x => { x with ident := none }
  if !identityOk b then
    let up := c.link t == Lk.up
    let c := (c.setLink t Lk.refused).raise (Ev.TILE_LINK_EVENT_REFUSED t)
    let c := c.linkFault t 6 0
    (if up then c.loseTile now t else c).forgetStamps t
  else
    let c := c.each (List.range 4) fun i c => c.setReg (Reg.TILE_HEAD_ID t i) (BitVec.ofNat 32 (f (8 + 4 * i) 4))
    let c := c.updTile t fun x => { x with bucket := f 6 1, slowRange := f 24 2, mirrorNom := f 26 2 }
    if c.link t = Lk.ident then (c.setLink t Lk.align).tryTables now t else c

/-- In IDENT the firmware judges the identity it holds by the tile's next epoch mark or message (R288). [DESIGN CHOICE: log 76] -/
def Chip.judgeIdentity (c : Chip) (now t : Nat) : Chip :=
  if c.link t = Lk.ident then (c.tile t).ident.elim c fun b => c.acceptIdentity now t b else c

/-- A link leaves TRAIN for IDENT with uplink block lock and an identity that the head has sent (R288). -/
def Chip.tryIdent (c : Chip) (t : Nat) : Chip :=
  if c.link t = Lk.train ∧ c.flag (Fld.TILE_LINK_STATUS_UP_LOCK t) ∧ (c.tile t).ident.isSome then c.setLink t Lk.ident else c

/-- A KIND 1 status: in TRAIN it leads to IDENT, later on it is judged at once (R287, R288). [DESIGN CHOICE: log 76] -/
def Chip.headIdentity (c : Chip) (now t : Nat) (b : List Byte) : Chip :=
  if c.link t = Lk.train ∨ c.link t = Lk.ident then (c.updTile t fun x => { x with ident := some b }).tryIdent t
  else c.acceptIdentity now t b

/-- EPOCH_MARK: launched with its epoch number and with the LINK_ASYM that its epoch uses; `sub` is the launch instant's 1/64 ns (R266, R283, R291). [DESIGN CHOICE: log 75] -/
def Chip.epochMark (c : Chip) (now t sub : Nat) : Chip :=
  if !c.talks t then c else
  let c := c.judgeIdentity now t
  let n := (c.tile t).epoch + 1
  let c := c.updTile t fun x => { x with epoch := n % 2 ^ 32, marks := ((n % 65536, 64 * now + sub, c.fldS (Fld.TILE_LINK_ASYM_ASYM t)) :: x.marks).take 16 }
  c.putBlocks t 0x4B 1 (leBytes 2 n ++ List.replicate 5 0)

/-- ECHO_MARK: its arrival is measured, and EPOCH tells the head when the mark arrived (R283, R285, R286). [DESIGN CHOICE: log 75] -/
def Chip.echoMark (c : Chip) (now t epoch sub : Nat) : Chip :=
  match (c.tile t).marks.find? fun (m : Nat × Nat × Int) => m.1 == epoch with
  | none => c
  | some (_, t1, asym) =>
    if !c.talks t then c else
    let c := c.judgeIdentity now t
    let c := c.updTile t fun x => { x with echoes := ((epoch, 64 * now + sub) :: x.echoes).take 16 }
    let c := c.roundTrip t epoch
    let x := c.tile t
    let d := (medianTrip x.trips + asym) / 2
    let full := x.epoch - (x.epoch + 65536 - epoch) % 65536
    let c := c.sendMsg now t 0x07 0 (leBytes 4 full ++ leBytes 8 (pattern 64 ((t1 : Int) + d))
      ++ leBytes 2 (b2n (c.flag (Fld.TILE_LINK_STATUS_DLL_BYPASS t)) + 2 * b2n (decide (8 ≤ x.trips.length))) ++ leBytes 2 0)
    c.tryTables now t

/-- A KIND 0 status: faults, KILLED, banks, TURN (R278, R281, R283, R287). -/
def Chip.headReport (c : Chip) (now t : Nat) (b : List Byte) : Chip :=
  let f (k n : Nat) : Nat := leNat ((b.drop k).take n)
  let fault := f 5 1 % 64
  let old := (c.tile t).prevFault
  let new := fault - (fault &&& old.getD 0)
  let c := (c.setFld (Fld.TILE_HEAD_STATE_FAULT t) fault).setFld (Fld.TILE_HEAD_STATE_KILLED t) (f 6 1 % 2)
  let c := (c.setFld (Fld.TILE_HEAD_STATE_LEN_HIGH t) (f 6 1 / 2)).setFld (Fld.TILE_HEAD_STATE_BANK_VALID t) (f 6 1 / 4)
  let c := c.updTile t fun x => { x with prevFault := some fault, turns := ((f 8 2, f 12 4) :: x.turns).take 8 }
  let c := c.when (new != 0) fun c => c.declareHeadFault now t (fault * 256)
  let c := c.roundTrip t (f 8 2)
  c.judgeLoads now t (f 6 1 / 4) ((List.range 4).map fun i => f (16 + 4 * i) 4)

/-- HEAD_STATUS: the whole message (R281, R287). [DESIGN CHOICE: log 76] -/
def Chip.headStatus (c : Chip) (now t : Nat) (b : List Byte) : Chip :=
  if !c.talks t then c else
  let c := (c.judgeIdentity now t).setFlag (Fld.TILE_LINK_STATUS_DN_LOCK t) true
  let kind := leNat ((b.drop 4).take 1)
  if kind = 0 then c.headReport now t b else if kind = 1 then c.headIdentity now t b else c

/-- HEAD_TEMP: up to four sensors; a value above TEMP_WARN sets HEAD_HOT (R274, R291). -/
def Chip.headTemp (c : Chip) (now t : Nat) (temps : List Nat) : Chip :=
  let c := c.each (List.range (min 4 temps.length)) fun i c =>
    let v := temps.getD i 0
    let c := c.setFld (if i % 2 = 0 then Fld.TILE_HEAD_TEMP_TEMP_LO t (i / 2) else Fld.TILE_HEAD_TEMP_TEMP_HI t (i / 2)) v
    c.sumpRec (some 6) 0x07 (0x10 + 4 * t + i) now [BitVec.ofNat 32 (pattern 32 (signed 16 v))]
  let hot := (temps.take 4).any fun v => decide (c.fldS (Fld.TILE_TEMP_WARN_LIMIT t) < signed 16 v)
  c.when hot fun c => c.raise (Ev.TILE_LINK_EVENT_HEAD_HOT t)

/-- ACK: frames up to ACKSEQ are acknowledged; a NAK has the rest sent again (R271, R274). [DESIGN CHOICE: log 74] -/
def Chip.ackMsg (c : Chip) (now t seq : Nat) (nak : Bool) : Chip :=
  if !c.talks t then c else
  let c := c.ackUpTo now t seq
  if nak then c.resend now t else c

/-- RETX_TIMEOUT: 6 µs after the last transmission of the oldest unacknowledged frame it and the later ones are sent again (R271). -/
def Chip.retxTimeout (c : Chip) (now t : Nat) : Chip :=
  match (c.tile t).flight with
  | f :: _ => if c.talks t && decide (f.at_ + 6000 ≤ now) then c.resend now t else c
  | [] => c

/-- An unsequenced frame that carries the acknowledgement (R271). [DESIGN CHOICE: log 74] -/
def Chip.sendAck (c : Chip) (t : Nat) : Chip := c.putFrame t 0 [] false false

/-- The message types that the engine knows on an uplink (R273). -/
def uplinkTypes : List Nat := [0x81, 0x82, 0x83, 0x84, 0x85, 0x86]

/-- Messages of unknown TYPE in a body, skipped by their MLEN; TYPE 0, or a length that breaks R270, ends the messages. [DESIGN CHOICE: log 74] -/
def unknownMsgs : Nat → List Byte → Nat
  | 0, _ => 0
  | n + 1, b =>
    let typ := leNat (b.take 1)
    let len := leNat ((b.drop 2).take 2)
    if typ = 0 ∨ len < 4 ∨ len % 4 ≠ 0 ∨ b.length < len then 0
    else (if uplinkTypes.contains typ then 0 else 1) + unknownMsgs n (b.drop len)

/-- An uplink frame whose header and CRC are good (R269). [PRESUMED: log 134] -/
def frameGood (hdr body : List Byte) : Bool :=
  let f (k n : Nat) : Nat := leNat ((hdr.drop k).take n)
  let n := body.length - 4
  decide (f 2 1 < 32) && body.length == 8 * (f 2 1 + 1) && f 3 2 == 0 && decide (f 5 1 < 16) && f 6 1 == 1
    && leNat (body.drop n) == crc32 (hdr ++ body.take n)

/-- A sequenced frame was seen: its copies are counted (R271, R289). -/
def countCopy (now seq : Nat) (l : List (Nat × Nat × Nat)) : List (Nat × Nat × Nat) :=
  let n := (l.find? fun e => e.1 == seq).elim 0 (·.2.1)
  ((seq, n + 1, now) :: l.filter fun e => e.1 != seq).take 16

/-- UPLINK_FRAME: the 7 header bytes and the body of a frame, judged, with its go-back-N and its counts (R269 to R272). After a failure the first frame that ends a silence in TRAIN has the head asked for its identity (R287, R288). [DESIGN CHOICE: log 74] -/
def Chip.uplinkFrame (c : Chip) (now t : Nat) (hdr body : List Byte) : Chip :=
  if !c.talks t || !c.flag (Fld.TILE_LINK_STATUS_UP_LOCK t) then c else
  let c := c.updTile t fun x => { x with rx := { x.rx with left := 0 } }
  let f (k n : Nat) : Nat := leNat ((hdr.drop k).take n)
  let flags := f 5 1
  let unknown := unknownMsgs 64 (body.take (body.length - 4))
  if !frameGood hdr body then c.bump (Fld.TILE_LINK_COUNT_DISCARD t)
  else
    let silent := decide ((c.tile t).lastUp + 200000 ≤ now) && c.link t == Lk.train && c.fld (Fld.TILE_LINK_STATUS_LAST_FAIL t) != 0
    let c := (c.updTile t fun x => { x with lastUp := now }).when silent fun c => c.askIdentity now t
    if flags % 2 = 0 then c.bump (Fld.TILE_LINK_COUNT_DISCARD t) unknown
    else
      let c := (c.updTile t fun x => { x with rxSeen := countCopy now (f 0 2) x.rxSeen }).when (bit flags 3) fun c => c.countRetx t 1
      let x := c.tile t
      let ahead := (f 0 2 + 65536 - x.rxNext) % 65536
      if ahead = 0 then
        let c := c.bump (Fld.TILE_LINK_COUNT_DISCARD t) unknown
        (c.updTile t fun x => { x with rxNext := (x.rxNext + 1) % 65536, rxAny := true, nak := false }).sendAck t
      else if 32768 ≤ ahead then c.sendAck t
      else (c.updTile t fun x => { x with nak := true }).sendAck t

/-- Uplink block lock was gained or lost (R268, R288, R289). A lock that comes back in TRAIN finds a head that may have sent its identity before; it is asked again (R287). -/
def Chip.uplinkLock (c : Chip) (now t : Nat) (locked : Bool) : Chip :=
  let c := c.when (locked && (c.tile t).lockLost.isSome && c.link t == Lk.train) fun c => c.askIdentity now t
  let c := c.setFlag (Fld.TILE_LINK_STATUS_UP_LOCK t) locked
  (c.updTile t fun x => { x with lockLost := if locked then none else some (x.lockLost.getD now) }).tryIdent t

/-- The bytes of a block once it is descrambled, byte 0 first. -/
def blockBytes (l : List Bool) : List Nat := (List.range 8).map fun i => natOfBits ((l.drop (8 * i)).take 8)

/-- A control block that the link does not have: another type, or a KILL that is not all 0xA5 (R266). -/
def invalidBlock (l : List Nat) : Bool :=
  !([0x1E, 0x78, 0x4B, 0x55, 0x2D].contains (l.headD 0)) || (l.headD 0 == 0x2D && (l.drop 1).any (· != 0xA5))

/-- The receiver after a block: it gains lock after 64 blocks in succession with valid sync headers, and loses it when 16 of 64 were bad; under lock it follows the frames (R266, R268, R269). -/
def RxLane.take (x : RxLane) (locked : Bool) (b : LaneBlock) : RxLane × Bool :=
  let (bs, desc) := throughBits descrambleBit x.desc ((List.range 64).map fun i => b.data.getLsbD i)
  let l := blockBytes bs
  let valid := b.sync == 1 || b.sync == 2
  let x := { x with desc := desc }
  if !locked then
    let run := if valid then x.run + 1 else 0
    if 64 ≤ run then ({ x with run := 0, window := [], left := 0 }, true) else ({ x with run := run }, false)
  else
    let window := ((!valid || (b.sync == 2 && invalidBlock l)) :: x.window).take 64
    if 16 ≤ window.count true then ({ x with run := 0, window := [] }, false)
    else
      let left := if b.sync == 2 && l.headD 0 == 0x78 then l.getD 3 0 + 1 else if b.sync == 1 then x.left - 1 else x.left
      ({ x with window := window, left := left }, true)

/-- A block arrives on the uplink; a frame that the loss of lock cuts is discarded and counted (R268, R269). -/
def Chip.uplinkBlock (c : Chip) (now t : Nat) (b : LaneBlock) : Chip :=
  let was := c.flag (Fld.TILE_LINK_STATUS_UP_LOCK t)
  let (x, locked) := (c.tile t).rx.take was b
  let cut := was && !locked && x.left != 0
  let c := c.updTile t fun y => { y with rx := if cut then { x with left := 0 } else x }
  let c := c.when cut fun c => c.bump (Fld.TILE_LINK_COUNT_DISCARD t)
  c.when (locked != was) fun c => c.uplinkLock now t locked

/-- UPLINK_BLOCK_LOCK: the blocks by which the engine gains or loses uplink block lock, whatever the state of a link that has left OFF (R266, R268). [DESIGN CHOICE: log 146] -/
def Chip.uplinkBlocks (c : Chip) (now t : Nat) (l : List LaneBlock) : Chip :=
  if !c.lit t then c else c.each l fun b c => c.uplinkBlock now t b

/-- The cause by which a link fails now, 0 for none (R289). [DESIGN CHOICE: log 76, 131] -/
def Chip.failCause (c : Chip) (now t : Nat) : Nat :=
  let x := c.tile t
  if c.link t < Lk.ident ∨ Lk.up < c.link t then 0
  else if x.lockLost.any fun l => decide (l + 50000 ≤ now) then 1
  else if (x.flight.any fun (f : DnFrame) => decide (8 ≤ f.copies) && decide (f.at_ + 6000 ≤ now))
      || (x.rxSeen.any fun e => decide (8 ≤ e.2.1) && decide (e.2.2 + 6000 ≤ now)) then 2
  else if x.lastUp + 200000 ≤ now then 3 else 0

/-- LINK_FAIL: KILL, FAILED, LINK_DOWN and the record; the tile is lost (R208, R289). [DESIGN CHOICE: log 76, 131] -/
def Chip.linkFail (c : Chip) (now t : Nat) : Chip :=
  match c.failCause now t with
  | 0 => c
  | k =>
    let c := c.kill now t 3
    let c := (c.setLink t Lk.failed).raise (Ev.TILE_LINK_EVENT_LINK_DOWN t)
    (((c.linkFault t k 0).losePages t).updTile t fun x => { x with failedAt := some now, flight := [], waiting := [], loads := [] }).forgetStamps t

/-- LINK_RETRAIN: 1 ms after the failure; the head is asked for its identity, for one that kept downlink lock does not send it by itself (R287 to R289). -/
def Chip.linkRetrain (c : Chip) (now t : Nat) : Chip :=
  match (c.tile t).failedAt with
  | some f => if c.link t == Lk.failed && decide (f + 1000000 ≤ now) then (c.enterTrain now t).askIdentity now t else c
  | none => c

/-- TRAIN_TIMEOUT: a link not UP in time is reported missing, and 100 ms after each entry into TRAIN with cause 7 (R288, R466, R469, R472). -/
def Chip.trainTimeout (c : Chip) (now t : Nat) : Chip :=
  let l := (c.tile t).trainAt
  let limit := if c.eng.starting && c.eng.wake then 20000000 else 100000000
  let c := c.when (l.any fun a => decide (a + limit ≤ now)) fun c => c.tileMissing t 1
  let (slow, left) := l.partition fun a => decide (a + 100000000 ≤ now)
  (c.updTile t fun x => { x with trainAt := left }).each slow fun _ c => (c.raise (Ev.TILE_LINK_EVENT_TRAIN_SLOW t)).linkFault t 7 0

/-- KILL_REPEAT: one KILL block while a cause persists (R279). -/
def Chip.killRepeat (c : Chip) (t : Nat) : Chip :=
  if c.lit t && (c.tile t).kill != 0 then c.putBlocks t 0x2D 1 (List.replicate 7 0xA5) else c

/-- The tiles of a timebase group (R265). [DESIGN CHOICE: log 77] -/
def groupTiles (g : Nat) : List Nat := rangeFrom (8 * g) 8

/-- The counts of a window agree within 2 (R285). -/
def DllWindow.agrees (w : DllWindow) : Bool := decide (w.delayed ≤ w.reference + 2) && decide (w.reference ≤ w.delayed + 2)

/-- A window in which the DLL is locked: the counts agree and the detector is centred within 1/64 period (R285). -/
def DllWindow.locked (w : DllWindow) : Bool := w.agrees && decide (w.offset.natAbs ≤ 1)

/-- A window in which a DLL loses lock: the counts disagree, or the detector stayed off centre for 1,024 cycles (R285). -/
def DllWindow.loses (w : DllWindow) : Bool := !w.agrees || decide (1024 ≤ w.offCycles)

/-- A group loses DLL lock: its links switch to the bypass clock, or stay on it (R285, R286). [DESIGN CHOICE: log 77] -/
def Chip.dllLost (c : Chip) (now g cause : Nat) : Chip :=
  if !c.fast then c else
  let was := c.flag (Fld.TILE_LINK_STATUS_DLL_BYPASS (8 * g))
  let c := c.each (groupTiles g) fun t c => c.setFlag (Fld.TILE_LINK_STATUS_DLL_LOCK t) false
  if was then c else
  let c := c.each (groupTiles g) fun t c =>
    (c.setFlag (Fld.TILE_LINK_STATUS_DLL_BYPASS t) true).raise (Ev.TILE_LINK_EVENT_LINK_DLL_BYPASS t)
  let c := c.event Rc.LINK_DLL_BYPASS 0 (g + cause * 256)
  c.each (groupTiles g) fun t c => c.tryTables now t

/-- DLL_LOCK_LOST: a window in which the group's DLL loses lock (R285). -/
def Chip.dllWindowLost (c : Chip) (now g : Nat) (w : DllWindow) : Chip := if w.loses then c.dllLost now g 1 else c

/-- DLL_LOCK_RESTORED: a locked window locks the group's DLL, which takes over from the bypass clock when its last 16 windows were locked ones (R285, R286). REF must be present. [DESIGN CHOICE: log 77] -/
def Chip.dllLocked (c : Chip) (now g : Nat) (ws : List DllWindow) : Chip :=
  let was := c.flag (Fld.TILE_LINK_STATUS_DLL_BYPASS (8 * g))
  if c.eng.refLost || !c.fast || !(ws.getLast?.any DllWindow.locked) then c
  else
    let takes := was && decide (16 ≤ ws.length) && (ws.drop (ws.length - 16)).all DllWindow.locked
    let c := c.each (groupTiles g) fun t c =>
      (c.setFlag (Fld.TILE_LINK_STATUS_DLL_LOCK t) true).setFlag (Fld.TILE_LINK_STATUS_DLL_BYPASS t) (was && !takes)
    let c := c.when takes fun c => c.event Rc.LINK_DLL_LOCK 0 g
    c.each (groupTiles g) fun t c => c.tryTables now t

/-- M0 is fixed once every tile to be brought up is UP or missing; a tile in an unpowered quad is missing at once (R466). [DESIGN CHOICE: log 120] -/
def Chip.checkM0 (c : Chip) (now : Nat) : Chip :=
  if !c.eng.starting || c.eng.m0.isSome || c.eng.rebuilding then c else
  if (c.eng.boot.filter c.tileOn).all fun t => c.link t == Lk.up || (c.tile t).missing then c.updEng fun x => { x with m0 := some now } else c

/-- QUAD_EN is read, and the links of every enabled tile, which start-up brings up, begin to train; those in unpowered quads are missing (R72, R466). [DESIGN CHOICE: log 120] -/
def Chip.trainAll (c : Chip) (now : Nat) : Chip :=
  let c := c.updEng fun x => { x with quads := c.fld Fld.GLOBAL_PWR_CTL_QUAD_EN, boot := c.onTiles }
  c.each c.onTiles fun t c => if c.quadOn t then c.tryTrain now t else c.tileMissing t 1

end Sys2Proof.Machine
end

