-- ==== Sys2Proof/Machine/SeamUnit.lean ====
section
/-! DEFINITION. The seam unit: line-scan triggers and lines, marks, centroids, results and automatic corrections (R249 to R262, R428, R429).
-/
namespace Sys2Proof.Machine

/-- The port is enabled, with its clock (R263). -/
def Chip.lscanOn (c : Chip) : Bool := c.flag Fld.SEAM_CTL_LSCAN_EN && c.flag Fld.GLOBAL_CLK_CTL_LSCAN_EN && c.fast

/-- Disabling the port. -/
def Chip.lscanStop (c : Chip) : Chip := c.updSeam fun x => { x with nextTrig := none, outstanding := none, gone := false }

/-- CAM_OFFSET in sub-lines (R254). -/
def Chip.camOffset (c : Chip) : Nat := c.seam.cam

/-- The write of CAM_OFFSET_HI applies both words (R263). [DEDUCED: log 22] -/
def Chip.applyCam (c : Chip) : Chip :=
  c.updSeam fun x => { x with cam := c.pair Reg.SEAM_CAM_OFFSET_LO Reg.SEAM_CAM_OFFSET_HI % 2 ^ 48 }

/-- The registers that a measurement reads once (R263). -/
def seamConfig : List Nat :=
  [Reg.SEAM_CTL, Reg.SEAM_LSCAN_MAP, Reg.SEAM_LSCAN_DOT0, Reg.SEAM_EDGE_POS, Reg.SEAM_EDGE_SHAPE, Reg.SEAM_AUTO, Reg.SEAM_LIMIT]
    ++ (List.range 8).map Reg.SEAM_MEAS

/-- A measurement that begins reads the registers of the seam unit (R263). [DESIGN CHOICE: log 82] -/
def Meas.begins (m : Meas) (c : Chip) : Meas := { m with regs := seamConfig.map fun r => (r, c.reg r), cam := c.camOffset }

/-- The chip with the registers of the seam unit as a measurement read them (R263). -/
def Chip.asRead (c : Chip) (m : Meas) : Chip := m.regs.foldl (fun c e => c.setReg e.1 e.2) c

/-- The page position of a line triggered at a belt position (R254). -/
def Meas.pageY (m : Meas) (b : Nat) : Option Int := m.origin.map fun o => beltDist b (beltAdd (m.cam + o) 0)

/-- A page position lies in the window of a mark that was printed (R258, R260). -/
def Mark.inY (k : Mark) (y : Int) : Bool := !k.unprinted && decide ((2 * y - k.y).natAbs ≤ 128 * k.my)

/-- A captured line enters the window of a mark (R258). [DESIGN CHOICE: log 82] -/
def Chip.addLine (c : Chip) (k : Mark) (y : Int) (px : List Nat) : Mark :=
  let th := c.fld (Fld.SEAM_MEAS_THRESH k.station)
  let bright := c.flag (Fld.SEAM_MEAS_POL k.station)
  let dot0 := c.fldS Fld.SEAM_LSCAN_DOT0_DOT0
  let scale := c.fld Fld.SEAM_LSCAN_MAP_SCALE
  ((List.range px.length).zip px).foldl (fun (k : Mark) u =>
    let x := dot0 + u.1 * scale
    let w := if bright then u.2 - th else th - u.2
    if w == 0 || decide (256 * k.m < (x - k.x).natAbs) then k
    else { k with mass := k.mass + w, sumX := k.sumX + w * x, sumY := k.sumY + w * y }) k

/-- A line at a belt position, with its pixels or none when it was discarded or skipped, enters every window it lies in (R258, R259). -/
def Chip.enterLine (c : Chip) (b : Nat) (px : Option (List Nat)) : Chip :=
  let enter (m : Meas) : Meas :=
    match m.pageY b with
    | none => m
    | some y =>
      let mark (k : Mark) : Mark := if !k.inY y then k else match px with
        | some l => (c.asRead m).addLine k y l
        | none => { k with bad := true }
      { m with marks := m.marks.map mark }
  c.updSeam fun x => { x with meas := x.meas.map enter }

/-- The centroid of a mark in 1/256 dot and 1/256 sub-line (R258); of a mark without mass the manual gives none, and it is a free value. [DESIGN CHOICE: log 82, 144] -/
def Mark.centroid (k : Mark) : Int × Int :=
  if k.mass = 0 then ((Config.freeWord k.seed).toInt, (Config.freeWord (k.seed + 1)).toInt)
  else (rdivI k.sumX k.mass, rdivI (256 * k.sumY) k.mass)

/-- The mass of a mark lies below MIN_MASS (R259). -/
def Chip.faint (c : Chip) (k : Mark) : Bool := k.mass == 0 || decide (k.mass < 256 * c.fld (Fld.SEAM_MEAS_MIN_MASS k.station))

/-- The tile at a station and a position. -/
def Chip.tileAt (c : Chip) (s pos : Nat) : Option Nat := (c.tilesOf s).find? fun t => c.positionOf t == pos

/-- The switch units whose corrections affect the tile of a mark: its tile and its station (R259). [DESIGN CHOICE: log 82] -/
def Chip.markUnits (c : Chip) (k : Mark) : List Nat := (8 + k.station) :: ((c.tileAt k.station k.pos).map fun t => 16 + t).toList

/-- A mark is stale: written before the last switch of an automatic correction of its tile, or such a correction waits (R259). [DESIGN CHOICE: log 83] -/
def Chip.stale (c : Chip) (m : Meas) (k : Mark) : Bool :=
  let us := c.markUnits k
  let waits := (c.txn.commits.any fun (x : Commit) => x.auto && us.any fun u => x.left.contains u)
    || c.seam.held.any fun e => us.contains (unitOf e.1)
  let since := (c.tileAt k.station k.pos).bind fun t => (c.tile t).corrected
  waits || since.any fun e => decide (m.page < e.1) || (m.page == e.1 && decide (k.line < e.2))

/-- The status of a result from its marks and its values (R259, R260). -/
def Chip.resultStatus (c : Chip) (m : Meas) (ks : List Mark) (dx dy : Int) : Nat :=
  if ks.any (·.unprinted) then 2
  else if ks.any (·.bad) then 1
  else if ks.any c.faint then 2
  else if (c.fld Fld.SEAM_LIMIT_LIMIT_X : Int) < dx.natAbs ∨ (c.fld Fld.SEAM_LIMIT_LIMIT_Y : Int) < dy.natAbs then 3
  else if ks.any (c.stale m) then 4 else 0

/-- The mean of integers, rounded to nearest. [DESIGN CHOICE: log 82] -/
def meanI (l : List Int) : Int := rdivI (sumI l) (max 1 l.length)

/-- Marks of a result, or a mark without mass where the map or the page has none (R259). [DESIGN CHOICE: log 144] -/
def Meas.orMissing (m : Meas) (s seam : Nat) (l : List Mark) : List Mark :=
  if l.isEmpty then [{ station := s, pos := 0, role := 2, seam := seam, x := 0, y := 0, m := 0, my := 0, line := 0, seed := m.seed + 2 * (16 * s + seam) }]
  else l

/-- The seam and registration results of a strip or a calibration page (R259). [DESIGN CHOICE: log 82] -/
def Chip.seamResults (c : Chip) (m : Meas) : List SeamResult :=
  let of (p : Mark → Bool) : List Mark := m.marks.filter p
  let xs (l : List Mark) : Int := meanI (l.map fun k => k.centroid.1)
  let ys (l : List Mark) : Int := meanI (l.map fun k => k.centroid.2)
  let seams := ((of fun k => k.role != 2).map fun k => (k.station, k.seam)).eraseDups.map fun e =>
    let a := m.orMissing e.1 e.2 (of fun k => k.role == 0 && k.station == e.1 && k.seam == e.2)
    let b := m.orMissing e.1 e.2 (of fun k => k.role == 1 && k.station == e.1 && k.seam == e.2)
    let size := maxN ((a ++ b).map (·.m))
    let dx := rdivI (xs b - xs a - 512 * size) 4
    let dy := rdivI (ys b - ys a) 256
    (⟨e.1, e.2, dx, dy, c.resultStatus m (a ++ b) dx dy⟩ : SeamResult)
  let ref := c.fld Fld.SEAM_CTL_REF_STN
  let regs := ((of fun k => k.role == 2).map (·.station)).eraseDups.map fun s =>
    let a := of fun k => k.role == 2 && k.station == s
    let b := m.orMissing ref 15 (of fun k => k.role == 2 && k.station == ref)
    let size := (a.head?).elim 0 (·.m)
    let dx := rdivI (xs a - xs b) 4
    let dy := rdivI (ys a - ys b) 256 - 64 * 3 * size * ((s : Int) - ref)
    (⟨s, 15, dx, dy, c.resultStatus m (a ++ b) dx dy⟩ : SeamResult)
  seams ++ regs

/-- The status of one mark in its report: that of the first result it takes part in (R429). -/
def markStatus (rs : List SeamResult) (k : Mark) : Nat :=
  (rs.find? fun r => r.station == k.station && r.seam == (if k.role = 2 then 15 else k.seam)).elim 2 (·.status)

/-- The 16-byte reports of the marks of a result set (R429). -/
def markReports (ks : List Mark) (rs : List SeamResult) : List Word :=
  ks.flatMap fun k =>
    let e := k.centroid
    [BitVec.ofInt 32 e.1, BitVec.ofInt 32 e.2, BitVec.ofNat 32 (k.mass / 256),
      BitVec.ofNat 32 (k.station + k.pos % 16 * 8 + k.role * 128 + k.seam % 16 * 512 + markStatus rs k * 8192)]

/-- The result registers of a result: offset of word 0. -/
def resultReg (r : SeamResult) : Nat := if r.seam = 15 then Reg.SEAM_REG_RES_VAL r.station else Reg.SEAM_RES_VAL r.station r.seam

/-- Put results into SEAM.RES and SEAM.REG_RES (R260, R263). [DESIGN CHOICE: log 83] -/
def Chip.showResults (c : Chip) (source : Nat) (rs : List SeamResult) : Chip :=
  c.each rs fun r c =>
    let off := resultReg r
    let n := bits (c.reg (off + 4)).toNat 31 16 + 1
    let c := c.setReg off (BitVec.ofNat 32 (pattern 16 (satS 16 r.dx) + pattern 16 (satS 16 r.dy) * 65536))
    c.setReg (off + 4) (BitVec.ofNat 32 (r.status + source * 256 + n % 65536 * 65536))

/-- A seam result as a correction uses it: 0 inside the deadband (R261). -/
def Chip.deadband (c : Chip) (r : SeamResult) : Int × Int :=
  if r.dx.natAbs ≤ c.fld Fld.SEAM_AUTO_DB_X ∧ r.dy.natAbs ≤ c.fld Fld.SEAM_AUTO_DB_Y then (0, 0) else (r.dx, r.dy)

/-- The sums of the seam results below a position, none beyond a seam that is not VALID (R261). -/
def Chip.seamSums (c : Chip) (rs : List SeamResult) (s : Nat) : Nat → Option (Int × Int)
  | 0 => some (0, 0)
  | i + 1 =>
    match c.seamSums rs s i, rs.find? fun r => r.station == s && r.seam == i with
    | some (x, y), some r => if r.status = 0 then let d := c.deadband r; some (x + d.1, y + d.2) else none
    | _, _ => none

/-- A value times GAIN ÷ 16, rounded (R261). -/
def Chip.gained (c : Chip) (v : Int) : Int := rdivI (v * c.fld Fld.SEAM_CTL_GAIN) 16

/-- The new offsets of a station: register, mask and data; none when a value would leave its field (R261). -/
def Chip.stationCorrection (c : Chip) (rs : List SeamResult) (s : Nat) : Option (List (Nat × Word × Word)) :=
  let reg := rs.find? fun r => r.station == s && r.seam == 15 && r.status == 0 && s != c.fld Fld.SEAM_CTL_REF_STN
  let dxs : Int := reg.elim 0 (·.dx)
  let dys : Int := reg.elim 0 (·.dy)
  let fits (w : Nat) (v : Int) : Bool := satS w v == v
  let tiles := (c.tilesOf s).filterMap fun t =>
    match c.seamSums rs s (c.positionOf t) with
    | none => none
    | some (sx, sy) =>
      let x := c.fldS (Fld.TILE_POS_OFFSET_X_OFFSET t) - c.gained (dxs + sx)
      let y := c.fldS (Fld.TILE_POS_OFFSET_Y_OFFSET t) - c.gained sy
      some (Reg.TILE_POS_OFFSET t, x, y)
  let r := c.fldS (Fld.STATION_REG_OFFSET_OFFSET s) - c.gained dys
  if tiles.all (fun e => fits 16 e.2.1 && fits 16 e.2.2) && fits 24 r then
    some ((tiles.map fun e => (e.1, 0xFFFFFFFF, BitVec.ofNat 32 (pattern 16 e.2.1 + pattern 16 e.2.2 * 65536)))
      ++ [(Reg.STATION_REG_OFFSET s, 0x00FFFFFF, BitVec.ofNat 32 (pattern 24 r))])
  else none

/-- An entry that changes its register. -/
def Chip.changes (c : Chip) (e : Nat × Word × Word) : Bool := (c.reg e.1 &&& e.2.1) != (e.2.2 &&& e.2.1)

/-- Commit a correction of a partition AT_BELT at the belt position plus LEAD; the results it uses carry APPLIED (R262, R263). [DESIGN CHOICE: log 31] -/
def Chip.commitAuto (c : Chip) (now tag part lead : Nat) (es : List (Nat × Word × Word)) (used : List (Nat × Nat)) : Chip :=
  let at_ := beltAdd c.beltPos lead
  let entries : List Staged := es.map fun e => Staged.reg e.1 e.2.1 e.2.2
  let c := c.each (List.range 8) fun s c => (c.each (List.range 15) fun j c => c.setFlag (Fld.SEAM_RES_STAT_APPLIED s j) false).setFlag
    (Fld.SEAM_REG_RES_STAT_APPLIED s) false
  let c := c.each used fun e c =>
    if e.2 = 15 then c.setFlag (Fld.SEAM_REG_RES_STAT_APPLIED e.1) true else c.setFlag (Fld.SEAM_RES_STAT_APPLIED e.1 e.2) true
  let c := c.updSeam fun x => { x with held := [], heldFor := [] }
  c.schedule now { part := part, seq := tag, tag := tag, opcode := 0, auto := true, trig := .belt at_, entries := entries }

/-- The results that the correction of a station uses: the VALID seams up to the furthest tile it reaches, and its VALID registration unless it is the reference (R261, R263). -/
def Chip.usedResults (c : Chip) (rs : List SeamResult) (s : Nat) : List (Nat × Nat) :=
  let reach := maxN (((c.tilesOf s).map c.positionOf).filter fun i => (c.seamSums rs s i).isSome)
  (rs.filter fun r => r.station == s && r.status == 0
    && (if r.seam = 15 then s != c.fld Fld.SEAM_CTL_REF_STN else decide (r.seam < reach))).map fun r => (s, r.seam)

/-- New offsets are derived from a result set (R261). -/
def Chip.corrects (c : Chip) (m : Meas) : Bool := c.flag Fld.SEAM_CTL_AUTO_EN && (m.source != 2 || c.flag Fld.SEAM_CTL_AUTO_CAL)

/-- The automatic correction of a complete result set: what it commits or holds, the results as they then stand, and those it uses (R261 to R263). [DESIGN CHOICE: log 31] -/
def Chip.autoEntries (c : Chip) (m : Meas) (rs : List SeamResult) : List (Nat × Word × Word) × List SeamResult × List (Nat × Nat) :=
  if !c.corrects m then ([], rs, []) else
  (rs.map (·.station)).eraseDups.foldl (fun (a : List (Nat × Word × Word) × List SeamResult × List (Nat × Nat)) s =>
    match c.stationCorrection rs s with
    | some es => (a.1 ++ es.filter c.changes, a.2.1, a.2.2 ++ c.usedResults rs s)
    | none => (a.1, a.2.1.map fun (r : SeamResult) => if r.station == s then { r with status := 3 } else r, a.2.2)) ([], rs, [])

/-- The number the next event record takes (R30). -/
def Chip.nextNumber (c : Chip) (x : Ctx) : Nat := (x.merge.absorb c x.now c.emits).2.nextSeq

/-- A result set is complete: registers, reports, the correction and the SEAM_MEASURED record; it replaces a held correction (R260 to R262). [DESIGN CHOICE: log 31] -/
def Chip.finishSet (c : Chip) (x : Ctx) (m : Meas) (rs : List SeamResult) (reports : List Word) : Chip :=
  let v := c.asRead m
  let (es, rs, used) := v.autoEntries m rs
  let c := (c.when (v.corrects m) fun c => c.updSeam fun y => { y with held := [], heldFor := [] }).showResults m.source rs
  let c := c.updSeam fun y => { y with reports := updAt y.reports (m.source - 1) fun _ => reports }
  let p := v.fld Fld.SEAM_CTL_PART
  let lead := v.fld Fld.SEAM_AUTO_LEAD
  let priv := bit (c.classes p) 2
  let c := c.when (!es.isEmpty && !priv) fun c => c.raise Ev.SEAM_EVENT_AUTO_PRIV
  let busy := (c.commitOf p).isSome
  let go := !es.isEmpty && priv
  let tag := c.nextNumber x
  let good := (rs.filter fun r => r.status == 0).length
  let detail := satN 255 good + satN 255 (rs.length - good) * 256 + m.source * 65536 + b2n (go && !busy) * 2 ^ 18
  let c := c.raise Ev.SEAM_EVENT_MEASURED
  let c := if m.source = 2 then c.eventTo m.part Rc.SEAM_MEASURED 0x42 m.tag detail else c.event Rc.SEAM_MEASURED m.tag detail
  let c := match m.slot with
    | some k => c.result k Rc.OK
    | none => c
  if !go then c
  else if busy then c.updSeam fun y => { y with heldTag := tag, held := es, heldFor := used, heldPart := p, heldLead := lead }
  else c.commitAuto x.now tag p lead es used

/-- SEAM_HELD_COMMIT: the partition's waiting commit has ended, and the held correction is committed, unless the partition lacks SERVICE (R262). -/
def Chip.heldCommit (c : Chip) (now : Nat) : Chip :=
  let p := c.seam.heldPart
  if c.seam.held.isEmpty || (c.commitOf p).isSome then c
  else if !bit (c.classes p) 2 then (c.updSeam fun x => { x with held := [], heldFor := [] }).raise Ev.SEAM_EVENT_AUTO_PRIV
  else c.commitAuto now c.seam.heldTag p c.seam.heldLead c.seam.held c.seam.heldFor

/-- The edge marks of period i of a page (R257). [DESIGN CHOICE: log 82] -/
def Chip.edgeMarks (c : Chip) (stns : List Nat) (i : Nat) : List Mark :=
  let pitch := c.fld Fld.SEAM_EDGE_SHAPE_EDGE_PITCH
  let len := c.fld Fld.SEAM_EDGE_SHAPE_EDGE_LEN
  let w := c.fld Fld.SEAM_EDGE_SHAPE_EDGE_W
  stns.map fun s => {
    station := s, pos := 0, role := 2, seam := 15, x := 256 * ((c.fld Fld.SEAM_EDGE_POS_EDGE_DOT + 2 * w * s : Nat) : Int)
    y := 128 * (i * pitch : Nat) + 64 * ((len : Int) - 1), m := w, my := len, line := i * pitch }

/-- What a period of edge marks gives for each station (R257, R259). [DESIGN CHOICE: log 82] -/
def Chip.edgeSamples (c : Chip) (m : Meas) : List EdgeSample :=
  let ref := m.orMissing (c.fld Fld.SEAM_CTL_REF_STN) 15 (m.marks.filter fun k => k.station == c.fld Fld.SEAM_CTL_REF_STN)
  m.marks.map fun k =>
    let ks := k :: ref
    { station := k.station, bad := ks.any (·.bad), faint := ks.any c.faint, stale := ks.any (c.stale m)
      dy := k.centroid.2 - (ref.head?).elim 0 fun r => r.centroid.2 }

/-- A period of edge marks is complete: after eight the mean gives the registration results of the stations, whose status is the first that holds in one of the eight (R257, R259). [DESIGN CHOICE: log 82] -/
def Chip.edgePeriod (c : Chip) (x : Ctx) (m : Meas) : Chip :=
  let v := c.asRead m
  let all := v.edgeSamples m :: c.seam.edges
  if all.length < 8 then c.updSeam fun y => { y with edges := all }
  else
    let rs := m.marks.map fun k =>
      let l := all.flatMap fun (e : List EdgeSample) => e.filter fun (v : EdgeSample) => v.station == k.station
      let dy := rdivI (sumI (l.map (·.dy))) (8 * 256)
      let st := if l.any (·.bad) then 1 else if l.any (·.faint) || decide (l.length < 8) then 2
        else if v.fld Fld.SEAM_LIMIT_LIMIT_Y < dy.natAbs then 3 else if l.any (·.stale) then 4 else 0
      (⟨k.station, 15, 0, dy, st⟩ : SeamResult)
    (c.updSeam fun y => { y with edges := [] }).finishSet x m rs (markReports m.marks rs)

/-- Give the marks of a measurement the arguments of their free centroids. [DESIGN CHOICE: log 144] -/
def Chip.seedMarks (c : Chip) (m : Meas) : Meas × Chip :=
  ({ m with seed := c.free, marks := m.marks.zipIdx.map fun (k : Mark × Nat) => { k.1 with seed := c.free + 512 + 2 * k.2 } },
   { c with free := c.free + 512 + 2 * m.marks.length })

/-- The page position after which a measurement is complete, in sub-lines. -/
def Meas.endY (m : Meas) : Int := m.marks.foldl (fun e k => max e ((k.y + 128 * k.my) / 2)) 0

/-- A belt position lies past all windows of a measurement. -/
def Meas.passed (m : Meas) (b : Nat) : Bool :=
  match m.pageY b with
  | some y => decide (m.endY < y)
  | none => false

/-- The edge marks of a page from period i on, while they fit its lines (R257). -/
def Chip.edgesFrom (c : Chip) (m : Meas) (i : Nat) : Option Meas :=
  if c.flag Fld.SEAM_CTL_EDGE_EN && decide (i * c.fld Fld.SEAM_EDGE_SHAPE_EDGE_PITCH + c.fld Fld.SEAM_EDGE_SHAPE_EDGE_LEN ≤ m.lines) then
    some ((Meas.begins { m with marks := c.edgeMarks (m.marks.map fun k => k.station) i } c))
  else none

/-- Measurements that a line at a belt position has passed are complete (R257, R260). -/
def Chip.completeMeas (c : Chip) (x : Ctx) (b : Nat) : Chip :=
  let done := c.seam.meas.filter fun m => m.passed b
  let c := c.updSeam fun y => { y with meas := y.meas.filter fun m => !m.passed b }
  done.foldl (fun (c : Chip) m =>
    let (m, c) := c.seedMarks m
    if m.source = 3 then
      let c := c.edgePeriod x m
      let i := ((m.marks.head?).elim 0 (·.line)) / max 1 (c.fld Fld.SEAM_EDGE_SHAPE_EDGE_PITCH) + 1
      c.updSeam fun y => { y with meas := y.meas ++ (c.edgesFrom m i).toList }
    else
      let rs := (c.asRead m).seamResults m
      c.finishSet x m rs (markReports m.marks rs)) c

/-- A line at a belt position, with its pixels or none when it was discarded or skipped: what it has passed is complete, and it enters the windows it lies in, those of the next edge marks among them (R257 to R260). -/
def Chip.takeLine (c : Chip) (x : Ctx) (b : Nat) (px : Option (List Nat)) : Chip := (c.completeMeas x b).enterLine b px

/-- Strips and edge marks that pass the camera while the port is off are not measured; the edge marks still to come are. [DESIGN CHOICE: log 144] -/
def Chip.dropPassed (c : Chip) : Chip :=
  let len := c.fld Fld.SEAM_EDGE_SHAPE_EDGE_LEN
  let next (m : Meas) (y : Int) : Nat := cdiv (y - 32 * ((len : Int) - 1) - 64 * len).toNat (64 * max 1 (c.fld Fld.SEAM_EDGE_SHAPE_EDGE_PITCH))
  let keep (m : Meas) : Option Meas :=
    if m.source = 2 || !m.passed c.beltPos then some m
    else if m.source = 3 then (m.pageY c.beltPos).bind fun y => c.edgesFrom m (next m y)
    else none
  c.updSeam fun x => { x with meas := x.meas.filterMap keep }

/-- Enabling the port: the sensor and the engine count triggers from 0, and the first falls one pitch ahead (R250, R251). [DESIGN CHOICE: log 81] -/
def Chip.lscanStart (c : Chip) : Chip :=
  ((c.setFld Fld.SEAM_LSCAN_STATUS_LINE_ID 0).updSeam fun x => { x with
    nextTrig := some (beltAdd c.beltPos (c.fld Fld.SEAM_LSCAN_TRIG_PITCH)), outstanding := none, gone := false, lineId := 0 }).dropPassed

/-- The marks of a page's strip (R255). -/
def Chip.stripMarks (c : Chip) (p : Page) : List Mark :=
  let m := p.markM
  p.stns.flatMap fun x =>
    let s := x.station
    let pitch := (c.stn s).pitch
    let line := p.lines + 3 * m * s + m
    let mark (pos role seam : Nat) (dot : Int) : Mark := {
      station := s, pos := pos, role := role, seam := seam, x := 256 * dot, y := 128 * (line : Int) + 64 * ((m : Int) - 1)
      m := m, my := m, line := line }
    mark 0 2 15 (pitch / 2 : Nat) :: ((List.range 15).filter fun j => decide ((j + 1) * pitch < p.width)).flatMap fun j =>
      [mark j 0 j (((j + 1) * pitch : Nat) - (m : Int)), mark (j + 1) 1 j (((j + 1) * pitch : Nat) + (m : Int))]

/-- A page starts: its strip, its edge marks and a SEAM_MEASURE that names it know their origin (R254 to R257, R428). -/
def Chip.startMeas (c : Chip) (p : Page) : Chip :=
  let give (m : Meas) : Meas := if m.page == p.seq then Meas.begins { m with origin := p.origin, offsets := p.offsets } c else m
  let base : Meas := Meas.begins { source := 1, page := p.seq, tag := p.tag, part := p.part, marks := [], origin := p.origin, offsets := p.offsets, lines := p.lines } c
  let strip := if p.strip then [{ base with marks := c.stripMarks p }] else []
  let edge := if c.flag Fld.SEAM_CTL_EDGE_EN && decide (c.fld Fld.SEAM_EDGE_SHAPE_EDGE_LEN ≤ p.lines) then
    [{ base with source := 3, marks := c.edgeMarks (p.stns.map (·.station)) 0 }] else []
  let c := c.when (!c.lscanOn) Chip.dropPassed
  c.updSeam fun x => { x with meas := x.meas.map give ++ strip ++ edge }

/-- A page was cut: marks of rows that were not printed will be missing, and edge marks end with its printed lines (R260). `n` is the first line cut. -/
def Chip.cutMeas (c : Chip) (seq n : Nat) : Chip :=
  let lost (k : Mark) : Mark := if k.line + k.my ≤ n then k else { k with unprinted := true, bad := false, mass := 0, sumX := 0, sumY := 0 }
  let cut (m : Meas) : Option Meas :=
    if m.page ≠ seq then some m
    else if m.source = 1 then some { m with marks := m.marks.map lost }
    else if m.source = 3 then (if m.marks.all fun k => decide (k.line + k.my ≤ n) then some { m with lines := min m.lines n } else none)
    else some m
  c.updSeam fun x => { x with meas := x.meas.filterMap cut }

/-- A page was cancelled or aborted: its SEAM_MEASURE completes with MEAS_INCOMPLETE, the results of complete marks standing (R428). [DESIGN CHOICE: log 83] -/
def Chip.cancelMeas (c : Chip) (seq : Nat) : Chip :=
  let mine (m : Meas) : Bool := m.page == seq && m.source == 2
  let l := c.seam.meas.filter mine
  let c := c.updSeam fun x => { x with meas := x.meas.filter fun m => !mine m }
  c.each l fun m c =>
    let (m, c) := c.seedMarks m
    let c := c.showResults 2 (((c.asRead m).seamResults m).filter fun r => r.status != 2)
    match m.slot with
    | some k => c.result k Rc.MEAS_INCOMPLETE
    | none => c

/-- LSCAN_TRIGGER: one pitch of forward belt travel pulses LS_TRIG, or the trigger is skipped as an overrun (R250, R251). [DESIGN CHOICE: log 81] -/
def Chip.lscanTrigger (c : Chip) (x : Ctx) : Chip :=
  match c.seam.nextTrig with
  | none => c
  | some p =>
    let b := c.beltPos
    if !c.lscanOn || !beltAtOrAfter b p then c else
    let c := c.updSeam fun y => { y with nextTrig := some (beltAdd p (c.fld Fld.SEAM_LSCAN_TRIG_PITCH)) }
    let blocked := match c.seam.outstanding with
      | some (t, _, _) => decide (x.now < t + 1000000)
      | none => false
    if blocked then
      ((c.bump Fld.SEAM_LSCAN_COUNT_OVERRUN).raise Ev.SEAM_EVENT_OVERRUN).takeLine x b none
    else
      let id := c.seam.lineId
      let c := c.updSeam fun y => { y with outstanding := some (x.now, id, b), pixels := c.fld Fld.SEAM_LSCAN_CFG_PIXELS, gone := false, lineId := (id + 1) % 1024 }
      (c.setFld Fld.SEAM_LSCAN_STATUS_LINE_ID (id + 1)).pin "LS_TRIG" 0 1

/-- The DLL that locked during a line takes over at its boundary (R253). -/
def Chip.lineBoundary (c : Chip) : Chip :=
  let c := if c.seam.pendLock then c.setFlag Fld.SEAM_LSCAN_STATUS_BYPASS false else c
  c.updSeam fun y => { y with pendLock := false }

/-- A line is discarded with a cause (R252). [DESIGN CHOICE: log 81] -/
def Chip.discardLine (c : Chip) (x : Ctx) (b cause : Nat) : Chip :=
  let c := ((c.bump Fld.SEAM_LSCAN_COUNT_BAD).setFld Fld.SEAM_LSCAN_STATUS_LAST_BAD cause).raise Ev.SEAM_EVENT_LINE_BAD
  c.takeLine x b none

/-- The words from one index on are a sync sequence (R250). -/
def syncAt (ws : List Nat) (i : Nat) : Bool := (ws.drop i).take 3 == [0x3FF, 0, 0]

/-- The words between LINE_ID and the next sync sequence, and those after that sequence; none where no sync sequence follows (R250). -/
def lineBody (ws : List Nat) : List Nat × Option (List Nat) :=
  match (List.range ws.length).find? fun i => decide (5 ≤ i) && syncAt ws i with
  | some i => ((ws.drop 5).take (i - 5), some (ws.drop (i + 3)))
  | none => (ws.drop 5, none)

/-- What a received line is: its pixels, or the cause of its discard, the first of the table that holds (R250, R252). [DESIGN CHOICE: log 81] -/
def Chip.readLine (c : Chip) (id : Nat) (ws : List Nat) : Except Nat (List Nat) :=
  let (px, tail) := lineBody ws
  let mark := tail.bind (·.head?)
  if ws.take 4 ≠ [0x3FF, 0, 0, 0x2AC] ∨ (mark.any fun w => w != 0x2AC && w != 0x1F0) then .error 1
  else if ws.getD 4 0 ≠ id then .error 2
  else if px.length ≠ c.seam.pixels ∨ mark ≠ some 0x1F0 then .error 3
  else if (tail.bind (·[1]?)) ≠ some (sumN px % 1024) then .error 4
  else if c.flag Fld.SEAM_LSCAN_STATUS_BYPASS && decide (75 < c.fld Fld.SEAM_LSCAN_STATUS_RATE) then .error 5
  else .ok px

/-- A line received, good or not, stays in the capture region under its LINE_ID (R253, R431). [DESIGN CHOICE: log 81] -/
def Chip.keepLine (c : Chip) (ws : List Nat) : Chip :=
  if ws.take 4 ≠ [0x3FF, 0, 0, 0x2AC] then c else
  let id := ws.getD 4 0
  c.updSeam fun y => { y with capture := ((id, (lineBody ws).1.take 16384) :: y.capture.filter fun e => e.1 % 64 != id % 64).take 64 }

/-- LSCAN_LINE: a line has ended; `words` are its words from the first sync word on (R250, R252, R258). [DESIGN CHOICE: log 81] -/
def Chip.lscanLine (c : Chip) (x : Ctx) (words : List Nat) : Chip :=
  match c.seam.outstanding with
  | none => c
  | some (_, id, b) =>
    let gone := c.seam.gone
    let c := c.updSeam fun y => { y with outstanding := none, gone := false }
    let ws := words.map (· % 1024)
    let c := c.keepLine ws
    let c := if gone then c else match c.readLine id ws with
      | .ok px => c.takeLine x b (some px)
      | .error k =>
        let c := if k = 2 then
            let n := (ws.getD 4 0 + 1) % 1024
            (c.updSeam fun y => { y with lineId := n }).setFld Fld.SEAM_LSCAN_STATUS_LINE_ID n
          else c
        c.discardLine x b k
    c.lineBoundary

/-- LSCAN_SYNC_TIMEOUT: no start of line within 100 µs of the trigger (R252). -/
def Chip.lscanSyncTimeout (c : Chip) (x : Ctx) : Chip :=
  match c.seam.outstanding with
  | some (t, _, b) =>
    if !c.seam.gone && decide (t + 100000 ≤ x.now) then
      (c.updSeam fun y => { y with gone := true }).discardLine x b 1
    else c
  | none => c

/-- LSCAN_LINE_TIMEOUT: no end of line within 1 ms of the trigger (R252). -/
def Chip.lscanTimeout (c : Chip) (x : Ctx) : Chip :=
  match c.seam.outstanding with
  | some (t, _, b) =>
    if x.now < t + 1000000 then c
    else
      let gone := c.seam.gone
      let c := c.updSeam fun y => { y with outstanding := none, gone := false }
      (if gone then c else c.discardLine x b 6).lineBoundary
  | none => c

/-- LSCAN_DLL_BYPASS: lock is lost; the bypass strobe samples, or goes on where a new lock has not taken over yet (R253). -/
def Chip.lscanBypass (c : Chip) (cause mhz : Nat) : Chip :=
  if !c.lscanOn || (c.flag Fld.SEAM_LSCAN_STATUS_BYPASS && !c.flag Fld.SEAM_LSCAN_STATUS_DLL_LOCK) then c else
  let c := (c.setFlag Fld.SEAM_LSCAN_STATUS_DLL_LOCK false).setFlag Fld.SEAM_LSCAN_STATUS_BYPASS true
  let c := (c.setFld Fld.SEAM_LSCAN_STATUS_RATE mhz).updSeam fun y => { y with pendLock := false }
  (c.raise Ev.SEAM_EVENT_LSCAN_DLL_BYPASS).event Rc.LSCAN_DLL_BYPASS 0 (cause + mhz * 256)

/-- LSCAN_DLL_LOCK: locked again; it takes over at the next line boundary (R253). -/
def Chip.lscanLock (c : Chip) (mhz : Nat) : Chip :=
  if !c.lscanOn then c else
  let c := (c.setFlag Fld.SEAM_LSCAN_STATUS_DLL_LOCK true).setFld Fld.SEAM_LSCAN_STATUS_RATE mhz
  if c.seam.outstanding.isSome then c.updSeam fun y => { y with pendLock := true }
  else c.setFlag Fld.SEAM_LSCAN_STATUS_BYPASS false

/-- The page dots that a tile can write in direction `d`, counted from its seam boundary at the datum side, with the bank of each direction read from its active or its shadow image (R245). -/
def Chip.reachOf (c : Chip) (t : Nat) (act : Nat → Bool) (d : Nat) : Int × Int :=
  let hdr (d k : Nat) : Nat := c.tabNat (act d) (0x80000 + (2 * t + d) * 0x40 + k) 2
  ((hdr d 10 : Int) - hdr 0 10, (hdr d 12 : Int) - hdr 0 10)

/-- SEAM_REACH: after PRIME a switch of placement banks has narrowed what a tile can write in some direction; `switched` are the directions whose bank it changed, the old one now being the shadow (R245). -/
def Chip.seamReach (c : Chip) (t : Nat) (switched : Nat → Bool) : Chip :=
  let narrower (d : Nat) : Bool :=
    let old := c.reachOf t (fun d => !switched d) d
    let new := c.reachOf t (fun _ => true) d
    decide (old.1 < new.1) || decide (new.2 < old.2)
  if c.tileOn t && (c.tile t).primed && [0, 1].any narrower then c.raise Ev.SEAM_EVENT_SEAM_REACH else c

end Sys2Proof.Machine
end

