-- ==== Sys2Proof/Machine/Drive.lean ====
section
/-! DEFINITION. Drive axes: carrier and duties, shunt sampling, commutation sources, starting, catching, braking, stopping and faults (R292 to R314, R420).
-/
namespace Sys2Proof.Machine

/-- Drive states (R315). -/
def Ds.disabled : Nat := 0
def Ds.offsetCal : Nat := 1
def Ds.catching : Nat := 2
def Ds.brake : Nat := 3
def Ds.run : Nat := 4
def Ds.openLoop : Nat := 5
def Ds.stopping : Nat := 6
def Ds.fault : Nat := 7

/-- The state of a drive axis. -/
def Chip.driveState (c : Chip) (a : Nat) : Nat := c.fld (Fld.DRIVE_STATUS_STATE a)

/-- No duty set is in force, and nothing of depth limiting stays in effect (R292, R298). -/
def Chip.dropDuties (c : Chip) (a : Nat) : Chip :=
  (c.setFlag (Fld.DRIVE_STATUS_DEPTH_LIM a) false).updDrive a fun x => { x with
    duty := [32768, 32768, 32768], recon := 0, next := none, owed := false, shortened := false
    gates := List.replicate 6 [] }

/-- Put a drive axis in a state; in DISABLED and FAULT all six outputs are low (R292). -/
def Chip.setDriveState (c : Chip) (a s : Nat) : Chip :=
  let c := c.setFld (Fld.DRIVE_STATUS_STATE a) s
  if s = Ds.disabled ∨ s = Ds.fault then (c.dropDuties a).pin "DRV" a 0 else c

/-- The gate outputs of an axis follow a new pattern from this instant on (R294, R309). -/
def Chip.setGates (c : Chip) (a : Nat) (g : List (List (Nat × Nat))) : Chip :=
  (c.updDrive a fun x => { x with gates := g }).send (.gates a g)

/-- The carrier period in ns (R293). -/
def Chip.carrierNs (c : Chip) (a : Nat) : Nat := c.fld (Fld.DRIVE_PWM_PERIOD a) * 4

/-- An instant is a carrier peak of an axis: a CTL cycle boundary with (engine time ÷ 4 ns − OFFSET) mod PERIOD = 0 (R293). -/
def Chip.atPeak (c : Chip) (now a : Nat) : Bool :=
  now % 4 == 0 && ((now / 4 : Nat) - (c.fld (Fld.DRIVE_PWM_PHASE_OFFSET a) : Int)) % (max 1 (c.fld (Fld.DRIVE_PWM_PERIOD a)) : Nat) == 0

/-- A speed given as 0.1 Hz in the fixed point of `Drive`. -/
def tenthHz (n : Nat) : Int := (n * 65536 : Nat)

/-- One electrical period at a speed, in ns (R304, R306, R308). -/
def elecPeriod (v : Int) : Nat := if v = 0 then 0 else 10000000000 * 65536 / v.natAbs

/-- The speed slot's and the current block's slots: the enabled FOC slot whose DEST is the axis (R354, R372). [DESIGN CHOICE: log 87] -/
def Chip.focSlot (c : Chip) (a : Nat) : Option Nat :=
  (List.range 96).find? fun n => c.fld (Fld.WINDLASS_SLOT_CFG_LAW n) == 2 && c.fld (Fld.WINDLASS_SLOT_CFG_DEST n) == a

/-- Forward or backward as DIR_INV counts it (R302). [DESIGN CHOICE: log 87] -/
def Chip.driveSign (c : Chip) (a : Nat) (v : Int) : Int := if c.flag (Fld.DRIVE_CFG_DIR_INV a) then -v else v

/-- The electrical speed that a feedback channel gives an axis: counts/s × POLE_PAIRS ÷ CPR (R303). -/
def Chip.encElec (c : Chip) (a ch : Nat) : Int :=
  c.driveSign a (c.chanSpeed ch * 10 * c.fld (Fld.DRIVE_CFG_POLE_PAIRS a) / (max 1 (c.chanCpr ch) : Nat))

/-- The electrical speed that the Hall triplet gives an axis: six sectors per cycle (R304, R329). -/
def Chip.hallElec (c : Chip) (a : Nat) : Int :=
  c.driveSign a (c.fldS (Fld.FEEDBACK_HALL_SPEED_SPEED (c.fld (Fld.DRIVE_CFG_HALL_CH a))) * 4096 * 10 / 6)

/-- The speed that the last Hall edge gave an axis, at which it advances between edges: standstill does not clear it (R304). -/
def Chip.hallLast (c : Chip) (a : Nat) : Int := c.driveSign a ((c.hall (c.fld (Fld.DRIVE_CFG_HALL_CH a))).rate * 4096 * 10 / 6)

/-- The place of a Hall state in the forward order of an axis: DIR_INV turns the order round (R302, R304). [DESIGN CHOICE: log 87] -/
def Chip.hallPlace (c : Chip) (a k : Nat) : Nat := if c.flag (Fld.DRIVE_CFG_DIR_INV a) then 5 - k % 6 else k % 6

/-- The boundary at which sector k begins, less HALL_OFFSET (R302, R304). -/
def sectorEdge (k : Nat) : Nat := (k * 65536 + 3) / 6

/-- The sector, counted from HALL_OFFSET, in which an angle lies (R302). -/
def Chip.sectorOf (c : Chip) (a ang : Nat) : Nat :=
  let x := (ang + 65536 - c.fld (Fld.DRIVE_HALL_HALL_OFFSET a)) % 65536
  ((List.range 6).filter fun k => decide (sectorEdge (k + 1) ≤ x)).length

/-- The Hall triplet of an axis; none for HALL_CH 15 (R303). -/
def Chip.hallOf (c : Chip) (a : Nat) : Option Nat :=
  let h := c.fld (Fld.DRIVE_CFG_HALL_CH a)
  if h < 12 then some h else none

/-- The source an axis commutates on: 0 encoder, 1 Hall, 2 observer, 3 open loop. -/
def Chip.srcUsed (c : Chip) (a : Nat) : Nat := c.fld (Fld.DRIVE_STATUS_SRC_USED a)

/-- The source with which an axis starts (R302, R303, R306, R307). -/
def Chip.startSource (c : Chip) (a : Nat) : Nat :=
  let src := c.fld (Fld.DRIVE_CFG_SRC a)
  let ch := c.fld (Fld.DRIVE_CFG_ENC_CH a)
  if src = 0 then (if c.chanFault ch || (decide (ch < 12) && !c.chanRef ch) then 1 else 0)
  else if src = 2 then 3
  else if src = 3 ∧ (c.drive a).hallLost then 2 else 1

/-- The measured electrical speed of an axis by the source it uses. -/
def Chip.elecSpeed (c : Chip) (a : Nat) : Int :=
  let u := c.srcUsed a
  if u = 0 then c.encElec a (c.fld (Fld.DRIVE_CFG_ENC_CH a))
  else if u = 1 then c.hallElec a
  else if u = 2 then (c.drive a).obsSpeed else (c.drive a).ramp

/-- The start angle of Hall state k (R304). -/
def Chip.sectorStart (c : Chip) (a k : Nat) : Nat :=
  (sectorEdge k + c.fld (Fld.DRIVE_HALL_HALL_OFFSET a)) % 65536

/-- How far an angle lies outside a sector, in counts (R307). -/
def Chip.outsideSector (c : Chip) (a k ang : Nat) : Nat :=
  let x := (ang + 65536 - c.sectorStart a k) % 65536
  let w := sectorEdge (k % 6 + 1) - sectorEdge (k % 6)
  if x < w then 0 else min (x - w) (65536 - x)

/-- The angle an encoder channel gives (R303). -/
def Chip.encAngle (c : Chip) (a : Nat) : Nat :=
  let ch := c.fld (Fld.DRIVE_CFG_ENC_CH a)
  let p := c.driveSign a (c.chanAt ch).1
  pattern 16 (p * c.fld (Fld.DRIVE_CFG_POLE_PAIRS a) * 65536 / (max 1 (c.chanCpr ch) : Nat) + c.fld (Fld.DRIVE_ALIGN_ALIGN a))

/-- The angle the Halls give at an instant: the boundary at which the last edge entered the sector, advanced at the speed estimate until standstill and clamped to the sector (R304). [DESIGN CHOICE: log 87] -/
def Chip.hallAngle (c : Chip) (now a : Nat) : Nat :=
  match c.hallOf a with
  | none => 0
  | some h =>
    let x := c.hall h
    match x.index with
    | none => c.sectorStart a 0
    | some j =>
      let k := c.hallPlace a j
      let v := c.hallLast a
      let t := match x.edgeAt with | some t => min now (x.restAt.getD now) - t | none => 0
      let w : Int := (sectorEdge (k + 1) : Int) - sectorEdge k
      let back := decide (c.driveSign a x.way < 0)
      let move := v * t / 10000000000
      if back then pattern 16 ((c.sectorStart a (k + 1) : Int) + clampI (-w) 0 move)
      else pattern 16 ((c.sectorStart a k : Int) + clampI 0 (w - 1) move)

/-- A commutation event: the locked-rotor timer restarts (R302, R312). -/
def Chip.commutated (c : Chip) (now a : Nat) : Chip :=
  c.updDrive a fun x => { x with lrFrom := x.lrFrom.map fun _ => now }

/-- STATUS shows the Hall sector of every axis and whether its encoder channel is referenced (R315). -/
def Chip.showSources (c : Chip) : Chip :=
  c.each (List.range 12) fun a c =>
    (c.setFld (Fld.DRIVE_STATUS_SECTOR a) (match c.hallOf a with | some h => (c.hall h).index.getD 0 | none => 0)).setFlag
      (Fld.DRIVE_STATUS_ENC_REF a) (c.chanRef (c.fld (Fld.DRIVE_CFG_ENC_CH a)))

/-- Set the angle in use and the speed; a sensed angle that crosses a sector boundary is a commutation event (R302). -/
def Chip.setAngle (c : Chip) (now a ang : Nat) (v : Int) (sensed : Bool) : Chip :=
  let crossed := sensed && c.sectorOf a (c.fld (Fld.DRIVE_ANGLE_ANGLE a)) != c.sectorOf a ang
  let c := c.setFld (Fld.DRIVE_ANGLE_ANGLE a) ang
  let c := c.setFldS (Fld.DRIVE_ANGLE_SPEED a) (satS 16 (v / 65536))
  if crossed then c.commutated now a else c

/-- Bring the angle to an instant by the source in use (R302 to R308); what the first index left between the Hall angle and the encoder angle goes one count per period. [DESIGN CHOICE: log 147] -/
def Chip.updateAngle (c : Chip) (now a : Nat) (dt : Nat) : Chip :=
  let u := c.srcUsed a
  if u = 0 then
    let s := (c.drive a).encShift
    let s := if 0 < s then s - 1 else if s < 0 then s + 1 else 0
    let c := c.updDrive a fun x => { x with encShift := s }
    c.setAngle now a (pattern 16 ((c.encAngle a : Int) + s)) (c.elecSpeed a) true
  else if u = 1 then
    c.setAngle now a (if (c.drive a).centred then c.fld (Fld.DRIVE_ANGLE_ANGLE a) else c.hallAngle now a) (c.elecSpeed a) false
  else if u = 2 then c.setAngle now a ((c.drive a).obsAngle % 65536) (c.elecSpeed a) true
  else
    let v := if (c.drive a).lostObs then (c.drive a).lastSpeed else (c.drive a).ramp
    c.setAngle now a (pattern 16 ((c.fld (Fld.DRIVE_ANGLE_ANGLE a) : Int) + v * dt / 10000000000)) v false

/-- End the command of an axis with a status and a detail. -/
def Chip.endJog (c : Chip) (a status detail : Nat) : Chip :=
  match (c.drive a).cmd with
  | some k => (c.updDrive a fun x => { x with cmd := none }).result k status detail
  | none => c

/-- The DRIVE.EVENT bit of a fault cause (R313). -/
def faultBit (cause : Nat) : Nat := [0, 4, 2, 3, 6, 7, 8, 9, 10].getD cause 0

/-- The place of a cause in the order in which R313 writes the records of one period. -/
def faultRank (cause : Nat) : Nat := [8, 2, 1, 0, 3, 4, 5, 6, 7].getD cause 8

/-- The records of the causes of a carrier period that ends, in the order of R313, each with the instant of its cause. [DESIGN CHOICE: log 86] -/
def Chip.faultRecords (c : Chip) (a : Nat) : Chip :=
  let x := c.drive a
  let before := c.fld (Fld.DRIVE_FAULT_INFO_STATE_BEFORE a)
  (c.each ([3, 2, 1, 4, 5, 6, 7, 8].filterMap fun k => x.causes.find? fun e => e.1 == k) fun e c =>
    c.emit (.event { status := Rc.AXIS_FAULT, tag := a, detail := e.1 + before * 16, time := some e.2 })).updDrive a fun x => { x with causes := [] }

/-- The state in which the causes of the present carrier period are judged: that before the fault while a period with a fault lasts (R313). -/
def Chip.judged (c : Chip) (a : Nat) : Nat :=
  if c.driveState a = Ds.fault ∧ (c.drive a).causes ≠ [] then c.fld (Fld.DRIVE_FAULT_INFO_STATE_BEFORE a) else c.driveState a

/-- A fault of a drive axis: outputs low, FAULT, the cause noted for its record, FAULT_INFO naming the first of the period's causes in their order; a page-critical axis aborts the running page (R313, R314). [DESIGN CHOICE: log 86] -/
def Chip.driveFault (c : Chip) (now a cause : Nat) : Chip :=
  let s := c.driveState a
  let x := c.drive a
  if s = Ds.fault ∧ (x.causes.isEmpty ∨ x.causes.any fun e => e.1 == cause) then c
  else
    let c := (c.raise (Reg.DRIVE_EVENT a, faultBit cause)).bump (Fld.DRIVE_FAULT_INFO_FAULTS a)
    let c := c.updDrive a fun x => { x with causes := x.causes ++ [(cause, now)] }
    if s = Ds.fault then
      if faultRank cause < faultRank (c.fld (Fld.DRIVE_FAULT_INFO_CAUSE a)) then c.setFld (Fld.DRIVE_FAULT_INFO_CAUSE a) cause else c
    else
      let c := (c.setFld (Fld.DRIVE_FAULT_INFO_CAUSE a) cause).setFld (Fld.DRIVE_FAULT_INFO_STATE_BEFORE a) s
      let c := (c.setDriveState a Ds.fault).updDrive a fun x => { x with
        target := 0, ramp := 0, ramping := false, next := none, owed := false, off := false, catchAt := none, centred := false, encShift := 0 }
      let c := if cause = 5 then c.endJog a Rc.CATCH_FAIL (a * 256) else c.endJog a Rc.AXIS_FAULT (cause + a * 256)
      if c.flag (Fld.DRIVE_CFG_PAGE_CRIT a) then c.abortAll 6 else c

/-- The axis is stopped: DISABLED, outputs low; its command completes (R311, R407, R420). -/
def Chip.driveStopped (c : Chip) (a : Nat) : Chip :=
  let c := (c.setDriveState a Ds.disabled).updDrive a fun x => { x with
    target := 0, ramp := 0, ramping := false, next := none, owed := false, openAt := none, lostObs := false
    lrFrom := none, quiet := none, off := false, catchAt := none, centred := false, encShift := 0 }
  c.endJog a (if c.state = St.safeStop ∨ c.eng.stopping then Rc.SAFE_STOPPED else Rc.OK) 0

/-- The axis reaches RUN with its speed loop closed, seeded with a speed, and ramps toward its target (R309). -/
def Chip.driveRun (c : Chip) (a : Nat) (seed : Int) : Chip :=
  let c := (c.setDriveState a Ds.run).updDrive a fun x => { x with
    ramp := seed, ramping := decide (seed ≠ x.target), catchAt := none, openAt := none, lostObs := false, confSince := none }
  c.endJog a Rc.OK 0

/-- A normal start: open loop for an observer axis, else RUN from standstill (R306, R309). -/
def Chip.normalStart (c : Chip) (now a : Nat) : Chip :=
  if c.fld (Fld.DRIVE_CFG_SRC a) = 2 then
    ((c.setDriveState a Ds.openLoop).setFld (Fld.DRIVE_STATUS_SRC_USED a) 3).updDrive a fun x => { x with
      ramp := 0, openAt := some now, lostObs := false, catchAt := none, confSince := none }
  else (c.setFld (Fld.DRIVE_STATUS_SRC_USED a) (c.startSource a)).driveRun a (c.elecSpeed a)

/-- Shorted-winding braking: high sides off, low sides on; no torque is commanded meanwhile (R310, R312). -/
def Chip.driveBrake (c : Chip) (a after : Nat) : Chip :=
  ((((c.setDriveState a Ds.brake).dropDuties a).updDrive a fun x => { x with
    after := after, quiet := none, off := false, ramping := false, openAt := none, lrFrom := none, iqRef := 0
    centred := false }).pin "DRV" a 0x2A)

/-- The catch has measured a speed: the table of R309. -/
def Chip.caught (c : Chip) (now a : Nat) (v : Int) : Chip :=
  let x := c.drive a
  if (v.natAbs : Int) < tenthHz (c.fld (Fld.DRIVE_CATCH_CATCH_SPEED a)) then c.normalStart now a
  else if (v < 0) = (x.target < 0) then
    (c.setFld (Fld.DRIVE_STATUS_SRC_USED a) (if c.fld (Fld.DRIVE_CFG_SRC a) = 2 then 2 else c.startSource a)).driveRun a v
  else c.driveBrake a 1

/-- The four probe pulses of a catch: the three low sides close for CATCH_PULSE µs, 500 µs apart (R309). -/
def Chip.probeGates (c : Chip) (a : Nat) : List (List (Nat × Nat)) :=
  let l := (List.range 4).map fun k => (k * 500000, k * 500000 + c.fld (Fld.DRIVE_CATCH_CATCH_PULSE a) * 1000)
  [[], l, [], l, [], l]

/-- An encoder axis starts on a channel in fault, and no Halls are fitted (R303). -/
def Chip.sourceLost (c : Chip) (a : Nat) : Bool :=
  c.fld (Fld.DRIVE_CFG_SRC a) == 0 && c.chanFault (c.fld (Fld.DRIVE_CFG_ENC_CH a)) && (c.hallOf a).isNone

/-- The start proceeds to the catch: the feedback estimate is at hand for encoder and Hall axes, an observer-only axis first probes with its low sides (R309). -/
def Chip.beginCatch (c : Chip) (now a : Nat) : Chip :=
  let c := ((c.dropDuties a).setFld (Fld.DRIVE_STATUS_SRC_USED a) (c.startSource a)).updDrive a fun x => { x with
    lrFrom := none, iqRef := 0, lostObs := false, openAt := none, ramping := false, centred := false, encShift := 0 }
  let c := c.setDriveState a Ds.catching
  if c.fld (Fld.DRIVE_CFG_SRC a) = 2 then (c.updDrive a fun x => { x with catchAt := some now }).setGates a (c.probeGates a)
  else if c.sourceLost a then c.driveFault now a 7
  else (c.updateAngle now a 0).caught now a (c.elecSpeed a)

/-- A start of an axis from DISABLED or FAULT: the offsets are measured first (R300, R303, R309, R420). -/
def Chip.driveStart (c : Chip) (now a : Nat) : Chip :=
  let c := ((((c.faultRecords a).setDriveState a Ds.offsetCal).dropDuties a).setFld (Fld.DRIVE_STATUS_SRC_USED a) (c.startSource a)).updDrive a fun x => { x with
    calN := 0, calSum := [0, 0, 0], startedAt := now, div := 0, centred := false, encShift := 0
    hallLost := false, hallBad := 0, lowSince := none, confSince := none, lrFrom := none, iqRef := 0, openAt := none, lostObs := false
    quiet := none }
  if c.sourceLost a then c.driveFault now a 7 else c

/-- Why a start is refused: ERR_DRIVE_CFG or NOT_ALIGNED (R297, R303, R372). -/
def Chip.startRefused (c : Chip) (a : Nat) : Option Nat :=
  let dt := c.fld (Fld.DRIVE_PWM_TIMING_DT a)
  let ch := c.fld (Fld.DRIVE_CFG_ENC_CH a)
  if c.fld (Fld.DRIVE_PWM_PERIOD a) * 2 < (dt + c.fld (Fld.DRIVE_PWM_TIMING_SETTLE a)) * 10 + 1000 ∨ (c.focSlot a).isNone then
    some Rc.ERR_DRIVE_CFG
  else if c.fld (Fld.DRIVE_CFG_SRC a) = 0 ∧ ch < 12 ∧ c.chanRef ch = false ∧ c.hallOf a = none then some Rc.NOT_ALIGNED
  else none

/-- Stop an axis under STOP_MODE; a controlled stop ramps the reference `ref` down. An axis that has lost its observer brakes into FAULT all the same, and one in FAULT stays there (R308, R311, R313, R407). -/
def Chip.driveStop (c : Chip) (a : Nat) (ref : Word) : Chip :=
  let s := c.driveState a
  if s = Ds.fault then (if c.state = St.safeStop ∨ c.eng.stopping then c.endJog a Rc.SAFE_STOPPED 0 else c)
  else if s = Ds.disabled ∨ (s = Ds.brake ∧ (c.drive a).after = 2) then c
  else
    let mode := c.fld (Fld.DRIVE_CFG_STOP_MODE a)
    let c := c.updDrive a fun x => { x with
      lrFrom := none
      stopFrom := if s = Ds.stopping then x.stopFrom else x.target
      stopRef := if s = Ds.stopping then x.stopRef else ref, target := 0 }
    if mode = 1 then c.driveBrake a 0
    else if mode = 0 ∧ (s = Ds.run ∨ s = Ds.stopping ∨ s = Ds.openLoop) then
      (c.setDriveState a Ds.stopping).updDrive a fun x => { x with ramping := decide (x.ramp ≠ 0) }
    else c.driveStopped a

/-- OFFSET_CAL_END: the offsets of the 64 periods are averaged, and the start proceeds or faults (R300). -/
def Chip.offsetCalEnd (c : Chip) (now a : Nat) : Chip :=
  if c.driveState a ≠ Ds.offsetCal ∨ (c.drive a).calN < 64 then c
  else
    let o := (c.drive a).calSum.map fun s => (s + 32) / 64
    let c := (c.setFld (Fld.DRIVE_I_OFFSET_UV_OFF_U a) (o.getD 0 0)).setFld (Fld.DRIVE_I_OFFSET_UV_OFF_V a) (o.getD 1 0)
    let c := c.setFld (Fld.DRIVE_I_OFFSET_W_OFF_W a) (o.getD 2 0)
    if o.any fun n => decide (n < 2048 - 256) || decide (2048 + 256 < n) then c.driveFault now a 8 else c.beginCatch now a

/-- The duty limit that keeps two shunts measurable (R298). -/
def Chip.dutyLimit (c : Chip) (a : Nat) : Int :=
  65536 - ((c.fld (Fld.DRIVE_PWM_TIMING_SETTLE a) + c.fld (Fld.DRIVE_PWM_TIMING_DT a)) * 10 * 65536 / max 1 (c.carrierNs a) : Nat)

/-- Least, middle and greatest of three. -/
def order3 (l : List Int) : Int × Int × Int :=
  let lo := l.foldl min (l.headD 0)
  let hi := l.foldl max (l.headD 0)
  (lo, sumI l - lo - hi, hi)

/-- Duties from phase voltages (fractions of the bus, 16 fraction bits): the linear range, the centred injection and the depth limit of R298. The answer holds the duties, the phase to reconstruct, whether depth limiting applied, whether the vector was shortened, and the vector applied. -/
def Chip.dutiesOf (c : Chip) (a : Nat) (v : List Int) : List Nat × Nat × Bool × Bool × List Int :=
  let (lo, _, hi) := order3 v
  let span := hi - lo
  let wide := decide (65536 < span)
  let v := if wide then v.map fun x => Int.tdiv (x * 65536) span else v
  let (lo, mid, hi) := order3 v
  let off := Int.tdiv (-(hi + lo)) 2
  let dlim := c.dutyLimit a
  let deep := decide (dlim < 32768 + mid + off)
  let k := if deep then Int.tdiv ((dlim - 32768) * 65536) (mid + off) else 65536
  let v := if deep then v.map fun x => Int.tdiv (x * k) 65536 else v
  let off := if deep then Int.tdiv (off * k) 65536 else off
  let d := v.map fun x => (32768 + x + off).toNat
  let top := maxN d
  let recon := if dlim < (top : Int) then (d.findIdx? (· == top)).elim 0 (· + 1) else 0
  (d, recon, deep, wide || deep, v)

/-- The current block delivers a vector: its duties wait for the next peak, and the applied vector goes back to it (R295, R298). [DESIGN CHOICE: log 84] -/
def Chip.deliver (c : Chip) (a : Nat) (v : List Int) : Chip :=
  let (d, recon, deep, short, applied) := c.dutiesOf a v
  c.updDrive a fun x => { x with next := some (d, recon, deep), owed := false, shortened := short, applied := applied }

/-- An on-interval of a phase in one period, in ns: the high side for `d`, the low side for 65,536 − d (R294). -/
def Chip.onTime (c : Chip) (a d : Nat) : Int :=
  ((d * c.carrierNs a / 65536 : Nat) : Int) - c.fld (Fld.DRIVE_PWM_TIMING_DT a) * 10

/-- An on-interval is too short to be emitted: it is nominally there, and shorter than MIN_PULSE or eaten by the dead time (R294). [DESIGN CHOICE: log 87] -/
def Chip.tooShort (c : Chip) (a d : Nat) : Bool :=
  decide (0 < d) && decide (c.onTime a d < max 1 (c.fld (Fld.DRIVE_PWM_TIMING_MIN_PULSE a) * 10 : Int))

/-- The compare value of a duty: round((1 − d) × PERIOD ÷ 2) (R294). -/
def Chip.compareOf (c : Chip) (a d : Nat) : Nat := ((65536 - d) * c.fld (Fld.DRIVE_PWM_PERIOD a) + 65536) / 131072

/-- When in a new period a switch may be on that would be on from its start: the dead time after its partner, whose intervals in the period before are given, went off (R294). -/
def readyAt (t dead : Nat) (partner : List (Nat × Nat)) : Nat := if partner = [] then 0 else maxN (partner.map (·.2)) + dead - t

/-- The high and low side of phase k over one period from the carrier peak: the high side while the carrier is above CMP, the low side while it is at or below, each turn-on delayed by the dead time, also across the peak; a side whose on-interval is not emitted stays off and its partner on (R293, R294). -/
def Chip.phaseGates (c : Chip) (a k d : Nat) : List (List (Nat × Nat)) :=
  let half := c.fld (Fld.DRIVE_PWM_PERIOD a) / 2
  let cmp := c.compareOf a d
  let t := c.carrierNs a
  let dead := c.fld (Fld.DRIVE_PWM_TIMING_DT a) * 10
  let down := (half - cmp) * 4
  let up := (half + cmp) * 4
  let g := (c.drive a).gates
  let hi := readyAt t dead (g.getD (2 * k + 1) [])
  if d = 0 ∨ c.tooShort a d then [[], [(readyAt t dead (g.getD (2 * k) []), t)]]
  else if 65536 ≤ d ∨ c.tooShort a (65536 - d) then [[(hi, t)], []]
  else [[(hi, down), (min t (up + dead), t)].filter fun e => decide (e.1 < e.2), [(down + dead, up)]]

/-- Drive the gate outputs and compare values of a duty set for the period (R294). [DESIGN CHOICE: log 87] -/
def Chip.applyDuties (c : Chip) (a : Nat) (d : List Nat) : Chip :=
  let c := if d.any fun x => c.tooShort a x || c.tooShort a (65536 - x) then c.raise (Ev.DRIVE_EVENT_MIN_PULSE a) else c
  let c := c.setGates a (((List.range 3).map fun i => c.phaseGates a i (d.getD i 0)).flatten)
  c.each (List.range 3) fun i c => c.pin "DRV_CMP" (3 * a + i) (c.compareOf a (d.getD i 0))

/-- Advance the speed ramp by one period (R309, R311): toward the target at ACCEL or DECEL, in open loop at START_ACC. [DESIGN CHOICE: log 85] -/
def Chip.rampStep (c : Chip) (now a dt : Nat) : Chip :=
  let x := c.drive a
  let s := c.driveState a
  let move (rate : Nat) (goal : Int) : Int :=
    let step : Int := rate * 10 * 65536 * dt / 1000000000
    if x.ramp < goal then min goal (x.ramp + step) else max goal (x.ramp - step)
  if s = Ds.openLoop ∧ x.lostObs = false then
    let goal := if x.target < 0 then -(10000000 * 65536 : Int) else 10000000 * 65536
    c.updDrive a fun x => { x with ramp := move (c.fld (Fld.DRIVE_START_START_ACC a)) goal }
  else if s = Ds.run ∧ x.ramping then
    let up := decide (x.ramp.natAbs ≤ x.target.natAbs)
    let r := move (if up then c.fld (Fld.DRIVE_RAMP_ACCEL a) else c.fld (Fld.DRIVE_RAMP_DECEL a)) x.target
    c.updDrive a fun x => { x with ramp := r, ramping := decide (r ≠ x.target) }
  else if s = Ds.stopping then
    let r := move (c.fld (Fld.DRIVE_RAMP_DECEL a)) 0
    let c := c.updDrive a fun x => { x with ramp := r, ramping := decide (r ≠ 0) }
    if r = 0 then c.driveStopped a else c
  else c

/-- CARRIER_PEAK: the records of a fault in the period that ends are written, a waiting duty set takes effect, the ramp advances, and staged fields switch; at an instant that is no peak of the axis nothing happens (R293 to R295, R298, R305, R310, R311, R313). [DESIGN CHOICE: log 86, 147] -/
def Chip.carrierPeak (c : Chip) (now a : Nat) : Chip :=
  if !c.atPeak now a then c else
  let x := c.drive a
  let s := c.driveState a
  let dt := now - x.peakAt
  let c := c.updDrive a fun x => { x with peakAt := now }
  let c := if s = Ds.fault ∧ x.causes ≠ [] then (c.faultRecords a).updDrive a fun x => { x with
      lrFrom := none, openAt := none, lostObs := false, quiet := none } else c
  let c := if s = Ds.brake ∧ x.off then (c.updDrive a fun x => { x with off := false }).pin "DRV" a 0x2A else c
  let active := s == Ds.run || s == Ds.openLoop || s == Ds.stopping
  let c := if active then
      match x.next with
      | some (d, recon, deep) =>
        let c := c.updDrive a fun x => { x with duty := d, recon := recon, next := none }
        let c := c.setFlag (Fld.DRIVE_STATUS_DEPTH_LIM a) deep
        let c := if deep then (c.bump (Fld.DRIVE_COUNT_DEPTH a)).raise (Ev.DRIVE_EVENT_DEPTH_LIMIT a) else c
        c.applyDuties a d
      | none =>
        let c := if x.owed then c.raise (Ev.DRIVE_EVENT_LATE_UPDATE a) else c
        let c := if c.flag (Fld.DRIVE_STATUS_DEPTH_LIM a) then (c.bump (Fld.DRIVE_COUNT_DEPTH a)).raise (Ev.DRIVE_EVENT_DEPTH_LIMIT a) else c
        c.applyDuties a x.duty
    else c
  let c := if active then c.updateAngle now a dt else c
  (c.rampStep now a dt).switchDrive now a

/-- CONF from a back-EMF magnitude in µV and a speed: 255 × EMF ÷ (FLUX × speed in rad/s), limited to 255, and 0 below OBS_MIN_SPEED; a free value where FLUX or the speed is 0 (R305). [DESIGN CHOICE: log 84] -/
def Chip.confidence (c : Chip) (a emf : Nat) (speed : Int) : Nat × Chip :=
  let flux := c.fld (Fld.DRIVE_OBS_FLUX_FLUX a)
  let full := (flux * speed.natAbs * (2 * qPi).toNat) / (655360 * q1.toNat)
  if (speed.natAbs : Int) < tenthHz (c.fld (Fld.DRIVE_OBS_CTL_OBS_MIN_SPEED a)) then (0, c)
  else if full = 0 then (let (n, c) := c.freeNat; (min 255 n, c))
  else (min 255 (255 * emf / full), c)

/-- The phase currents as the registers hold them (R299). -/
def Chip.phaseCurrents (c : Chip) (a : Nat) : List Int :=
  [c.fldS (Fld.DRIVE_I_UV_I_U a), c.fldS (Fld.DRIVE_I_UV_I_V a), c.fldS (Fld.DRIVE_I_W_I_W a)]

/-- The observer's estimates at a sample: angle, speed and back-EMF magnitude are free values of the currents, the applied vector and the motor model; confidence counts, at a start, only above 2 × OBS_MIN_SPEED, and its lack only while the observer commutates (R305 to R308). [DESIGN CHOICE: log 84] -/
def Chip.observe (c : Chip) (now a : Nat) : Chip :=
  let n := c.free
  let est (k : Nat) : Nat := Config.observed k n (c.phaseCurrents a) (c.drive a).applied
    [c.fld (Fld.DRIVE_OBS_MODEL_PHASE_RES a), c.fld (Fld.DRIVE_OBS_MODEL_PHASE_IND a), c.fld (Fld.DRIVE_OBS_FLUX_FLUX a)]
  let ang := est 0 % 65536
  let speed : Int := signed 32 (est 1 % 4294967296)
  let emf := est 2
  let (conf, c) := { c with free := c.free + 1 }.confidence a emf speed
  let outside := match c.hallOf a with
    | some h => match (c.hall h).index with
      | some k => c.fld (Fld.DRIVE_CFG_SRC a) == 3 && c.srcUsed a == 2 && !(c.drive a).hallLost
          && decide (5461 < c.outsideSector a (c.hallPlace a k) ang)
      | none => false
    | none => false
  let sure := decide (c.fld (Fld.DRIVE_OBS_CTL_OBS_THRESH a) ≤ conf) && !outside
  let starting := c.driveState a == Ds.openLoop && !(c.drive a).lostObs
  let counts := sure && (!starting || decide (2 * tenthHz (c.fld (Fld.DRIVE_OBS_CTL_OBS_MIN_SPEED a)) < (speed.natAbs : Int)))
  let used := c.srcUsed a == 2
  (c.setFld (Fld.DRIVE_STATUS_CONF a) conf).updDrive a fun x => { x with
    obsAngle := ang
    obsSpeed := speed
    confSince := if counts then some (x.confSince.getD now) else none
    lowSince := if sure || !used then none else some (x.lowSince.getD now) }

/-- An interval since an instant has lasted a number of electrical periods at a speed. -/
def lasted (now : Nat) (since : Option Nat) (k : Nat) (v : Int) : Bool :=
  match since with
  | some t => decide (v ≠ 0) && decide (t + k * elecPeriod v ≤ now)
  | none => false

/-- What the observer's confidence does: hand-over, loss and reacquisition (R306 to R308). [DESIGN CHOICE: log 86] -/
def Chip.judgeObserver (c : Chip) (now a : Nat) : Chip :=
  let x := c.drive a
  let s := c.driveState a
  if s = Ds.openLoop ∧ x.lostObs = false then
    if lasted now x.confSince 1 x.obsSpeed then
      (c.setFld (Fld.DRIVE_STATUS_SRC_USED a) 2).driveRun a x.obsSpeed
    else c
  else if x.lostObs then
    if lasted now x.confSince 1 x.obsSpeed then
      let spent := now - x.openAt.getD now
      let c := (c.setFld (Fld.DRIVE_STATUS_SRC_USED a) 2).event Rc.OBSERVER_REACQUIRED a (satN 65535 (spent / 10000))
      let back := if s = Ds.openLoop then x.lostIn else s
      let c := (c.setDriveState a back).updDrive a fun x => { x with lostObs := false, openAt := none, lowSince := none }
      if back = Ds.run then (c.updDrive a fun x => { x with ramping := decide (x.ramp ≠ x.target) }).endJog a Rc.OK 0 else c
    else c
  else if (s = Ds.run ∨ s = Ds.stopping) ∧ c.srcUsed a = 2 ∧ lasted now x.lowSince 2 x.obsSpeed then
    let halls := (c.hallOf a).isSome && !x.hallLost
    let c := (c.raise (Ev.DRIVE_EVENT_OBSERVER_LOST a)).event Rc.OBSERVER_LOST a (if halls then 1 else 2)
    if halls then
      let k := c.hallPlace a ((c.hall ((c.hallOf a).getD 0)).index.getD 0)
      let c := c.setFld (Fld.DRIVE_STATUS_SRC_USED a) 1
      (c.setFld (Fld.DRIVE_ANGLE_ANGLE a) ((c.sectorStart a k + 5461) % 65536)).updDrive a fun x => { x with
        lowSince := none, centred := true }
    else
      ((c.setFld (Fld.DRIVE_STATUS_SRC_USED a) 3).setDriveState a Ds.openLoop).updDrive a fun x => { x with
        lostObs := true, openAt := some now, confSince := none, lostIn := s, lastSpeed := x.obsSpeed }
  else c

/-- Torque is commanded: the locked-rotor timer runs (R312). [DESIGN CHOICE: log 86] -/
def Chip.torqueTimer (c : Chip) (now a : Nat) : Chip :=
  c.updDrive a fun x => { x with
    lrFrom := if x.target ≠ 0 ∧ c.fld (Fld.DRIVE_LIMITS_LR_MIN_I a) ≤ x.iqRef then some (x.lrFrom.getD now) else none }

/-- Angle and speed of an axis while it brakes: its feedback, or the rotation of the short-circuit current vector, a free value, for an observer-only axis (R310). [DESIGN CHOICE: log 84] -/
def Chip.brakeAngle (c : Chip) (now a : Nat) : Chip :=
  if c.fld (Fld.DRIVE_CFG_SRC a) = 2 then
    let (v, c) := c.freeWord
    let (n, c) := c.freeNat
    let c := c.updDrive a fun x => { x with obsAngle := n % 65536, obsSpeed := signed 32 v.toNat }
    (c.setFld (Fld.DRIVE_STATUS_SRC_USED a) 2).setAngle now a (n % 65536) (signed 32 v.toNat) true
  else (c.setFld (Fld.DRIVE_STATUS_SRC_USED a) (c.startSource a)).updateAngle now a 0

/-- A sample while braking: the current limit, the quiet time, and the start that follows (R310, R311). -/
def Chip.brakeSample (c : Chip) (now a : Nat) (i : List Int) : Chip :=
  let lim := c.fld (Fld.DRIVE_ILIM_BRAKE_ILIM a)
  let above := i.any fun x => decide (lim < x.natAbs)
  let calm := i.all fun x => decide (x.natAbs * 16 < lim)
  let c := if above then (c.updDrive a fun x => { x with off := true }).pin "DRV" a 0 else c
  let c := c.updDrive a fun x => { x with quiet := if calm then some (x.quiet.getD now) else none }
  let c := c.brakeAngle now a
  if (c.drive a).after = 1 ∧ ((c.elecSpeed a).natAbs : Int) < tenthHz (c.fld (Fld.DRIVE_CATCH_CATCH_SPEED a)) then c.normalStart now a
  else c

/-- A sample while catching without a sensor: the fourth probe gives angle and speed, valid up to 1,000 Hz (R309). [DESIGN CHOICE: log 84] -/
def Chip.catchSample (c : Chip) (now a : Nat) : Chip :=
  match (c.drive a).catchAt with
  | none => c
  | some t =>
    if now < t + 1500000 + c.fld (Fld.DRIVE_CATCH_CATCH_PULSE a) * 1000 then c
    else
      let (v, c) := c.freeWord
      let (n, c) := c.freeNat
      let speed : Int := signed 32 v.toNat
      let c := (c.updDrive a fun x => { x with obsAngle := n % 65536, obsSpeed := speed }).setAngle now a (n % 65536) speed false
      if tenthHz 10000 < (speed.natAbs : Int) then c.driveFault now a 5 else c.caught now a speed

/-- A Windlass slot's state beside its registers. -/
def Chip.slotSt (c : Chip) (n : Nat) : SlotSt := c.wl.slots.getD n {}

/-- Change a Windlass slot's state. -/
def Chip.updSt (c : Chip) (n : Nat) (f : SlotSt → SlotSt) : Chip := c.updWl fun w => { w with slots := updAt w.slots n f }

/-- Samples of a slot that were skipped (R356). [DESIGN CHOICE: log 93] -/
def Chip.skipped (c : Chip) (now n k : Nat) : Chip :=
  if k = 0 then c else
  ((c.bump (Fld.WINDLASS_SLOT_STATUS_OVERRUNS n) k).raise Ev.WINDLASS_EVENT_OVERRUN).updSt n fun x => { x with
    skips := x.skips + k, lastSkip := some now }

/-- The slots with a trigger and a source: their sample instant is now; one that still waits for its execution skips this sample (R356). [DESIGN CHOICE: log 93] -/
def Chip.sampleDue (c : Chip) (now trig src : Nat) : Chip :=
  c.each ((List.range 96).filter fun n => c.slotRuns n && c.fld (Fld.WINDLASS_SLOT_CFG_TRIG n) == trig
      && c.fld (Fld.WINDLASS_SLOT_CFG_TSRC n) == src) fun n c =>
    if (c.slotSt n).due.isSome then c.skipped now n 1 else c.updSt n fun x => { x with due := some now }

/-- ΔT = T − 25 °C of a converter in 1/16 °C, T the last reading of its nearest die sensor that is not SUSPECT (R391, R398, R399). [DESIGN CHOICE: log 150] -/
def Chip.driftTemp (c : Chip) (conv : Nat) : Int :=
  match ((List.range 12).map fun k => (Config.nearSensor conv k).val).find? fun i => !c.flag (Fld.THERMAL_DIE_SUSPECT i) with
  | some i => c.fldS (Fld.THERMAL_DIE_TEMP i) - 400
  | none => Config.gainBlind conv

/-- The gain g(T) = 1 + a1 × ΔT + a2 × ΔT² of a converter with 32 fraction bits (R399). [DESIGN CHOICE: log 150] -/
def Chip.driftGain (c : Chip) (conv : Nat) : Int :=
  let d := c.driftTemp conv
  4294967296 + Config.gainA1 conv * d + Config.gainA2 conv * d * d

/-- A conversion result corrected for reference drift, rounded to a code of the converter's width and saturated (R399). [DESIGN CHOICE: log 150] -/
def Chip.corrected (c : Chip) (conv bits code : Nat) : Nat :=
  (clampI 0 (2 ^ bits - 1) ((code * c.driftGain conv + 2147483648) / 4294967296)).toNat

/-- The phase currents of a sample, with the phase that was reconstructed (R299). -/
def Chip.putCurrents (c : Chip) (a : Nat) (i : List Int) (recon : Nat) : Chip :=
  let c := (c.setFldS (Fld.DRIVE_I_UV_I_U a) (i.getD 0 0)).setFldS (Fld.DRIVE_I_UV_I_V a) (i.getD 1 0)
  (c.setFldS (Fld.DRIVE_I_W_I_W a) (i.getD 2 0)).setFld (Fld.DRIVE_I_W_RECON a) recon

/-- Every LOOP_DIV-th sample starts a run of the current loop (R296, R356). -/
def Chip.loopTick (c : Chip) (now a : Nat) : Chip :=
  let n := (c.drive a).div + 1
  if c.fld (Fld.DRIVE_PWM_LOOP_DIV a) ≤ n then (c.updDrive a fun x => { x with div := 0, owed := true }).sampleDue now 1 a
  else c.updDrive a fun x => { x with div := n }

/-- SHUNT_SAMPLE: the three shunts are converted, corrected, checked and reconstructed; the trip acts on every sample (R296, R297, R299, R301, R399). [DESIGN CHOICE: log 86] -/
def Chip.shuntSample (c : Chip) (now a : Nat) (raw : List Nat) : Chip :=
  let codes := raw.map (c.corrected (3 + a / 2) 12)
  let offs := [c.fld (Fld.DRIVE_I_OFFSET_UV_OFF_U a), c.fld (Fld.DRIVE_I_OFFSET_UV_OFF_V a), c.fld (Fld.DRIVE_I_OFFSET_W_OFF_W a)]
  let raw : List Int := (List.range 3).map fun k => (codes.getD k 0 : Int) - offs.getD k 0
  let trip := c.fld (Fld.DRIVE_ILIM_I_TRIP a)
  if raw.any fun i => decide (trip < i.natAbs) then (c.putCurrents a raw 0).driveFault now a 2
  else
    let s := c.driveState a
    if s = Ds.disabled ∨ s = Ds.fault then c.putCurrents a raw 0
    else if s = Ds.offsetCal then
      (c.putCurrents a raw 0).updDrive a fun x => if x.calN < 64 then
        { x with calN := x.calN + 1, calSum := (List.range 3).map fun k => x.calSum.getD k 0 + codes.getD k 0 } else x
    else
      let x := c.drive a
      let recon := if s = Ds.brake ∨ s = Ds.catching then 0 else x.recon
      let i := if recon = 0 then raw else
        (List.range 3).map fun k => if k + 1 = recon then raw.getD k 0 - sumI raw else raw.getD k 0
      let c := if recon = 0 ∧ trip < (sumI raw).natAbs * 8 then (c.bump (Fld.DRIVE_COUNT_SUM a)).raise (Ev.DRIVE_EVENT_SHUNT_SUM a) else c
      let c := c.putCurrents a i recon
      let w (k : Nat) : Nat := pattern 16 (i.getD k 0)
      let c := c.sumpRec (some 3) 0x04 (0x100 + a) now
        [BitVec.ofNat 32 (w 0 + w 1 * 65536), BitVec.ofNat 32 (w 2 + recon * 65536)]
      if s = Ds.brake then c.brakeSample now a i
      else if s = Ds.catching then c.catchSample now a
      else
        let c := c.loopTick now a
        let src := c.fld (Fld.DRIVE_CFG_SRC a)
        let c := if 2 ≤ src then (c.observe now a).judgeObserver now a else c
        c.torqueTimer now a

/-- GATE_FAULT (R301). [DESIGN CHOICE: log 86] -/
def Chip.gateFault (c : Chip) (now a : Nat) : Chip := c.driveFault now a 3

/-- LOCKED_ROTOR: the timer has run out, or a start in open loop has not handed over (R306, R312). -/
def Chip.lockedRotor (c : Chip) (now a : Nat) : Chip :=
  let lim := c.fld (Fld.DRIVE_LIMITS_LR_TIMEOUT a) * 10000000
  let x := c.drive a
  let late (t : Option Nat) : Bool := match t with | some t => decide (t + lim ≤ now) | none => false
  if late x.lrFrom || (c.judged a == Ds.openLoop && !x.lostObs && late x.openAt) then c.driveFault now a 1 else c

/-- OBSERVER_FAIL: 20 ms of open loop without the observer; a page-critical axis brakes first (R308). -/
def Chip.observerFail (c : Chip) (now a : Nat) : Chip :=
  let x := c.drive a
  match x.openAt with
  | some t =>
    if x.lostObs && decide (t + 20000000 ≤ now) then
      if !c.flag (Fld.DRIVE_CFG_PAGE_CRIT a) then c.driveFault now a 4
      else if c.driveState a = Ds.fault then c
      else (c.updDrive a fun x => { x with lostObs := false }).driveBrake a 2
    else c
  | none => c

/-- CATCH_FAIL: a start that has not reached RUN within CATCH_TIMEOUT (R309). -/
def Chip.catchFail (c : Chip) (now a : Nat) : Chip :=
  let s := c.judged a
  let x := c.drive a
  let starting := s == Ds.offsetCal || s == Ds.catching || (s == Ds.brake && x.after == 1) || (s == Ds.openLoop && !x.lostObs)
  if starting && decide (x.startedAt + c.fld (Fld.DRIVE_CATCH_CATCH_TIMEOUT a) * 100000000 ≤ now) then c.driveFault now a 5 else c

/-- BRAKE_END: the currents have stayed below BRAKE_ILIM ÷ 16 for 50 ms; braking before a start ends by its speed alone (R308, R310, R311). -/
def Chip.brakeEnd (c : Chip) (now a : Nat) : Chip :=
  let x := c.drive a
  match x.quiet with
  | some t =>
    if c.judged a = Ds.brake ∧ t + 50000000 ≤ now then
      if x.after = 2 then c.driveFault now a 4 else if x.after = 0 ∧ c.driveState a = Ds.brake then c.driveStopped a else c
    else c
  | none => c

/-- The Halls of an axis are lost (R304). -/
def Chip.loseHalls (c : Chip) (now a : Nat) : Chip :=
  let s := c.judged a
  let src := c.fld (Fld.DRIVE_CFG_SRC a)
  if s = Ds.disabled ∨ s = Ds.fault ∨ (c.drive a).hallLost then c
  else if src = 3 then
    let c := (c.raise (Ev.DRIVE_EVENT_HALL_LOST a)).updDrive a fun x => { x with hallLost := true }
    if c.srcUsed a = 1 ∧ c.driveState a ≠ Ds.fault then (c.setFld (Fld.DRIVE_STATUS_SRC_USED a) 2).updDrive a fun x => { x with centred := false } else c
  else
    let c := c.updDrive a fun x => { x with hallLost := true }
    if src = 2 then c else c.driveFault now a 6

/-- HALL_LOST: an invalid state has persisted for one electrical period at the last speed, or for 10 ms, whichever is longer (R304). -/
def Chip.hallTimeout (c : Chip) (now a : Nat) : Chip :=
  match c.hallOf a with
  | none => c
  | some h =>
    match (c.hall h).invalidAt with
    | some t => if t + max 10000000 (elecPeriod (c.hallLast a)) ≤ now then c.loseHalls now a else c
    | none => c

/-- What a Hall edge does to the axes of a triplet: the angle at the boundary, a commutation event, the change of source of R307, and the loss after two edges out of sequence (R304, R307). -/
def Chip.hallDrives (c : Chip) (now h : Nat) (outOfSeq : Bool) : Chip :=
  c.showSources.each ((List.range 12).filter fun a => c.hallOf a == some h) fun a c =>
    let s := c.judged a
    if s = Ds.disabled ∨ s = Ds.fault then c
    else
      let c := c.updDrive a fun x => { x with hallBad := if outOfSeq then x.hallBad + 1 else 0 }
      let c := if 2 ≤ (c.drive a).hallBad then c.loseHalls now a else c
      if c.driveState a = Ds.fault then c
      else
        let held := (c.drive a).centred
        let c := c.updDrive a fun x => { x with centred := false }
        let v : Int := ((c.hallElec a).natAbs : Nat)
        let low := tenthHz (c.fld (Fld.DRIVE_OBS_CTL_OBS_MIN_SPEED a))
        let c := if c.fld (Fld.DRIVE_CFG_SRC a) = 3 ∧ (c.drive a).hallLost = false ∧ held = false then
            (if c.srcUsed a = 1 ∧ 2 * low < v then c.setFld (Fld.DRIVE_STATUS_SRC_USED a) 2
             else if c.srcUsed a = 2 ∧ v < low then c.setFld (Fld.DRIVE_STATUS_SRC_USED a) 1 else c)
          else c
        let c := if c.srcUsed a = 1 then c.setAngle now a (c.hallAngle now a) (c.hallElec a) false else c
        c.commutated now a

/-- Axes whose encoder channel changed: the first index makes it the source without a step in the angle, and ENCODER_FAULT sends the axis to its Halls or to FAULT (R303, R331). [DESIGN CHOICE: logs 86, 147] -/
def Chip.encoderDrives (c : Chip) (now ch : Nat) : Chip :=
  c.showSources.each ((List.range 12).filter fun a => c.fld (Fld.DRIVE_CFG_SRC a) == 0 && c.fld (Fld.DRIVE_CFG_ENC_CH a) == ch) fun a c =>
    let s := c.judged a
    if s = Ds.disabled ∨ s = Ds.fault then c
    else if c.chanFault ch ∧ c.srcUsed a = 0 ∧ c.hallOf a = none then c.driveFault now a 7
    else if c.driveState a = Ds.fault then c
    else if c.chanFault ch then (if c.srcUsed a = 0 then c.setFld (Fld.DRIVE_STATUS_SRC_USED a) 1 else c)
    else if c.srcUsed a = 1 ∧ c.chanRef ch then
      (c.setFld (Fld.DRIVE_STATUS_SRC_USED a) 0).updDrive a fun x => { x with
        encShift := signed 16 (pattern 16 ((c.hallAngle now a : Int) - c.encAngle a)) }
    else c

/-- A target in a slot's feedback unit as an electrical speed: counts/s through POLE_PAIRS ÷ CPR, sub-lines/s through BELT_SCALE; any other unit gives a free magnitude with the target's sign (R303, R320, R354, R420). [DESIGN CHOICE: log 85] -/
def Chip.elecTarget (c : Chip) (a slot : Nat) (w : Word) : Int × Chip :=
  let v := F32.floorScaled w 16
  let fb := c.fld (Fld.WINDLASS_SLOT_IO_FB_SRC slot)
  let sign : Int := if F32.key w = 0 then 0 else if F32.key w < 0 then -1 else 1
  let ofCh (ch : Nat) (v : Int) : Int :=
    let r := v * 10 * c.fld (Fld.DRIVE_CFG_POLE_PAIRS a) / (max 1 (c.chanCpr ch) : Nat)
    if r = 0 then sign else r
  if v = 0 then (sign, c)
  else if fb < 12 then (ofCh fb v, c)
  else if 0x1C ≤ fb ∧ fb < 0x20 then (ofCh (12 + fb - 0x1C) v, c)
  else if fb = 0x80 ∧ c.fld Fld.FEEDBACK_BELT_SCALE_SCALE ≠ 0 then
    (ofCh (c.fld Fld.FEEDBACK_BELT_CFG_CH) (v * 65536 / c.fld Fld.FEEDBACK_BELT_SCALE_SCALE), c)
  else
    let (n, c) := c.freeNat
    (if v < 0 then -(n + 1 : Nat) else (n + 1 : Nat), c)

/-- A nonzero target is a start for an axis that is not in RUN, unless it brakes into FAULT (R308, R309). -/
def Chip.startsAnew (c : Chip) (a : Nat) : Bool :=
  let s := c.driveState a
  s != Ds.run && !(s == Ds.brake && (c.drive a).after == 2)

/-- An axis takes a speed target from its speed slot: it starts, changes speed, reverses or stops; `old` is the reference before, `cmd` the command that asks (R309 to R311). [DESIGN CHOICE: log 85] -/
def Chip.driveTo (c : Chip) (now a slot : Nat) (cmd : Option Nat) (v : Int) (old : Word) : Chip :=
  let s := c.driveState a
  match if v ≠ 0 ∧ c.startsAnew a then c.startRefused a else none with
  | some st => cmd.elim c fun k => c.result k st (if st = Rc.NOT_ALIGNED then a * 256 else 0)
  | none =>
  let c := c.updDrive a fun x => { x with slot := slot, cmd := cmd }
  if v = 0 then
    (if s = Ds.disabled then c.endJog a Rc.OK 0 else c.driveStop a old)
  else
  let c := c.updDrive a fun x => { x with target := v }
  if s = Ds.disabled ∨ s = Ds.fault then c.driveStart now a
  else if s = Ds.offsetCal ∨ s = Ds.catching then c.updDrive a fun x => { x with startedAt := now }
  else if c.startsAnew a then (c.updDrive a fun x => { x with startedAt := now }).beginCatch now a
  else if s = Ds.run then
    let x := c.drive a
    if (x.ramp < 0 ∧ 0 < v) ∨ (0 < x.ramp ∧ v < 0) then (c.updDrive a fun x => { x with startedAt := now }).driveBrake a 1
    else
      ((c.setDriveState a Ds.run).updDrive a fun x => { x with ramping := decide (x.ramp ≠ v) }).endJog a Rc.OK 0
  else c

/-- AXIS_JOG of a drive axis whose checks have passed: SETPOINT is written and gives the target (R420). [DESIGN CHOICE: log 87] -/
def Chip.driveJog (c : Chip) (now a slot cmd : Nat) (w : Word) : Chip :=
  match if F32.key w ≠ 0 ∧ c.startsAnew a then c.startRefused a else none with
  | some st => c.result cmd st (if st = Rc.NOT_ALIGNED then a * 256 else 0)
  | none =>
  let c := c.endJog a Rc.MOVE_REPLACED 0
  let old := c.reg (Reg.WINDLASS_SETPOINT slot)
  let c := c.setReg (Reg.WINDLASS_SETPOINT slot) w
  let (v, c) := c.elecTarget a slot w
  c.driveTo now a slot (some cmd) v old

/-- The reference a speed slot follows while its axis ramps: the reference × ramped speed ÷ the speed it ramps to or from (R309, R311). [DESIGN CHOICE: log 85] -/
def Chip.rampedRef (c : Chip) (n : Nat) (sp : Word) : Option Word :=
  let share (x : Drive) (full : Int) (w : Word) : Option Word :=
    if full = 0 then some 0 else (F32.ofRatio (if full < 0 then -x.ramp else x.ramp) full.natAbs).bind (F32.mul w)
  match (List.range 12).find? fun a => (c.drive a).slot == n && (c.driveState a == Ds.run || c.driveState a == Ds.stopping) with
  | none => some sp
  | some a =>
    let x := c.drive a
    if c.driveState a = Ds.stopping then share x x.stopFrom x.stopRef
    else if x.ramping then share x x.target sp else some sp

end Sys2Proof.Machine
end

