-- ==== Sys2Proof/Machine/Windlass.lean ====
section
/-! DEFINITION. Windlass: the sample of a slot, its laws and its output, the slow ADC, references owned by the engine, follow inputs, repetitive control, HV channels, fuser zones, the response-time check, refusals, injection and capture (R351 to R376, R423 to R425).
-/
namespace Sys2Proof.Machine

/-- A free finite binary32 value. [DESIGN CHOICE: log 84] -/
def Chip.freeReal (c : Chip) : Word × Chip :=
  let (w, c) := c.freeWord
  (F32.tame w, c)

/-- A binary32 register of a slot: 0x18 GAIN_P, 0x1C GAIN_I, 0x20 GAIN_D, 0x24 OUT_MIN, 0x28 OUT_MAX, 0x2C AUX0, 0x30 AUX1, 0x34 LOCK_TOL. -/
def Chip.slotReg (c : Chip) (n k : Nat) : Word := c.reg (0x390000 + n * 0x40 + k)

/-- A source code of R354 is listed. -/
def srcListed (k : Nat) : Bool :=
  decide (k < 0x0C) || (decide (0x10 ≤ k) && decide (k < 0x38)) || (decide (0x40 ≤ k) && decide (k < 0x58))
    || (decide (0x60 ≤ k) && decide (k < 0x78)) || k == 0x80 || k == 0x81 || (decide (0x90 ≤ k) && decide (k < 0xF0)) || k == 0xFF

/-- A destination code of R354 is listed. -/
def destListed (k : Nat) : Bool :=
  decide (k < 12) || (decide (0x20 ≤ k) && decide (k < 0x38)) || (decide (0x40 ≤ k) && decide (k < 0x48)) || k == 0xFF

/-- The value of a source at a sample instant; feedback channels are read through their copies (R354, R474). -/
def Chip.srcValue (c : Chip) (t k : Nat) : Option Word :=
  if k < 0x0C then F32.ofScaled (c.seen k).speed (-16)
  else if 0x10 ≤ k ∧ k < 0x1C then F32.ofScaled (c.seenPos (k - 0x10) t) (-16)
  else if 0x1C ≤ k ∧ k < 0x20 then F32.ofScaled (c.seen (12 + k - 0x1C)).speed (-16)
  else if 0x20 ≤ k ∧ k < 0x38 then some (c.reg (Reg.WINDLASS_SADC (k - 0x20)))
  else if 0x40 ≤ k ∧ k < 0x58 then some (c.wl.hv.getD (k - 0x40) {}).v
  else if 0x60 ≤ k ∧ k < 0x78 then some (c.wl.hv.getD (k - 0x60) {}).i
  else if k = 0x80 then F32.ofScaled c.beltRate (-16)
  else if k = 0x81 then some c.wl.demand
  else if 0x90 ≤ k ∧ k < 0xF0 then some (c.reg (Reg.WINDLASS_OUT (k - 0x90)))
  else some 0

/-- One biquad on a sample: (((b0·x + b1·x₁) + b2·x₂) − a1·y₁) − a2·y₂, every step rounded (R351, R352). -/
def Chip.biquad (c : Chip) (n i : Nat) (s : Biquad) (x : Word) : Option (Word × Biquad) := do
  let k (j : Nat) : Word := c.reg (Reg.WINDLASS_BIQUAD n i j)
  let p ← F32.mul (k 0) x
  let p1 ← F32.mul (k 1) s.x1
  let a ← F32.add p p1
  let p2 ← F32.mul (k 2) s.x2
  let a ← F32.add a p2
  let q1 ← F32.mul (k 3) s.y1
  let a ← F32.sub a q1
  let q2 ← F32.mul (k 4) s.y2
  let y ← F32.sub a q2
  some (y, ⟨x, s.x1, y, s.y1⟩)

/-- The position of a biquad of a slot: 0 off, 1 FB, 2 ERR, 3 OUT (R375). -/
def Chip.bqPos (c : Chip) (n i : Nat) : Nat := bits (c.fld (Fld.WINDLASS_SLOT_CFG_BQ_POS n)) (2 * i + 1) (2 * i)

/-- The biquads of a slot at a position, in index order (R352). [DESIGN CHOICE: log 94] -/
def Chip.biquads (c : Chip) (n pos : Nat) : List Nat → Word → List Biquad → Option (Word × List Biquad)
  | [], x, l => some (x, l)
  | i :: is, x, l =>
    if c.bqPos n i = pos then do
      let (y, s) ← c.biquad n i (l.getD i {}) x
      Chip.biquads c n pos is y (updAt l i fun _ => s)
    else Chip.biquads c n pos is x l

/-- What a slot's sample takes in. -/
structure SlotIn where
  law : Nat
  /-- Feedback, reference source and set-point values, and the measured d-axis current. -/
  y : Option Word
  ref : Option Word
  /-- REF_SRC is 0xFF: it contributes 0 whatever REF_SCALE is. -/
  noRef : Bool
  sp : Option Word
  id : Word
  /-- Ts in s, and whether a sample went before. -/
  ts : Word
  fresh : Bool
  /-- The derivative at a first sample, whose value R353 does not state. -/
  deriv : Option Word
  /-- The magnitude limit of a current reference, and a current reference that replaces it. -/
  lim : Option Word
  force : Option Word
  /-- 2π × electrical frequency, for the decoupling of FOC. -/
  omega : Word
  /-- The repetitive term, and the injected value at REF, ERR or OUT. -/
  rc : Option (Option Word)
  inj : Option (Nat × Option Word)
  /-- The slot is saturated whatever its output (R355), or by an output above this (R370). -/
  sat : Bool
  top : Option Word

/-- What a slot's sample gives. -/
structure SlotOut where
  st : SlotSt
  r : Word
  y : Word
  /-- The error as formed, and as the law takes it. -/
  e0 : Word
  e : Word
  u : Word
  ud : Word
  sat : Bool

/-- A value with the injection at a point added (R352). -/
def SlotIn.plus (x : SlotIn) (point : Nat) (v : Word) : Option Word :=
  match x.inj with
  | some (p, w) => if p = point then w.bind (F32.add v) else some v
  | none => some v

/-- The ramped reference: it starts at the feedback and moves toward its target by at most RAMP × Ts; RAMP 0 gives a step (R352). -/
def rampTo (ramp ts : Word) (from_ : Option Word) (y target : Word) : Option Word :=
  if F32.key ramp = 0 then some target
  else match from_ with
    | none => some y
    | some r => do
      let lim ← F32.mul (F32.abs ramp) ts
      let d ← F32.sub target r
      F32.add r (F32.clamp (F32.neg lim) lim d)

/-- Steps 7 and 8 of R352: the repetitive term, the OUT injection, the OUT biquads and the clamp. The answer says whether it clamped. [DESIGN CHOICE: log 94] -/
def Chip.slotTail (c : Chip) (n : Nat) (x : SlotIn) (u : Word) (bq : List Biquad) : Option (Word × List Biquad × Bool) := do
  let u ← match x.rc with | some t => t.bind (F32.add u) | none => some u
  let u ← x.plus 2 u
  let (u, bq) ← c.biquads n 3 [0, 1, 2, 3] u bq
  let v := F32.clamp (c.slotReg n 0x24) (c.slotReg n 0x28) u
  if F32.finite v then some (v, bq, v != u) else none

/-- d(−y)/dt of PID: the difference of successive feedbacks over Ts, filtered with AUX0 unless that is 0; the manual names no filter, so what it gives is a free function of its inputs (R351, R353). [DESIGN CHOICE: log 94] -/
def Chip.derivative (c : Chip) (n : Nat) (x : SlotIn) (st : SlotSt) (y : Word) : Option Word :=
  match x.deriv with
  | some w => some w
  | none => do
    let dy ← F32.sub (F32.neg y) (F32.neg (st.lastY.getD y))
    let dy ← F32.div dy x.ts
    let tau := c.slotReg n 0x2C
    some (if F32.key tau = 0 then dy else F32.tame (Config.filtered dy st.deriv x.ts tau))

/-- Steps 2 to 8 of R352 and the laws of R353, with the saturation of R355; none when an intermediate is not finite. [DESIGN CHOICE: log 94] -/
def Chip.slotCompute (c : Chip) (n : Nat) (x : SlotIn) (st : SlotSt) : Option SlotOut := do
  let kp := c.slotReg n 0x18
  let ki := c.slotReg n 0x1C
  let y0 ← x.y
  let ref ← x.ref
  let sp ← x.sp
  let (y, bq) ← c.biquads n 1 [0, 1, 2, 3] y0 st.bq
  let r ← if x.law = 3 then some sp
    else match x.force with
      | some w => some w
      | none => do
        let scaled ← if x.noRef then some 0 else F32.mul (c.reg (Reg.WINDLASS_REF_SCALE n)) ref
        let target ← F32.add scaled sp
        rampTo (c.reg (Reg.WINDLASS_RAMP n)) x.ts st.ramp y target
  let ramp := r
  let r := match x.lim with | some l => F32.clamp (F32.neg l) l r | none => r
  let r ← x.plus 0 r
  let e0 ← F32.sub r y
  let (e, bq) ← c.biquads n 2 [0, 1, 2, 3] e0 bq
  let e ← x.plus 1 e
  let p ← F32.mul kp e
  let g ← F32.mul ki e
  let g ← F32.mul g x.ts
  let i1 ← F32.add st.integ g
  let dy ← if x.law = 1 then c.derivative n x st y else some 0
  let d ← F32.mul (if x.law = 1 then c.slotReg n 0x20 else 0) dy
  let ff ← if x.law = 3 ∧ !x.noRef then F32.mul (c.slotReg n 0x20) ref else some 0
  -- the d axis of FOC, and the cross-coupling of both axes
  let wl ← F32.mul x.omega (if x.law = 2 then c.slotReg n 0x2C else 0)
  let crossQ ← F32.mul wl x.id
  let crossD ← F32.mul wl y
  let ed ← if x.law = 2 then F32.sub (c.slotReg n 0x30) x.id else some 0
  let pd ← F32.mul kp ed
  let gd ← F32.mul ki ed
  let gd ← F32.mul gd x.ts
  let id1 ← F32.add st.integD gd
  let lawOf (i : Word) : Option Word := do
    if x.law = 3 then
      let a ← F32.add ff p
      F32.add a i
    else
      let a ← F32.add p i
      if x.law = 1 then F32.add a d else if x.law = 2 then F32.add a crossQ else some a
  let lawD (i : Word) : Option Word := do
    let a ← F32.add pd i
    F32.sub a crossD
  let u1 ← lawOf i1
  let u0 ← lawOf st.integ
  let (v1, bq1, cl1) ← c.slotTail n x u1 bq
  let d1 ← lawD id1
  let d0 ← lawD st.integD
  let lo := c.slotReg n 0x24
  let hi := c.slotReg n 0x28
  let above := match x.top with | some w => F32.lt w v1 | none => false
  let sat := x.sat || cl1 || above || (x.law == 2 && F32.clamp lo hi d1 != d1)
  let keep := sat && F32.lt (F32.abs u0) (F32.abs u1)
  let keepD := sat && F32.lt (F32.abs d0) (F32.abs d1)
  let (v, bqN, _) ← if keep then c.slotTail n x u0 bq else some (v1, bq1, cl1)
  let ud := F32.clamp lo hi (if keepD then d0 else d1)
  let i := if keep then st.integ else i1
  let st := { st with
    integ := i, integD := if x.law = 2 then (if keepD then st.integD else id1) else st.integD
    bq := bqN, ramp := some ramp, lastY := some y, deriv := dy }
  some { st := st, r := r, y := y, e0 := e0, e := e, u := v, ud := ud, sat := sat }

/-- The nominal interval of a slot's samples in ns (R296, R356). [DESIGN CHOICE: log 93] -/
def Chip.slotPeriod (c : Chip) : Nat → Nat → Nat
  | 0, _ => 0
  | k + 1, n =>
    let src := c.fld (Fld.WINDLASS_SLOT_CFG_TSRC n)
    match c.fld (Fld.WINDLASS_SLOT_CFG_TRIG n) with
    | 0 => c.fld (Fld.WINDLASS_PERIOD_PERIOD n) * 4
    | 1 => c.carrierNs src * c.fld (Fld.DRIVE_PWM_LOOP_DIV src)
    | _ => if c.slotRuns src then Chip.slotPeriod c k src else 0

/-- The angle of a table's channel in bins: the bin and the fraction within it; none for an unreferenced channel or CPR 0 (R364). -/
def Chip.rcBin (c : Chip) (j : Nat) : Option (Nat × Word) :=
  let ch := c.fld (Fld.WINDLASS_RC_CFG_CH j)
  let cpr := c.chanCpr ch
  if cpr = 0 ∨ !(c.seen ch).ref then none
  else
    let x := ((c.seen ch).pos % (cpr : Int)).toNat * 1024
    some (x / cpr % 1024, (F32.ofRatio (x % cpr : Nat) cpr).getD 0)

/-- An entry of the active bank of a repetitive-control table. -/
def Chip.rcEntry (c : Chip) (j b : Nat) : Word := BitVec.ofNat 32 (c.tabNat true (0xD0000 + j * 0x1000 + 4 * (b % 1024)) 4)

/-- The tables in use of a slot in a mode (R364). [DESIGN CHOICE: log 95] -/
def Chip.rcOf (c : Chip) (n mode : Nat) : List Nat :=
  (List.range 16).filter fun j => c.flag (Fld.WINDLASS_RC_CFG_EN j) && c.fld (Fld.WINDLASS_RC_CFG_SLOT j) == n
    && c.fld (Fld.WINDLASS_RC_CFG_MODE j) == mode

/-- The repetitive term of a slot: its COMP tables at bin (b + LEAD) mod 1,024, interpolated linearly (R364). [DESIGN CHOICE: log 95] -/
def Chip.rcTerm (c : Chip) (n : Nat) : Option (Option Word) :=
  match c.rcOf n 0 with
  | [] => none
  | l => some (l.foldl (fun (a : Option Word) j =>
      match c.rcBin j with
      | none => a
      | some (b, f) => do
        let k := b + c.fld (Fld.WINDLASS_RC_CFG_LEAD j)
        let d ← F32.sub (c.rcEntry j (k + 1)) (c.rcEntry j k)
        let d ← F32.mul f d
        let t ← F32.add (c.rcEntry j k) d
        let a ← a
        F32.add a t) (some 0))

/-- Write a learned entry into the active bank, keeping what the master copy holds (R364). -/
def Chip.setLearned (c : Chip) (j b : Nat) (w : Word) : Chip :=
  let off := 0xD0000 + j * 0x1000 + 4 * (b % 1024)
  let kept := ((List.range 4).filter fun i => !c.wl.unsaved.any fun e => e.1 == off + i).map fun i => (off + i, c.tabByte true (off + i))
  (c.updWl fun w => { w with unsaved := w.unsaved ++ kept }).setTabBytes true off (leBytes 4 w.toNat)

/-- The learned entry (1 − 2^−FORGET) × T[b] + GAIN × x (R364). [DESIGN CHOICE: log 95] -/
def Chip.learn (c : Chip) (j b : Nat) (x : Word) : Option Word := do
  let f := 2 ^ c.fld (Fld.WINDLASS_RC_FORGET_FORGET j)
  let k ← F32.ofRatio (f - 1 : Nat) f
  let a ← F32.mul k (c.rcEntry j b)
  let g ← F32.mul (c.reg (Reg.WINDLASS_RC_GAIN j)) x
  F32.add a g

/-- The track of a repetitive-control table. -/
def Chip.rcTrack (c : Chip) (j : Nat) : RcTrack := c.wl.tracks.getD j {}

/-- A sample of a MODEL table at a revolution and a position: a passage of bin 0 forward ends a revolution; any other change of revolution begins anew (R364). [DESIGN CHOICE: log 95] -/
def RcTrack.sample (x : RcTrack) (t : Nat) (turn pos : Int) : RcTrack :=
  match x.turn with
  | none => { turn := some turn }
  | some k =>
    if turn = k then x
    else if turn = k + 1 then
      { turn := some turn, passage := some (t, pos), before := x.passage.map fun p => (t - p.1, pos - p.2) }
    else { turn := some turn }

/-- W_meas − W_lin: the position less what the speed of the revolution before gives since its end, in 1/65,536 count; none before a whole revolution (R364). [DESIGN CHOICE: log 95] -/
def RcTrack.deviation (x : RcTrack) (t : Nat) (pos : Int) : Option Int := do
  let (t0, p0) ← x.passage
  let (dt, dp) ← x.before
  some (pos - p0 - dp * ((t : Int) - t0) / dt)

/-- The MODEL tables of a slot see its sample: `at_` holds the inputs at the sample instant (R364). [DESIGN CHOICE: log 95] -/
def Chip.trackAll (c at_ : Chip) (n t : Nat) : Chip :=
  c.each (c.rcOf n 1) fun j c =>
    let ch := c.fld (Fld.WINDLASS_RC_CFG_CH j)
    c.updWl fun w => { w with tracks := updAt w.tracks j fun x =>
      if (at_.rcBin j).isNone then {} else x.sample t ((at_.seen ch).pos / (c.chanCpr ch : Int)) (at_.seenPos ch t) }

/-- The deviation that a MODEL table learns from, in sub-lines of its station (R364). [DESIGN CHOICE: log 95] -/
def Chip.rcDeviation (c at_ : Chip) (j t : Nat) : Option (Option Word) :=
  ((c.rcTrack j).deviation t (at_.seenPos (c.fld (Fld.WINDLASS_RC_CFG_CH j)) t)).map fun d =>
    F32.ofScaled (d * c.fld (Fld.STATION_DRUM_SCALE_SCALE (c.fld (Fld.WINDLASS_RC_CFG_STN j)))) (-32)

/-- Learning of the tables of a slot at a sample: COMP from e, MODEL from the deviation of the drum; it answers whether every value was finite (R364). -/
def Chip.learnAll (c at_ : Chip) (n t : Nat) (e : Word) : Bool × Chip :=
  let go := fun (a : Bool × Chip) j =>
    let c := a.2
    if c.flag (Fld.WINDLASS_RC_CFG_LEARN j) && (c.running.isEmpty || c.flag (Fld.WINDLASS_RC_CFG_LEARN_RUN j)) then
      match at_.rcBin j, if c.fld (Fld.WINDLASS_RC_CFG_MODE j) = 0 then some (some e) else c.rcDeviation at_ j t with
      | some (b, _), some x =>
        match x.bind (c.learn j b) with
        | some w => (a.1, c.setLearned j b w)
        | none => (false, c)
      | _, _ => a
    else a
  if c.flag (Fld.WINDLASS_SLOT_STATUS_LOCK n) then (c.rcOf n 0 ++ c.rcOf n 1).foldl go (true, c) else (true, c)

/-- RC_MASTER_COPY: a learning table is copied to its master copy (R364). [DESIGN CHOICE: log 95] -/
def Chip.rcCopy (c : Chip) (j : Nat) : Chip :=
  if c.flag (Fld.WINDLASS_RC_CFG_EN j) && c.flag (Fld.WINDLASS_RC_CFG_LEARN j) then
    c.updWl fun w => { w with unsaved := w.unsaved.filter fun (e : Host.Cell) => (e.1 - 0xD0000) / 0x1000 != j }
  else c

/-- The taps of a maximal-length generator of each order from 7 to 16. -/
def prbsKnown (order : Nat) : Nat := [0x3, 0x1D, 0x11, 0x9, 0x5, 0x53, 0x1B, 0x443, 0x3, 0x100B].getD (order - 7) 0x3

/-- The next state of a shift register of `order` bits: the parity of its tapped bits enters at the top, and the low bit is the output. -/
def lfsrNext (taps order s : Nat) : Nat := s / 2 + ((List.range order).filter fun i => bit s i && bit taps i).length % 2 * 2 ^ (order - 1)

/-- The steps after which a shift register that starts at 1 is there again, if that is within `fuel` steps. -/
def lfsrPeriod (taps order : Nat) : Nat → Nat → Nat → Option Nat
  | 0, _, _ => none
  | fuel + 1, k, s => let s := lfsrNext taps order s; if s = 1 then some (k + 1) else lfsrPeriod taps order fuel (k + 1) s

/-- The taps in use for an order: the free ones where they give a maximal-length sequence (R373). [DESIGN CHOICE: log 96] -/
def prbsTapsOf (order : Nat) : Nat :=
  let t := Config.prbsTaps order
  if lfsrPeriod t order (2 ^ order) 0 1 = some (2 ^ order - 1) then t else prbsKnown order

/-- The state a PRBS of an order starts from, which is never 0 (R373). [DESIGN CHOICE: log 96] -/
def prbsStart (order : Nat) : Nat := Config.prbsSeed order % (2 ^ order - 1) + 1

/-- The value of an injection at sample `done` (R373). [DESIGN CHOICE: log 96] -/
def Inj.value (j : Inj) (ts t : Word) : Option Word :=
  if j.kind = 0 then some j.amp
  else if j.kind = 2 then some (if bit j.lfsr 0 then j.amp else F32.neg j.amp)
  else do
    let twoPi : Word := 0x40C90FDB
    let n ← F32.ofScaled j.n 0
    let d ← F32.mul n ts
    let q ← F32.div j.f1 j.f0
    let l ← F32.ln q
    let a ← F32.mul twoPi j.f0
    let a ← F32.mul a d
    let a ← F32.div a l
    let x ← F32.mul t l
    let x ← F32.div x d
    let x ← F32.exp x
    let x ← F32.sub x 0x3F800000
    let phi ← F32.mul a x
    let s ← F32.sin phi
    F32.mul j.amp s

/-- The state of an HV channel (R366, R367, R388): BREACH stays until REARM or PRIME; FORCED_OFF while the disable path holds the channel. [DESIGN CHOICE: log 98] -/
def Chip.refreshHv (c : Chip) (k : Nat) : Chip :=
  let s := c.fld (Fld.WINDLASS_HV_STATUS_STATE k)
  let n := if s = 2 then 2 else if !c.flag (Fld.WINDLASS_HV_CFG_EN k) then 0
    else if c.flag Fld.SAFETY_STATUS_HV_EN then 1 else 3
  let c := c.setFld (Fld.WINDLASS_HV_STATUS_STATE k) n
  if s = 1 ∧ n ≠ 1 then c.pin "HV_PWM" k 0 else c

/-- A PWM zone from now on: in each FPERIOD of 10 ms units the output is high for P × FPERIOD, P in 1/65,536 (R370). [DESIGN CHOICE: log 100] -/
def Chip.fuserPwm (c : Chip) (z : Nat) : Chip :=
  let period := c.fld (Fld.WINDLASS_FUSER_CFG_FPERIOD z) * 10000000
  c.send (.pwm "FUSER_OUT" z period ((c.wl.zones.getD z {}).power * period / 65536))

/-- The fuser pair of a zone is forced off, or a stop, SLEEP or REPLAY holds every output low (R24, R382, R394, R395, R484). [DESIGN CHOICE: log 98] -/
def Chip.zoneForced (c : Chip) (z : Nat) : Bool :=
  c.safety.forced.getD (z / 2) false || c.eng.stopping || [St.sleep, St.safeStop, St.replay].contains c.state || c.flag Fld.SAFETY_STATUS_TRIP || c.eng.down

/-- The state of a fuser zone; a PWM zone that fires again resumes its pattern (R369, R370, R395). [DESIGN CHOICE: log 98] -/
def Chip.refreshZone (c : Chip) (z : Nat) : Chip :=
  let s := c.fld (Fld.WINDLASS_FUSER_STATUS_STATE z)
  let n := if !c.flag (Fld.WINDLASS_FUSER_CFG_EN z) then 0
    else if c.zoneForced z then 3
    else if !c.flag (Fld.WINDLASS_FUSER_CFG_FIRE z) && !c.flag Fld.WINDLASS_ZC_STATUS_PRESENT then 2 else 1
  let c := c.setFld (Fld.WINDLASS_FUSER_STATUS_STATE z) n
  if s = 1 ∧ n ≠ 1 then c.pin "FUSER_OUT" z 0
  else if s ≠ 1 ∧ n = 1 ∧ c.flag (Fld.WINDLASS_FUSER_CFG_FIRE z) then c.fuserPwm z else c

/-- FUSER_CFG stands over `old`: a zone that fires takes its new pattern (R370). [DESIGN CHOICE: log 100] -/
def Chip.fuserCfgWrote (c : Chip) (z old : Nat) : Chip :=
  let c := if c.flag (Fld.WINDLASS_FUSER_CFG_EN z) && !bit old 0 then c.updWl fun w => { w with
    zones := updAt w.zones z fun x => { x with acc := z * 8192 } } else c
  let on := c.fld (Fld.WINDLASS_FUSER_STATUS_STATE z) == 1
  let c := c.refreshZone z
  if !on || c.fld (Fld.WINDLASS_FUSER_STATUS_STATE z) != 1 then c
  else if c.flag (Fld.WINDLASS_FUSER_CFG_FIRE z) then c.fuserPwm z
  else if bit old 1 then c.pin "FUSER_OUT" z 0 else c

/-- Bring every HV channel and fuser zone to the state its holders give it. [DESIGN CHOICE: log 98] -/
def Chip.refreshLoads (c : Chip) : Chip :=
  (c.each (List.range 24) fun k c => c.refreshHv k).each (List.range 8) fun z c => c.refreshZone z

/-- The slot's HV channel or fuser zone is not firing, or its drive axis applied a shorter vector than requested (R355). -/
def Chip.destSat (c : Chip) (n : Nat) : Bool :=
  let d := c.fld (Fld.WINDLASS_SLOT_CFG_DEST n)
  if d < 12 then (c.drive d).shortened
  else if 0x20 ≤ d ∧ d < 0x38 then c.fld (Fld.WINDLASS_HV_STATUS_STATE (d - 0x20)) != 1
  else if 0x40 ≤ d ∧ d < 0x48 then c.fld (Fld.WINDLASS_FUSER_STATUS_STATE (d - 0x40)) != 1
  else false

/-- P_MAX of the slot's fuser zone (R355, R370). -/
def Chip.destTop (c : Chip) (n : Nat) : Option Word :=
  let d := c.fld (Fld.WINDLASS_SLOT_CFG_DEST n)
  if 0x40 ≤ d ∧ d < 0x48 then F32.ofScaled (c.fld (Fld.WINDLASS_FUSER_PMAX_P_MAX (d - 0x40))) (-16) else none

/-- Deliver an output to its HV channel or fuser zone (R366, R370). -/
def Chip.toLoad (c : Chip) (n : Nat) (u : Word) : Chip :=
  let d := c.fld (Fld.WINDLASS_SLOT_CFG_DEST n)
  let unit := clampI 0 65536 (F32.floorScaled u 16)
  if 0x20 ≤ d ∧ d < 0x38 then
    let k := d - 0x20
    if c.fld (Fld.WINDLASS_HV_STATUS_STATE k) = 1 then
      c.pin "HV_PWM" k ((unit * c.fld (Fld.WINDLASS_HV_CFG_PERIOD k) / 65536).toNat)
    else c
  else if 0x40 ≤ d ∧ d < 0x48 then
    let z := d - 0x40
    let p := min unit.toNat (c.fld (Fld.WINDLASS_FUSER_PMAX_P_MAX z))
    let c := c.updWl fun w => { w with zones := updAt w.zones z fun x => { x with power := p } }
    let c := c.setFld (Fld.WINDLASS_FUSER_STATUS_POWER z) (satN 65535 p)
    if c.flag (Fld.WINDLASS_FUSER_CFG_FIRE z) && c.fld (Fld.WINDLASS_FUSER_STATUS_STATE z) == 1 then c.fuserPwm z else c
  else c

/-- The phase voltages of a vector in the rotor frame as fractions of the bus with 16 fraction bits; none for a bus voltage of 0 (R298). -/
def Chip.phases (c : Chip) (a : Nat) (vd vq : Word) : Option (List Int) := do
  let bus := c.reg (Reg.WINDLASS_SADC (c.fld (Fld.DRIVE_CFG_VBUS_CH a)))
  let d ← F32.div vd bus
  let q ← F32.div vq bus
  let th : Int := (c.fld (Fld.DRIVE_ANGLE_ANGLE a) : Int) * (q1 / 65536)
  some ((List.range 3).map fun (k : Nat) =>
    let x := th - (k : Int) * q1 / 3
    (qmul (F32.toQ d) (qsinTurn (x + q1 / 4)) - qmul (F32.toQ q) (qsinTurn x)) / (q1 / 65536))

/-- The sample instant of a slot that waits at `now`, and the samples that fell due behind it before `now` and are skipped (R356). [DESIGN CHOICE: log 93] -/
def Chip.slotDue (c : Chip) (now n : Nat) : Option (Nat × Nat) :=
  let x := c.slotSt n
  if c.fld (Fld.WINDLASS_SLOT_CFG_TRIG n) = 0 then
    let p := c.fld (Fld.WINDLASS_PERIOD_PERIOD n) * 4
    if p = 0 then none else
    let first := match x.lastT with
      | some t => max (t / p + 1) (cdiv x.from_ p)
      | none => cdiv x.from_ p
    if first * p ≤ now then some (first * p, (now - 1) / p - first) else none
  else x.due.map fun t => (t, 0)

/-- The earliest sample instant that waits for its execution; the present one when none waits (R356). -/
def Chip.oldestDue (c : Chip) (now : Nat) : Nat :=
  ((List.range 96).filter c.slotRuns).foldl (fun m n => match c.slotDue now n with | some (t, _) => min m t | none => m) now

/-- An input changes now: what it was stays for the samples that wait (R354, R358). [DESIGN CHOICE: log 93] -/
def Chip.keepInput (c : Chip) (now : Nat) (was : WlInput) : Chip :=
  let t := c.oldestDue now
  c.updWl fun w => { w with past := ((now, was) :: w.past).filter fun e => decide (t < e.1) }

/-- An input as it was is put back. -/
def Chip.putBack (c : Chip) : WlInput → Chip
  | .adc ch w => c.setReg (Reg.WINDLASS_SADC ch) w
  | .hv k v i => c.updWl fun w => { w with hv := updAt w.hv k fun x => { x with v := v, i := i } }
  | .demand d => c.updWl fun w => { w with demand := d }
  | .feedback l => { c with fbCopy := l }

/-- The inputs of Windlass as they stood at an instant: every change after it is taken back, the newest first (R354, R358). [DESIGN CHOICE: log 93] -/
def Chip.asOf (c : Chip) (t : Nat) : Chip :=
  c.wl.past.foldl (fun c e => if t < e.1 then c.putBack e.2 else c) c

/-- The class of a slot (R353). [DESIGN CHOICE: log 101] -/
def slotClass (law : Nat) : Nat := if law = 2 then 0 else if law = 4 then 3 else if law = 5 then 4 else 2

/-- The execution cost of a slot in CTL cycles (R357). [DESIGN CHOICE: log 101] -/
def Chip.slotCost (c : Chip) (n law : Nat) : Nat :=
  (if law = 2 then 48 else if law = 4 ∨ law = 5 then 24 else 32)
    + 8 * ((List.range 4).filter fun i => c.bqPos n i != 0).length
    + 8 * ((List.range 16).filter fun j => c.flag (Fld.WINDLASS_RC_CFG_EN j) && c.fld (Fld.WINDLASS_RC_CFG_SLOT j) == n).length

/-- When a waiting slot is ready, for the order of execution: first those that run after another slot, then by class, sample instant and number (R356, R357). [DESIGN CHOICE: log 93] -/
def Chip.turnKey (c : Chip) (now n : Nat) : Option (Nat × List Nat) :=
  (c.slotDue now n).map fun (t, _) =>
    let trig := c.fld (Fld.WINDLASS_SLOT_CFG_TRIG n)
    (if trig = 1 then t + 700 else t, [b2n (trig != 2), slotClass (c.fld (Fld.WINDLASS_SLOT_CFG_LAW n)), t, n])

/-- A slot may complete its execution now: of the slots that were ready when it began, none is before it in the order (R357). [DESIGN CHOICE: log 93] -/
def Chip.slotTurn (c : Chip) (now n : Nat) : Bool :=
  match c.turnKey now n with
  | none => false
  | some (ready, key) =>
    let begun := max ready (now - 4 * c.slotCost n (c.fld (Fld.WINDLASS_SLOT_CFG_LAW n)))
    !((List.range 96).filter c.slotRuns).any fun m =>
      match c.turnKey now m with
      | some (r, k) => (decide (r ≤ begun) || c.fld (Fld.WINDLASS_SLOT_CFG_TRIG m) == 2) && decide (k < key)
      | none => false

/-- The measured current of a drive axis in the rotor frame, on its q or its d axis: a free function of the three currents, their scale and the electrical angle, for the manual does not give the transform (R351, R353). [DESIGN CHOICE: log 94] -/
def Chip.rotorCurrent (c : Chip) (a : Nat) (q : Bool) : Word :=
  F32.tame (Config.rotorCurrent q (c.phaseCurrents a) (c.fld (Fld.DRIVE_ISCALE_LSB a)) (c.fld (Fld.DRIVE_ANGLE_ANGLE a)))

/-- Gather what a slot's sample takes in. [DESIGN CHOICE: log 93] -/
def Chip.slotInputs (c : Chip) (n t : Nat) : SlotIn × Chip :=
  let st := c.slotSt n
  let at_ := c.asOf t
  let law := c.fld (Fld.WINDLASS_SLOT_CFG_LAW n)
  let dest := c.fld (Fld.WINDLASS_SLOT_CFG_DEST n)
  let foc := law == 2
  let iq := if foc then c.rotorCurrent dest true else 0
  let idv := if foc then c.rotorCurrent dest false else 0
  let (ft, c) := if st.lastT.isNone then c.freeNat else (0, c)
  let ts := match st.lastT with | some k => F32.ofNs (t - k) | none => F32.ofNs (ft % 250000000000)
  let open_ := law == 1 && st.lastT.isNone
  let (fd, c) := if open_ then c.freeReal else (0, c)
  let lim (k : Nat) : Word := (F32.ofScaled k 0).getD 0
  let s := c.driveState dest
  let force := if !foc then none
    else if s = Ds.openLoop then
      (let m := lim (if (c.drive dest).lostObs then c.fld (Fld.DRIVE_LIMITS_I_MAX dest) else c.fld (Fld.DRIVE_START_I_START dest))
       some (if (c.drive dest).target < 0 then F32.neg m else m))
    else none
  let inj := match c.wl.inj with
    | some j => if j.slot = n ∧ !j.ended then
        some (j.point, j.value (F32.ofNs (c.slotPeriod 97 n)) (F32.ofNs (t - j.t0.getD t))) else none
    | none => none
  ({ law := law
     y := if foc then some iq else at_.srcValue t (c.fld (Fld.WINDLASS_SLOT_IO_FB_SRC n))
     ref := at_.srcValue t (c.fld (Fld.WINDLASS_SLOT_IO_REF_SRC n)), noRef := c.fld (Fld.WINDLASS_SLOT_IO_REF_SRC n) == 0xFF
     sp := c.rampedRef n (c.reg (Reg.WINDLASS_SETPOINT n))
     id := idv, ts := ts, fresh := st.lastT.isNone
     deriv := if open_ then some fd else none
     lim := if foc then some (lim (c.fld (Fld.DRIVE_LIMITS_I_MAX dest))) else none
     force := force
     omega := if foc then (F32.ofQ (qmul (2 * qPi) (c.elecSpeed dest * q1 / 655360))).getD 0 else 0
     rc := at_.rcTerm n, inj := inj, sat := c.destSat n, top := c.destTop n }, c)

/-- The slot leaves its dancer limits, or has returned inside them (R363). [DESIGN CHOICE: log 94] -/
def Chip.dancer (c : Chip) (n : Nat) (y : Word) : Chip :=
  if c.fld (Fld.WINDLASS_SLOT_CFG_LAW n) ≠ 3 then c
  else
    let low := F32.lt y (c.slotReg n 0x2C)
    let high := F32.lt (c.slotReg n 0x30) y
    if low || high then
      if (c.slotSt n).outside then c
      else ((c.updSt n fun x => { x with outside := true }).raise Ev.WINDLASS_EVENT_DANCER_LIMIT).event Rc.DANCER_LIMIT 0
        (n + b2n (!low) * 256)
    else c.updSt n fun x => { x with outside := false }

/-- LOCK after a sample: 64 in a row within LOCK_TOL set it, one beyond twice LOCK_TOL clears it (R360). [DESIGN CHOICE: log 94] -/
def Chip.judgeSlotLock (c : Chip) (n : Nat) (e : Option Word) : Chip :=
  let tol := c.slotReg n 0x34
  let twice := (F32.mul 0x40000000 tol).getD 0x7F800000
  match e with
  | none => (c.updSt n fun x => { x with lockRun := 0 }).setFlag (Fld.WINDLASS_SLOT_STATUS_LOCK n) false
  | some e =>
    let run := if F32.le (F32.abs e) tol then min 64 ((c.slotSt n).lockRun + 1) else 0
    let c := c.updSt n fun x => { x with lockRun := run }
    if F32.lt twice (F32.abs e) then c.setFlag (Fld.WINDLASS_SLOT_STATUS_LOCK n) false
    else if run = 64 then c.setFlag (Fld.WINDLASS_SLOT_STATUS_LOCK n) true else c

/-- End the running capture with the samples taken so far; the record of one that a LOOP_INJECT started goes to that command's partition (R374, R376, R408, R509). [DESIGN CHOICE: log 102] -/
def Chip.endCapture (c : Chip) : Chip :=
  let (tag, n) := (c.wl.capTag, c.wl.cap.length)
  let c := (c.setFld Fld.WINDLASS_CAP_STATUS_STATE 3).raise Ev.WINDLASS_EVENT_CAP_DONE
  let c := match c.wl.capPart with
    | some p => c.eventTo p Rc.CAPTURE_DONE 0x34 tag n
    | none => c.event Rc.CAPTURE_DONE tag n
  match c.wl.inj with
  | some j => if j.ended then (c.updWl fun w => { w with inj := none }).result j.cmd Rc.OK else c
  | none => c

/-- Start a capture, for a LOOP_INJECT or for CAP_CTL (R374). [DESIGN CHOICE: log 102] -/
def Chip.startCapture (c : Chip) (tag : Nat) (part : Option Nat) : Chip :=
  ((c.setFld Fld.WINDLASS_CAP_STATUS_STATE 2).setFld Fld.WINDLASS_CAP_STATUS_COUNT 0).updWl fun w => { w with
    cap := [], capWait := 0, capTag := tag, capPart := part }

/-- The capture clock: an execution of its slot (R374). [DESIGN CHOICE: log 102] -/
def Chip.captureTick (c : Chip) (n : Nat) : Chip :=
  if c.fld Fld.WINDLASS_CAP_STATUS_STATE ≠ 2 ∨ c.fld Fld.WINDLASS_CAP_CTL_SLOT ≠ n then c
  else if c.wl.capWait ≠ 0 then c.updWl fun w => { w with capWait := w.capWait - 1 }
  else
    let row := (List.range 4).map fun i =>
      (c.slotSt (c.fld (Fld.WINDLASS_CAP_SEL_SLOT i))).sig.getD (c.fld (Fld.WINDLASS_CAP_SEL_SIG i)) 0
    let c := c.updWl fun w => { w with cap := row :: w.cap, capWait := c.fld Fld.WINDLASS_CAP_CTL_DECIM - 1 }
    let k := c.wl.cap.length
    let c := c.setFld Fld.WINDLASS_CAP_STATUS_COUNT k
    if c.fld Fld.WINDLASS_CAP_CTL_LENGTH * 1024 ≤ k then c.endCapture else c

/-- The injection's first sample: its instant, its Sump record, and the capture that waits for it (R373, R374, R473). [DESIGN CHOICE: log 96] -/
def Chip.beginInjection (c : Chip) (n t : Nat) : Chip :=
  match c.wl.inj with
  | some j =>
    if j.slot ≠ n ∨ j.t0.isSome then c else
    let waits := c.fld Fld.WINDLASS_CAP_STATUS_STATE == 1
    let c := c.updWl fun w => { w with inj := some { j with t0 := some t, startedCap := waits } }
    let c := c.sumpRec none 0x14 n t (wordsOf (j.params ++ leBytes 8 t))
    if waits then c.startCapture j.tag j.part else c
  | none => c

/-- A sample was injected: the next bit of a PRBS after HOLD samples, and the end after N (R373). [DESIGN CHOICE: log 96] -/
def Chip.stepInjection (c : Chip) (n : Nat) : Chip :=
  match c.wl.inj with
  | some j =>
    if j.slot ≠ n ∨ j.ended ∨ j.t0.isNone then c else
    let k := j.done + 1
    let next := if j.kind = 2 ∧ k % max 1 j.hold = 0 then lfsrNext (prbsTapsOf j.order) j.order j.lfsr else j.lfsr
    if k < j.n then c.updWl fun w => { w with inj := some { j with done := k, lfsr := next } }
    else
      let c := c.setFlag Fld.WINDLASS_INJ_STATUS_BUSY false
      if j.startedCap && c.fld Fld.WINDLASS_CAP_STATUS_STATE == 2 then
        c.updWl fun w => { w with inj := some { j with done := k, ended := true } }
      else (c.updWl fun w => { w with inj := none }).result j.cmd Rc.OK
  | none => c

/-- End the injection at once with a status: SAFE_STOP, or the reset that takes it (R373). -/
def Chip.stopInjection (c : Chip) (status : Nat) : Chip :=
  match c.wl.inj with
  | some j => ((c.updWl fun w => { w with inj := none }).setFlag Fld.WINDLASS_INJ_STATUS_BUSY false).result j.cmd status
  | none => c

/-- The output of a slot whose HV channel is in BREACH is held at 0 (R367). -/
def Chip.heldOut (c : Chip) (n : Nat) (u : Word) : Word :=
  let d := c.fld (Fld.WINDLASS_SLOT_CFG_DEST n)
  if 0x20 ≤ d ∧ d < 0x38 ∧ c.fld (Fld.WINDLASS_HV_STATUS_STATE (d - 0x20)) = 2 then 0 else u

/-- A slot's output is applied: OUT, SAT, DELAY_MAX, its destination and its Sump record (R352 step 8, R356, R357, R473). [DESIGN CHOICE: log 94] -/
def Chip.applyOut (c : Chip) (now n t : Nat) (u ud : Word) (sat : Bool) : Chip :=
  let d := c.fld (Fld.WINDLASS_SLOT_CFG_DEST n)
  let u := c.heldOut n u
  let lag := now - t
  let c := c.setReg (Reg.WINDLASS_OUT n) u
  let c := c.setFlag (Fld.WINDLASS_SLOT_STATUS_SAT n) sat
  let c := c.setFld (Fld.WINDLASS_SLOT_STATUS_DELAY_MAX n) (max (c.fld (Fld.WINDLASS_SLOT_STATUS_DELAY_MAX n)) (satN 65535 (lag / 16)))
  if c.fld (Fld.WINDLASS_SLOT_CFG_LAW n) = 2 then
    (c.sumpRec (some 7) 0x08 n now [BitVec.ofNat 32 lag, ud, u])
  else ((c.sumpRec (some 7) 0x08 n now [BitVec.ofNat 32 lag, u]).when (decide (12 ≤ d)) fun c => c.toLoad n u)

/-- The injected value of a sample, 0 without one (R374). -/
def SlotIn.injected (x : SlotIn) : Word := match x.inj with | some (_, some w) => w | _ => 0

/-- The repetitive term of a sample, 0 without one (R374). -/
def SlotIn.term (x : SlotIn) : Word := match x.rc with | some (some w) => w | _ => 0

/-- A non-finite intermediate: output 0, the states of the slot reset, NONFINITE; SAT follows the HV channel or zone (R351, R355, R374). -/
def Chip.nonFinite (c : Chip) (now n t : Nat) (x : SlotIn) : Chip :=
  let c := c.updSt n fun s => { s with integ := 0, integD := 0, bq := List.replicate 4 {}, ramp := none, lastT := some t, from_ := now
                                       sig := (((s.sig.set 3 0).set 4 x.injected).set 5 0).set 6 x.term }
  let c := (c.raise Ev.WINDLASS_EVENT_NONFINITE).event Rc.WL_NONFINITE 0 n
  let c := c.judgeSlotLock n none
  let d := c.fld (Fld.WINDLASS_SLOT_CFG_DEST n)
  let c := c.applyOut now n t 0 0 (decide (12 ≤ d) && c.destSat n)
  if c.fld (Fld.WINDLASS_SLOT_CFG_LAW n) = 2 ∧ d < 12 then c.deliver d [0, 0, 0] else c

/-- One sample of a slot, from its feedback to its destination (R352 to R356, R360, R363, R364, R373, R374). [DESIGN CHOICE: log 93] -/
def Chip.slotRun (c : Chip) (now n : Nat) : Chip :=
  if !c.slotRuns n then c else
  match c.slotDue now n with
  | none => c
  | some (t, late) =>
    let c := ((c.skipped now n late).switchSlot now n t).updSt n fun x => { x with due := none }
    let c := c.beginInjection n t
    let (x, c) := c.slotInputs n t
    let at_ := c.asOf t
    let c := c.trackAll at_ n t
    let st := c.slotSt n
    let d := c.fld (Fld.WINDLASS_SLOT_CFG_DEST n)
    let done (c : Chip) : Chip := ((c.stepInjection n).captureTick n).sampleDue t 2 n
    match c.slotCompute n x st with
    | none => done (c.nonFinite now n t x)
    | some o =>
      let vec := if x.law = 2 then c.phases d o.ud o.u else some []
      let (ok, c) := c.learnAll at_ n t o.e
      match ok, vec with
      | true, some v =>
        let c := c.updSt n fun _ => { o.st with
          lastT := some t, from_ := now, sig := [o.r, o.y, o.e, c.heldOut n o.u, x.injected, o.st.integ, x.term] }
        let c := (c.judgeSlotLock n (some o.e0)).applyOut now n t o.u o.ud o.sat
        let c := if x.law = 2 ∧ d < 12 then
            (c.deliver d v).updDrive d fun y => { y with iqRef := (F32.floorScaled (F32.abs o.r) 0).toNat } else c
        done (c.dancer n o.y)
      | _, _ => done (c.nonFinite now n t x)

/-- SLOT_SAMPLE: the sample of a slot whose turn it is; one that is not due or not in turn does not execute (R356, R357). [DESIGN CHOICE: log 93] -/
def Chip.slotSample (c : Chip) (now n : Nat) : Chip := if c.slotTurn now n then c.slotRun now n else c

/-- OVERRUN_RUN_END (R356, R376). -/
def Chip.overrunEnd (c : Chip) (now n : Nat) : Chip :=
  let x := c.slotSt n
  match x.lastSkip with
  | some t =>
    if 0 < x.skips ∧ t + 1000000 ≤ now then
      (c.updSt n fun x => { x with skips := 0, lastSkip := none }).event Rc.WL_OVERRUN 0 (n + satN 65535 x.skips * 65536)
    else c
  | none => c

/-- A slow-ADC channel is read by an enabled slot or as the bus voltage of a drive axis (R474). [DESIGN CHOICE: log 97] -/
def Chip.adcRead (c : Chip) (ch : Nat) : Bool :=
  (List.range 96).any (fun n => c.slotRuns n && (c.fld (Fld.WINDLASS_SLOT_IO_FB_SRC n) == 0x20 + ch
    || c.fld (Fld.WINDLASS_SLOT_IO_REF_SRC n) == 0x20 + ch))
  || (List.range 12).any fun a => c.driveState a != Ds.disabled && c.fld (Fld.DRIVE_CFG_VBUS_CH a) == ch

/-- The temperature of thermistor i in °C from a conversion: the divider with RPULL, then the β model (R358, R497). [DESIGN CHOICE: log 97] -/
def Chip.thermistorC (c : Chip) (i code : Nat) : Option Word := do
  let r ← F32.ofRatio (c.fld (Fld.WINDLASS_TH_BETA_RPULL i) * 10 * code : Nat) (65536 - code)
  let q ← F32.div r (c.reg (Reg.WINDLASS_TH_R25 i))
  let l ← F32.ln q
  let b ← F32.ofScaled (c.fld (Fld.WINDLASS_TH_BETA_BETA i)) 0
  let l ← F32.div l b
  let k ← F32.div 0x3F800000 0x43951333
  let s ← F32.add k l
  let t ← F32.div 0x3F800000 s
  F32.sub t 0x43889333

/-- The latest value of a slow-ADC channel from a conversion, corrected: volts at the ball, or °C of a thermistor (R358, R399). [DESIGN CHOICE: log 97] -/
def Chip.putAdc (c : Chip) (ch raw : Nat) : Chip :=
  let code := c.corrected 0 16 raw
  if ch < 16 then c.setReg (Reg.WINDLASS_SADC ch) ((F32.ofRatio (code * 3 : Nat) 131072).getD 0)
  else
    match c.thermistorC (ch - 16) code with
    | some w => c.setReg (Reg.WINDLASS_SADC ch) w
    | none =>
      let (w, c) := c.freeReal
      c.setReg (Reg.WINDLASS_SADC ch) w

/-- The next conversion of the slow ADC, corrected: the channel's latest value and its Sump record (R358, R399, R474). [DESIGN CHOICE: log 97] -/
def Chip.slowAdc (c : Chip) (now raw : Nat) : Chip :=
  let ch := c.wl.adc
  let c := c.updWl fun w => { w with adc := (ch + 1) % 24 }
  let k := c.wl.thinned.getD ch 0
  let keep := c.adcRead ch || k == 0
  let c := c.updWl fun w => { w with thinned := updAt w.thinned ch fun _ => if k + 1 < 2 ^ c.sump.decim then k + 1 else 0 }
  ((if keep then c.sumpRec (some 3) 0x04 ch now [BitVec.ofNat 32 raw] else c).keepInput now
    (.adc ch (c.reg (Reg.WINDLASS_SADC ch)))).putAdc ch raw

/-- A number of registers as binary32. -/
def F32.ofNat (n : Nat) : Word := (F32.ofScaled n 0).getD 0

/-- The line pitch in µm: 127/6, printed as 21.167 (R4). [DESIGN CHOICE: log 99] -/
def linePitch : Word := (F32.ofRatio 127 6).getD 0

/-- v × 64 ÷ (line pitch × BELT_SCALE) in counts/s, v in µm/s (R351, R359). [DESIGN CHOICE: log 99] -/
def Chip.beltCounts (c : Chip) (v : Word) : Option Word := do
  let u ← F32.mul v 0x42800000
  let k ← F32.ofScaled c.belt.scale (-16)
  let d ← F32.mul linePitch k
  F32.div u d

/-- Put v, in µm/s, into the SETPOINT of the belt slot; one that is not finite leaves it (R359). [DESIGN CHOICE: log 99] -/
def Chip.setBelt (c : Chip) (now : Nat) (v : Word) : Chip :=
  match c.beltCounts v with
  | none => c
  | some w =>
    let off := Reg.WINDLASS_SETPOINT c.wl.belt
    if c.reg off = w then c
    else (c.setReg off w).sumpRec none 0x11 5 now [BitVec.ofNat 32 off, w]

/-- The follow demand in µm/s: sub-lines/s × line pitch ÷ 64 (R4, R6, R351). [DESIGN CHOICE: log 99] -/
def Chip.demandUm (c : Chip) : Option Word := do
  let x ← F32.mul c.wl.demand linePitch
  F32.div x 0x42800000

/-- A speed in µm/s as sub-lines per s: numerator over 127 (R4, R6). [DESIGN CHOICE: log 99] -/
def umSub (v : Nat) : Nat := v * 384

/-- The follow demand in 1/65,536 sub-line per s; a negative demand counts as 0 (R361). [DESIGN CHOICE: log 99] -/
def Chip.demandSub (c : Chip) : Nat := (F32.floorScaled c.wl.demand 16).toNat

/-- The ceiling of the running pages: the lowest admitted speed, µm/s; and whether one of them follows (R147, R359, R362). -/
def Chip.ceiling (c : Chip) : Option (Nat × Bool) :=
  match c.running with
  | [] => none
  | p :: l => some (l.foldl (fun m (q : Page) => min m q.speed) p.speed, (p :: l).any (·.follow))

/-- The engine writes the set-point of the belt slot it owns (R359, R362). -/
def Chip.driveBelt (c : Chip) (now : Nat) : Chip :=
  if !c.wl.owned then c
  else match c.ceiling with
    | none => if c.state = St.primed then c.setBelt now (F32.ofNat c.wl.speed) else c
    | some (v, follow) =>
      let top := F32.ofNat v
      c.setBelt now (match c.demandUm with
        | some d => if follow && F32.lt d top then d else top
        | none => top)

/-- The follow demand is judged against the ceiling while a page that follows runs (R362, R376). [DESIGN CHOICE: log 99] -/
def Chip.judgeFollow (c : Chip) (now : Nat) : Chip :=
  match c.ceiling with
  | some (v, true) =>
    let um := c.demandSub * 127 / (384 * 65536)
    let dem := c.demandSub * 127
    let top := umSub v * 65536
    let c := if top * 98 ≤ dem * 100 ∧ !bit c.wl.runs 0 then
        ((c.updWl fun w => { w with runs := w.runs + 1 }).raise Ev.WINDLASS_EVENT_FOLLOW_WARN).event Rc.FOLLOW_WARN c.runTag (satN 0xFFFFF um)
      else c
    let c := if top < dem ∧ !bit c.wl.runs 1 then
        ((c.updWl fun w => { w with runs := w.runs + 2 }).raise Ev.WINDLASS_EVENT_FOLLOW_CLAMP).event Rc.FOLLOW_CLAMP c.runTag (satN 0xFFFFF um)
      else c
    c.updWl fun w => { w with below := if dem * 100 < top * 98 then some (w.below.getD now) else none }
  | _ => c

/-- A new follow demand; a value that is not finite is a free one (R361). -/
def Chip.setDemand (c : Chip) (now : Nat) (v : Option Word) : Chip :=
  let (w, c) := match v with | some w => (w, c) | none => c.freeReal
  let w := if F32.lt w 0 then 0 else w
  let c := (c.keepInput now (.demand c.wl.demand)).updWl fun x => { x with demand := w }
  let c := c.setFld Fld.WINDLASS_FOLLOW_DEMAND_DEMAND (satN 0xFFFFF (c.demandSub * 127 / (384 * 65536)))
  let c := c.sumpRec (some 4) 0x05 0 now [w]
  (c.judgeFollow now).driveBelt now

/-- One CTL sample of the follow inputs: a level is accepted in its second equal sample; MODE 1 counts rising edges of A with the direction of B, MODE 2 quadrature counts (R361, R501). [DESIGN CHOICE: log 99] -/
def FollowIn.sample (mode : Nat) (x : FollowIn × Int) (l : Bool × Bool) : FollowIn × Int :=
  let f := x.1
  let a := if l.1 = f.rawA then l.1 else f.a
  let b := if l.2 = f.rawB then l.2 else f.b
  let d : Int :=
    if mode = 1 then (if !f.a && a then (if f.b = Config.followForward then 1 else -1) else 0)
    else if mode = 2 then (quadStep f.a f.b a b).getD 0
    else 0
  ({ f with a := a, b := b, rawA := l.1, rawB := l.2 }, x.2 + d)

/-- FOLLOW_UPDATE: the follow inputs of 1 µs, and the demand of MODE 1 and 2 from the net pulses or counts of the last FWIN µs (R361). [DESIGN CHOICE: log 99] -/
def Chip.followUpdate (c : Chip) (now : Nat) (samples : List (Bool × Bool)) : Chip :=
  let mode := c.fld Fld.WINDLASS_FOLLOW_CFG_MODE
  let (f, net) := samples.foldl (FollowIn.sample mode) (c.wl.follow, 0)
  let counts := mode == 1 || mode == 2
  let c := c.updWl fun w => { w with follow := { f with window := if counts then (net :: f.window).take 1000 else [] } }
  if counts then
    c.setDemand now (do
      let n ← F32.ofScaled (sumI (c.wl.follow.window.take (c.fld Fld.WINDLASS_FOLLOW_CFG_FWIN))) 0
      let w ← F32.ofScaled (c.fld Fld.WINDLASS_FOLLOW_CFG_FWIN) 0
      let q ← F32.div n w
      F32.mul q (c.reg Reg.WINDLASS_FOLLOW_SCALE))
  else (c.judgeFollow now).driveBelt now

/-- The demand of MODE 3 after a conversion of its channel (R361). -/
def Chip.followAdc (c : Chip) (now ch : Nat) : Chip :=
  if c.fld Fld.WINDLASS_FOLLOW_CFG_MODE = 3 ∧ c.fld Fld.WINDLASS_FOLLOW_CFG_ACH = ch then
    c.setDemand now (do
      let d ← F32.sub (c.reg (Reg.WINDLASS_SADC ch)) (c.reg Reg.WINDLASS_FOLLOW_OFFSET)
      F32.mul d (c.reg Reg.WINDLASS_FOLLOW_SCALE))
  else c

/-- FOLLOW_RUN_END: the demand has stayed below 98 % for 100 ms (R362). -/
def Chip.followRunEnd (c : Chip) (now : Nat) : Chip :=
  match c.wl.below with
  | some t => if t + 100000000 ≤ now then c.updWl fun w => { w with runs := 0 } else c
  | none => c

/-- Voltage and current of an HV channel from a conversion, corrected and scaled (R366, R399). [DESIGN CHOICE: log 97] -/
def Chip.putHv (c : Chip) (k : Nat) (volts amps : Option Nat) : Chip :=
  let scale (off conv : Nat) (n : Option Nat) (old : Word) (c : Chip) : Word × Chip :=
    match n with
    | none => (old, c)
    | some n => match (F32.ofScaled (c.corrected conv 12 n) 0).bind (F32.mul (c.reg off)) with
      | some w => (w, c)
      | none => c.freeReal
  let x := c.wl.hv.getD k {}
  let (v, c) := scale (Reg.WINDLASS_HV_SCALE_V k) 1 volts x.v c
  let (i, c) := scale (Reg.WINDLASS_HV_SCALE_I k) 2 amps x.i c
  c.updWl fun w => { w with hv := updAt w.hv k fun x => { x with v := v, i := i } }

/-- V × I × 24 µs of a channel, added to the energy of its bin (R351, R367). -/
def HvSt.addEnergy (x : HvSt) : Option Word := do
  let p ← F32.mul x.v x.i
  let e ← F32.mul p ((F32.ofRatio 24 1000000).getD 0)
  F32.add x.acc e

/-- The sum of the last bins, the oldest first (R351, R367). -/
def hvSum (bins : List Word) : Option Word := bins.reverse.foldl (fun a w => a.bind fun a => F32.add a w) (some 0)

/-- HV_FEEDBACK_CONVERSION: voltage and current, and the energy of the interval added to its bin (R366, R367). [DESIGN CHOICE: log 97] -/
def Chip.hvConvert (c : Chip) (now k volts amps : Nat) : Chip :=
  let x := c.wl.hv.getD k {}
  let c := (c.keepInput now (.hv k x.v x.i)).putHv k (some volts) (some amps)
  let (w, c) := match (c.wl.hv.getD k {}).addEnergy with | some w => (w, c) | none => c.freeReal
  let c := c.updWl fun x => { x with hv := updAt x.hv k fun x => { x with acc := w } }
  (c.sumpRec (some 3) 0x04 (0x40 + k) now [BitVec.ofNat 32 volts]).sumpRec (some 3) 0x04 (0x60 + k) now [BitVec.ofNat 32 amps]

/-- The energy of one channel at the end of a bin: BREACH above E_CEIL (R367, R376). [DESIGN CHOICE: log 97] -/
def Chip.hvBin (c : Chip) (k : Nat) : Chip :=
  let x := c.wl.hv.getD k {}
  let bins := (x.acc :: x.bins).take 100
  let (sum, c) := match hvSum bins with | some w => (w, c) | none => c.freeReal
  let c := c.updWl fun w => { w with hv := updAt w.hv k fun x => { x with acc := 0, bins := bins } }
  let uj := satN 0xFFFFFF (F32.floorScaled sum 0).toNat
  let c := c.setFld (Fld.WINDLASS_HV_ENERGY_ENERGY k) uj
  if c.fld (Fld.WINDLASS_HV_STATUS_STATE k) ≠ 2 ∧ c.flag (Fld.WINDLASS_HV_CFG_EN k)
      ∧ F32.lt (F32.ofNat (c.fld (Fld.WINDLASS_HV_CEIL_E_CEIL k))) sum then
    let c := (c.setFld (Fld.WINDLASS_HV_STATUS_STATE k) 2).pin "HV_PWM" k 0
    let c := (c.raise Ev.WINDLASS_EVENT_HV_ENERGY).event Rc.HV_ENERGY k uj
    let c := c.each ((List.range 96).filter fun n => c.slotRuns n && c.fld (Fld.WINDLASS_SLOT_CFG_DEST n) == 0x20 + k) fun n c =>
      (c.setReg (Reg.WINDLASS_OUT n) 0).updSt n fun x => { x with sig := x.sig.set 3 0 }
    if c.flag (Fld.WINDLASS_HV_CFG_PAGE_CRIT k) then c.abortAll 6 else c
  else c

/-- HV_REARM or PRIME takes a channel out of BREACH (R367). [DESIGN CHOICE: log 98] -/
def Chip.hvRearm (c : Chip) (k : Nat) : Chip :=
  if c.fld (Fld.WINDLASS_HV_STATUS_STATE k) = 2 then (c.setFld (Fld.WINDLASS_HV_STATUS_STATE k) 0).refreshHv k else c

/-- The zones at a crossing: the burst accumulators; the output takes its level ZC_DELAY of 10 µs units later, until the same delay after the next crossing (R370). [DESIGN CHOICE: log 100] -/
def Chip.burst (c : Chip) (z : Nat) : Chip :=
  if c.fld (Fld.WINDLASS_FUSER_STATUS_STATE z) ≠ 1 ∨ c.flag (Fld.WINDLASS_FUSER_CFG_FIRE z) then c
  else
    let x := c.wl.zones.getD z {}
    let a := x.acc + x.power
    let fire := decide (65536 ≤ a)
    (c.updWl fun w => { w with zones := updAt w.zones z fun x => { x with acc := if fire then a - 65536 else a } }).send
      (.wave "FUSER_OUT" z [(c.fld (Fld.WINDLASS_FUSER_CFG_ZC_DELAY z) * 10000, b2n fire)])

/-- MAINS_ZERO_CROSSING: the half-period is measured, and the burst zones fire (R369, R370). [DESIGN CHOICE: log 100] -/
def Chip.zeroCrossing (c : Chip) (now : Nat) : Chip :=
  let half := match c.wl.zcAt with | some t => now - t | none => 0
  let valid := decide (7690000 ≤ half) && decide (half ≤ 11110000)
  let run := if valid then min 3 (c.wl.zcRun + 1) else 0
  let c := c.updWl fun w => { w with zcAt := some now, zcValid := if valid then some now else w.zcValid, zcRun := run }
  let c := if valid then c.setFld Fld.WINDLASS_ZC_STATUS_HALF_PERIOD (half / 1000) else c
  let c := if run = 3 ∧ !c.flag Fld.WINDLASS_ZC_STATUS_PRESENT then
      (c.setFlag Fld.WINDLASS_ZC_STATUS_PRESENT true).each (List.range 8) fun z c => c.refreshZone z else c
  c.each (List.range 8) fun z c => c.burst z

/-- ZC_LOST: no valid crossing within 3 half-periods (R369, R376). [DESIGN CHOICE: log 100] -/
def Chip.zcLost (c : Chip) (now : Nat) : Chip :=
  let half := c.fld Fld.WINDLASS_ZC_STATUS_HALF_PERIOD
  match c.wl.zcValid with
  | some t =>
    if c.flag Fld.WINDLASS_ZC_STATUS_PRESENT && decide (t + 3 * half * 1000 ≤ now) then
      let c := (c.setFlag Fld.WINDLASS_ZC_STATUS_PRESENT false).updWl fun w => { w with zcRun := 0 }
      let c := (c.raise Ev.WINDLASS_EVENT_ZC_LOST).event Rc.ZC_LOST 0 half
      c.each (List.range 8) fun z c => c.refreshZone z
    else c
  | none => c

/-- Delay bounds by class, in CTL cycles (R357). [DESIGN CHOICE: log 101] -/
def classBound (k : Nat) : Nat := [1250, 2500, 5000, 12500, 250000].getD k 250000

/-- A task of the response-time analysis: class, number, cost and period in CTL cycles. -/
structure WlTask where
  cls : Nat
  num : Nat
  cost : Nat
  period : Nat

/-- The tasks: enabled slots, and a mirror channel of class 1 for each enabled tile at the sweep rate of 8,000 Hz (R357, R371). [DESIGN CHOICE: log 101] -/
def Chip.wlTasks (c : Chip) : List WlTask :=
  ((List.range 96).filter c.slotRuns).map (fun n =>
    let law := c.fld (Fld.WINDLASS_SLOT_CFG_LAW n)
    { cls := slotClass law, num := n, cost := c.slotCost n law, period := c.slotPeriod 97 n / 4 })
  ++ c.onTiles.map fun t => { cls := 1, num := 96 + t, cost := 16, period := 15625 }

/-- The response time of a task by iteration, none when it exceeds its bound: blocking, the conversion time of class 0, the task itself and every task of higher priority (R357). [DESIGN CHOICE: log 101] -/
def respond (x : WlTask) (hp : List WlTask) (bound : Nat) : Nat → Nat → Option Nat
  | 0, r => if r ≤ bound then some r else none
  | k + 1, r =>
    let r' := 88 + x.cost + sumN (hp.map fun (y : WlTask) => cdiv r (max 1 y.period) * y.cost)
    if bound < r' then none else if r' = r then some r else respond x hp bound k r'

/-- Utilisation of Windlass in 1/1,000,000 (R357). [DESIGN CHOICE: log 101] -/
def wlLoad (l : List WlTask) : Nat := sumN (l.map fun (x : WlTask) => if x.period = 0 then 0 else x.cost * 1000000 / x.period)

/-- The check of R357 on the present configuration. [DESIGN CHOICE: log 101] -/
def Chip.wlFits (c : Chip) : Bool :=
  let l := c.wlTasks
  decide (wlLoad l ≤ 900000) && l.all fun (x : WlTask) =>
    let hp := l.filter fun (y : WlTask) => decide (y.cls < x.cls) || (y.cls == x.cls && decide (y.num < x.num))
    let bound := classBound x.cls - (if x.cls = 0 then 175 else 0)
    (respond x hp bound 200 (88 + x.cost)).isSome

/-- Show utilisation and the number of enabled slots (R375). -/
def Chip.showLoad (c : Chip) : Chip :=
  (c.setFld Fld.WINDLASS_STATUS_LOAD (satN 255 (wlLoad c.wlTasks / 10000))).setFld Fld.WINDLASS_STATUS_SLOTS_ON
    (countBelow 96 c.slotRuns)

/-- A refusal of R372. [DESIGN CHOICE: log 101] -/
def Chip.wlRefused (c : Chip) (slot cause : Nat) : Chip :=
  ((c.setFld Fld.WINDLASS_CFG_ERR_INFO_SLOT slot).setFld Fld.WINDLASS_CFG_ERR_INFO_CAUSE cause).raise Ev.WINDLASS_EVENT_CFG_ERR

/-- Why a value of SLOT_CFG is refused on a slot whose SLOT_CFG was `old` (R372); the chip holds the new value. [DESIGN CHOICE: log 101] -/
def Chip.slotCfgCause (c : Chip) (n : Nat) (old : Word) : Option Nat :=
  let law := c.fld (Fld.WINDLASS_SLOT_CFG_LAW n)
  let was := bits old.toNat 2 0
  let oldDest := bits old.toNat 31 24
  let trig := c.fld (Fld.WINDLASS_SLOT_CFG_TRIG n)
  let src := c.fld (Fld.WINDLASS_SLOT_CFG_TSRC n)
  let dest := c.fld (Fld.WINDLASS_SLOT_CFG_DEST n)
  if was ≠ 0 ∧ law ≠ 0 then some 2
  else if was = 2 ∧ oldDest < 12 ∧ c.driveState oldDest ≠ Ds.disabled then some 2
  else if 5 < law ∨ trig = 3 ∨ (trig = 1 ∧ 11 < src) ∨ (trig = 2 ∧ 95 < src) ∨ !destListed dest then some 1
  else if law = 0 then none
  else if law = 2 ∧ 12 ≤ dest then some 4
  else if law ≠ 2 ∧ dest < 12 then some 1
  else if dest ≠ 0xFF ∧ (List.range 96).any (fun m => m != n && c.slotRuns m && c.fld (Fld.WINDLASS_SLOT_CFG_DEST m) == dest) then some 4
  else if c.wlFits then none else some 3

/-- A slot's SLOT_CFG has changed and stands: biquads that moved are zeroed, a slot that was set begins its samples (R352, R356, R372). -/
def Chip.slotCfgSet (c : Chip) (now n : Nat) (old : Word) : Chip :=
  let moved (i : Nat) : Bool := bits old.toNat (17 + 2 * i) (16 + 2 * i) != c.bqPos n i
  let c := c.updSt n fun x => { x with bq := (List.range 4).map fun i => if moved i then {} else x.bq.getD i {} }
  let c := if bits old.toNat 2 0 = 0 ∧ c.slotRuns n then c.updSt n fun x => { x with ramp := none, from_ := now, due := none } else c
  c.showLoad

/-- The slot is the belt slot or an enabled drum slot of a configured station (R360, R373, R423). -/
def Chip.beltOrDrum (c : Chip) (n : Nat) : Bool :=
  (c.wl.owned && c.wl.belt == n) || (List.range 8).any fun s => c.configured s && c.flag (Fld.WINDLASS_STN_SLOT_EN s)
    && c.fld (Fld.WINDLASS_STN_SLOT_SLOT s) == n

/-- The slots that a slot's output reaches: those that read it or run after it, in any number of steps. -/
def Chip.fed (c : Chip) : Nat → List Nat → List Nat
  | 0, l => l
  | k + 1, l =>
    let more := (List.range 96).filter fun m => c.slotRuns m && !l.contains m && l.any fun n =>
      c.fld (Fld.WINDLASS_SLOT_IO_FB_SRC m) == 0x90 + n || c.fld (Fld.WINDLASS_SLOT_IO_REF_SRC m) == 0x90 + n
        || (c.fld (Fld.WINDLASS_SLOT_CFG_TRIG m) == 2 && c.fld (Fld.WINDLASS_SLOT_CFG_TSRC m) == n)
    if more.isEmpty then l else Chip.fed c k (l ++ more)

/-- A slot's DEST or chain reaches a page-critical axis, the belt slot, a drum slot or a PAGE_CRIT HV channel (R373). -/
def Chip.reachesPage (c : Chip) (n : Nat) : Bool :=
  (c.fed 96 [n]).any fun m =>
    let d := c.fld (Fld.WINDLASS_SLOT_CFG_DEST m)
    c.beltOrDrum m || (decide (d < 12) && c.flag (Fld.DRIVE_CFG_PAGE_CRIT d))
      || (decide (0x20 ≤ d) && decide (d < 0x38) && c.flag (Fld.WINDLASS_HV_CFG_PAGE_CRIT (d - 0x20)))

/-- The injection that parameter bytes 0x11 to 0x27 of LOOP_INJECT describe (R425). -/
def injectionOf (b : List Byte) : Inj :=
  let f (off n : Nat) : Nat := leNat ((b.drop (off - 0x11)).take n)
  { cmd := 0, tag := 0, part := 0, slot := 0, point := f 0x11 1, kind := f 0x12 1, order := f 0x13 1, hold := f 0x14 2, n := f 0x18 4
    amp := BitVec.ofNat 32 (f 0x1C 4), f0 := BitVec.ofNat 32 (f 0x20 4), f1 := BitVec.ofNat 32 (f 0x24 4), params := b
    lfsr := prbsStart (f 0x13 1) }

/-- LOOP_INJECT (R373, R425). [DESIGN CHOICE: log 126] -/
def Chip.loopInject (c : Chip) (e : JEntry) : Chip :=
  let p := e.param
  let n := p 0x10 1
  let kind := p 0x12 1
  let f0 : Word := BitVec.ofNat 32 (p 0x20 4)
  let f1 : Word := BitVec.ofNat 32 (p 0x24 4)
  let below := match F32.ofRatio 500000000 (c.slotPeriod 97 n) with | some half => F32.le f1 half | none => true
  if 95 < n then c.result e.slot Rc.ERR_RANGE 0x10
  else if 2 < p 0x11 1 then c.result e.slot Rc.ERR_RANGE 0x11
  else if 2 < kind then c.result e.slot Rc.ERR_RANGE 0x12
  else if kind = 2 ∧ (p 0x13 1 < 7 ∨ 16 < p 0x13 1) then c.result e.slot Rc.ERR_RANGE 0x13
  else if kind = 2 ∧ p 0x14 2 = 0 then c.result e.slot Rc.ERR_RANGE 0x14
  else if p 0x18 4 = 0 ∨ 16777216 < p 0x18 4 then c.result e.slot Rc.ERR_RANGE 0x18
  else if !F32.finite (BitVec.ofNat 32 (p 0x1C 4)) then c.result e.slot Rc.ERR_RANGE 0x1C
  else if kind = 1 ∧ !(F32.finite f0 && F32.lt 0 f0) then c.result e.slot Rc.ERR_RANGE 0x20
  else if kind = 1 ∧ !(F32.finite f1 && F32.lt f0 f1 && below) then c.result e.slot Rc.ERR_RANGE 0x24
  else if !c.slotRuns n then c.result e.slot Rc.ERR_STATE c.state
  else if c.wl.inj.isSome then c.result e.slot Rc.INJECT_BUSY
  else if !c.running.isEmpty && c.reachesPage n then c.result e.slot Rc.INJECT_PAGE
  else
    let c := (c.started e.slot).updWl fun w => { w with inj := some {
      injectionOf ((List.range 23).map fun i => BitVec.ofNat 8 (p (0x11 + i) 1)) with
      cmd := e.slot, tag := e.tag.toNat, part := e.part, slot := n } }
    (((c.setFld Fld.WINDLASS_INJ_STATUS_SLOT n).setFld Fld.WINDLASS_INJ_STATUS_POINT (p 0x11 1)).setFld
      Fld.WINDLASS_INJ_STATUS_KIND kind).setFlag Fld.WINDLASS_INJ_STATUS_BUSY true

end Sys2Proof.Machine
end

