-- ==== Sys2Proof/Machine/Pages.lean ====
section
/-! DEFINITION. Pages and chains: arming, joining, starting, cancelling, aborting and ending (R139 to R159, R314, R331, R417).
-/
namespace Sys2Proof.Machine

/-- Sub-lines that a belt at a speed in µm/s covers in a time in ns, rounded to nearest (R4, R6, R150). [DESIGN CHOICE: log 51] -/
def coverSub (v ns : Nat) : Nat := (rdivI (v * ns * 384 : Nat) 127000000000).toNat

/-- The Sump record of a page whose origin or cut was fixed (R473). -/
def Chip.logPage (c : Chip) (now : Nat) (p : Page) : Chip :=
  c.sumpRec none 0x13 (maskWhere 8 fun s => p.stns.any fun x => x.station == s) now
    (wordsOf (leBytes 8 p.tag ++ leBytes 8 (p.origin.getD 0) ++ leBytes 4 p.lines ++ leBytes 4 p.width ++ leBytes 4 p.speed
      ++ leBytes 8 (p.cut.getD 0) ++ (List.range 8).flatMap fun s => leBytes 8 (p.offset s)))

/-- Cuts fixed by this command enter the Sump (R473). -/
def Chip.logCuts (c : Chip) (now : Nat) : Chip :=
  (c.pages.filter fun p => p.cut.isSome && !p.cutLogged).foldl (fun (c : Chip) p =>
    (c.logPage now p).updPage p.seq fun q => { q with cutLogged := true }) c

/-- The belt position at which the chain closes behind a page (R150). [DESIGN CHOICE: log 54] -/
def Page.closing (p : Page) : Nat := beltAdd (p.due p.firstStn p.lines) (-(coverSub p.speed 100000000 : Nat))

/-- The last page of the running chain. -/
def Chip.lastJoined (c : Chip) : Option Page := (c.pages.filter (·.joined)).getLast?

/-- An armed page takes its place behind another one, with the offsets of the chain (R141, R146, R150). [DESIGN CHOICE: log 55] -/
def placeBehind (k p : Page) (offsets : List (Nat × Nat)) : Page :=
  let q : Page := { p with
    origin := some ((k.origin.getD 0 + 64 * (k.lines + p.gap)) % 2 ^ 48), offsets := offsets, joined := true }
  { q with startAt := beltAdd (q.due q.firstStn 0) (-(coverSub (max k.speed p.speed) p.leadNs : Nat)) }

/-- A page joins the chain behind its last page, or its start or the closing position has been reached and the chain closes (R149, R150). [DESIGN CHOICE: log 53] -/
def Chip.joinChain (c : Chip) (now : Nat) (p : Page) : Chip :=
  match c.chain, c.lastJoined with
  | some h, some k =>
    let q := placeBehind k p h.offsets
    if beltAtOrAfter c.beltPos q.startAt || beltAtOrAfter c.beltPos k.closing then
      { c with chain := some { h with closed := some (h.closed.getD 2) } }
    else (c.updPage p.seq fun _ => q).logPage now q
  | _, _ => c

/-- A page that has been armed joins the running chain of its partition while that chain is open (R149). [DESIGN CHOICE: log 53] -/
def Chip.tryJoin (c : Chip) (now seq : Nat) : Chip :=
  match c.chain, c.pageOf seq with
  | some h, some p => if h.part = p.part ∧ h.closed.isNone ∧ p.joined = false then c.joinChain now p else c
  | _, _ => c

/-- The pages of a partition that wait, armed, in arming order. -/
def Chip.waitingPages (c : Chip) (part : Nat) : List Page := c.pages.filter fun p => p.part == part && !p.running && !p.joined

/-- The first page of a chain: its origin follows from the present belt position, and its own offsets hold for the chain (R141, R146). [DESIGN CHOICE: log 53] -/
def Chip.placeFirst (c : Chip) (now : Nat) (p : Page) : Chip :=
  let pos := c.beltPos
  let lead := max (coverSub 20000 p.leadNs) (rdivI (c.beltRate * p.leadNs) 65536000000000).toNat
  let q : Page := { p with offsets := p.own, joined := true, startAt := pos }
  let q : Page := { q with origin := some (beltAdd (pos + lead) (-(q.firstOffset : Nat))) }
  ({ c with chain := c.chain.map fun (h : Chain) => { h with offsets := p.own } }).updPage p.seq (fun _ => q) |>.logPage now q

/-- What the engine forgets before the first page of a chain: history bits, line pointers, and what channels and lanes were done with (R229). [DESIGN CHOICE: log 53] -/
def Chip.clearForChain (c : Chip) : Chip :=
  { c with
    tiles := c.tiles.map fun (x : Tile) => { x with history := [], planPage := 0, planLine := 0 }
    lanes := c.lanes.map fun (_ : Lane) => {}
    dma := { c.dma with img := c.dma.img.map fun (_ : ImgChan) => {} } }

/-- A page-critical axis in FAULT: the axis (R314). -/
def Chip.critFault (c : Chip) : Option Nat :=
  (List.range 12).find? fun a => c.flag (Fld.DRIVE_CFG_PAGE_CRIT a) && c.driveState a == Ds.fault

/-- A belt or drum channel with ENCODER_FAULT (R331). -/
def Chip.faultedChannel (c : Chip) : Option Nat := (List.range 16).find? fun k => c.pageChannel k && c.chanFault k

/-- CHAIN_START (R146 to R149, R314, R331). [DESIGN CHOICE: log 53] -/
def Chip.chainStart (c : Chip) (now : Nat) (e : JEntry) : Chip :=
  match c.waitingPages e.part with
  | [] => c.result e.slot Rc.NO_ARMED_PAGE
  | p :: rest =>
    match c.critFault, c.faultedChannel with
    | some a, _ => c.result e.slot Rc.AXIS_FAULT (c.fld (Fld.DRIVE_FAULT_INFO_CAUSE a) + a * 256)
    | none, some k => c.result e.slot Rc.ENCODER_FAULT k
    | none, none =>
      let c := (c.started e.slot).clearForChain
      let c := { c with chain := some { tag := e.tag.toNat, part := e.part } }
      let c := c.placeFirst now p
      let c := rest.foldl (fun (c : Chip) q => c.tryJoin now q.seq) c
      (c.enter St.printing Why.chainStart).result e.slot Rc.OK

/-- CHAIN_END (R151). [DESIGN CHOICE: log 53] -/
def Chip.chainEnd (c : Chip) (e : JEntry) : Chip :=
  match c.chain with
  | some h =>
    if h.part = e.part then
      { (c.started e.slot) with chain := some { h with closed := some (h.closed.getD 1), enders := h.enders ++ [e.slot] } }
    else c.result e.slot Rc.NO_CHAIN
  | none => c.result e.slot Rc.NO_CHAIN

/-- CHAIN_CLOSE: the belt has reached the closing position of the chain's last page (R150). [DESIGN CHOICE: log 53] -/
def Chip.chainClose (c : Chip) : Chip :=
  match c.chain, c.lastJoined with
  | some h, some k =>
    if h.closed.isNone && beltAtOrAfter c.beltPos k.closing then { c with chain := some { h with closed := some 2 } } else c
  | _, _ => c

/-- A tile that a starting page uses: a lost one rejoins if its rule allows it, else the page runs without it; a duty breach ends for a tile that is not lost; a tile with a bad bank is lost (R158, R216, R232, R236). [DESIGN CHOICE: log 53] -/
def Chip.startTile (c : Chip) (now t : Nat) (p : Page) : Chip :=
  let c := if bit (c.tile t).kill 2 && c.canRejoin t then c.rejoin now t else c
  if bit (c.tile t).kill 2 then
    (((c.defect p t 0 false).updPage p.seq fun q => { q with lost := t :: q.lost }).refreshSched t)
  else
    let c := c.updTile t fun x => { x with breach := false }
    if !c.banksGood t then c.loseTile now t else c.refreshSched t

/-- PAGE_START: the belt has reached the start position of the next page; its channels fetch from now on (R141, R150, R157). -/
def Chip.pageStart (c : Chip) (now : Nat) : Chip :=
  match (c.pages.filter fun p => p.joined && !p.running).head? with
  | none => c
  | some p =>
    if !beltAtOrAfter c.beltPos p.startAt then c else
    let p : Page := { p with running := true, horizon := p.start, decoded := p.stns.map fun _ => 0 }
    let c := (c.updPage p.seq fun _ => p).eventTo p.part Rc.PAGE_START 0x20 p.tag (p.origin.getD 0 % 2 ^ 32)
    let c := p.tiles.foldl (fun (c : Chip) t => c.startTile now t p) c
    (c.startMeas p).driveBelt now

/-- The DETAIL of PAGE_END for an aborted page: the line, the cause and the station (R159). [DESIGN CHOICE: log 57] -/
def Page.endDetail (p : Page) (line : Nat) : Nat :=
  line % 2 ^ 24 + p.cutCause * 2 ^ 24 + (if 2 ≤ p.cutCause ∧ p.cutCause ≤ 4 then p.cutStation else 0) * 2 ^ 28
    + line / 2 ^ 24 % 2 * 2 ^ 31

/-- A page ends: its record, its translations and descriptors are released, and what worked on it goes idle (R140, R155, R159, R428). [DESIGN CHOICE: log 54] -/
def Chip.finishPage (c : Chip) (p : Page) (status detail : Nat) : Chip :=
  let c := c.eventTo p.part status 0x20 p.tag detail
  let mine (k : ImgChan) : ImgChan := if k.page = some p.seq then { past := p.seq } else k
  let lane (l : Lane) : Lane :=
    let l := { l with buffer := l.buffer.filter (fun e => e.1 != p.seq), input := l.input.filter fun e => e.1 != p.seq }
    if l.page = some p.seq then { done := p.seq, buffer := l.buffer, input := l.input } else l
  let c := { c with
    pages := c.pages.filter fun q => q.seq != p.seq
    lanes := c.lanes.map lane
    dma := { c.dma with img := c.dma.img.map mine } }
  let c := c.each (List.range 8) fun s c =>
    if (c.img s).page.isNone && c.fld (Fld.DMA_CHAN_STATUS_STATE s) != 0 then c.showImg s else c
  let c := c.each (List.range 8) fun s c =>
    if (c.lane s).page.isNone && c.fld (Fld.CODEC_LANE_STATUS_STATE s) != 0 then c.setFld (Fld.CODEC_LANE_STATUS_STATE s) 0 else c
  let c := if p.running then (p.tiles.foldl (fun (c : Chip) t => c.refreshSched t) c).showFronts else c
  let c := c.unlock p.part p.locks
  if status = Rc.ABORTED ∨ status = Rc.CANCELLED then ((p.cut.elim c fun k => c.cutMeas p.seq (p.lineFrom k))).cancelMeas p.seq else c

/-- The belt position at which a page ends: its last line, or its cut, has passed its last station (R155). [DESIGN CHOICE: log 54] -/
def Page.endAt (p : Page) : Nat :=
  match p.cut with
  | some k => beltAdd k ((p.lastOffset : Int) - p.firstOffset)
  | none => beltAdd (p.due p.firstStn p.total) ((p.lastOffset : Int) - p.firstOffset)

/-- Placement-limit runs of a page's tiles end with the page (R205). [DESIGN CHOICE: log 64] -/
def Chip.endLimits (c : Chip) (p : Page) : Chip :=
  p.tiles.foldl (fun (c : Chip) t => if (c.tile t).limit.any fun r => r.page == p.seq then c.endLimit t else c) c

/-- The line that PAGE_END and PAGE_ABORT report for a cut: that of the first station, and LINES where a decoder error was found after the page's last line (R159, R177). -/
def Page.cutLine (p : Page) (cut : Nat) : Nat :=
  if p.cutCause = 3 ∧ p.lines ≤ p.decodedOf p.cutStation then min p.lines (p.lineFrom cut) else p.lineFrom cut

/-- The records of a page that has ended by itself (R155, R159, R205). [DESIGN CHOICE: log 54] -/
def Chip.endPage (c : Chip) (p : Page) : Chip :=
  let c := c.endLimits p
  match c.pageOf p.seq with
  | none => c
  | some p =>
    match p.cut with
    | some k => c.finishPage p Rc.ABORTED (p.endDetail (p.cutLine k))
    | none => c.finishPage p (if p.defect then Rc.DEFECT else Rc.OK) 0

/-- The chain ends: CHAIN_DONE, and the CHAIN_END commands that wait for it complete (R151). [DESIGN CHOICE: log 54] -/
def Chip.chainDone (c : Chip) : Chip :=
  match c.chain with
  | none => c
  | some h =>
    let c := { c with
      chain := none
      pages := c.pages.map fun (p : Page) => { p with joined := false, origin := none, offsets := p.own } }
    let c := c.eventTo h.part Rc.CHAIN_DONE 0x21 h.tag (h.closed.getD 2)
    h.enders.foldl (fun (c : Chip) k => c.result k Rc.OK) c

/-- A page of the partition with a tag (R153, R156). [DESIGN CHOICE: log 51] -/
def Chip.taggedPage (c : Chip) (e : JEntry) : Option Page := c.pages.find? fun p => p.part == e.part && p.tag == e.param 0x10 8

/-- The pages that had joined behind a cancelled one take their new places; the first whose start has passed, and those behind it, leave the chain, which closes (R150, R153). [DESIGN CHOICE: log 55] -/
def Chip.closeUp (c : Chip) (now : Nat) : List Page → Chip
  | [] => c
  | p :: ps =>
    match c.chain, c.lastJoined with
    | some h, some k =>
      let q := placeBehind k p h.offsets
      if beltAtOrAfter c.beltPos q.startAt then { c with chain := some { h with closed := some (h.closed.getD 2) } }
      else Chip.closeUp ((c.updPage p.seq fun _ => q).logPage now q) now ps
    | some _, none => Chip.closeUp (c.placeFirst now p) now ps
    | none, _ => c

/-- PAGE_CANCEL (R153). A chain whose only page is cancelled before it starts has no page left and ends. [DESIGN CHOICE: log 55] -/
def Chip.pageCancel (c : Chip) (now : Nat) (e : JEntry) : Chip :=
  match c.taggedPage e with
  | none => c.result e.slot Rc.PAGE_UNKNOWN
  | some p =>
    if p.running then c.result e.slot Rc.PAGE_STARTED
    else
      let c := (c.started e.slot).finishPage p Rc.CANCELLED 0
      let behind := c.pages.filter fun q => q.joined && !q.running && decide (p.seq < q.seq)
      let c := if p.joined then
          let out (q : Page) : Page :=
            if q.joined && !q.running && decide (p.seq < q.seq) then { q with joined := false, origin := none, offsets := q.own } else q
          ({ c with pages := c.pages.map out }).closeUp now behind
        else c
      let c := c.result e.slot Rc.OK
      if p.joined && c.lastJoined.isNone then c.chainDone.enter St.primed Why.chainEnd else c

/-- PAGE_ABORT (R156). [DESIGN CHOICE: log 56] -/
def Chip.pageAbort (c : Chip) (e : JEntry) : Chip :=
  match c.taggedPage e with
  | none => c.result e.slot Rc.PAGE_UNKNOWN
  | some p =>
    if !p.running then c.result e.slot Rc.PAGE_NOT_STARTED
    else match p.cut with
      | some k => c.result e.slot Rc.ABORTED (p.endDetail (p.cutLine k))
      | none =>
        let c := c.started e.slot
        if p.cutPast (p.cutFor false) then (c.breakChain 3).result e.slot Rc.PAGE_ENDED
        else
          let c := c.abortPage p.seq 1 0 false
          match c.pageOf p.seq with
          | some q => c.result e.slot Rc.ABORTED (q.endDetail (q.cutLine (q.cut.getD 0)))
          | none => c

/-- Why an arming failed: the status and its DETAIL or cause, with the locks to be released. -/
abbrev ArmFail := (Nat × Nat) × List (Nat × Nat) × Chip

/-- A page tree in memory, read through locked translations: raw header, header, raw entries, entries, and per entry the raw band table and block list. -/
structure Tree where
  raw : List Byte
  hdr : RootHdr
  rawE : List Byte
  entries : List StnEntry
  tabs : List (List Byte × List Byte)

/-- Lock and read a range. [DESIGN CHOICE: log 37] -/
def Chip.armRead (c : Chip) (mem : HostImg) (part a n : Nat) (keys : List (Nat × Nat)) :
    Except ArmFail (List Byte × List (Nat × Nat) × Chip) :=
  match c.lockRange mem part (n / 4096 + 2) a n keys with
  | .error e => .error e
  | .ok (keys, c) =>
    match c.readLocked mem part a n with
    | .ok bs => .ok (bs, keys, c)
    | .error e => .error (e, keys, c)

/-- Steps 3 to 5 of arming: the root with its rules, and every band table and block list; R132 names no refusal for one off its alignment or a root across a page boundary, and such a tree is read where it lies (R132 to R139). [DESIGN CHOICE: log 141] -/
def Chip.armTree (c : Chip) (mem : HostImg) (part root : Nat) : Except ArmFail (Tree × List (Nat × Nat) × Chip) := do
  let (raw, keys, c) ← c.armRead mem part root 64 []
  let hdr := rootHdr raw
  let n := if hdr.nstn ≤ 8 then hdr.nstn else 0
  let (rawE, keys, c) ← c.armRead mem part (root + 64) (32 * n) keys
  let entries := (pieces 32 n rawE).map stnEntry
  match rootRules raw hdr entries c.configured with
  | some (k, i) => .error ((Rc.PAGE_TREE_ERR, k + i * 256), keys, c)
  | none =>
    let bands := cdiv hdr.lines 256
    let (tabs, keys, c) ← entries.foldlM (fun (a : List (List Byte × List Byte) × List (Nat × Nat) × Chip) e => do
      let (bt, keys, c) ← a.2.2.armRead mem part e.bandTable (8 * bands) a.2.1
      let (bl, keys, c) ← c.armRead mem part e.blockList (16 * e.nblock) keys
      pure (a.1 ++ [(bt, bl)], keys, c)) ([], keys, c)
    pure ({ raw := raw, hdr := hdr, rawE := rawE, entries := entries, tabs := tabs }, keys, c)

/-- The checksum of a tree (R137). -/
def Tree.crc (t : Tree) : Nat :=
  crc32 (t.raw.take 24 ++ List.replicate 4 0 ++ t.raw.drop 28 ++ t.rawE ++ t.tabs.flatMap fun e => e.1 ++ e.2)

/-- The band and block entries of a tree, per station. -/
def Tree.decoded (t : Tree) : List (StnEntry × List BandEntry × List BlockEntry) :=
  (t.entries.zip t.tabs).map fun x =>
    (x.1, (pieces 8 (cdiv t.hdr.lines 256) x.2.1).map bandEntry, (pieces 16 x.1.nblock x.2.2).map blockEntry)

/-- The tiles a page uses (R142). [DESIGN CHOICE: log 52] -/
def Chip.pageTiles (c : Chip) (t : Tree) : List Nat :=
  t.entries.flatMap fun e => (c.tilesOf e.station).filter fun k =>
    usesPosition (c.stn e.station).pitch (c.stn e.station).overlap t.hdr.width (c.positionOf k)

/-- The page that a page of a partition would follow: the last one armed before it, unless its chain has closed (R149). [DESIGN CHOICE: log 51] -/
def Chip.predecessor (c : Chip) (part : Nat) : Option Page :=
  match (c.pages.filter fun p => p.part == part).getLast? with
  | some p => if p.joined && (c.chain.bind (·.closed)).isSome then none else some p
  | none => none

/-- What admission looks at; P_now, the engine's estimate from activity counters, in µW is given (R143, R144, R397). -/
def Chip.admission (c : Chip) (part : Nat) (t : Tree) (tiles : List Nat) (bands : List (List Nat)) (power : Nat) : Admission :=
  let q := (c.owner part).num
  { speed := t.hdr.speed
    halfPeriods := tiles.map fun k => (k, c.fld (Fld.TILE_HALF_PERIOD_T_H k))
    sumB := sumN (bands.map maxFour)
    capacity := imageCapacity (c.fld (Fld.HOST_PORT_STATUS_RATE q)) (c.fld (Fld.HOST_PORT_STATUS_WIDTH q))
    temp := c.fldS Fld.THERMAL_MAX_TEMP
    theta := c.fld Fld.THERMAL_THETA_THETA
    powerNow := power
    stations := t.entries.length
    tiles := tiles.length
    follow := bit t.hdr.flags 0
    followLimit := if c.fld Fld.WINDLASS_FOLLOW_CFG_MODE = 0 then none else some (c.fld Fld.WINDLASS_FOLLOW_LIMIT_LIMIT) }

/-- The page that a tree arms (R141, R150). [DESIGN CHOICE: log 51] -/
def Chip.armedPage (c : Chip) (e : JEntry) (t : Tree) (tiles : List Nat) (keys : List (Nat × Nat)) : Page :=
  let dec := t.decoded
  let stns : List PageStn := dec.map fun x => { station := x.1.station, descs := imageDescs x.2.2, bands := x.2.1.map (·.size) }
  let first := sumN (stns.map fun x => sumN (x.bands.take 4))
  let cap := (c.admission e.part t tiles (stns.map (·.bands)) 0).capacity
  let own := (List.range 8).map fun s => (s, c.pair (Reg.STATION_BELT_OFFSET_LO s) (Reg.STATION_BELT_OFFSET_HI s) % 2 ^ 48)
  { tag := e.tag.toNat, part := e.part, seq := e.seq
    lines := t.hdr.lines, width := t.hdr.width, speed := t.hdr.speed, gap := t.hdr.gap
    follow := bit t.hdr.flags 0, strip := bit t.hdr.flags 1, feather := t.hdr.feather
    markM := c.fld Fld.SEAM_STRIP_MARK
    stns := stns, tiles := tiles, leadNs := max 100000000 (cdiv (first * 1000000000) (max 1 cap))
    locks := keys, descs := sumN (stns.map fun x => x.descs.length), own := own, offsets := own }

/-- The descriptor store (R140). [DESIGN CHOICE: log 51] -/
def descStore : Nat := 16384

/-- A block that no image descriptor may name: its address or length is no multiple of 64 bytes, or its length is out of range (R125, R136). [DESIGN CHOICE: log 51] -/
def BlockEntry.misaligned (b : BlockEntry) : Bool :=
  b.addr % 64 != 0 || b.len % 64 != 0 || b.len == 0 || decide (16777216 < b.len)

/-- Steps 6 to 13 of arming (R139); DMA_MISALIGNED names the station, the first band and the index of the first misaligned block (R125); the power estimate P_now of the thermal forecast is free (R397). [DESIGN CHOICE: log 50, 51, 151] -/
def Chip.armChecks (c : Chip) (mem : HostImg) (e : JEntry) (t : Tree) (keys : List (Nat × Nat)) : Except ArmFail (Page × Chip) := do
  let fail (status detail : Nat) (keys : List (Nat × Nat)) (c : Chip) : Except ArmFail (Page × Chip) := .error ((status, detail), keys, c)
  if t.crc ≠ t.hdr.crc then fail Rc.PAGE_CHECKSUM 0 keys c
  else
  let dec := t.decoded
  match (List.range dec.length).findSome? fun i => (dec[i]?).bind fun x => treeRules i x.2.1 x.2.2 with
  | some (k, i) => fail Rc.PAGE_TREE_ERR (k + i * 256) keys c
  | none =>
  let tiles := c.pageTiles t
  match tiles.find? fun k => !c.tileUp k with
  | some k => fail Rc.ARM_TILE_ABSENT k keys c
  | none =>
  let blocks := dec.flatMap (·.2.2)
  match dec.findSome? fun x => ((List.range x.2.2.length).zip x.2.2 |>.find? fun b => b.2.misaligned).map fun b => (x.1.station, b.2.firstBand, b.1) with
  | some (s, band, block) => fail Rc.DMA_MISALIGNED (Config.armMisaligned s band block).toNat keys c
  | none =>
  let (keys, c) ← blocks.foldlM (fun (a : List (Nat × Nat) × Chip) (b : BlockEntry) =>
    a.2.lockRange mem e.part (b.len / 4096 + 2) b.addr b.len a.1) (keys, c)
  let p := c.armedPage e t tiles keys
  if descStore < p.descs + sumN (c.pages.map (·.descs)) then fail Rc.ARM_DESC_FULL 0 keys c
  else if (c.predecessor e.part).any fun k => k.strip && decide (p.gap < 24 * k.markM) then fail Rc.ARM_GAP_SHORT 0 keys c
  else
    let (power, c) := c.freeNat
    match admitPage (c.admission e.part t tiles (p.stns.map (·.bands)) power) with
    | some d => fail Rc.ADMIT_FAIL d keys c
    | none => .ok (p, c)

/-- A CHAIN_END of the partition has been accepted and has not started: no page armed now joins the chain that it closes (R151). -/
def Ctx.chainEnding (x : Ctx) (part : Nat) : Bool :=
  x.merge.journal.any fun j => j.part == part && j.opcode == 0x22 && j.phase == .accepted

/-- PAGE_ARM (R139, R151, R417). A port that is down answers no walk (R97). -/
def Chip.pageArm (c : Chip) (x : Ctx) (mem : HostImg) (e : JEntry) : Chip :=
  let root := e.param 0x10 8
  if root % 64 ≠ 0 then c.result e.slot Rc.ERR_RANGE 0x10
  else
    let c := c.started e.slot
    if 8 ≤ c.pages.length then c.result e.slot Rc.ARM_QUEUE_FULL
    else
      let mem := if c.portDown (c.owner e.part) then [] else mem
      match (do
        let (t, keys, c) ← c.armTree mem e.part root
        c.armChecks mem e t keys : Except ArmFail (Page × Chip)) with
      | .error ((status, detail), keys, c) =>
        (c.showLocks.unlock e.part keys).result e.slot status detail
      | .ok (p, c) =>
        let c := ({ c with pages := c.pages ++ [p] }).showLocks
        let c := c.result e.slot Rc.OK (p.locks.length % 4096 + p.descs * 65536)
        if x.chainEnding e.part then c else c.tryJoin x.now p.seq

end Sys2Proof.Machine
end

