-- ==== Sys2Proof/Machine/Replay.lean ====
section
/-! DEFINITION. Replay: a recording is read, its snapshot loaded into a copy of the replayed units, its inputs presented to the copy at their recorded times, and what the copy computes compared with what was recorded; the divergence report (R222, R483 to R487).
-/
namespace Sys2Proof.Config

/-- The units that a snapshot's bytes describe: R479 says what they hold and gives no layout; none where they describe none. -/
opaque snapshotImage : List Byte → Option Machine.Chip

/-- The mark length of the strip of a recorded page, by its tag; none for a page without one (R255, R473: a PAGE record does not say). -/
opaque recordedStrip : Nat → Option Nat

/-- Whether the scheduler of a replay goes on planning a tile from a sweep on where the recording holds no plan of it: no presented record carries the arms, the links and the losses on which that depends (R485). -/
opaque replayPlans (tile sweep : Nat) : Bool

end Sys2Proof.Config
namespace Sys2Proof.Machine

/-- The records in a segment's bytes, dated by its base time; none when a record's NW overruns them (R475, R483). [DESIGN CHOICE: log 130] -/
def parseRecords (base : Nat) : Nat → List Byte → Option (List SumpRec)
  | 0, l => if l.isEmpty then some [] else none
  | fuel + 1, l =>
    if l.isEmpty then some []
    else
      let nw := (l.getD 1 0).toNat
      if l.length < 8 + 4 * nw then none
      else
        let r : SumpRec := {
          typ := (l.getD 0 0).toNat, src := leNat ((l.drop 2).take 2), time := base + leNat ((l.drop 4).take 4)
          words := wordsOf ((l.drop 8).take (4 * nw)) }
        (parseRecords base fuel (l.drop (8 + 4 * nw))).map (r :: ·)

/-- The record bytes of a segment's payload, uncompressed; none when the codec cannot decode them (R476). [DESIGN CHOICE: log 130] -/
def segmentRecords (compressed : Bool) (rawLen : Nat) (payload : List Byte) : Option (List Byte) :=
  if !compressed then (if payload.length < rawLen then none else some (payload.take rawLen))
  else
    let lines := cdiv rawLen 4096
    let (got, err) := decodeStream 8192 lines (cdiv lines 256) 0 { up := [], up2 := [], k := 2, cu := { bytes := payload } } []
    if (match err with | some (9, _) => false | some _ => true | none => false) then none
    else some ((got.flatMap fun l => packLine l.1).take rawLen)

/-- Read the segments of a recording in order; the records after the first snapshot are kept (R483). [DESIGN CHOICE: log 130] -/
def readRecording (id : Nat) : Nat → Option Nat → Option Nat → List Byte → Recording → Recording
  | 0, _, _, _, x => { x with cause := 4 }
  | fuel + 1, prev, snap, l, x =>
    if l.isEmpty then { x with cause := if snap.isSome then 0 else 4 }
    else
      let f (off n : Nat) : Nat := leNat ((l.drop off).take n)
      let len := f 0x24 4
      let payload := (l.drop 64).take len
      let kind := f 6 1
      let records := if kind = 0 then
          (segmentRecords (bit (f 7 1) 0) (f 0x20 4) payload).bind fun bs => parseRecords (f 0x10 8) (bs.length + 1) bs
        else some []
      let bad := decide (l.length < 64 + len) || f 0 4 != 0x504D5553 || f 4 2 != 1 || f 0x3C 4 != crc32 (l.take 60)
        || f 0x38 4 != crc32 payload || f 0x30 4 != id || kind == 3 || (match prev with | some k => f 8 8 != k + 1 | none => false)
        || records.isNone
      let next := x.pos + 64 + len
      if bad then { x with cause := 4 }
      else if kind = 2 ∧ snap.isSome then { x with pos := next, cause := 1 }
      else if snap.isNone ∧ kind = 1 then
        readRecording id fuel (some (f 8 8)) (some (f 0x10 8)) (l.drop (64 + len))
          { x with pos := next, start := f 0x10 8, image := payload, sources := f 0x2C 4 }
      else
        let rs := if snap.isSome then (records.getD []).map fun r => (next, r) else []
        readRecording id fuel (some (f 8 8)) snap (l.drop (64 + len)) { x with pos := next, records := x.records ++ rs }

/-- Bytes of the payload words of a record. -/
def SumpRec.payload (r : SumpRec) : List Byte := r.words.flatMap fun w => leBytes 4 w.toNat

/-- A field of a record's payload. -/
def SumpRec.field (r : SumpRec) (off n : Nat) : Nat := leNat ((r.payload.drop off).take n)

/-- The record is an output: a slot, a mirror channel or a plan (R473). -/
def SumpRec.isOutput (r : SumpRec) : Bool := r.typ == 0x08 || r.typ == 0x10

/-- The instant at which a record is presented: an output of a slot at its sample instant, any other at its own (R475, R485). [DESIGN CHOICE: log 117] -/
def SumpRec.due (r : SumpRec) : Nat := if r.typ = 0x08 ∧ r.src < 0x100 then r.time - r.field 0 4 else r.time

/-- Records in the order in which they are presented: by their instant, inputs before outputs, equal ones in the order of the recording. [DESIGN CHOICE: log 117] -/
def insertReplay (x : Nat × SumpRec) : List (Nat × SumpRec) → List (Nat × SumpRec)
  | [] => [x]
  | y :: l =>
    if x.2.due < y.2.due ∨ (x.2.due = y.2.due ∧ (x.2.isOutput = false ∨ y.2.isOutput = true)) then x :: y :: l else y :: insertReplay x l

/-- The direction that the flags of a FEEDBACK record give (R473). -/
def recordedDir (flags : Nat) : Int := if bit flags 1 then 0 else if bit flags 0 then -1 else 1

/-- A FEEDBACK record: position, T_LAST, speed and flags of a channel (R473, R474). -/
def Chip.presentFeedback (v : Chip) (r : SumpRec) : Chip :=
  let ch := r.src
  let pos := signed 64 (r.field 0 8)
  let stamp := r.field 8 8
  let d := pos - (v.chanAt ch).1
  let speed := signed 32 (r.field 16 4) * 4096
  let v := if ch < 12 then
      ((v.setReg (Reg.FEEDBACK_ENC_SPEED ch) (BitVec.ofNat 32 (r.field 16 4))).setReg (Reg.FEEDBACK_ENC_STATUS ch)
        (BitVec.ofNat 32 (r.field 20 4 * 65536))).setFldS (Fld.FEEDBACK_ENC_POS_VALUE ch) pos |>.updEnc ch fun x => { x with
          last := some stamp, lastFast := some stamp, speed := speed }
    else
      let v := (v.setFlag (Fld.FEEDBACK_BISS_STATUS_REF (ch - 12)) (bit (r.field 20 4) 3)).setFlag
        (Fld.FEEDBACK_BISS_STATUS_FAULT (ch - 12)) (bit (r.field 20 4) 4)
      v.updBiss (ch - 12) fun x => { x with pos := some (pos.toNat, stamp), speed := speed, dir := recordedDir (r.field 20 4) }
  (v.advance r.time ch d).latchFeedback

/-- A HALL record: the triplet and the axes it commutates (R304, R329). -/
def Chip.presentHall (v : Chip) (r : SumpRec) : Chip :=
  let st := r.field 0 4 % 8
  let old := (v.hall r.src).index
  let v := v.hallEdge r.time r.src st
  match hallIndex st, old with
  | some i, some j => if i = j then v else v.hallDrives r.time r.src (!(i == (j + 1) % 6 || j == (i + 1) % 6))
  | _, _ => v

/-- An ADC record: a slow-ADC channel, an HV channel, or the currents of a drive axis, whose run of the current loop it may start (R473). -/
def Chip.presentAdc (v : Chip) (r : SumpRec) : Chip :=
  if r.src < 24 then v.putAdc r.src (r.field 0 4)
  else if 0x40 ≤ r.src ∧ r.src < 0x58 then v.putHv (r.src - 0x40) (some (r.field 0 4)) none
  else if 0x60 ≤ r.src ∧ r.src < 0x78 then v.putHv (r.src - 0x60) none (some (r.field 0 4))
  else if 0x100 ≤ r.src ∧ r.src < 0x10C then
    (v.putCurrents (r.src - 0x100) ((List.range 3).map fun k => signed 16 (r.field (2 * k) 2)) (r.field 6 2)).loopTick r.time (r.src - 0x100)
  else v

/-- An UPLINK record: the messages that the replayed units read (R274, R474). -/
def Chip.presentUplink (v : Chip) (r : SumpRec) : Chip :=
  if r.field 0 1 = 0x81 then v.bdStamp r.time r.src (r.field 4 4) (r.field 8 6) (r.field 14 6) (r.field 20 2)
  else if r.field 0 1 = 0x82 then v.mirrorSense r.time r.src (r.field 8 2)
  else v

/-- A THERMAL record: a die sensor or a head sensor. -/
def Chip.presentThermal (v : Chip) (r : SumpRec) : Chip :=
  if r.src < 12 then v.setFld (Fld.THERMAL_DIE_TEMP r.src) (r.field 0 2)
  else
    let i := (r.src - 0x10) % 4
    let t := (r.src - 0x10) / 4
    v.setFld (if i % 2 = 0 then Fld.TILE_HEAD_TEMP_TEMP_LO t (i / 2) else Fld.TILE_HEAD_TEMP_TEMP_HI t (i / 2)) (r.field 0 2)

/-- A PAGE record: the page named by its tag, or a page new to the copy, takes its origin, its cut and its offsets and runs (R473). [DESIGN CHOICE: log 117] -/
def Chip.presentPage (v : Chip) (r : SumpRec) : Chip :=
  let tag := r.field 0 8
  let cut := r.field 28 8
  let offs := (List.range 8).map fun s => (s, r.field (36 + 8 * s) 8)
  let set (p : Page) : Page := { p with
    origin := some (r.field 8 8), cut := if cut = 0 then p.cut else some cut, own := offs, offsets := offs
    joined := true, running := true }
  if v.pages.any fun p => p.tag == tag then { v with pages := v.pages.map fun (p : Page) => if p.tag == tag then set p else p }
  else
    let stns := ((List.range 8).filter fun s => bit r.src s).map fun s => ({ station := s, descs := [], bands := [] } : PageStn)
    let strip := Config.recordedStrip tag
    let width := r.field 20 4
    let p : Page := {
      tag := tag, part := 0, seq := maxN (v.pages.map (·.seq)) + 1, lines := r.field 16 4, width := width, speed := r.field 24 4
      gap := 0, follow := false, strip := strip.isSome, markM := strip.getD 0, feather := 0, stns := stns
      tiles := v.onTiles.filter fun t =>
        let x := v.stn (v.stationOf t)
        bit r.src (v.stationOf t) && usesPosition x.pitch x.overlap width (v.positionOf t) }
    { v with pages := v.pages ++ [set p] }

/-- Where bytes of an instance that start at an offset of its image lie in the window (R56). -/
def imageCells : List (Nat × Nat) → Nat → List Byte → List (Nat × List Byte)
  | [], _, _ => []
  | (a, n) :: rs, skip, bs =>
    if n ≤ skip then imageCells rs (skip - n) bs else (a + skip, bs.take (n - skip)) :: imageCells rs 0 (bs.drop (n - skip))

/-- The head of a tile holds a bank: no load and no acknowledgement is replayed (R278, R485). [DESIGN CHOICE: log 117] -/
def Chip.holdsBank (v : Chip) (t bank : Nat) : Chip :=
  v.updTile t fun x => { x with bankCrc := updAt x.bankCrc bank fun k => some (k.getD 0) }

/-- A commit that the copy waits to switch names an instance. -/
def Chip.awaits (v : Chip) (inst : Nat) : Bool :=
  v.txn.commits.any fun (m : Commit) => m.entries.contains (.table inst) && m.left.contains (tableUnit inst)

/-- The first TABLE record of a switch: the banks change roles, unless the copy has switched the instance itself by a commit it knows, or is about to (R56, R473). [DESIGN CHOICE: log 117] -/
def Chip.presentSwitch (v : Chip) (inst : Nat) : Chip :=
  let done := v.txn.switched.contains inst
  let v := if done || v.awaits inst then v else v.applyEntry (.table inst)
  let v := v.updTxn fun x => { x with switched := x.switched.filter fun n => n != inst }
  if inst / 4096 = 1 then
    let t := inst % 4096 / 2
    let d := inst % 2
    v.holdsBank t (2 * d + (v.tile t).bankUse.getD d 0)
  else v

/-- A TABLE record: words of the new active bank of an instance, from its first word on (R473). [DESIGN CHOICE: log 117] -/
def Chip.presentTable (v : Chip) (r : SumpRec) : Chip :=
  let v := if r.field 0 4 = 0 then v.presentSwitch r.src else v
  v.each (imageCells (tableRanges r.src) (4 * r.field 0 4) (r.payload.drop 4)) fun e v => v.setTabBytes (!v.awaits r.src) e.1 e.2

/-- The command that a COMMAND record holds (R473). -/
def SumpRec.command (r : SumpRec) : JEntry :=
  let entry : Entry := BitVec.ofNat 512 (leNat ((r.payload.drop 8).take 64))
  { slot := 0, tag := BitVec.ofNat 64 (entry.field 8 8), seq := r.field 0 8, time := r.time, part := r.src / 4 % 8, ring := r.src % 4
    opcode := entry.byte 0, entry := entry }

/-- TXN_COMMIT on the copy: a commit with a trigger waits there and cuts the sweeps of its tiles; one in SAFE mode switches with the records of its switch (R209, R222, R473). [DESIGN CHOICE: log 117] -/
def Chip.presentCommit (v : Chip) (now : Nat) (e : JEntry) : Chip :=
  match v.openTxn e.part with
  | none => v
  | some o =>
    let trig := triggerOf (e.param 0x10 1) (e.param 0x18 8)
    if (v.commitOf e.part).isSome || o.entries.any v.lockedEntry || (v.badTrigger now trig).isSome then v
    else
      let v := v.setOpen e.part none
      if o.entries.isEmpty || (v.conflict o.gen o.entries).isSome then v
      else
        let v := v.enterCommit { part := e.part, seq := e.seq, tag := e.tag.toNat, opcode := e.opcode, trig := trig, entries := o.entries }
        if trig = .safe then v.dropCommit e.part
        else
          v.each o.entries fun s v => match s with
            | .table i => if i / 4096 = 1 then v.holdsBank (i % 4096 / 2) (v.idleBank (i % 4096 / 2) (i % 2)) else v
            | .reg _ _ _ => v

/-- A COMMAND record: the transaction commands act on the copy, for their commits cut sweeps (R209, R222). [DESIGN CHOICE: log 117] -/
def Chip.presentCommand (v : Chip) (r : SumpRec) : Chip :=
  let e := r.command
  if e.opcode = 0x10 then v.txnBegin e
  else if e.opcode = 0x11 then v.txnWrite e
  else if e.opcode = 0x12 then v.presentCommit r.time e
  else if e.opcode = 0x13 then v.txnRollback e
  else v

/-- Present a recorded input to the copy (R485). -/
def Chip.present (v : Chip) (r : SumpRec) : Chip :=
  if r.typ = 0x01 then v.presentCommand r
  else if r.typ = 0x02 then v.presentFeedback r
  else if r.typ = 0x03 then v.presentHall r
  else if r.typ = 0x04 then v.presentAdc r
  else if r.typ = 0x05 then v.updWl fun w => { w with demand := BitVec.ofNat 32 (r.field 0 4) }
  else if r.typ = 0x06 then v.presentUplink r
  else if r.typ = 0x07 then v.presentThermal r
  else if r.typ = 0x11 then v.setReg (r.field 0 4) (BitVec.ofNat 32 (r.field 4 4))
  else if r.typ = 0x12 then v.presentTable r
  else if r.typ = 0x13 then v.presentPage r
  else if r.typ = 0x14 then v.updWl fun w => { w with inj := some { injectionOf (r.payload.take 23) with slot := r.src } }
  else v

/-- What a comparison found: kind 1 VALUE, 2 ORDER, 3 MISSING, 4 EXTRA; class 0 slot, 1 mirror channel, 2 tile (R485, R487). -/
structure Divergence where
  kind : Nat
  cls : Nat
  field : Nat := 0
  index : Nat
  time : Nat
  recorded : Nat := 0
  recomputed : Nat := 0
  deriving DecidableEq, Repr

/-- A replay under way: the copy of the replayed units, the outputs of mirror channels it has computed and that no record has answered yet, and what the report will say (R485, R487). -/
structure Rerun where
  copy : Chip
  waiting : List SumpRec := []
  compared : Nat := 0
  last : Nat := 0
  pos : Nat := 0
  found : Option Divergence := none
  deriving DecidableEq, Repr

/-- The class and the index that a record of an output names (R487). -/
def SumpRec.unit (r : SumpRec) : Nat × Nat := if r.typ = 0x10 then (2, r.src) else if r.src < 0x100 then (0, r.src) else (1, r.src - 0x100)

/-- The payload words of an output that are compared: LAG is not (R485). -/
def SumpRec.outputs (r : SumpRec) : List Word := if r.typ = 0x10 then r.words else r.words.drop 1

/-- What an output belongs to: its sweep, or its sample instant (R485). -/
def SumpRec.belongs (r : SumpRec) : Nat := if r.typ = 0x10 then r.field 0 4 else r.time - r.field 0 4

/-- A planned sweep may carry dots of the page, which a recording does not hold: it has a line that is not blank (R207, R222). -/
def Chip.dotted (v : Chip) (t sweep : Nat) : Bool :=
  ((v.tile t).plans.find? fun (k : Plan) => k.sweep == sweep).any fun k =>
    k.lines.any fun l => (v.pageOf l.page).any fun p => !p.blankAt l.raw

/-- A recomputed plan with what follows from the dots of its lines taken from the recorded one: BLANK, and a ramp that is the recomputed one reduced (R201, R222). [DESIGN CHOICE: log 117] -/
def SumpRec.sameDots (g r : SumpRec) : SumpRec :=
  let rho (k : SumpRec) : Int := (k.words.getD 4 0).toInt
  let reduced := decide (0 ≤ rho g * rho r) && decide ((rho r).natAbs ≤ (rho g).natAbs)
  let flags := (g.words.getD 1 0 &&& ~~~8) ||| (r.words.getD 1 0 &&& 8)
  { g with words := (g.words.set 1 flags).set 4 (if reduced then r.words.getD 4 0 else g.words.getD 4 0) }

/-- Compare a recorded output with the recomputed one; `dots` says that the dots of the lines bear on it (R485). -/
def compareOutputs (r : SumpRec) (dots : Bool) (got : Option SumpRec) : Option Divergence :=
  let d : Divergence := { kind := 3, cls := r.unit.1, index := r.unit.2, time := r.due }
  match got with
  | none => some { d with recorded := (r.outputs.getD 0 0).toNat }
  | some g =>
    let g := if dots then g.sameDots r else g
    if g.belongs ≠ r.belongs then some { d with kind := 2, recorded := r.belongs, recomputed := g.belongs }
    else
      ((List.range (max r.outputs.length g.outputs.length)).find? fun i => r.outputs[i]? != g.outputs[i]?).map fun i =>
        { d with kind := 1, field := i, recorded := (r.outputs.getD i 0).toNat, recomputed := (g.outputs.getD i 0).toNat }

/-- The source bits that a source code of R354 reads. [DESIGN CHOICE: log 117] -/
def codeNeeds (k : Nat) : List Nat :=
  if k < 0x20 ∨ k = 0x80 then [1] else if k < 0x38 then [3, 6] else if 0x40 ≤ k ∧ k < 0x78 then [3, 6] else if k = 0x81 then [4] else []

/-- The source bits of the inputs that a replayed unit reads: 0 a slot, 1 a mirror channel, 2 a tile (R473, R485). [DESIGN CHOICE: log 117] -/
def Chip.needs (v : Chip) (u : Nat × Nat) : List Nat :=
  if u.1 = 2 then [1, 5]
  else if u.1 = 1 then [5]
  else
    let n := u.2
    let a := v.fld (Fld.WINDLASS_SLOT_CFG_DEST n)
    codeNeeds (v.fld (Fld.WINDLASS_SLOT_IO_FB_SRC n)) ++ codeNeeds (v.fld (Fld.WINDLASS_SLOT_IO_REF_SRC n))
      ++ (if v.fld (Fld.WINDLASS_SLOT_CFG_LAW n) = 2 then
        3 :: (if v.fld (Fld.DRIVE_CFG_SRC a) = 0 then [1] else if v.fld (Fld.DRIVE_CFG_SRC a) = 2 then [] else [2]) else [])
      ++ (if ((List.range 16).any fun j => v.fld (Fld.WINDLASS_RC_CFG_SLOT j) == n && v.flag (Fld.WINDLASS_RC_CFG_EN j)) then [1] else [])

/-- The recording holds every input that a unit reads (R485). -/
def Chip.replayable (v : Chip) (sources : Nat) (u : Nat × Nat) : Bool := (v.needs u).all (bit sources)

/-- The units of the copy whose outputs are looked for and that are not replayable (R485, R487). [DESIGN CHOICE: log 117] -/
def Chip.notReplayable (v : Chip) (sources : Nat) : Nat :=
  let loops := if bit sources 7 then ((List.range 96).filter v.slotRuns).map (fun n => (0, n))
      ++ ((List.range 64).filter fun t => (v.tile t).driven).map fun t => (1, t) else []
  ((loops ++ v.onTiles.map fun t => (2, t)).filter fun u => !v.replayable sources u).length

/-- The copy records what it computes (R473). -/
def Chip.recorderOn (v : Chip) : Chip := { v with sump := { sources := 0xFF } }.setFld Fld.SUMP_STATUS_STATE 1

/-- The outputs that the copy has computed, in order, and the copy without them. -/
def Chip.taken (v : Chip) : List SumpRec × Chip :=
  ((v.sump.open_.reverse.filter SumpRec.isOutput), { v.recorderOn with emits := [], outs := [] })

/-- A recorded plan is that of a sweep after the next one of a tile that the copy goes on planning (R485). [DESIGN CHOICE: log 117] -/
def Chip.skips (v : Chip) (r : SumpRec) : Bool :=
  let x := v.tile r.src
  r.typ == 0x10 && !bit (r.field 12 4) 16 && v.planning r.src && !x.plans.isEmpty
    && decide (0 < sweepDist (r.field 0 4) x.nextSweep) && Config.replayPlans r.src x.nextSweep

/-- A plan that the copy makes at the end of the recording and that no record answers: the next sweep of a tile, planned as the sweep three before it begins, where that lies in the recording (R195, R485). [DESIGN CHOICE: log 117] -/
def Chip.extraPlan (v : Chip) (last t : Nat) : Option Divergence :=
  let x := v.tile t
  if !v.planning t || x.plans.isEmpty || !Config.replayPlans t x.nextSweep then none
  else (v.leadOf t (pattern 32 ((x.nextSweep : Int) - 3))).bind fun lead =>
    if lead / 128 ≤ last then some { kind := 4, cls := 2, index := t, time := lead / 128, recomputed := x.nextSweep } else none

/-- One record is presented: an input acts on the copy; a recorded output of a slot or a tile has the copy execute the sample, plan or refinement it dates, and that of a mirror channel answers the next output the copy has computed (R485). [DESIGN CHOICE: log 117] -/
def Rerun.step (sources : Nat) (x : Rerun) (e : Nat × SumpRec) : Rerun :=
  let r := e.2
  if x.found.isSome then x
  else if !r.isOutput then
    let (outs, v) := (x.copy.present r).taken
    let v := ((v.fireDue r.time).catchUp r.time).taken.2
    { x with copy := v, waiting := x.waiting ++ outs.filter fun o => o.typ == 0x08 && decide (0x100 ≤ o.src), last := r.time, pos := e.1 }
  else if !x.copy.replayable sources r.unit ∨ (r.typ = 0x08 ∧ bit sources 7 = false) then { x with pos := e.1 }
  else
    let answer (got : Option SumpRec) (y : Rerun) : Rerun :=
      match compareOutputs r (r.typ == 0x10 && y.copy.dotted r.src (r.field 0 4)) got with
      | some d => { y with found := some d, pos := e.1 }
      | none => { y with compared := y.compared + 1, pos := e.1 }
    if r.typ = 0x08 ∧ 0x100 ≤ r.src then
      answer (x.waiting.find? fun o => o.src == r.src) { x with waiting := x.waiting.eraseP fun o => o.src == r.src }
    else if x.copy.skips r then
      { x with pos := e.1, found := some { kind := 2, cls := 2, index := r.src, time := r.due, recorded := r.field 0 4, recomputed := (x.copy.tile r.src).nextSweep } }
    else
      let v := if r.typ = 0x08 then x.copy.slotRun r.time r.src
        else if bit (r.field 12 4) 16 then x.copy.trimRefine r.time r.src else x.copy.sweepPlan r.time r.src
      let (outs, v) := v.taken
      answer (outs.find? fun o => o.typ == r.typ && o.src == r.src) { x with copy := v }

/-- A whole replay over the first `n` records: at the end of the recording an output of a mirror channel or a plan of a tile that no record answers is EXTRA; a slot executes the samples that the recording dates, so none of its is (R485). [DESIGN CHOICE: log 117] -/
def Recording.rerun (k : Recording) (n : Option Nat) : Rerun :=
  let rs := k.records.foldl (fun l e => insertReplay e l) []
  let rs := match n with | some n => rs.take n | none => rs
  let v := ((Config.snapshotImage k.image).getD {}).recorderOn
  let x := rs.foldl (Rerun.step k.sources) { copy := v, last := k.start }
  if x.found.isSome ∨ n.isSome then x
  else
    match x.waiting.filter fun o => x.copy.replayable k.sources o.unit && bit k.sources 7 with
    | o :: _ => { x with
        found := some { kind := 4, cls := 1, index := o.src - 0x100, time := o.belongs, recomputed := (o.outputs.getD 0 0).toNat }, pos := k.pos }
    | [] => { x with
        found := (x.copy.onTiles.filter fun t => x.copy.replayable k.sources (2, t)).findSome? fun t => x.copy.extraPlan x.last t, pos := k.pos }

/-- The 64-byte divergence report (R487). -/
def Rerun.report (x : Rerun) (k : Recording) (cause : Nat) : List Byte :=
  let d := x.found.getD { kind := 0, cls := 0, index := 0, time := 0 }
  leBytes 4 0x50594C52 ++ [1, BitVec.ofNat 8 d.kind, BitVec.ofNat 8 d.cls, BitVec.ofNat 8 d.field] ++ leBytes 2 d.index
    ++ leBytes 2 (x.copy.notReplayable k.sources) ++ [BitVec.ofNat 8 cause, 0, 0, 0] ++ leBytes 8 d.time ++ leBytes 8 d.recorded
    ++ leBytes 8 d.recomputed ++ leBytes 8 x.compared ++ leBytes 8 k.start ++ leBytes 8 x.last

end Sys2Proof.Machine
end

