-- ==== Sys2Proof/Machine/Stop.lean ====
section
/-! DEFINITION. The cut path, the orderly stop, main loss and hold-up, discharge, and thermal protection (R378 to R396, R453).
-/
namespace Sys2Proof.Machine

/-- The conditions of the cut signal (R385). [DESIGN CHOICE: log 105] -/
def Chip.cutNow (c : Chip) : Bool :=
  !c.flag Fld.SAFETY_STATUS_ILK_A || !c.flag Fld.SAFETY_STATUS_ILK_B || c.flag Fld.SAFETY_STATUS_ILK_DISC
    || c.safety.mainLost || c.safety.brown || c.flag Fld.SAFETY_STATUS_TRIP

/-- The laser enables follow LEN_ARM and the cut signal (R385). -/
def Chip.showLen (c : Chip) : Chip :=
  let on := c.flag Fld.SAFETY_STATUS_LEN_ARM && !c.flag Fld.SAFETY_STATUS_CUT
  if c.flag Fld.SAFETY_STATUS_LEN_OUT = on then c
  else (c.setFlag Fld.SAFETY_STATUS_LEN_OUT on).each (List.range 8) fun g c => c.pin "LEN" g (b2n on)

/-- HV_EN follows HV_ARM and the cut signal, HV_DCHG its inverse; the discharge monitor starts as HV_EN goes low (R385, R388). -/
def Chip.showHv (c : Chip) (now : Nat) : Chip :=
  let on := c.flag Fld.SAFETY_STATUS_HV_ARM && !c.flag Fld.SAFETY_STATUS_CUT
  if c.flag Fld.SAFETY_STATUS_HV_EN = on then c
  else
    let c := ((c.setFlag Fld.SAFETY_STATUS_HV_EN on).pin "HV_EN" 0 (b2n on)).pin "HV_DCHG" 0 (b2n !on)
    (c.updSafety fun x => { x with dischargeFrom := if on then none else some now, dischargeFailed := x.dischargeFailed && !on }).refreshLoads

/-- KILL cause 1 ends once neither input is open and no discrepancy is latched (R279). [DEDUCED: log 80] -/
def Chip.endIlkKill (c : Chip) : Chip :=
  let on := !c.flag Fld.SAFETY_STATUS_ILK_A || !c.flag Fld.SAFETY_STATUS_ILK_B || c.flag Fld.SAFETY_STATUS_ILK_DISC
  if !on && c.safety.killAll == 1 then (c.updSafety fun x => { x with killAll := 0 }).unkillAll 1 else c

/-- KILL cause 1 is sent as an input opens or a discrepancy latches, unless it persists already (R279). [DEDUCED: log 80] -/
def Chip.ilkKill (c : Chip) (now : Nat) : Chip :=
  if c.safety.killAll == 0 then (c.updSafety fun x => { x with killAll := 1 }).killAll now 1 else c

/-- The cut signal follows its conditions; its activation clears both arms (R385). [DEDUCED: log 80] -/
def Chip.refreshCut (c : Chip) (now : Nat) : Chip :=
  let cut := c.cutNow
  let c := c.setFlag Fld.SAFETY_STATUS_CUT cut
  let c := if cut then (c.setFlag Fld.SAFETY_STATUS_LEN_ARM false).setFlag Fld.SAFETY_STATUS_HV_ARM false else c
  (c.showLen.showHv now).endIlkKill

/-- Set or clear LEN_ARM and HV_ARM; while the cut signal is active they stay clear (R385). -/
def Chip.arm (c : Chip) (now : Nat) (on : Bool) : Chip :=
  let on := on && !c.flag Fld.SAFETY_STATUS_CUT
  let c := (c.setFlag Fld.SAFETY_STATUS_LEN_ARM on).setFlag Fld.SAFETY_STATUS_HV_ARM on
  c.showLen.showHv now

/-- An HV channel that takes part measures below DCHG_LIMIT (R388). [DESIGN CHOICE: log 110] -/
def Chip.discharged (c : Chip) (k : Nat) : Bool :=
  !c.flag (Fld.WINDLASS_HV_CFG_EN k) || F32.lt (F32.abs (c.wl.hv.getD k {}).v) (c.reg Reg.SAFETY_DCHG_LIMIT)

/-- DCHG_OK: every channel is below the limit (R388). [DESIGN CHOICE: log 110] -/
def Chip.judgeDischarge (c : Chip) : Chip := c.setFlag Fld.SAFETY_STATUS_DCHG_OK ((List.range 24).all c.discharged)

/-- The reference that a controlled stop of an axis ramps down from: the set-point of its speed slot, or the latest reference where that slot follows another (R311). -/
def Chip.stopReference (c : Chip) (a : Nat) : Word :=
  let n := (c.drive a).slot
  if 96 ≤ n then 0
  else if c.fld (Fld.WINDLASS_SLOT_IO_REF_SRC n) = 0xFF then c.reg (Reg.WINDLASS_SETPOINT n)
  else (c.slotSt n).sig.getD 0 0

/-- Stop every drive axis under STOP_MODE (R311). -/
def Chip.stopDrives (c : Chip) : Chip := c.each (List.range 12) fun a c => c.driveStop a (c.stopReference a)

/-- The report that a replay writes with an END_CAUSE, and the outcome of its command after it (R486, R487). -/
def Replay.owed (r : Replay) (x : Rerun) (cause status detail : Nat) : OwedReport :=
  { slot := r.slot, part := r.part, host := r.host, bytes := x.report r.tape cause, status := status, detail := detail }

/-- A replay's report waits for a grant of its port's arbiter, or for the attach while that port is down (R97, R123, R487). [DESIGN CHOICE: log 117] -/
def Chip.oweReport (c : Chip) (r : OwedReport) : Chip := c.updEng fun g => { g with reports := g.reports ++ [r] }

/-- How far a replay that something else ends has come: a free number of records. [DESIGN CHOICE: log 117] -/
def Chip.rerunSoFar (c : Chip) (r : Replay) : Rerun × Chip :=
  let (k, c) := c.freeNat
  (r.tape.rerun (some (k % (r.tape.records.length + 1))), c)

/-- Leaving REPLAY: slot and scheduler states are zeroed and the mirrors start again; the live configuration was never replaced (R486). -/
def Chip.endReplayUnits (c : Chip) : Chip :=
  let c := (c.updEng fun x => { x with replay := none }).updWl fun w => { w with slots := List.replicate 96 {} }
  c.each (List.range 64) fun t c =>
    let c := c.updTile t fun x => { x with plans := [], nextSweep := 0, planLine := 0, planPage := 0 }
    if c.tileOn t && c.link t == Lk.up then c.updTile t fun x => { x with wantStart := !x.driven } else c

/-- A replay that a stop ends: its command has its outcome before the STATE_CHANGE; the report, which waits for its grant, says how far it came, with an END_CAUSE that R487 does not name for this, so a free one; and the units leave REPLAY (R36, R487). [DESIGN CHOICE: log 117] -/
def Chip.stopReplay (c : Chip) : Chip :=
  match c.eng.replay with
  | none => c
  | some r =>
    if r.ended then c.endReplayUnits
    else
      let (x, c) := c.rerunSoFar r
      let (k, c) := c.freeNat
      ((c.oweReport (r.owed x (k % 5) Rc.SAFE_STOPPED 0)).result r.slot Rc.SAFE_STOPPED).endReplayUnits

/-- State commands in progress end when SAFE_STOP wins over them: a REPLAY that still reads its recording, and a SLEEP whose record is not written yet, which then says so, among them (R36). [DESIGN CHOICE: log 104] -/
def Chip.stopCommands (c : Chip) : Chip :=
  let slots := (c.eng.prime.map (·.1)).toList ++ c.eng.idleCmds ++ (c.dma.xfers.filter fun x => x.opcode == 0x06).map (·.slot)
  let c := match c.eng.sleepFor with | some (slot, _) => c.emit (.amend slot Rc.SAFE_STOPPED) | none => c
  let c := c.updEng fun x => { x with prime := none, calDone := false, idleCmds := [], sleepFor := none }
  (c.each slots fun k c => c.result k Rc.SAFE_STOPPED).stopReplay

/-- EMITTER_CALIBRATE commands that run complete with SAFE_STOPPED; one that waited for them starts in SAFE_STOP, where it is not accepted (R240, R242, R404, R407). -/
def Chip.stopCalibration (c : Chip) (now : Nat) : Chip :=
  let running := (c.eng.calJobs.filter fun (j : CalJob) => !j.prime).map (·.slot)
  let waiting := c.eng.calWait.map (·.1)
  ((c.calAbort now).each running fun k c => c.result k Rc.SAFE_STOPPED).each waiting fun k c => c.result k Rc.ERR_STATE St.safeStop

/-- The lowest line of a page's first station in a sweep that had not ended when the lasers went off: of a tile blanked at a sweep boundary, in a sweep from there on (R389, R393). [DESIGN CHOICE: log 57, 108] -/
def Chip.firstOpenLine (c : Chip) (p : Page) : Option Nat :=
  let open_ (t : Nat) (k : Plan) : Bool := match c.safety.blanked.find? fun b => b.1 == t with
    | some b => decide (0 ≤ sweepDist k.sweep b.2)
    | none => true
  let ls := (c.tilesOf p.firstStn).flatMap fun t => ((c.tile t).plans.filter (open_ t)).flatMap fun (k : Plan) =>
    (k.lines.filter fun l => l.page == p.seq).map (·.line)
  ls.foldl (fun (b : Option Nat) n => match b with
    | none => some n
    | some m => some (min m n)) none

/-- A running page ends at once at a stop: its cut, the line at which blanking began and its record (R389). [DESIGN CHOICE: log 104] -/
def Chip.stopPage (c : Chip) (now cause : Nat) (p : Page) : Chip :=
  let c := c.updPage p.seq fun q =>
    if q.cut.isSome then q else { q with cut := some (q.cutFor false), cutCause := cause, cutStation := 0 }
  let c := (c.logCuts now).endLimits p
  match c.pageOf p.seq with
  | none => c
  | some q =>
    let line := q.cutLine (q.cut.getD 0)
    c.finishPage q Rc.ABORTED (q.endDetail (min line ((c.firstOpenLine q).getD line)))

/-- The running pages and the chain end at a stop (R151, R389). [DESIGN CHOICE: log 104] -/
def Chip.stopPages (c : Chip) (now cause : Nat) : Chip :=
  let c := c.running.foldl (fun (c : Chip) p => c.stopPage now cause p) c
  (c.restLanes.breakChain 4).chainDone

/-- What every entry into SAFE_STOP does before its STATE_CHANGE record: commands, lasers, pages, axes (R36, R382, R385, R389, R407). [DESIGN CHOICE: log 104] -/
def Chip.stopAll (c : Chip) (now pageCause : Nat) : Chip :=
  let c := (c.stopCommands.stopCalibration now).stopInjection Rc.SAFE_STOPPED
  let c := (c.arm now false).killAll now 2
  let c := c.stopPages now pageCause
  let c := (c.updEng fun x => { x with stopping := true, thermalPending := false }).updWl fun x => { x with owned := false }
  let c := (c.updSafety fun x => { x with blanking := none, blanked := [] }).emit .sealed
  c.stopDrives.mulesSafeStop

/-- A trigger into SAFE_STOP (R33): from any state but SLEEP and SAFE_STOP; the page's abort cause and the cause of the STATE_CHANGE are the trigger's. [DESIGN CHOICE: log 104] -/
def Chip.safeStop (c : Chip) (now why pageCause : Nat) : Chip :=
  if c.state = St.sleep ∨ c.state = St.safeStop ∨ c.eng.down then c
  else ((c.stopAll now pageCause).enter St.safeStop why).refreshLoads

/-- SAFE_STOP (R410). -/
def Chip.safeStopCommand (c : Chip) (now : Nat) (e : JEntry) : Chip :=
  if c.state = St.safeStop then c.result e.slot Rc.OK
  else ((c.started e.slot).safeStop now Why.safeStop 8).result e.slot Rc.OK

/-- PAGE_END: the belt has carried the end of a running page, the first of them to be so, past its last station; a chain with no page left ends (R151, R155, R393). -/
def Chip.pageEnd (c : Chip) (now : Nat) : Chip :=
  match c.running.find? fun p => beltAtOrAfter c.beltPos p.endAt with
  | none => c
  | some p =>
    let c := c.endPage p
    match c.lastJoined with
    | some _ => c.driveBelt now
    | none =>
      let c := (c.closeChain 2).chainDone
      if c.eng.thermalPending then c.safeStop now Why.thermalStop 7
      else (c.enter St.primed Why.chainEnd).driveBelt now

/-- DETAIL of INTERLOCK_OPEN and ILK_DISCREPANCY (R401). [DESIGN CHOICE: log 105] -/
def Chip.ilkDetail (c : Chip) (state : Nat) : Nat :=
  b2n (!c.flag Fld.SAFETY_STATUS_ILK_A) + b2n (!c.flag Fld.SAFETY_STATUS_ILK_B) * 2 + state * 16

/-- The two inputs begin or cease to differ (R387). [DESIGN CHOICE: log 105] -/
def Chip.watchIlk (c : Chip) (now : Nat) : Chip :=
  let differ := c.flag Fld.SAFETY_STATUS_ILK_A != c.flag Fld.SAFETY_STATUS_ILK_B
  c.updSafety fun x => { x with differSince := if differ then some (x.differSince.getD now) else none }

/-- ILK_OPEN: an interlock input counts as open (R35, R386). `rebuilt` is the engine time of the opening while the fast clocks stand still (R29). -/
def Chip.ilkOpen (c : Chip) (now rebuilt : Nat) (chB : Bool) : Chip :=
  let f := if chB then Fld.SAFETY_STATUS_ILK_B else Fld.SAFETY_STATUS_ILK_A
  if !c.flag f then c else
  let c := (((c.setFlag f false).refreshCut now).ilkKill now).watchIlk now
  if !c.fast then
    match c.eng.ilkLatch with
    | some _ => c
    | none => c.updEng fun x => { x with ilkLatch := some (rebuilt, c.ilkDetail 0, c.state) }
  else
    let c := (c.raise Ev.SAFETY_EVENT_INTERLOCK_OPEN).event Rc.INTERLOCK_OPEN 0 (c.ilkDetail c.state)
    if c.state = St.primed ∨ c.state = St.printing then c.safeStop now Why.interlock 9 else c

/-- ILK_CLOSE: an interlock input counts as closed again (R386). -/
def Chip.ilkClose (c : Chip) (now : Nat) (chB : Bool) : Chip :=
  ((c.setFlag (if chB then Fld.SAFETY_STATUS_ILK_B else Fld.SAFETY_STATUS_ILK_A) true).refreshCut now).watchIlk now

/-- ILK_DISCREPANCY: the inputs have differed for 100 ms (R387). [DESIGN CHOICE: log 105] -/
def Chip.ilkDiscrepancy (c : Chip) (now : Nat) : Chip :=
  match c.safety.differSince with
  | none => c
  | some t =>
    if now < t + 100000000 ∨ c.flag Fld.SAFETY_STATUS_ILK_DISC ∨ !c.fast then c
    else
      let c := (((c.setFlag Fld.SAFETY_STATUS_ILK_DISC true).refreshCut now).ilkKill now).raise Ev.SAFETY_EVENT_ILK_DISCREPANCY
      (c.event Rc.ILK_DISCREPANCY 0 (c.ilkDetail c.state)).safeStop now Why.discrepancy 8

/-- A write of CLEAR to SAFETY.ILK_CLEAR (R387). -/
def Chip.ilkClear (c : Chip) (now : Nat) : Chip :=
  if c.flag Fld.SAFETY_STATUS_ILK_A && c.flag Fld.SAFETY_STATUS_ILK_B then (c.setFlag Fld.SAFETY_STATUS_ILK_DISC false).refreshCut now else c

/-- The tables' learned entries that no master copy holds are lost with imaging SRAM (R24, R364). [DESIGN CHOICE: log 111] -/
def Chip.dropLearned (c : Chip) : Chip :=
  let l := c.wl.unsaved
  let c := c.each l fun (e : Host.Cell) c => c.setTabBytes true e.1 [e.2]
  c.updWl fun w => { w with unsaved := [] }

/-- Imaging SRAM loses its contents: learned entries not copied, band buffers, line contexts, capture regions and the Sump ring; held context slots keep their lines, which the spec leaves open (R24, R27, R183, R382, R482). [DESIGN CHOICE: log 106, 111] -/
def Chip.loseImaging (c : Chip) : Chip :=
  let c := { c with
    lanes := c.lanes.map fun (_ : Lane) => {}
    tiles := c.tiles.map fun (x : Tile) => { x with history := [], plans := [] } }
  let c := (c.dropLearned.updWl fun x => { x with cap := [] }).updSeam fun x => { x with capture := [] }
  c.updSump fun x => { x with open_ := [], closed := [], openBytes := 0, closedBytes := 0, streamed := x.nextSeq }

/-- MAIN_LOSS: main loss is declared; one declared in SLEEP only sets the cut path, and a wake with the main supply still absent declares none anew: the engine stays in AWAKE with the cut set and without a MAIN_LOSS record, which R38 leaves open (R38, R380 to R382, R401). [DESIGN CHOICE: log 106] -/
def Chip.mainLoss (c : Chip) (now : Nat) (pfail aonLow : Bool) (vback : Nat) : Chip :=
  let c := (c.setFlag Fld.POWER_STATUS_MAIN_OK false).setFld Fld.POWER_STATUS_VBACK vback
  if c.safety.mainLost then c
  else
    let c := c.updSafety fun x => { x with mainLost := true, lossAt := now, mainSince := none }
    let c := c.refreshCut now
    if !c.fast then c
    else
      let c := (c.emit .loseHeld).emit (.stopArea true)
      let c := (c.raise Ev.SAFETY_EVENT_MAIN_LOSS).event Rc.MAIN_LOSS 0 (b2n pfail + b2n aonLow * 2 + vback * 65536)
      let c := (c.setFlag Fld.POWER_STATUS_HOLDUP true).pin "VHOLD" 0 1
      let c := (c.safeStop now Why.mainLoss 8).updEng fun x => { x with stopping := true, shed := true }
      ((c.each (List.range 64) fun t c => c.linkOff t).loseImaging.emit .sealed).refreshLoads

/-- VBACK_SWITCHOVER: the Wellhead runs from VBACK, or from VMAIN_AON again (R379). [DESIGN CHOICE: log 106] -/
def Chip.switchover (c : Chip) (toVback : Bool) : Chip :=
  (c.setFlag Fld.GLOBAL_STATUS_VBACK_ACTIVE toVback).setFlag Fld.POWER_STATUS_VBACK_ACTIVE toVback

/-- MAIN_RETURN: main is present again (R383, R396). [DESIGN CHOICE: log 106] -/
def Chip.mainReturn (c : Chip) (now : Nat) : Chip :=
  let c := c.setFlag Fld.POWER_STATUS_MAIN_OK true
  if c.safety.mainLost then
    (c.updSafety fun x => { x with mainLost := false, mainSince := some now }).refreshCut now
  else c

/-- VHOLD turns off once main has been present for 1 ms (R383). [DESIGN CHOICE: log 106] -/
def Chip.holdOff (c : Chip) (now : Nat) : Chip :=
  if c.flag Fld.POWER_STATUS_HOLDUP && !c.safety.mainLost && c.safety.mainSince.any fun t => decide (t + 1000000 ≤ now) then
    (c.setFlag Fld.POWER_STATUS_HOLDUP false).pin "VHOLD" 0 0
  else c

/-- Every drive axis coasts: outputs low (R382, R394). -/
def Chip.coastDrives (c : Chip) : Chip :=
  c.each (List.range 12) fun a c =>
    if c.driveState a = Ds.fault ∨ c.driveState a = Ds.disabled then c else (c.driveStopped a).pin "DRV" a 0

/-- HOLDUP_END: hold-up ends 600 ms after main loss; axes coast, outputs go low, and the device beside the Wellhead is unpowered (R349, R382). [DESIGN CHOICE: log 106] -/
def Chip.holdupEnd (c : Chip) (now : Nat) : Chip :=
  if !c.flag Fld.POWER_STATUS_HOLDUP || !c.safety.mainLost || decide (now < c.safety.lossAt + 600000000) then c
  else
    let c := c.coastDrives.mulesOff
    let c := (c.setFlag Fld.POWER_STATUS_HOLDUP false).pin "VHOLD" 0 0
    (c.updEng fun x => { x with stopping := false, down := true }).refreshLoads

/-- DISCHARGE_CHECK: 100 ms after HV_EN went low (R388). [DESIGN CHOICE: log 110] -/
def Chip.dischargeCheck (c : Chip) (now : Nat) : Chip :=
  match c.safety.dischargeFrom with
  | none => c
  | some t =>
    if now < t + 100000000 ∨ !c.fast then c
    else
      let bad := (List.range 24).filter fun k => !c.discharged k
      let c := (c.updSafety fun x => { x with dischargeFrom := none, dischargeFailed := !bad.isEmpty }).judgeDischarge
      if bad.isEmpty then c
      else
        let c := (c.raise Ev.SAFETY_EVENT_HV_DISCHARGE_FAIL).event Rc.HV_DISCHARGE_FAIL 0 (maskWhere 24 bad.contains)
        c.safeStop now Why.discharge 8

/-- The conditions that end a stop sequence (R382). -/
def Chip.stopFinished (c : Chip) : Bool :=
  c.eng.stopping && !c.safety.mainLost
    && (List.range 12).all (fun a => c.driveState a == Ds.disabled || c.driveState a == Ds.fault)
    && (List.range 16).all (fun m => (c.mule m).kind == 0)
    && (c.flag Fld.SAFETY_STATUS_DCHG_OK || c.safety.dischargeFailed)

/-- STOP_SEQUENCE_FINISHED: the stop has ended; after main loss the shed loads are restored as for a wake (R382, R383). -/
def Chip.stopSequenceFinished (c : Chip) (now : Nat) : Chip :=
  if !c.stopFinished then c
  else
    let c := c.updEng fun x => { x with stopping := false }
    if !c.eng.shed then c
    else
      (c.updEng fun x => { x with shed := false, starting := true, wake := true, rebuilding := false, start0 := now, m0 := none }).trainAll now

/-- VBACK_LOW: a reading of VBACK below MIN_RUN in PRIMED or PRINTING (R384). -/
def Chip.readVback (c : Chip) (vback : Nat) : Chip :=
  let c := c.setFld Fld.POWER_STATUS_VBACK vback
  let low := decide (vback < c.fld Fld.POWER_VBACK_MIN_MIN_RUN)
  let was := c.safety.vbackLow
  let c := c.updSafety fun x => { x with vbackLow := low }
  if low && !was && (c.state == St.primed || c.state == St.printing) then
    (c.raise Ev.SAFETY_EVENT_VBACK_LOW).event Rc.VBACK_LOW 0 vback
  else c

/-- VBACK_FAILED: below 0.90 V with main absent the Wellhead is unpowered and retention is lost (R379). [DESIGN CHOICE: log 106] -/
def Chip.vbackFailed (c : Chip) : Chip :=
  if c.safety.mainLost then c.updEng fun x => { x with coldNext := true, down := true, stopping := false } else c

/-- BROWN_OUT: a rail of groups 2 to 4 has fallen below its threshold (R378). [DESIGN CHOICE: log 106] -/
def Chip.brownOut (c : Chip) (now : Nat) : Chip :=
  if c.eng.down then c
  else
    let c := (c.updSafety fun x => { x with brown := true }).refreshCut now
    let c := c.raise Ev.SAFETY_EVENT_BROWN_OUT
    let c := c.each (List.range 12) fun a c => c.pin "DRV" a 0
    let c := c.each (List.range 16) fun m c => c.pin "CB_SETPOINT" m 0
    (c.updEng fun x => { x with down := true }).refreshLoads

/-- REF_CLOCK_LOST (R22, R286). -/
def Chip.refClockLost (c : Chip) (now : Nat) : Chip :=
  if !c.fast || c.eng.refLost then c
  else
    let c := (c.updEng fun x => { x with refLost := true, refHeld := true }).event Rc.REF_CLOCK_LOST 0 c.state
    let c := c.each (List.range 8) fun g c => c.dllLost now g 2
    c.safeStop now Why.refLost 8

/-- REF_RESTORED (R22). -/
def Chip.refRestored (c : Chip) : Chip := if c.fast then c.updEng fun x => { x with refLost := false, refHeld := false } else c

/-- Both core pairs have failed (R453, R454). [DESIGN CHOICE: log 44] -/
def Chip.coresFail (c : Chip) (now : Nat) : Chip :=
  let c := c.updEng fun x => { x with coresFailed := true, standby := false }
  let c := (c.event Rc.CORE_FAILOVER 0 (5 + c.eng.activePair * 16)).safeStop now Why.cores 8
  c.emit .sealed

/-- 118 °C in 1/16 °C (R392). -/
def tripTemp : Int := 1888

/-- The time until the belt has covered a distance, in ns; none when it does not move towards it (R393). [DESIGN CHOICE: log 108] -/
def Chip.beltTime (c : Chip) (goal : Nat) : Option Nat :=
  let d := beltDist goal c.beltPos
  if d ≤ 0 then some 0
  else if c.beltRate ≤ 0 then none
  else some ((d * 65536 * 1000000000 / c.beltRate).toNat)

/-- A time limit is longer than a time; `none` is unbounded (R393). [DESIGN CHOICE: log 108] -/
def longer : Option Nat → Option Nat → Bool
  | none, some _ => true
  | some a, some b => decide (b < a)
  | _, none => false

/-- The longest of some times. [DESIGN CHOICE: log 108] -/
def latest (l : List (Option Nat)) : Option Nat :=
  l.foldl (fun (a : Option Nat) b => match a, b with
    | some x, some y => some (max x y)
    | _, _ => none) (some 0)

/-- The position at which a page ends if it is cut as an abort would cut it now (R154, R393). [DESIGN CHOICE: log 108] -/
def Page.cutEnd (p : Page) : Nat := beltAdd (p.cut.getD (p.cutFor false)) ((p.lastOffset : Int) - p.firstOffset)

/-- DETAIL of the thermal records (R401). [DESIGN CHOICE: log 108] -/
def Chip.thermalDetail (c : Chip) (cause outcome : Nat) : Nat :=
  c.fld Fld.THERMAL_MAX_TEMP + c.fld Fld.THERMAL_MAX_SENSOR * 2 ^ 16 + cause * 2 ^ 20 + outcome * 2 ^ 24

/-- The THERMAL_STOP record and its event bit (R392). -/
def Chip.thermalRecord (c : Chip) (cause outcome : Nat) : Chip :=
  (c.raise Ev.SAFETY_EVENT_THERMAL_STOP).event Rc.THERMAL_STOP 0 (c.thermalDetail cause outcome)

/-- The orderly thermal stop with its cause and the time to the trip limit (R393). [DESIGN CHOICE: log 108] -/
def Chip.thermalStop (c : Chip) (now cause : Nat) (limit : Option Nat) : Chip :=
  if c.state = St.sleep ∨ c.eng.down ∨ c.eng.thermalPending then c
  else
    match c.running with
    | [] => (c.thermalRecord cause 1).safeStop now Why.thermalStop 7
    | ps =>
      if longer limit (latest (ps.map fun p => c.beltTime p.endAt)) then
        ((c.thermalRecord cause 2).breakChain 4).updEng fun x => { x with thermalPending := true }
      else if longer limit (latest (ps.map fun p => c.beltTime p.cutEnd)) then
        ((c.thermalRecord cause 3).abortAll 7).updEng fun x => { x with thermalPending := true }
      else ((c.thermalRecord cause 4).updEng fun x => { x with thermalPending := true }).updSafety fun x => { x with
        blanking := some ((List.range 64).filter c.planning) }

/-- An orderly thermal stop whose tiles have all blanked at a sweep boundary enters SAFE_STOP, and the page ends (R389, R393). [DESIGN CHOICE: log 108] -/
def Chip.blankedStop (c : Chip) (now : Nat) : Chip :=
  if c.safety.blanking.any fun l => !(l.any c.planning) then c.safeStop now Why.thermalStop 7 else c

/-- The thermal trip (R394). [DESIGN CHOICE: log 108] -/
def Chip.thermalTrip (c : Chip) (now : Nat) : Chip :=
  let c := (c.setFlag Fld.SAFETY_STATUS_TRIP true).refreshCut now
  let c := (c.raise Ev.SAFETY_EVENT_THERMAL_TRIP).event Rc.THERMAL_TRIP 0 (c.thermalDetail 1 5)
  let c := c.safeStop now Why.thermalTrip 7
  c.coastDrives.mulesOff.refreshLoads

/-- A die reading in 1/16 °C. -/
def Chip.dieTemp (c : Chip) (i : Nat) : Int := c.fldS (Fld.THERMAL_DIE_TEMP i)

/-- A sensor is left out of the maximum (R391). [DESIGN CHOICE: log 107] -/
def Chip.suspect (c : Chip) (i : Nat) : Bool := c.flag (Fld.THERMAL_DIE_SUSPECT i)

/-- One sensor against the mean of its non-suspect neighbours: the new runs and whether it is SUSPECT (R391). `suspects` are those of the reading before. [DESIGN CHOICE: log 107] -/
def Chip.judgeSensor (c : Chip) (suspects : List Nat) (i : Nat) : Chip :=
  let ns := [(i + 11) % 12, (i + 1) % 12].filter fun k => !suspects.contains k
  if ns.isEmpty then c
  else
    let d := (c.dieTemp i * ns.length - sumI (ns.map c.dieTemp)).natAbs
    let far := decide (128 * ns.length < d)
    let near := decide (d ≤ 64 * ns.length)
    let dev := if far then c.safety.devRun.getD i 0 + 1 else 0
    let good := if near then c.safety.okRun.getD i 0 + 1 else 0
    let was := suspects.contains i
    let now := if was then decide (good < 1000) else decide (16 ≤ dev)
    let c := c.updSafety fun x => { x with
      devRun := updAt x.devRun i fun _ => if now then 0 else dev
      okRun := updAt x.okRun i fun _ => if now then good else 0 }
    if was = now then c
    else ((c.setFlag (Fld.THERMAL_DIE_SUSPECT i) now).raise Ev.SAFETY_EVENT_SENSOR_SUSPECT).event Rc.SENSOR_SUSPECT 0 (i + b2n now * 256)

/-- T and the sensor that holds it, the lowest-numbered one of several (R392); none while every sensor is SUSPECT. [DESIGN CHOICE: log 107] -/
def Chip.hottest (c : Chip) : Option (Int × Nat) :=
  ((List.range 12).filter fun i => !c.suspect i).foldl (fun (b : Option (Int × Nat)) i =>
    let v := c.dieTemp i
    match b with
    | none => some (v, i)
    | some (m, k) => if m < v then some (v, i) else some (m, k)) none

/-- T and its slope over the last second (R392). -/
def Chip.showMax (c : Chip) : Chip :=
  match c.hottest with
  | none => c
  | some (v, i) =>
    let c := c.updSafety fun x => { x with history := (v :: x.history).take 1001 }
    let c := (c.setFldS Fld.THERMAL_MAX_TEMP v).setFld Fld.THERMAL_MAX_SENSOR i
    c.setFldS Fld.THERMAL_MAX_RATE (satS 12 (match c.safety.history[1000]? with
      | some w => v - w
      | none => 0))

/-- The cause of an orderly thermal stop that holds now: level, rate, suspect sensors; 0 for none (R392). [DESIGN CHOICE: log 107] -/
def Chip.stopCause (c : Chip) : Nat :=
  if (16 * c.fld Fld.THERMAL_CFG_STOP : Int) ≤ c.fldS Fld.THERMAL_MAX_TEMP then 1
  else if (16 * c.fld Fld.THERMAL_CFG_RATE_DIE : Int) < 10 * c.fldS Fld.THERMAL_MAX_RATE then 2
  else if 4 ≤ countBelow 12 c.suspect then 3 else 0

/-- The time to the trip limit in ns (R393). [DESIGN CHOICE: log 107] -/
def Chip.tripLimit (c : Chip) (cause : Nat) : Option Nat :=
  let r := c.fldS Fld.THERMAL_MAX_RATE
  if cause = 3 then some 0
  else if 0 < r then some (((tripTemp - c.fldS Fld.THERMAL_MAX_TEMP) * 1000000000 / r).toNat)
  else none

/-- THERMAL_WARN once per crossing (R392). [DESIGN CHOICE: log 107] -/
def Chip.judgeWarn (c : Chip) : Chip :=
  let hot := decide ((16 * c.fld Fld.THERMAL_CFG_WARN : Int) ≤ c.fldS Fld.THERMAL_MAX_TEMP)
  let was := c.safety.warned
  let c := c.updSafety fun x => { x with warned := hot }
  if hot && !was then (c.raise Ev.SAFETY_EVENT_THERMAL_WARN).event Rc.THERMAL_WARN 0 (c.thermalDetail 1 0) else c

/-- What T, its rate and the suspect sensors ask for: trip, orderly stop or nothing (R392 to R394). A stop is asked once while its cause persists, and again whenever the engine has left SAFE_STOP meanwhile. [DESIGN CHOICE: log 107] -/
def Chip.judgeThermal (c : Chip) (now : Nat) : Chip :=
  let cause := c.stopCause
  let was := c.safety.stopped
  let c := c.updSafety fun x => { x with stopped := cause != 0 }
  if tripTemp ≤ c.fldS Fld.THERMAL_MAX_TEMP then
    (if c.flag Fld.SAFETY_STATUS_TRIP then c else c.thermalTrip now)
  else if cause ≠ 0 ∧ (!was ∨ c.state ≠ St.safeStop) then c.thermalStop now cause (c.tripLimit cause)
  else c

/-- DIE_TEMP_READ: the 1 ms reading of the die sensors (R391 to R394, R473). -/
def Chip.dieTempRead (c : Chip) (now : Nat) (temps : List Nat) : Chip :=
  if !c.fast then c
  else
    let suspects := (List.range 12).filter c.suspect
    let c := c.each (List.range 12) fun i c =>
      let v := temps.getD i 0
      (c.setFld (Fld.THERMAL_DIE_TEMP i) v).sumpRec (some 6) 0x07 i now [BitVec.ofInt 32 (signed 16 v)]
    let c := c.each (List.range 12) fun i c => c.judgeSensor suspects i
    (c.showMax.judgeWarn).judgeThermal now

/-- A thermistor reading in 1/65,536 °C. -/
def Chip.thermistor (c : Chip) (i : Nat) : Int := F32.floorScaled (c.reg (Reg.WINDLASS_SADC (16 + i))) 16

/-- A thermistor rises faster than its TH_RATE over 1 s (R395). [DESIGN CHOICE: log 109] -/
def Chip.risingFast (c : Chip) (i : Nat) : Bool :=
  match c.safety.thHist.getD i [] with
  | [] => false
  | (t, v) :: l => l.any fun x =>
    decide (x.1 + 1000000000 ≤ t) && decide ((c.fld (Fld.THERMAL_TH_RATE_RATE i) : Int) * 65536 * (t - x.1 : Nat) < (v - x.2) * 1000000000)

/-- The records that the conditions of R395 give a pair after a conversion of thermistor i, for those of its thermistors that have been read: event bit, code, thermistor. [DESIGN CHOICE: log 109] -/
def Chip.pairConditions (c : Chip) (p i : Nat) : List ((Nat × Nat) × Nat × Nat) :=
  let both := [2 * p, 2 * p + 1].filter fun k => !(c.safety.thHist.getD k []).isEmpty
  let hot := both.find? fun k => decide ((c.fld (Fld.THERMAL_FUSER_LIM_T_MAX p) : Int) * 65536 < c.thermistor k) || c.risingFast k
  let wide := both.length == 2 && decide (c.fld (Fld.THERMAL_FUSER_LIM_PAIR_TOL p) * 65536 < (c.thermistor (2 * p) - c.thermistor (2 * p + 1)).natAbs)
  let out := both.find? fun k => decide (c.thermistor k < -20 * 65536) || decide (400 * 65536 < c.thermistor k)
  (hot.map fun k => (Ev.SAFETY_EVENT_FUSER_OVERTEMP, Rc.FUSER_OVERTEMP, k)).toList
    ++ (if wide then [(Ev.SAFETY_EVENT_TH_PAIR_MISMATCH, Rc.TH_PAIR_MISMATCH, i)] else [])
    ++ (out.map fun k => (Ev.SAFETY_EVENT_TH_FAULT, Rc.TH_FAULT, k)).toList

/-- A pair has an enabled zone (R395). [DESIGN CHOICE: log 109] -/
def Chip.pairOn (c : Chip) (p : Nat) : Bool := c.flag (Fld.WINDLASS_FUSER_CFG_EN (2 * p)) || c.flag (Fld.WINDLASS_FUSER_CFG_EN (2 * p + 1))

/-- A thermistor reading in whole °C, saturating in 8 bits (R401). [DESIGN CHOICE: log 109] -/
def Chip.thermistorByte (c : Chip) (k : Nat) : Nat := (clampI 0 255 (c.thermistor k / 65536)).toNat

/-- The check of every thermistor conversion: the zones of the pair are forced off, with a record for each condition and an orderly stop (R395). [DESIGN CHOICE: log 109] -/
def Chip.judgePair (c : Chip) (now i : Nat) : Chip :=
  let v := c.thermistor i
  let c := c.updSafety fun x => { x with thHist := updAt x.thHist i fun l =>
    let keep := l.takeWhile fun y => decide (now < y.1 + 1000000000)
    (now, v) :: keep ++ (l.drop keep.length).take 1 }
  let p := i / 2
  let l := c.pairConditions p i
  if l.isEmpty || c.safety.forced.getD p false then c
  else
    let c := (c.updSafety fun x => { x with forced := updAt x.forced p fun _ => true }).refreshLoads
    let c := c.each l fun y c => (c.raise y.1).event y.2.1 0 (y.2.2 + c.thermistorByte y.2.2 * 256)
    c.thermalStop now 4 none

/-- SLOW_ADC_CONVERSION: the converted channel, the follow demand and the fuser check (R358, R361, R395). -/
def Chip.slowAdcConversion (c : Chip) (now code : Nat) : Chip :=
  let ch := c.wl.adc
  let c := (c.slowAdc now code).followAdc now ch
  if 16 ≤ ch then c.judgePair now (ch - 16) else c

/-- A pair with an enabled zone for which a condition persists (R395, R411). [DESIGN CHOICE: log 109] -/
def Chip.fuserCondition (c : Chip) : Option Nat := (List.range 4).find? fun p => c.pairOn p && !(c.pairConditions p (2 * p)).isEmpty

/-- What keeps the engine in SAFE_STOP (R396, R471). [DESIGN CHOICE: log 129] -/
def Chip.heldInStop (c : Chip) (now : Nat) : Bool :=
  !c.flag Fld.SAFETY_STATUS_ILK_A || !c.flag Fld.SAFETY_STATUS_ILK_B || c.flag Fld.SAFETY_STATUS_ILK_DISC
    || c.safety.mainLost || c.safety.mainSince.any (fun t => decide (now < t + 100000000))
    || !c.flag Fld.SAFETY_STATUS_DCHG_OK || decide (95 * 16 ≤ c.fldS Fld.THERMAL_MAX_TEMP)
    || ((List.range 4).any fun p => !(c.pairConditions p (2 * p)).isEmpty) || c.eng.refLost || c.eng.stopping || c.eng.starting

end Sys2Proof.Machine
end

