-- ==== Sys2Proof/Machine/Image.lean ====
section
/-! DEFINITION. Image channels: which page each carries, what a burst moves, halts and retries (R98, R121, R122, R125, R126, R152, R160).
-/
namespace Sys2Proof.Machine

/-- A channel has work: its page runs uncut and descriptors remain (R154, R157). -/
def Chip.imgWorks (c : Chip) (s : Nat) : Bool :=
  let k := c.img s
  (k.page.bind c.pageOf).any (fun p => p.cut.isNone) && decide (k.index < k.descs.length)

/-- A channel that is done with its page, or whose page is cut while nothing of it is in flight, takes the next running page of its station in arming order (R141, R157). [DESIGN CHOICE: log 48] -/
def Chip.feedChannel (c : Chip) (s : Nat) : Chip :=
  let k := c.img s
  let stale : Bool := match k.page with
    | none => false
    | some q => !k.halted && k.inFlight.isNone && !(c.pageOf q).any fun p => p.cut.isNone
  let c := if stale then (c.updImg s fun k => { past := max k.past (k.page.getD 0) }).showImg s else c
  let k := c.img s
  if k.page.isSome then c
  else
    match c.running.find? fun p => p.cut.isNone && decide (k.past < p.seq) && p.stns.any fun x => x.station == s with
    | none => c
    | some p =>
      match p.stns.find? fun x => x.station == s with
      | none => c
      | some x => (c.updImg s fun k => { past := k.past, page := some p.seq, descs := x.descs }).showImg s

/-- Every image channel takes up what it may. -/
def Chip.feedChannels (c : Chip) : Chip := c.each (List.range 8) fun s c => c.feedChannel s

/-- The port of the work of an image channel. -/
def Chip.imgPort (c : Chip) (s : Nat) : Option Port := ((c.img s).page.bind c.pageOf).map fun p => c.owner p.part

/-- An image channel is ready for a grant (R98, R123, R126). -/
def Chip.imgReady (c : Chip) (q : Port) (s : Nat) : Bool :=
  let k := c.img s
  c.imgWorks s && !k.halted && k.inFlight.isNone && k.retryAt.isNone && c.imgPort s == some q && !c.portDown q

/-- The next burst of an image channel: at most 256 bytes, ending with its descriptor or at a 4 KiB boundary, read through its locked translation (R86, R122). [DESIGN CHOICE: log 46] -/
def Chip.imgBurst (c : Chip) (q : Port) (s : Nat) : Chip :=
  let k := c.img s
  match k.page.bind c.pageOf, k.desc with
  | some p, some d =>
    let a := d.addr + k.done
    let n := min 256 (min (d.len - k.done) (4096 - a % 4096))
    match c.lockedLeaf p.part a with
    | none => c
    | some l => (c.updImg s fun k => { k with inFlight := some n }).sendRead q (l.host + a % pageSize l.level) n true
  | _, _ => c

/-- A halt of an image channel with its cause: HALT, DMA_HALT, and the abort of its page (R98, R126, R152). [DESIGN CHOICE: log 48] -/
def Chip.imgHalt (c : Chip) (s cause abort : Nat) : Chip :=
  let k := c.img s
  match k.page with
  | none => c
  | some q =>
    let a := match k.desc with | some d => d.addr + k.done | none => 0
    let c := (c.updImg s fun k => { k with halted := true, retryAt := none, inFlight := none }).setFld (Fld.DMA_CHAN_STATUS_STATE s) 4
    let c := (c.setFld (Fld.DMA_IMG_STATUS_HALT_CAUSE s) cause).raise (Reg.DMA_IMG_EVENT, s)
    (c.event Rc.DMA_HALT a s).abortPage q abort s true

/-- The data of an image burst: it enters the lane's input, and the channel goes on to the next byte, descriptor or page (R125, R160). -/
def Chip.imgData (c : Chip) (s : Nat) (data : List Byte) : Chip :=
  let k := c.img s
  match k.page, k.desc with
  | some q, some d =>
    let c := c.updLane s fun l =>
      let had := (l.input.find? fun e => e.1 == q).elim [] (·.2)
      { l with input := (l.input.filter fun e => e.1 != q) ++ [(q, had ++ data)] }
    let done := k.done + data.length
    let full := decide (d.len ≤ done)
    let isLast := full && decide (k.descs.length ≤ k.index + 1)
    let c := c.updImg s fun k =>
      if isLast then { past := max k.past q }
      else { k with inFlight := none, tries := 0, done := if full then 0 else done, index := if full then k.index + 1 else k.index }
    (c.showImg s).feedChannel s
  | _, _ => c

/-- A failed image burst: it waits 1 µs for its retry, or the channel halts when none is left (R126). [DESIGN CHOICE: log 48] -/
def Chip.imgFailed (c : Chip) (now s : Nat) : Chip :=
  let c := match c.imgPort s with | some q => c.noteBusError q | none => c
  if c.fld Fld.DMA_IMG_RETRY_COUNT ≤ (c.img s).tries then c.imgHalt s 1 2
  else c.updImg s fun k => { k with inFlight := none, retryAt := some (now + 1000) }

/-- The end of an image burst. Bytes for a page that has been cut meanwhile are dropped. [DESIGN CHOICE: log 46] -/
def Chip.imgComplete (c : Chip) (now s : Nat) (r : Burst) : Chip :=
  match (c.img s).inFlight with
  | none => c
  | some n =>
    if !c.imgWorks s then (c.updImg s fun k => { k with inFlight := none }).feedChannel s
    else
      match r with
      | .ok data => if data.length = n then c.imgData s data else c.imgFailed now s
      | .busError => c.imgFailed now s

/-- Stations of running pages whose first undecoded line is due no later than the send horizon: the decoder is behind (R152). -/
def Chip.behind (c : Chip) : List (Nat × Nat × Page) :=
  (c.running.filter fun p => p.cut.isNone).flatMap fun p =>
    (List.range p.stns.length).filterMap fun i =>
      match p.stns[i]? with
      | some x =>
        let n := p.decoded.getD i 0
        if n < p.lines ∧ beltAtOrAfter p.horizon (p.due x.station n) then some (x.station, n, p) else none
      | none => none

/-- A decoder that falls behind while its port is down or its channel retries ends the page (R98, R126, R152). -/
def Chip.checkBehind (c : Chip) : Chip :=
  c.behind.foldl (fun (c : Chip) x =>
    let (s, _, p) := x
    let k := c.img s
    if k.page ≠ some p.seq ∨ k.halted then c
    else if c.portDown (c.owner p.part) then c.imgHalt s 3 4
    else if k.retryAt.isSome ∨ k.tries ≠ 0 then c.imgHalt s 2 2
    else c) c

/-- IMAGE_BURST_RETRY: a failed burst may be issued again (R126). [DESIGN CHOICE: log 48] -/
def Chip.imgRetry (c : Chip) (now s : Nat) : Chip :=
  match (c.img s).retryAt with
  | none => c
  | some t =>
    if now < t then c
    else
      let c := c.checkBehind
      if (c.img s).halted then c
      else
        let c := c.updImg s fun k => { k with retryAt := none, tries := k.tries + 1 }
        (c.bump (Fld.DMA_IMG_STATUS_RETRIES s)).raise (Reg.DMA_IMG_EVENT, 8 + s)

end Sys2Proof.Machine
end

