-- ==== Sys2Proof/Machine/Dma.lean ====
section
/-! DEFINITION. The DMA engine: the arbiter of a port, the ring channels, and service descriptors (R102, R108, R114, R116, R118, R121 to R124, R127 to R129).
-/
namespace Sys2Proof.Machine

/-- A switch of a table instance is scheduled and has not happened (R58). -/
def Chip.tableScheduled (c : Chip) (inst : Nat) : Bool :=
  c.txn.commits.any fun (m : Commit) => m.entries.contains (.table inst) && m.left.contains (tableUnit inst)
    && (m.slotsLeft.isEmpty || tableUnit inst != 5 || m.slotParts.any fun e => m.slotsLeft.contains e.1 && e.2.contains (.table inst))

/-- The post-switch copy of an instance runs (R57). -/
def Chip.tableCopying (c : Chip) (inst : Nat) : Bool := c.txn.copying.any fun e => e.1 == inst

/-- Write one byte of the shadow half; nothing where no table lies or the instance has a scheduled switch (R41, R58). -/
def Chip.putShadow (c : Chip) (off : Nat) (b : Byte) : Chip :=
  match tableAt off with
  | none => c
  | some i => if c.tableScheduled i then c else c.setTabByte false off b

/-- Write bytes from an offset of the shadow half. -/
def Chip.putShadowBytes (c : Chip) : Nat → List Byte → Chip
  | _, [] => c
  | off, b :: l => Chip.putShadowBytes (c.putShadow off b) (off + 1) l

/-- A byte of the Windlass capture region: sample i at 16 × i (R431). [DESIGN CHOICE: log 49] -/
def Chip.wlCapByte (c : Chip) (off : Nat) : Byte :=
  let n := c.wl.cap.length
  if off / 16 < n then
    BitVec.ofNat 8 (((c.wl.cap.getD (n - 1 - off / 16) []).getD (off % 16 / 4) 0).toNat / 256 ^ (off % 4))
  else 0

/-- A byte of the line-scan capture region: line k at (k mod 64) × 32,768, pixel u at 2u (R431). [DESIGN CHOICE: log 49] -/
def Chip.lscanByte (c : Chip) (off : Nat) : Byte :=
  match c.seam.capture.find? fun e => e.1 % 64 == off / 32768 with
  | some e => BitVec.ofNat 8 (e.2.getD (off % 32768 / 2) 0 / 256 ^ (off % 2))
  | none => 0

/-- A byte of the on-chip region of a service command (R426, R431). [DESIGN CHOICE: log 49] -/
def Chip.regionByte (c : Chip) (region off : Nat) : Byte :=
  if region = 0 then c.tabByte false off else if region = 1 then c.wlCapByte off else c.lscanByte off

/-- The size of the on-chip region of a service command (R27, R426, R431). [DESIGN CHOICE: log 49] -/
def regionSize (region : Nat) : Nat := if region = 0 then 0x800000 else if region = 1 then 0x100000 else 0x200000

/-- A field of the descriptor in work (R127). -/
def SvcJob.field (j : SvcJob) (off n : Nat) : Nat := leNat ((j.desc.drop off).take n)
def SvcJob.src (j : SvcJob) : Nat := j.field 0 8
def SvcJob.dst (j : SvcJob) : Nat := j.field 8 8
def SvcJob.total (j : SvcJob) : Nat := j.field 0x10 4
def SvcJob.ctl (j : SvcJob) : Nat := j.field 0x14 1
def SvcJob.dir (j : SvcJob) : Nat := j.field 0x15 1
def SvcJob.srcW (j : SvcJob) : Nat := 2 ^ bits j.ctl 1 0
def SvcJob.dstW (j : SvcJob) : Nat := 2 ^ bits j.ctl 3 2

/-- The chip side of the descriptor in work: first offset and length. -/
def SvcJob.chipSide (j : SvcJob) : Nat × Nat :=
  if j.dir = 0 then (j.dst, j.total * j.dstW) else (j.src, j.total * j.srcW)

/-- The table instances that a range of the shadow half touches. -/
def tablesIn (off n : Nat) : List Nat :=
  let all := (List.range 128).map (0x1000 + ·) ++ (List.range 8).map (0x2000 + ·) ++ (List.range 8).map (0x3000 + ·)
    ++ (List.range 64).map (0x4000 + ·) ++ (List.range 64).map (0x5000 + ·) ++ (List.range 16).map (0x6000 + ·)
    ++ (List.range 16).map (0x7000 + ·)
  all.filter fun i => (tableRanges i).any fun r => decide (r.1 < off + n) && decide (off < r.1 + r.2)

/-- The cause for which a descriptor is BAD before any transfer, 0 none (R129, R426). [DESIGN CHOICE: log 46] -/
def Chip.descCause (c : Chip) (j : SvcJob) : Nat :=
  let s := j.chipSide
  if j.src % j.srcW ≠ 0 ∨ j.dst % j.dstW ≠ 0 then 1
  else if j.total = 0 ∨ 16777216 < j.total ∨ (j.dir ≤ 1 ∧ regionSize j.region < s.1 + s.2)
      ∨ (j.dir = 0 ∧ j.region ≠ 0) ∨ (j.region = 0 ∧ j.dir ≤ 1 ∧ (tablesIn s.1 s.2).any c.tableScheduled) then 2
  else if 1 < j.dir ∨ bits j.ctl 7 6 ≠ 0 ∨ j.field 0x16 2 ≠ 0 ∨ j.field 0x1C 4 ≠ 0 then 5
  else 0

/-- Convert one source element to its destination bytes: low bytes kept, or zero- or sign-extended; none when a checked high byte is lost (R128, R129). -/
def SvcJob.convert (j : SvcJob) (bs : List Byte) : Option (List Byte) :=
  let sx := bit j.ctl 4
  let v := leNat bs
  let w := j.dstW
  let ext (n m : Nat) : Nat := if sx then pattern (8 * n) (signed (8 * m) v) else v % 256 ^ m
  if w < j.srcW then
    if bit j.ctl 5 && ext j.srcW w != v then none else some (bs.take w)
  else some (leBytes w (ext w j.srcW))

/-- Split bytes into elements. -/
def elementsOf (w : Nat) : Nat → List Byte → List (List Byte)
  | 0, _ => []
  | n + 1, bs => bs.take w :: elementsOf w n (bs.drop w)

/-- Convert elements up to the first that fails: the bytes, how many were converted, and whether one failed. -/
def SvcJob.convertAll (j : SvcJob) : List (List Byte) → List Byte × Nat × Bool
  | [] => ([], 0, false)
  | e :: l =>
    match j.convert e with
    | none => ([], 0, true)
    | some bs => let (r, n, f) := SvcJob.convertAll j l; (bs ++ r, n + 1, f)

/-- The job on a service channel. -/
def Chip.job (c : Chip) (ch : Nat) : Option SvcJob := (c.dma.jobs.find? fun e => e.1 == ch).map (·.2)

/-- Change the job on a service channel. -/
def Chip.updJob (c : Chip) (ch : Nat) (f : SvcJob → SvcJob) : Chip :=
  c.updDma fun d => { d with jobs := d.jobs.map fun e => if e.1 == ch then (e.1, f e.2) else e }

/-- The lowest free service channel of a level: 24 to 35 for level 2, 36 to 38 for level 3 (R121). -/
def Chip.freeService (c : Chip) (level : Nat) : Option Nat :=
  (if level = 2 then rangeFrom 24 12 else rangeFrom 36 3).find? fun ch => (c.dma.owner.getD (ch - 24) none).isNone

/-- A command takes a service channel (R121, R131). -/
def Chip.takeService (c : Chip) (ch slot part : Nat) : Chip :=
  let c := c.updDma fun d => { d with owner := updAt d.owner (ch - 24) fun _ => some (slot, part) }
  let c := (c.setFld (Fld.DMA_CHAN_STATUS_STATE ch) 1).setFld (Fld.DMA_CHAN_STATUS_PORT ch) (c.owner part).num
  c.setFld (Fld.DMA_CHAN_STATUS_PARTITION ch) part

/-- A service channel is free again. -/
def Chip.freeChannel (c : Chip) (ch : Nat) : Chip :=
  let c := c.updDma fun d => { d with
    owner := updAt d.owner (ch - 24) fun _ => none
    jobs := d.jobs.filter fun e => e.1 != ch }
  c.setFld (Fld.DMA_CHAN_STATUS_STATE ch) 0

/-- The service channel that a command holds. -/
def Chip.serviceOf (c : Chip) (slot : Nat) : Option Nat :=
  (List.range 15).findSome? fun i => match c.dma.owner.getD i none with
    | some (k, _) => if k = slot then some (24 + i) else none
    | none => none

/-- A suspended transfer stands on a channel under a key; what a command reads or writes over a ring channel is not the channel's own transfer (R91, R406). -/
def Susp.holds (s : Susp) (p chan key : Nat) : Bool :=
  s.part == p && s.chan == chan && s.key == key && s.cmd.isNone

/-- A transfer of a partition's channel is suspended and no retry was asked for, or it is parked (R91, R92, R97). [DESIGN CHOICE: log 47] -/
def Chip.blocked (c : Chip) (p chan key : Nat) : Bool := c.xlat.susp.any fun s => s.holds p chan key && (!s.retry || s.parked)

/-- A retry was asked for a suspended transfer. -/
def Chip.retryAsked (c : Chip) (p chan key : Nat) : Bool := c.xlat.susp.any fun s => s.holds p chan key && s.retry

/-- The suspended transfers of a channel are over. -/
def Chip.channelResumed (c : Chip) (p chan key : Nat) : Chip := (c.xlat.susp.filter fun s => s.holds p chan key).foldl Chip.unsuspend c

/-- The key by which a ring read can be suspended. -/
def FItem.key : FItem → Nat
  | .doorbell => 4
  | .entries r _ _ => r
  | .barrier _ => 5

/-- The ring read of a partition that may go next: later fetches of a ring wait behind its suspended one (R92), and everything behind one that is being repeated (R124). -/
def Chip.nextFetch (c : Chip) (q : PartQ) (p : Nat) : Option FItem :=
  match q.failed with
  | some i => if q.fetches.contains i && !c.blocked p (8 + 2 * p) i.key then some i else none
  | none => q.fetches.find? fun i => !c.blocked p (8 + 2 * p) i.key

/-- The ring channels of a partition may work: attached, its port up, the fast clocks running, no bus-error repetition waiting (R97, R110, R124). -/
def Chip.ringsOpen (c : Chip) (q : PartQ) (p : Nat) : Bool :=
  c.fast && c.attached p && !c.portDown (c.owner p) && !q.waitPoll && q.geom.isSome && !(c.dma.xfers.any fun x => x.part == p && x.again)

/-- The transfers of a command that is at work on them. -/
def Chip.xfer (c : Chip) (slot : Nat) : Option Xfer := c.dma.xfers.find? fun x => x.slot == slot

/-- Change the transfers of a command. -/
def Chip.updXfer (c : Chip) (slot : Nat) (f : Xfer → Xfer) : Chip :=
  c.updDma fun d => { d with xfers := d.xfers.map fun x => if x.slot == slot then f x else x }

/-- The transfers of a command want the next burst of their channel: not suspended, the port up, no repetition waiting, nothing else of the partition being repeated (R97, R121, R124). -/
def Chip.xferReady (c : Chip) (m : Merge) (q : Port) (x : Xfer) : Bool :=
  c.owner x.part == q && !c.portDown q && c.fast && !(m.part x.part).resuming && x.chan.isSome && !x.held && !c.waiting x.part x.slot
    && (x.chan.any (24 ≤ ·) || ((m.part x.part).failed.isNone && (x.again || !(c.dma.xfers.any fun y => y.part == x.part && y.again))))

/-- Bytes from WR to the end of the host ring of the Sump. -/
def Chip.sumpRoom (c : Chip) : Nat := c.sump.size - c.pair Reg.SUMP_WR_LO Reg.SUMP_WR_HI % c.sump.size

/-- Channel 39 may stream: a closed segment waits, its port is up, nothing of it is suspended, and the host ring has room (R477, R478, R481). [DESIGN CHOICE: log 128] -/
def Chip.streamReady (c : Chip) (q : Port) : Bool :=
  let part := c.fld Fld.SUMP_STATUS_PART
  match c.sump.closed with
  | [] => false
  | s :: _ =>
    let n := 64 + s.payload.length
    let need := if c.sumpRoom < n then c.sumpRoom + n else n
    c.fast && c.owner part == q && !c.portDown q && !c.blocked part 39 0 && c.sump.size != 0
      && !(c.flag Fld.SUMP_CFG_RETAIN && decide (c.sump.rd + c.sump.size < c.pair Reg.SUMP_WR_LO Reg.SUMP_WR_HI + need))

/-- The report of a replay that a service channel of level 3 may write on a port: the lowest free one does (R97, R100, R121, R487). [DESIGN CHOICE: log 117] -/
def Chip.owedReport (c : Chip) (m : Merge) (q : Port) (ch : Nat) : Option OwedReport :=
  if !c.fast || c.portDown q || c.freeService 3 != some ch then none
  else c.eng.reports.find? fun r => c.owner r.part == q && c.attached r.part && !(m.part r.part).resuming

/-- What a channel carries of its own is ready for a grant on a port: page data, ring items, a service descriptor list or a replay's report, the Sump (R97, R121, R123). -/
def Chip.ownReady (c : Chip) (m : Merge) (q : Port) (ch : Nat) : Bool :=
  if ch < 8 then c.imgReady q ch
  else if ch < 24 then
    let p := (ch - 8) / 2
    let x := m.part p
    c.owner p == q && c.ringsOpen x p
      && (if ch % 2 = 0 then !c.dma.busy.contains ch && (c.nextFetch x p).isSome
          else !x.writes.isEmpty && x.failed.isNone && !c.blocked p ch 6)
  else if ch = 39 then c.streamReady q && !(m.part (c.fld Fld.SUMP_STATUS_PART)).resuming
  else
    match c.job ch with
    | none => (c.owedReport m q ch).isSome
    | some j =>
      c.owner j.part == q && !c.portDown q && c.fast && !(m.part j.part).resuming && j.inFlight.isNone && j.phase != 3 && !c.waiting j.part j.slot
        && !(j.phase == 1 && j.region == 0 && (tablesIn j.chipSide.1 j.chipSide.2).any c.tableCopying)

/-- The command whose transfers a channel may carry next; a ring-fetch channel with a burst in flight waits for it. [DESIGN CHOICE: log 47] -/
def Chip.xferOn (c : Chip) (m : Merge) (q : Port) (ch : Nat) : Option Xfer :=
  if c.dma.busy.contains ch then none else c.dma.xfers.find? fun x => x.chan == some ch && c.xferReady m q x

/-- A channel is ready for a grant on a port: with what it carries of its own, or with the transfers of a command (R121, R123, R406). -/
def Chip.ready (c : Chip) (m : Merge) (q : Port) (ch : Nat) : Bool := c.ownReady m q ch || (c.xferOn m q ch).isSome

/-- Something other than the transfers of this command is ready on a port. [DESIGN CHOICE: log 47] -/
def Chip.contended (c : Chip) (m : Merge) (q : Port) (slot : Nat) : Bool :=
  (List.range 40).any (c.ownReady m q) || c.dma.xfers.any fun x => x.slot != slot && c.xferReady m q x

/-- The arbitration level of a channel (R121). [DESIGN CHOICE: log 47] -/
def channelLevel (ch : Nat) : Nat := if ch < 8 then 0 else if ch < 24 then 1 else if ch < 36 then 2 else 3

/-- The channels of a level. [DESIGN CHOICE: log 47] -/
def levelChannels (l : Nat) : List Nat := (List.range 40).filter fun ch => channelLevel ch == l

/-- Grants guaranteed to a level in each window (R123). [DESIGN CHOICE: log 47] -/
def guaranteed (l : Nat) : Nat := [12, 2, 1, 1].getD l 0

/-- The channel that the arbiter of a port grants now (R123). [DESIGN CHOICE: log 47] -/
def Chip.arbiter (c : Chip) (m : Merge) (q : Port) : Option Nat :=
  let x := c.port q.num
  let busy (l : Nat) : Bool := (levelChannels l).any (c.ready m q)
  let l := match (List.range 4).find? fun l => busy l && decide (x.used.getD l 0 < guaranteed l) with
    | some l => some l
    | none => (List.range 4).find? busy
  l.bind fun l => ((List.range 40).map fun i => (x.lastGrant.getD l 39 + 1 + i) % 40).find? fun ch =>
    channelLevel ch == l && c.ready m q ch

/-- Count a burst in the arbiter's window, and show its channel at work (R123, R131). -/
def Chip.countBurst (c : Chip) (q : Port) (ch part : Nat) : Chip :=
  let l := channelLevel ch
  let c := c.updPort q.num fun x =>
    if x.grants = 15 then { x with used := [0, 0, 0, 0], grants := 0, lastGrant := updAt x.lastGrant l fun _ => ch }
    else { x with used := updAt x.used l (· + 1), grants := x.grants + 1, lastGrant := updAt x.lastGrant l fun _ => ch }
  let c := c.setFld (Fld.DMA_CHAN_STATUS_BURSTS ch) (c.fld (Fld.DMA_CHAN_STATUS_BURSTS ch) + 1)
  let c := (c.setFld (Fld.DMA_CHAN_STATUS_STATE ch) 1).setFld (Fld.DMA_CHAN_STATUS_PORT ch) q.num
  c.setFld (Fld.DMA_CHAN_STATUS_PARTITION ch) part

/-- Count a grant: a channel of a lower level that was active is pre-empted (R95, R123, R131). [DESIGN CHOICE: log 47] -/
def Chip.countGrant (c : Chip) (m : Merge) (q : Port) (ch part : Nat) : Chip :=
  let c := c.each ((List.range 40).filter fun k => decide (channelLevel ch < channelLevel k) && c.ready m q k) fun k c =>
    if c.fld (Fld.DMA_CHAN_STATUS_STATE k) = 1 then c.setFld (Fld.DMA_CHAN_STATUS_STATE k) 2 else c
  c.countBurst q ch part

/-- The bursts in flight: channels whose read has not been answered, with the bursts each has been granted (R87). -/
def Chip.flying (c : Chip) : List (Nat × Nat) :=
  ((List.range 40).filter fun ch => if ch < 8 then (c.img ch).inFlight.isSome
    else if ch < 24 then c.dma.busy.contains ch else (c.job ch).any (·.inFlight.isSome)).map fun ch => (ch, c.fld (Fld.DMA_CHAN_STATUS_BURSTS ch))

/-- Send one vector of a queue, or set its pending bit while it is masked (R76, R118). [DESIGN CHOICE: log 43] -/
def Chip.signalQueue (c : Chip) (p k : Nat) : Chip :=
  let v := 8 * p + c.fld (Fld.HOST_PART_Q_CTL_VECTOR p k)
  let q := c.owner p
  if bit (c.port q.num).msixMask v then
    c.updPort q.num fun x => if bit x.msixPend v then x else { x with msixPend := x.msixPend + 2 ^ v }
  else c.send (.msix q v)

/-- A queue of a partition: 0 completions, 1 events. -/
def PartQ.queue (q : PartQ) (k : Nat) : Queue := if k = 0 then q.cq else q.eq

/-- Change a queue of a partition. -/
def PartQ.updQueue (q : PartQ) (k : Nat) (f : Queue → Queue) : PartQ := if k = 0 then { q with cq := f q.cq } else { q with eq := f q.eq }

/-- A signal of a queue covers every record written since the one before (R118). [DESIGN CHOICE: log 43] -/
def signalNow (p k : Nat) (x : Merge × Chip) : Merge × Chip :=
  (x.1.updPart p fun q => q.updQueue k fun z => { z with uncovered := 0, firstAt := none }, x.2.signalQueue p k)

/-- Whether the interrupt that an attach owes to a queue still waits (R100). [DESIGN CHOICE: log 43] -/
def PartQ.owesSignal (q : PartQ) (k : Nat) : Bool :=
  q.writes.any fun w => match w with | .signal j => j == k | _ => false

/-- Records that are signalled at once (R118). [DESIGN CHOICE: log 43] -/
def urgent (status : Nat) : Bool :=
  status == Rc.STATE_CHANGE || status == Rc.INTERLOCK_OPEN || status == Rc.XLAT_FAULT || status == Rc.DOORBELL_INVALID

/-- A record has been written to a queue: moderation decides on its signal (R118). [DESIGN CHOICE: log 43] -/
def moderate (now p k : Nat) (isUrgent : Bool) (x : Merge × Chip) : Merge × Chip :=
  let n := x.2.fld (Fld.HOST_PART_Q_CTL_MOD_COUNT p k)
  let m := x.1.updPart p fun q => q.updQueue k fun z => { z with uncovered := z.uncovered + 1, firstAt := some (z.firstAt.getD now) }
  let z := (m.part p).queue k
  if n = 0 ∨ (m.part p).owesSignal k then (m, x.2)
  else if n ≤ z.uncovered ∨ isUrgent then signalNow p k (m, x.2)
  else (m, x.2)

/-- The FLAGS byte of a written record; R114 does not say whether an event record tied to a command carries its ring, and here it carries 0 (R114, R116). [DESIGN CHOICE: log 152] -/
def recordFlags (r : Rec) (k count log : Nat) : Nat :=
  b2n (count / 2 ^ log % 2 == 0) + 2 * k + 4 * b2n r.journal + 16 * r.ring

/-- The device address of a record slot. -/
def PartQ.slotAddr (q : PartQ) (k count : Nat) : Nat :=
  let g := q.geom.getD {}
  if k = 0 then g.cqBase + count % 2 ^ g.cqLog * 32 else g.eqBase + count % 2 ^ g.eqLog * 32

/-- Write bytes at a device address for a ring-write channel, or suspend it there; the OPCODE of an OWN write's fault is 0 as of a record write, for R91 leaves open which of its two cases it is (R91). [DESIGN CHOICE: log 140] -/
def Chip.ringWrite (c : Chip) (mem : HostImg) (p source ring a : Nat) (bs : List Byte) : Except Chip Chip :=
  let ch := 9 + 2 * p
  match c.translate mem p a true (c.retryAsked p ch 6) with
  | .error cause => .error (c.suspend p source ch a cause ring 0 true none 6)
  | .ok (h, c) => .ok ((c.channelResumed p ch 6).sendWrite (c.owner p) h bs)

/-- The count of the next record of a queue is used up. -/
def PartQ.advance (q : PartQ) (k : Nat) : PartQ := (q.updQueue k fun z => { z with tail := (z.tail + 1) % 2 ^ 32 }).judgeFull

/-- Take the first write of a partition off its channel. -/
def Merge.popWrite (m : Merge) (p : Nat) : Merge := m.updPart p fun q => { q with writes := q.writes.drop 1 }

/-- Write a record at the present tail of a queue (R114, R116). -/
def Chip.writeRecord (c : Chip) (m : Merge) (mem : HostImg) (p k : Nat) (r : Rec) : Except Chip Chip :=
  let q := m.part p
  let n := (q.queue k).tail
  let g := q.geom.getD {}
  c.ringWrite mem p 1 0 (q.slotAddr k n) (r.bytes (recordFlags r k n (if k = 0 then g.cqLog else g.eqLog)))

/-- A write burst of a ring-write channel: an OWN clear, a record, a rewritten record or the interrupt of an attach (R100, R108, R114 to R118). -/
def ringWriteBurst (now : Nat) (mem : HostImg) (p : Nat) (x : Merge × Chip) : Merge × Chip :=
  let (m, c) := x
  let q := m.part p
  match q.writes with
  | [] => (m, c)
  | w :: _ =>
    match w with
    | .ownClear ring count flags =>
      let g := q.geom.getD {}
      match c.ringWrite mem p 2 ring (g.ringBase.getD ring 0 + count % 2 ^ g.ringLog.getD ring 4 * 64 + 1) [BitVec.ofNat 8 flags] with
      | .error c => (m, c)
      | .ok c => (m.popWrite p, c)
    | .completion slot =>
      match m.entry slot with
      | none => (m.popWrite p, c)
      | some e =>
        match c.writeRecord m mem p 0 e.record with
        | .error c => (m, c)
        | .ok c =>
          let n := q.cq.tail
          let m := ((m.popWrite p).updEntry slot fun e => { e with posting := .written n }).updPart p fun q => q.advance 0
          moderate now p 0 false (m, c)
    | .copy r =>
      match c.writeRecord m mem p 0 r with
      | .error c => (m, c)
      | .ok c => moderate now p 0 false ((m.popWrite p).updPart p fun q => { q.advance 0 with copied := q.copied ++ [(q.cq.tail, r)] }, c)
    | .event r =>
      match c.writeRecord m mem p 1 r with
      | .error c => (m, c)
      | .ok c =>
        let m := (m.popWrite p).updPart p fun q => { q.advance 1 with eqUnacked := q.eqUnacked ++ [r] }
        moderate now p 1 (urgent r.status.toNat) (m, c)
    | .rewrite n r =>
      match c.ringWrite mem p 1 0 (q.slotAddr 0 n) (r.bytes (recordFlags r 0 n (q.geom.getD {}).cqLog)) with
      | .error c => (m, c)
      | .ok c => (m.popWrite p, c)
    | .signal k =>
      if c.fld (Fld.HOST_PART_Q_CTL_MOD_COUNT p k) = 0 then (m.popWrite p, c) else signalNow p k (m.popWrite p, c)
    | .resume => (m, c)

/-- Step 3 of an attach: once the records of its steps 1 and 2 are written, the parked transfers of the partition resume with a new walk, and polling begins (R100). [DESIGN CHOICE: log 32] -/
def resumePart (p : Nat) (x : Merge × Chip) : Merge × Chip :=
  match (x.1.part p).writes with
  | .resume :: _ => (x.1.popWrite p, x.2.updXlat fun x => { x with susp := x.susp.map fun s =>
      if s.part = p then { s with parked := false, retry := true } else s })
  | _ => x

/-- A read burst of a ring-fetch channel: the doorbell block, entries or the 4-byte read of a barrier; the ring of a fault of a doorbell or a barrier read, which has none, is shown as 0 (R91, R109, R111, R119). [DESIGN CHOICE: log 140] -/
def ringReadBurst (mem : HostImg) (p : Nat) (x : Merge × Chip) : Merge × Chip :=
  let (m, c) := x
  let q := m.part p
  let g := q.geom.getD {}
  match c.nextFetch q p with
  | none => (m, c)
  | some i =>
    let ch := 8 + 2 * p
    let (a, n, ring) : Nat × Nat × Nat := match i with
      | .doorbell => (g.doorbell, 64, 0)
      | .barrier _ => (g.doorbell, 4, 0)
      | .entries r f n => (g.ringBase.getD r 0 + f % 2 ^ g.ringLog.getD r 4 * 64, n * 64, r)
    match c.translate mem p a false (c.retryAsked p ch i.key) with
    | .error cause => (m, c.suspend p 0 ch a cause ring 0 false none i.key)
    | .ok (h, c) =>
      let c := (c.channelResumed p ch i.key).updDma fun d => { d with busy := d.busy ++ [ch] }
      (m, c.sendRead (c.owner p) h n)

/-- A replay's report leaves, and its command has its outcome, unless a stop gave it one already (R36, R486, R487). -/
def Chip.reportBurst (c : Chip) (q : Port) (r : OwedReport) : Chip :=
  let c := c.updEng fun g => { g with reports := g.reports.filter fun x => x != r }
  (c.sendWrite q r.host r.bytes).result r.slot r.status r.detail

/-- The length of the next host burst of a descriptor: at most 256 bytes, to its end or a 4 KiB boundary (R122). [DESIGN CHOICE: log 46] -/
def SvcJob.burst (j : SvcJob) : Nat × Nat :=
  let w := if j.dir = 0 then j.srcW else j.dstW
  let a := (if j.dir = 0 then j.src else j.dst) + j.elems * w
  (a, min 256 (min ((j.total - j.elems) * w) (4096 - a % 4096)))

/-- The descriptor in work is over with a cause, 0 DONE: its STATUS is to be written (R129). -/
def SvcJob.over_ (j : SvcJob) (cause : Nat) : SvcJob := { j with phase := 2, cause := cause, inFlight := none }

/-- Suspend a service transfer at its first untranslated byte; its channel serves others until it is taken up again (R91). -/
def Chip.suspendJob (c : Chip) (ch : Nat) (j : SvcJob) (a cause : Nat) (write : Bool) : Chip :=
  let c := (c.freeChannel ch).updDma fun d => { d with parked := d.parked ++ [j] }
  c.suspend j.part 3 ch a cause 0 j.opcode write (some j.slot)

/-- The burst of a service channel: the descriptor's read, a burst of its data, or its STATUS word (R122, R127 to R129). [DESIGN CHOICE: log 46] -/
def Chip.serviceBurst (c : Chip) (mem : HostImg) (q : Port) (ch : Nat) (j : SvcJob) : Chip :=
  let fresh := c.retrying j.part j.slot
  let here := j.list + 32 * j.index
  if j.phase = 0 then
    match c.translate mem j.part here false fresh with
    | .error cause => c.suspendJob ch j here cause false
    | .ok (h, c) => ((c.resumed j.part j.slot).updJob ch fun j => { j with inFlight := some 32 }).sendRead q h 32
  else if j.phase = 1 then
    let (a, n) := j.burst
    if j.dir = 0 then
      match c.translate mem j.part a false fresh with
      | .error cause => c.suspendJob ch j a cause false
      | .ok (h, c) => ((c.resumed j.part j.slot).updJob ch fun j => { j with inFlight := some n }).sendRead q h n
    else
      let k := n / j.dstW
      let src := (List.range (k * j.srcW)).map fun i => c.regionByte j.region (j.src + j.elems * j.srcW + i)
      let (bs, good, bad) := j.convertAll (elementsOf j.srcW k src)
      if bs.isEmpty then c.updJob ch fun j => j.over_ 4
      else
        match c.translate mem j.part a true fresh with
        | .error cause => c.suspendJob ch j a cause true
        | .ok (h, c) =>
          let c := (c.resumed j.part j.slot).sendWrite q h bs
          c.updJob ch fun j =>
            let j := { j with elems := j.elems + good }
            if bad then j.over_ 4 else if j.total ≤ j.elems then j.over_ 0 else j
  else
    let a := here + 0x18
    match c.translate mem j.part a true fresh with
    | .error cause => c.suspendJob ch j a cause true
    | .ok (h, c) =>
      let w := (if j.cause = 0 then 1 else 2) + j.cause * 16 + j.elems % 2 ^ 24 * 256
      let c := (c.resumed j.part j.slot).sendWrite q h (leBytes 4 w)
      c.updJob ch fun j =>
        { j with
          bad := j.bad + (if j.cause = 0 then 0 else 1), index := j.index + 1, desc := [], elems := 0, cause := 0
          phase := if j.count ≤ j.index + 1 then 3 else 0 }

/-- The read burst of a service channel ends (R128, R129). [DESIGN CHOICE: log 46] -/
def Chip.serviceComplete (c : Chip) (ch : Nat) (j : SvcJob) (n : Nat) (r : Burst) : Chip :=
  match r with
  | .busError => (c.noteBusError (c.owner j.part)).updJob ch fun j => j.over_ 3
  | .ok data =>
    if data.length ≠ n then c.updJob ch fun j => j.over_ 3
    else if j.phase = 0 then
      let j := { j with desc := data, inFlight := none }
      let cause := c.descCause j
      c.updJob ch fun _ => if cause = 0 then { j with phase := 1 } else j.over_ cause
    else
      let (bs, good, bad) := j.convertAll (elementsOf j.srcW (n / j.srcW) data)
      let off := j.dst + j.elems * j.dstW
      let c := if (tablesIn off bs.length).any c.tableScheduled then c.errFault Err.busy off j.part (c.owner j.part).num 2 true else c
      let c := c.putShadowBytes off bs
      c.updJob ch fun j =>
        let j := { j with elems := j.elems + good, inFlight := none }
        if bad then j.over_ 4 else if j.total ≤ j.elems then j.over_ 0 else j

end Sys2Proof.Machine
end

