-- ==== Sys2Proof/Machine/Transfer.lean ====
section
/-! DEFINITION. The transfers of the commands that read structures and write results by themselves: burst by burst over the channel that their section names, suspended at the exact byte, and taken up again (R91, R92, R95, R97, R121 to R124, R406).
-/
namespace Sys2Proof.Machine

/-- The transfers of a command are over or given up: nothing of them is suspended, and its service channel is free. -/
def Chip.endTransfer (c : Chip) (part slot : Nat) : Chip :=
  let c := c.resumed part slot
  let c := match c.serviceOf slot with | some ch => c.freeChannel ch | none => c
  let c := match (c.xfer slot).bind (·.chan) with
    | some ch => if ch < 24 && !c.dma.busy.contains ch then c.setFld (Fld.DMA_CHAN_STATUS_STATE ch) 0 else c
    | none => c
  c.updDma fun d => { d with parked := d.parked.filter (fun j => j.slot != slot), xfers := d.xfers.filter fun x => x.slot != slot }

/-- The level of the service channels that an opcode uses (R121). -/
def serviceLevel (opcode : Nat) : Nat := if opcode = 0x45 ∨ opcode = 0x46 ∨ opcode = 0x06 then 3 else 2

/-- Suspend the transfers of a command at their first untranslated byte: a service channel serves others meanwhile, a ring channel goes on with its own (R91). -/
def Chip.suspendXfer (c : Chip) (e : JEntry) (ch a cause : Nat) (write : Bool) : Chip :=
  let c := if 24 ≤ ch then (c.freeChannel ch).updXfer e.slot fun x => { x with chan := none } else c
  c.suspend e.part 3 ch a cause e.ring e.opcode write (some e.slot)

/-- A burst of a command's transfers ended in a bus error: over a ring channel it is repeated at the next poll interval (R124), over a service channel, for which the manual says nothing, at the next grant. [DESIGN CHOICE: log 6] -/
def Chip.burstFailed (c : Chip) (slot ch : Nat) : Chip :=
  let c := c.noteBusError (c.owner ((c.xfer slot).elim 0 (·.part)))
  if 24 ≤ ch then c else c.updXfer slot fun x => { x with again := true, held := true }

/-- A command may make its next burst: as many as it needs while nothing else is ready on the port, else one for each grant (R122, R123). [DESIGN CHOICE: log 47] -/
def Chip.takeBurst (c : Chip) (q : Port) (ch : Nat) (x : Xfer) : Option Chip :=
  match x.bursts with
  | none => some (c.countBurst q ch x.part)
  | some 0 => none
  | some (n + 1) => some (c.updXfer x.slot fun x => { x with bursts := some n })

/-- The next burst of a command's transfers at a device address: its channel and host address, or the command waits there. -/
def Chip.xferBurst (c : Chip) (mem : HostImg) (e : JEntry) (a : Nat) (write : Bool) : Except Chip (Nat × Nat × Chip) :=
  let q := c.owner e.part
  match c.xfer e.slot with
  | none => .error c
  | some x =>
    match x.chan with
    | none => .error c
    | some ch =>
      if c.portDown q || x.held then .error c
      else
        match c.takeBurst q ch x with
        | none => .error c
        | some c =>
          match c.translate mem e.part a write (c.retrying e.part e.slot) with
          | .error cause => .error (c.suspendXfer e ch a cause write)
          | .ok (h, c) => .ok (ch, h, c.resumed e.part e.slot)

/-- The bytes of the next burst of a run: at most 256, within 4 KiB (R122). -/
def burstLength (a n : Nat) : Nat := min 256 (runLength a n)

/-- Bursts that `n` bytes need at most. -/
def burstBound (n : Nat) : Nat := n / 256 + n / 4096 + 3

/-- Read further bytes into a command's log, burst by burst. -/
def Chip.readBursts (mem : HostImg) (e : JEntry) : Nat → Nat → Nat → Chip → Except Chip Chip
  | 0, _, _, c => .ok c
  | fuel + 1, a, n, c =>
    if n = 0 then .ok c
    else
      match c.xferBurst mem e a false with
      | .error c => .error c
      | .ok (ch, h, c) =>
        let k := burstLength a n
        let c := c.sendRead (c.owner e.part) h k
        match hostBytes mem h k with
        | none => .error (c.burstFailed e.slot ch)
        | some bs =>
          Chip.readBursts mem e fuel (a + k) (n - k) (c.updXfer e.slot fun x => { x with got := x.got ++ bs, again := false })

/-- Read a structure that a command names: what its log holds already, then the rest burst by burst (R91, R406). -/
def Chip.commandRead (c : Chip) (mem : HostImg) (e : JEntry) (a n : Nat) : Except Chip (List Byte × Chip) :=
  match c.xfer e.slot with
  | none => .error c
  | some x =>
    let k := min n (x.got.length - x.seen)
    match Chip.readBursts mem e (burstBound n) (a + k) (n - k) c with
    | .error c => .error c
    | .ok c =>
      match c.xfer e.slot with
      | none => .error c
      | some x => .ok ((x.got.drop x.seen).take n, c.updXfer e.slot fun x => { x with seen := x.seen + n })

/-- Write further bytes of a command's results, burst by burst. -/
def Chip.writeBursts (mem : HostImg) (e : JEntry) : Nat → Nat → List Byte → Chip → Except Chip Chip
  | 0, _, _, c => .ok c
  | fuel + 1, a, bs, c =>
    if bs.isEmpty then .ok c
    else
      match c.xferBurst mem e a true with
      | .error c => .error c
      | .ok (_, h, c) =>
        let k := burstLength a bs.length
        let c := c.sendWrite (c.owner e.part) h (bs.take k)
        Chip.writeBursts mem e fuel (a + k) (bs.drop k) (c.updXfer e.slot fun x => { x with sent := x.sent + k })

/-- Write a result of a command: what was written before a suspension or a pre-emption is not written again (R92, R95, R406). -/
def Chip.commandWrite (c : Chip) (mem : HostImg) (e : JEntry) (a : Nat) (bs : List Byte) : Except Chip Chip :=
  match c.xfer e.slot with
  | none => .error c
  | some x =>
    let k := min bs.length (x.sent - x.put)
    match Chip.writeBursts mem e (burstBound bs.length) (a + k) (bs.drop k) c with
    | .error c => .error c
    | .ok c => .ok (c.updXfer e.slot fun x => { x with put := x.put + bs.length })

/-- Use a channel for the transfers of a command. -/
def Chip.useChannel (c : Chip) (slot ch : Nat) : Chip := c.updXfer slot fun x => { x with chan := some ch }

/-- Run a service command on the lowest free channel of its level, or on the one it holds; while none is free it waits, not started (R121). -/
def Chip.onService (c : Chip) (level : Nat) (e : JEntry) (f : Nat → Chip → Chip) : Chip :=
  match c.serviceOf e.slot with
  | some ch => f ch (c.useChannel e.slot ch)
  | none =>
    match c.freeService level with
    | none => c
    | some ch => f ch (((c.takeService ch e.slot e.part).started e.slot).useChannel e.slot ch)

/-- Free bytes that the codec commands reserve for the private part of a state record (R184). -/
def reservedBytes (opcode : Nat) : Nat := if opcode = 0x45 ∨ opcode = 0x46 then 2048 else 0

/-- A pass over a command begins: from its start, over what its log holds. [DESIGN CHOICE: log 47] -/
def Chip.beginPass (c : Chip) (e : JEntry) (bursts : Option Nat) : Chip :=
  match c.xfer e.slot with
  | some _ => c.updXfer e.slot fun x => { x with seen := 0, put := 0, bursts := bursts }
  | none =>
    let x : Xfer := { slot := e.slot, part := e.part, opcode := e.opcode, bursts := bursts, seed := c.free }
    { c.updDma fun d => { d with xfers := d.xfers ++ [x] } with free := c.free + reservedBytes e.opcode }

/-- The outcome of a command was fixed in this step. -/
def Chip.decided (c : Chip) (slot : Nat) : Bool := c.emits.any fun i => match i with
  | .result k _ _ => k == slot
  | .resultAt k _ _ _ => k == slot
  | _ => false

/-- A pass over a command has ended: with its outcome fixed its transfers are over; waiting for a channel it has not started; else its log stays, and it has started. -/
def Chip.endPass (c : Chip) (e : JEntry) : Chip :=
  if c.decided e.slot then c.endTransfer e.part e.slot
  else
    match c.xfer e.slot with
    | none => c
    | some x =>
      if x.chan.isNone && !(c.xlat.susp.any fun s => s.cmd == some e.slot) then
        c.updDma fun d => { d with xfers := d.xfers.filter fun x => x.slot != e.slot }
      else c.started e.slot

/-- One pass over a command. -/
def Chip.pass (c : Chip) (x : Ctx) (e : JEntry) (bursts : Option Nat) (body : JEntry → Ctx → Chip → Chip) : Chip :=
  (body e x (c.beginPass e bursts)).endPass e

/-- A command entry that may start, or that was started and goes on with its transfers (R92, R406). [DESIGN CHOICE: log 5] -/
def Merge.startableOrRetry (c : Chip) (m : Merge) (slot opcode : Nat) : Option JEntry :=
  match m.entry slot with
  | some e =>
    if e.opcode ≠ opcode ∨ c.waiting e.part slot then none
    else if m.mayStart e ∨ (e.phase = .started ∧ (c.xfer slot).isSome) then some e
    else none
  | none => none

/-- A ring-channel access of a partition is being repeated, or a ring read of it is in flight: the transfers of a command over its ring channels wait (R124). -/
def Chip.ringBusy (c : Chip) (m : Merge) (p : Nat) : Bool :=
  (m.part p).failed.isSome || (c.dma.xfers.any fun x => x.part == p && x.again) || c.dma.busy.contains (8 + 2 * p)

/-- The bursts that a command may make in its own row: any number while nothing else is ready on its port and nothing that comes before it is owed, else none, and the arbiter grants them (R100, R123, R124). [DESIGN CHOICE: log 47] -/
def Chip.ownBursts (c : Chip) (m : Merge) (e : JEntry) : Option Nat :=
  if c.contended m (c.owner e.part) e.slot || (m.part e.part).resuming || ((e.opcode == 0x33 || e.opcode == 0xF1) && c.ringBusy m e.part)
  then some 0 else none

/-- Start, or take up again, a command that reads or writes host memory. [DESIGN CHOICE: log 5] -/
def commandMem (opcode slot : Nat) (body : JEntry → Ctx → Chip → Chip) (x : Ctx) (c : Chip) : Chip :=
  if c.eng.sleepFor.isSome || c.eng.coresFailed || x.outranked opcode then c else
  match x.merge.startableOrRetry c slot opcode with
  | none => c
  | some e =>
    if (acceptedIn opcode).contains c.state || e.phase == .started then c.pass x e (c.ownBursts x.merge e) body
    else c.result slot 0x04 c.state

/-- Commands whose outcome was fixed in this step hold no channel and no transfer any more. -/
def Chip.freeDecided (c : Chip) : Chip :=
  c.each (c.dma.owner.filterMap id ++ c.dma.xfers.map fun x => (x.slot, x.part)) fun o c =>
    if c.decided o.1 then c.endTransfer o.2 o.1 else c

/-- Suspended service transfers for which a retry was asked take the lowest free channel of their level (R91, R92, R121). -/
def Chip.reseat (c : Chip) : Chip :=
  let c := c.each (c.dma.parked.filter fun j => !c.waiting j.part j.slot) fun j c =>
    match c.freeService (serviceLevel j.opcode) with
    | none => c
    | some ch => (c.takeService ch j.slot j.part).updDma fun d => { d with
        parked := d.parked.filter (fun k => k.slot != j.slot), jobs := d.jobs ++ [(ch, j)] }
  c.each (c.dma.xfers.filter fun x => x.chan.isNone && !c.waiting x.part x.slot) fun x c =>
    match c.freeService (serviceLevel x.opcode) with
    | none => c
    | some ch => (c.takeService ch x.slot x.part).useChannel x.slot ch

end Sys2Proof.Machine
end

