-- ==== Sys2Proof/Machine/Service.lean ====
section
/-! DEFINITION. The service commands: TABLE_LOAD, CAPTURE, COMPRESS, DECOMPRESS_CHECK, MARK_STRIP, SEAM_MEASURE, EMITTER_CALIBRATE, LOOP_CONFIG, QUERY and FENCE (R179 to R185, R423 to R437).
-/
namespace Sys2Proof.Machine

/-- The DETAIL of ERR_RANGE: offset of the field and a list index (R404). [DESIGN CHOICE: log 122] -/
def rangeDetail (off index : Nat) : Nat := off + index * 256

/-- A context slot is released (R183). -/
def Chip.releaseSlot (c : Chip) (n : Nat) : Chip :=
  (c.updSlot n fun x => { x with held := false, cmd := none, ctx := {} }).setFld Fld.CODEC_SLOT_STATUS_HELD
    (maskWhere 8 fun i => i != n && (c.slot i).held)

/-- The context slot a command works with. -/
def Chip.slotOfCmd (c : Chip) (slot : Nat) : Option Nat := (List.range 8).find? fun n => (c.slot n).cmd == some slot

/-- The end of a service command: its transfers are over, and its channel is free. -/
def Chip.endService (c : Chip) (e : JEntry) (status detail : Nat) : Chip := (c.endTransfer e.part e.slot).result e.slot status detail

/-- The end of a codec command: its context slot is released with it, but after BUFFER_FULL (R183). -/
def Chip.endCodec (c : Chip) (e : JEntry) (status detail : Nat) : Chip :=
  let c := match c.slotOfCmd e.slot with
    | some n => if status = Rc.BUFFER_FULL then c.updSlot n fun x => { x with cmd := none } else c.releaseSlot n
    | none => c
  c.endService e status detail

/-- A suspended service transfer is abandoned: its command completes with XLAT_ABANDONED and leaves no effect in engine state (R92, R183). -/
def Chip.abandonCommand (c : Chip) (slot : Nat) : Chip :=
  let c := (c.xlat.susp.filter fun s => s.cmd == some slot).foldl (fun (c : Chip) s => c.endTransfer s.part slot) c
  let c := match c.slotOfCmd slot with | some n => c.releaseSlot n | none => c
  c.result slot Rc.XLAT_ABANDONED

/-- The outcome of a stretch of a command that may have been suspended. -/
def settled (r : Except Chip Chip) : Chip :=
  match r with
  | .ok c => c
  | .error c => c

/-- A job of service descriptors begins (R127). -/
def Chip.beginJob (c : Chip) (e : JEntry) (ch list count region : Nat) : Chip :=
  c.updDma fun d => { d with jobs := d.jobs.filter (fun k => k.1 != ch) ++ [(ch, {
    slot := e.slot, part := e.part, opcode := e.opcode, list := list, count := count, region := region, gen := c.txn.gen })] }

/-- Instances that a TABLE_LOAD names (R426). [DESIGN CHOICE: log 122] -/
def loadInstances (e : JEntry) : List Nat := (List.range (e.param 0x1B 1)).map fun i => e.param (0x28 + 2 * i) 2

/-- The end of a TABLE_LOAD's transfers: DESC_BAD, or the switch of its instances under checks 1, 2 and 4 of R62 (R426). [DESIGN CHOICE: log 122] -/
def Chip.finishLoad (c : Chip) (now : Nat) (e : JEntry) (bad gen : Nat) : Chip :=
  if bad ≠ 0 then c.result e.slot Rc.DESC_BAD bad
  else if e.param 0x1A 1 = 3 ∨ e.param 0x1B 1 = 0 then c.result e.slot Rc.OK
  else c.commitEntries now e (triggerOf (e.param 0x1A 1) (e.param 0x20 8)) gen ((loadInstances e).map .table) false false

/-- TABLE_LOAD (R121, R426). [DESIGN CHOICE: log 122] -/
def Chip.tableLoad (c : Chip) (now : Nat) (e : JEntry) : Chip :=
  if e.param 0x10 8 % 32 ≠ 0 then c.result e.slot Rc.ERR_RANGE 0x10
  else if 1024 < e.param 0x18 2 then c.result e.slot Rc.ERR_RANGE 0x18
  else if 3 < e.param 0x1A 1 then c.result e.slot Rc.ERR_RANGE 0x1A
  else if 8 < e.param 0x1B 1 then c.result e.slot Rc.ERR_RANGE 0x1B
  else
    match (loadInstances e).findIdx? fun i => (tableRanges i).isEmpty with
    | some i => c.result e.slot Rc.ERR_RANGE (rangeDetail 0x28 i)
    | none =>
      c.onService 2 e fun ch c =>
        if e.param 0x18 2 = 0 then (c.freeChannel ch).finishLoad now e 0 c.txn.gen
        else c.beginJob e ch (e.param 0x10 8) (e.param 0x18 2) 0

/-- CAPTURE (R374, R431). [DESIGN CHOICE: log 122] -/
def Chip.captureCommand (c : Chip) (e : JEntry) : Chip :=
  let source := e.param 0x10 1
  let st := c.fld Fld.WINDLASS_CAP_STATUS_STATE
  if source = 0 ∨ 2 < source then c.result e.slot Rc.ERR_RANGE 0x10
  else if e.param 0x18 8 % 32 ≠ 0 then c.result e.slot Rc.ERR_RANGE 0x18
  else if e.param 0x20 2 = 0 ∨ 1024 < e.param 0x20 2 then c.result e.slot Rc.ERR_RANGE 0x20
  else if source = 1 ∧ (st = 1 ∨ st = 2) then c.result e.slot Rc.CAPTURE_BUSY
  else c.onService 2 e fun ch c => c.beginJob e ch (e.param 0x18 8) (e.param 0x20 2) source

/-- A job whose last STATUS word is written ends its command (R129, R426, R431). -/
def Chip.finishJobs (c : Chip) (now : Nat) (m : Merge) : Chip :=
  (c.dma.jobs.filter fun j => j.2.phase == 3).foldl (fun (c : Chip) j =>
    let c := c.freeChannel j.1
    match m.entry j.2.slot with
    | none => c
    | some e =>
      if e.opcode = 0x40 then c.finishLoad now e j.2.bad j.2.gen
      else if j.2.bad = 0 then c.result e.slot Rc.OK
      else c.result e.slot Rc.DESC_BAD j.2.bad) c

/-- Cut a byte list into entries of `n` bytes. -/
def entriesOf (n : Nat) : Nat → List Byte → List (List Byte)
  | 0, _ => []
  | k + 1, l => l.take n :: entriesOf n k (l.drop n)

/-- A buffer list entry: address and length; none when it breaks R430. -/
def bufferEntry (l : List Byte) : Option (Nat × Nat) :=
  let len := leNat ((l.drop 8).take 4)
  if len = 0 ∨ 16777216 < len ∨ leNat (l.drop 12) ≠ 0 then none else some (leNat (l.take 8), len)

/-- Read a buffer list; an entry that breaks R430 gives its index. -/
def Chip.readList (c : Chip) (mem : HostImg) (e : JEntry) (a n : Nat) : Except Chip (Except Nat (List (Nat × Nat)) × Chip) := do
  let (bs, c) ← c.commandRead mem e a (16 * n)
  let es := (entriesOf 16 n bs).map bufferEntry
  match es.findIdx? Option.isNone with
  | some i => pure (.error i, c)
  | none => pure (.ok (es.filterMap id), c)

/-- Read up to `need` bytes of a list of buffers, joined in order. -/
def Chip.readBuffers (mem : HostImg) (e : JEntry) : List (Nat × Nat) → Nat → Chip → Except Chip (List Byte × Chip)
  | [], _, c => .ok ([], c)
  | (a, n) :: l, need, c => do
    let (bs, c) ← c.commandRead mem e a (min n need)
    let (rest, c) ← Chip.readBuffers mem e l (need - n) c
    pure (bs ++ rest, c)

/-- Write bytes into a list of buffers, one after the other. -/
def Chip.writeBuffers (mem : HostImg) (e : JEntry) : List (Nat × Nat) → List Byte → Chip → Except Chip Chip
  | [], _, c => .ok c
  | (a, n) :: l, bs, c => do
    let c ← c.commandWrite mem e a (bs.take n)
    Chip.writeBuffers mem e l (bs.drop n) c

/-- Bytes that a list of buffers holds. -/
def bufferRoom (l : List (Nat × Nat)) : Nat := sumN (l.map (·.2))

/-- A list of buffers without its first `n` bytes. -/
def dropBuffers : Nat → List (Nat × Nat) → List (Nat × Nat)
  | _, [] => []
  | n, (a, k) :: l => if k ≤ n then dropBuffers (n - k) l else (a + n, k - n) :: l

/-- What a codec state record says of the point reached (R184). -/
structure CodecPoint where
  band : Nat := 0
  line : Nat := 0
  held : List Bool := []
  dot : Nat := 0
  inPos : Nat := 0
  outPos : Nat := 0
  k : Nat := 2
  head : List Byte := []

/-- A field of a state record (R184). -/
def recField (r : List Byte) (off n : Nat) : Nat := leNat ((r.drop off).take n)

/-- The point at which a codec command goes on: the one its state record says, else the beginning (R181, R182, R184). -/
def codecPoint : Option (List Byte) → CodecPoint
  | none => {}
  | some r => {
      band := recField r 0x14 4, line := recField r 0x18 2, held := (bitsOfBytes ((r.drop 0x40).take 32)).take (recField r 0x1A 2)
      dot := recField r 0x1C 4, inPos := recField r 0x20 8, outPos := recField r 0x28 8, k := recField r 0x30 1
      head := (r.drop 0x38).take 8 }

/-- The 2 KiB state record of R184; its engine-private bytes are free ones that the command reserved when it began. [DESIGN CHOICE: log 60] -/
def Chip.stateRecord (c : Chip) (e : JEntry) (kind slot width : Nat) (p : CodecPoint) : List Byte :=
  let seed := (c.xfer e.slot).elim 0 (·.seed)
  let priv := (List.range 1948).map fun i => Config.freeByte (seed + i)
  let h := leBytes 4 0x48535453 ++ leBytes 2 1 ++ [BitVec.ofNat 8 kind, BitVec.ofNat 8 slot] ++ leBytes 4 (c.slot slot).gen
    ++ leBytes 4 (c.reg Reg.GLOBAL_ID).toNat ++ leBytes 4 width ++ leBytes 4 p.band ++ leBytes 2 p.line ++ leBytes 2 p.held.length
    ++ leBytes 4 p.dot ++ leBytes 8 p.inPos ++ leBytes 8 p.outPos ++ [BitVec.ofNat 8 p.k] ++ List.replicate 7 0 ++ (p.head ++ List.replicate 8 0).take 8
    ++ (bytesOfBits 33 p.held ++ List.replicate 32 0).take 32 ++ priv
  h ++ leBytes 4 (crc32 h)

/-- Why a state record is refused (R185); none when the command may resume. [DESIGN CHOICE: log 60] -/
def Chip.recordCause (c : Chip) (kind width : Nat) (r : List Byte) : Option Nat :=
  let f := recField r
  let x := c.slot (f 7 1)
  if f 0 4 ≠ 0x48535453 ∨ f 4 2 ≠ 1 ∨ f 0x7FC 4 ≠ crc32 (r.take 0x7FC) then some 1
  else if f 0xC 4 ≠ (c.reg Reg.GLOBAL_ID).toNat then some 2
  else if 7 < f 7 1 ∨ !x.held ∨ x.gen ≠ f 8 4 ∨ x.cmd.isSome then some 3
  else if f 6 1 ≠ kind ∨ f 0x10 4 ≠ width then some 4
  else none

/-- Where a codec command works from: its context slot, and the state record of the command that it resumes (R181 to R185); else its outcome. [DESIGN CHOICE: log 60] -/
def Chip.codecStart (c : Chip) (mem : HostImg) (e : JEntry) (kind : Nat) : Except Chip (Option (Nat × Option (List Byte)) × Chip) :=
  let resume := bit (e.param 0x2E 1) 1
  match c.slotOfCmd e.slot with
  | some n =>
    if resume then do
      let (r, c) ← c.commandRead mem e (e.param 0x30 8) 2048
      pure (some (n, some r), c)
    else pure (some (n, none), c)
  | none =>
    if resume then do
      let (r, c) ← c.commandRead mem e (e.param 0x30 8) 2048
      match c.recordCause kind (e.param 0x24 4) r with
      | some k => pure (none, c.endCodec e Rc.STATE_INVALID k)
      | none =>
        let n := (r.getD 7 0).toNat
        pure (some (n, some r), c.updSlot n fun x => { x with cmd := some e.slot })
    else
      match (List.range 8).find? fun n => !(c.slot n).held with
      | none => pure (none, c.endCodec e Rc.CTX_SLOTS_FULL 0)
      | some n =>
        let c := c.updSlot n fun x => { held := true, gen := (x.gen + 1) % 2 ^ 32, part := e.part, cmd := some e.slot }
        let c := (c.setFld Fld.CODEC_SLOT_STATUS_HELD (maskWhere 8 fun i => (c.slot i).held)).setFld Fld.CODEC_SLOT_STATUS_PART e.part
        pure (some (n, none), c)

/-- The range checks that COMPRESS and DECOMPRESS_CHECK share: the offset of the first bad field (R404, R430, R432, R433). [DESIGN CHOICE: log 60] -/
def codecRange (e : JEntry) (check : Bool) : Option Nat :=
  let nout := e.param 0x22 2
  let pred := bits (e.param 0x2C 1) 3 0
  let period := e.param 0x2D 1
  let bare := check && nout == 0 && e.param 0x18 8 == 0
  if e.param 0x10 8 % 16 ≠ 0 then some 0x10
  else if e.param 0x18 8 % 16 ≠ 0 then some 0x18
  else if e.param 0x20 2 = 0 ∨ 256 < e.param 0x20 2 then some 0x20
  else if 256 < nout ∨ (nout = 0 ∧ !bare) then some 0x22
  else if e.param 0x24 4 = 0 ∨ 262143 < e.param 0x24 4 then some 0x24
  else if e.param 0x28 4 = 0 ∨ 16777216 < e.param 0x28 4 then some 0x28
  else if !check ∧ 5 < pred then some 0x2C
  else if !check ∧ (pred = 3 ∨ pred = 4) ∧ (period < 2 ∨ 64 < period) then some 0x2D
  else if e.param 0x30 8 % 64 ≠ 0 then some 0x30
  else none

/-- The dots of packed lines of ceil(WIDTH ÷ 2) bytes (R175). -/
def unpackLines (width : Nat) : Nat → List Byte → List Nat
  | 0, _ => []
  | n + 1, l => (unpackDots (l.take (cdiv width 2))).take width ++ unpackLines width n (l.drop (cdiv width 2))

/-- The lines of the input from dot `at_` of the first one, packed from the byte in which that dot lies (R175, R181). -/
def inputLines (width n at_ : Nat) (data : List Byte) : List (List Nat) :=
  let first := cdiv width 2 - at_ / 2
  match n with
  | 0 => []
  | n + 1 => ((unpackDots (data.take first)).drop (at_ % 2)).take (width - at_) :: cutLines width n (unpackLines width n (data.drop first))

/-- The items that a compressor has to emit from a point on, and the bit of its further output at which it stops when a block does not shrink: the held bits first, then the rest of the block begun under that block's own header, then the bands after it under the command's fields (R172, R179 to R181, R184). `left` is the input from there. -/
def CodecPoint.items (p : CodecPoint) (x : CodecCtx) (b : BlockCtl) (width lines : Nat) (left : List (List Nat)) : List Item × Option Nat :=
  if x.bits = 0 then encodeBands b width (cdiv lines 256) p.band left x.up x.up2 p.k p.inPos
  else
    let h := (blockHeader p.head).getD b
    let mine := left.take (h.lines - p.line)
    let first := mine.headD []
    let (is, k) := encodeLine h p.band x.up x.up2 (lineFuel first) x.forced first x.cur p.dot p.k p.inPos
    let (js, u, u2, k) := if mine.isEmpty then ([], x.up, x.up2, k)
      else encodeLines h p.band (mine.drop 1) (x.cur.reverse ++ first) x.up k (p.inPos + first.length)
    let raw := h.lines * width * 4
    let (items, n, grown) := closeBlock x.bits raw (is ++ js)
    let held := if p.held.isEmpty then [] else [{ bits := p.held, taken := p.inPos, k := p.k, band := p.band, forced := x.forced }]
    if grown then (held ++ items, some (p.held.length + raw - x.bits))
    else
      let rest := encodeBands b width (cdiv lines 256) (p.band + 1) (left.drop mine.length) u u2 k
        (p.inPos + sumN (mine.map (·.length)))
      (held ++ items ++ rest.1, rest.2.map fun m => m + (p.held.length + n - x.bits))

/-- The point a compressor has reached once it has written `out` bits, holds `held` and has emitted `last` as its last item, and what its context slot then holds (R181, R183, R184). A band whose last item is out is completed, and BLOCK then still holds the header of its block, for no item of the next one is held; one whose last item is held is not. [DESIGN CHOICE: log 60] -/
def CodecPoint.next (p : CodecPoint) (x : CodecCtx) (b : BlockCtl) (width lines : Nat) (left : List (List Nat)) (items : List Item)
    (out : Nat) (held : List Bool) (last : Item) : CodecPoint × CodecCtx :=
  let same := decide (x.bits ≠ 0) && last.band == p.band
  let mine := out + held.length - itemBits (items.filter fun i => decide (i.band < last.band))
  let whole := held.isEmpty && last.taken == min lines (256 * last.band + 256) * width
  let all := (x.cur.reverse ++ left.headD []) :: left.drop 1
  let j := last.taken / width - p.inPos / width
  let above (i : Nat) : List Nat := if i ≤ j then all.getD (j - i) [] else if i = j + 1 then x.up else x.up2
  ({ band := if whole then last.band + 1 else last.band
     line := if whole then 0 else last.taken / width - 256 * last.band
     held := held, dot := last.taken % width, inPos := last.taken, outPos := p.outPos + out, k := last.k
     head := if same then p.head else compHeader b (min 256 (lines - 256 * last.band)) },
   { up := above 1, up2 := above 2, cur := ((all.getD j []).take (last.taken % width)).reverse, forced := last.forced
     bits := if whole then 0 else if same then x.bits + mine - p.held.length else mine - 128 })

/-- COMPRESS on its channel; a command that ends in NO_GAIN has written nothing to its output buffers (R179 to R185, R432). [DESIGN CHOICE: log 60, 143] -/
def Chip.compressOn (c : Chip) (mem : HostImg) (e : JEntry) : Except Chip Chip := do
  let (start, c) ← c.codecStart mem e 0
  match start with
  | none => pure c
  | some (slot, record) =>
    let (ins, c) ← c.readList mem e (e.param 0x10 8) (e.param 0x20 2)
    let (outs, c) ← c.readList mem e (e.param 0x18 8) (e.param 0x22 2)
    match ins, outs with
    | .error i, _ => pure (c.endCodec e Rc.ERR_FORMAT (rangeDetail 0 i))
    | _, .error i => pure (c.endCodec e Rc.ERR_FORMAT (rangeDetail 0 i))
    | .ok ins, .ok outs =>
      let width := e.param 0x24 4
      let lines := e.param 0x28 4
      let need := lines * cdiv width 2
      if bufferRoom ins < need then pure (c.endCodec e Rc.ERR_RANGE 0x10)
      else do
        let p := codecPoint record
        let x := (c.slot slot).ctx
        let from_ := p.inPos / width * cdiv width 2 + p.dot / 2
        let (data, c) ← Chip.readBuffers mem e (dropBuffers from_ ins) (need - from_) c
        let left := inputLines width (lines - p.inPos / width) p.dot data
        let psel := e.param 0x2C 1
        let ctl : BlockCtl := {
          mode := 0, run := bit (e.param 0x2E 1) 0, setK := false, pred := bits psel 3 0, tset := bits psel 6 4
          period := e.param 0x2D 1, runK := 0, lines := 0 }
        let (items, stop) := p.items x ctl width lines left
        let room := 8 * bufferRoom outs
        let (out, held, last, rest) := fillBits items room [] { bits := [], taken := p.inPos, k := p.k, band := p.band, forced := x.forced }
        match stop.filter fun n => decide (n ≤ room) with
        | some _ => pure (c.endCodec e Rc.NO_GAIN 0)
        | none =>
          let bs := bytesOfBits (out.length + 1) out
          let c ← Chip.writeBuffers mem e outs bs c
          if rest || !held.isEmpty then
            let (p, x) := p.next x ctl width lines left items out.length held last
            let c ← c.commandWrite mem e (e.param 0x30 8) (c.stateRecord e 0 slot width p)
            pure ((c.updSlot slot fun y => { y with ctx := x }).endCodec e Rc.BUFFER_FULL 0)
          else pure (c.endCodec e Rc.OK bs.length)

/-- COMPRESS (R432). -/
def Chip.compress (c : Chip) (mem : HostImg) (e : JEntry) : Chip :=
  match codecRange e false with
  | some off => c.result e.slot Rc.ERR_RANGE off
  | none => c.onService 3 e fun _ c => settled (c.compressOn mem e)

/-- Go on with a stream from the place that a context slot holds, or from its beginning: the lines decoded from there on, and the error that ended it with its band (R182). `bytes` begins with the byte in which that place lies. -/
def decodeOn (width lines done : Nat) (x : CodecCtx) (bytes : List Byte) : List (List Nat × LineEnd) × Option (Nat × Nat) :=
  if x.at_.head.isEmpty then decodeStream width lines (cdiv lines 256) 0 { up := [], up2 := [], k := 2, cu := { bytes := bytes } } []
  else
    let p := x.at_
    let total := min 256 (lines - 256 * p.band)
    match decodeRest width total p x.crc (decide (256 * p.band + total < lines))
        { up := x.up, up2 := p.above, k := p.k, cu := { bytes := bytes, used := p.pos % 8, pos := p.pos }, base := done - 256 * p.band } with
    | .error (y, d) => (d.lines.reverse, some (y.code, p.band))
    | .ok d => decodeStream width lines (cdiv lines 256) (p.band + 1) d d.lines.reverse

/-- What the context slot of a decoder holds after lines of which the last ended at a place (R182, R183). -/
def CodecCtx.after (x : CodecCtx) (got : List (List Nat × LineEnd)) : CodecCtx :=
  match got.getLast? with
  | none => x
  | some (line, p) =>
    let crc := if x.at_.head.isEmpty ∨ x.at_.band ≠ p.band then crc32Start else x.crc
    { up := line, at_ := p, crc := crc32More crc ((got.filter fun l => l.2.band == p.band).flatMap fun l => packLine l.1) }

/-- DECOMPRESS_CHECK on its channel; the output buffers are one joined space, so a line may span two (R182 to R185, R433). [DESIGN CHOICE: log 60, 143] -/
def Chip.decompressOn (c : Chip) (mem : HostImg) (e : JEntry) : Except Chip Chip := do
  let (start, c) ← c.codecStart mem e 1
  match start with
  | none => pure c
  | some (slot, record) =>
    let bare := e.param 0x22 2 == 0
    let (ins, c) ← c.readList mem e (e.param 0x10 8) (e.param 0x20 2)
    let (outs, c) ← c.readList mem e (e.param 0x18 8) (e.param 0x22 2)
    match ins, outs with
    | .error i, _ => pure (c.endCodec e Rc.ERR_FORMAT (rangeDetail 0 i))
    | _, .error i => pure (c.endCodec e Rc.ERR_FORMAT (rangeDetail 0 i))
    | .ok ins, .ok outs =>
      let width := e.param 0x24 4
      let lines := e.param 0x28 4
      let p := codecPoint record
      let x := (c.slot slot).ctx
      let (data, c) ← Chip.readBuffers mem e (dropBuffers (p.inPos / 8) ins) (bufferRoom ins - p.inPos / 8) c
      let (got, err) := decodeOn width lines p.outPos x data
      let fit := if bare then lines - p.outPos else bufferRoom outs / cdiv width 2
      let new := got.take fit
      let c ← Chip.writeBuffers mem e outs (if bare then [] else new.flatMap fun l => packLine l.1) c
      if fit < lines - p.outPos ∧ fit ≤ got.length then
        let x := x.after new
        let done := p.outPos + fit
        let p : CodecPoint := {
          band := done / 256, line := done % 256, inPos := x.at_.pos, outPos := done, k := x.at_.k, head := x.at_.head }
        let c ← c.commandWrite mem e (e.param 0x30 8) (c.stateRecord e 1 slot width p)
        pure ((c.updSlot slot fun y => { y with ctx := x }).endCodec e Rc.BUFFER_FULL 0)
      else
        match err with
        | some (code, band) => pure (c.endCodec e Rc.SIPHON_BAD (code + band % 2 ^ 24 * 256))
        | none => pure (c.endCodec e Rc.OK (cdiv lines 256))

/-- DECOMPRESS_CHECK (R433). -/
def Chip.decompress (c : Chip) (mem : HostImg) (e : JEntry) : Chip :=
  match codecRange e true with
  | some off => c.result e.slot Rc.ERR_RANGE off
  | none => c.onService 3 e fun _ c => settled (c.decompressOn mem e)

/-- MARK_STRIP: the report of the latest complete result set as it stands when the command starts (R429). [DESIGN CHOICE: log 125] -/
def Chip.markStrip (c : Chip) (mem : HostImg) (e : JEntry) : Chip :=
  let source := e.param 0x10 1
  let len := e.param 0x20 4
  if source = 0 ∨ 3 < source then c.result e.slot Rc.ERR_RANGE 0x10
  else if e.param 0x18 8 % 16 ≠ 0 then c.result e.slot Rc.ERR_RANGE 0x18
  else if len < 16 ∨ 16777216 < len then c.result e.slot Rc.ERR_RANGE 0x20
  else
    c.onService 2 e fun _ c =>
      let fixed := ((c.xfer e.slot).bind (·.saved)).getD ((c.seam.reports.getD (source - 1) []).flatMap fun w => leBytes 4 w.toNat)
      let c := c.updXfer e.slot fun x => { x with saved := some fixed }
      let n := fixed.length / 16
      let k := min n (len / 16)
      match c.commandWrite mem e (e.param 0x18 8) (fixed.take (16 * k)) with
      | .error c => c
      | .ok c => if k < n then c.endService e Rc.BUFFER_FULL 0 else c.endService e Rc.OK n

/-- A mark of a map entry (R256); none when the entry is not valid. [DESIGN CHOICE: log 82] -/
def mapMark (l : List Byte) : Option Mark :=
  let f (off n : Nat) : Nat := leNat ((l.drop off).take n)
  let role := f 0xA 1
  let m := f 0xC 1
  if 7 < f 8 1 ∨ 15 < f 9 1 ∨ 2 < role ∨ (role ≠ 2 ∧ 14 < f 0xB 1) ∨ m < 8 ∨ 31 < m ∨ f 0xD 3 ≠ 0 then none
  else some {
    station := f 8 1, pos := f 9 1, role := role, seam := if role = 2 then 15 else f 0xB 1
    x := 256 * (f 0 4 : Nat), y := 128 * (f 4 4 : Nat), m := m, my := m, line := f 4 4 - m / 2 }

/-- Another SEAM_MEASURE names the page: its measurement waits or runs, or it has started and still reads its map (R428). -/
def Chip.measuring (c : Chip) (m : Merge) (e : JEntry) (p : Page) : Bool :=
  (c.seam.meas.any fun k => k.source == 2 && k.page == p.seq)
    || m.journal.any fun x => x.slot != e.slot && x.part == e.part && x.opcode == 0x42 && x.phase == .started && x.param 0x20 8 == p.tag

/-- SEAM_MEASURE: the checks are those of its start; where its page ends while the map is read, it has no results (R256, R428). [DESIGN CHOICE: log 82] -/
def Chip.seamMeasure (c : Chip) (x : Ctx) (mem : HostImg) (e : JEntry) : Chip :=
  let n := e.param 0x18 2
  if e.param 0x10 8 % 16 ≠ 0 then c.result e.slot Rc.ERR_RANGE 0x10
  else if n = 0 ∨ 1024 < n then c.result e.slot Rc.ERR_RANGE 0x18
  else if e.phase == .accepted && !c.flag Fld.SEAM_CTL_LSCAN_EN then c.result e.slot Rc.ERR_STATE c.state
  else
    match c.pages.find? fun p => p.part == e.part && p.tag == e.param 0x20 8 with
    | none => c.result e.slot (if e.phase == .accepted then Rc.PAGE_UNKNOWN else Rc.MEAS_INCOMPLETE)
    | some p =>
      if e.phase == .accepted && p.running then c.result e.slot Rc.PAGE_STARTED
      else if e.phase == .accepted && c.measuring x.merge e p then c.result e.slot Rc.ERR_STATE c.state
      else
        c.onService 2 e fun _ c =>
          match c.commandRead mem e (e.param 0x10 8) (16 * n) with
          | .error c => c
          | .ok (bs, c) =>
            let ms := (entriesOf 16 n bs).map mapMark
            let c := c.endTransfer e.part e.slot
            match ms.findIdx? Option.isNone with
            | some i => c.result e.slot Rc.ERR_FORMAT (rangeDetail 0 i)
            | none => c.updSeam fun x => { x with meas := x.meas ++ [{
                source := 2, page := p.seq, tag := e.tag.toNat, part := p.part, slot := some e.slot, marks := ms.filterMap id }] }

/-- EMITTER_CALIBRATE: it waits, not started, while one of its tiles is being calibrated; from its start it holds a service channel of level 2 up to its end (R121, R240, R427). [DESIGN CHOICE: log 70] -/
def Chip.emitterCalibrate (c : Chip) (e : JEntry) : Chip :=
  let tiles := (List.range 64).filter fun t => bit (e.param 0x10 8) t
  let c := c.updEng fun x => { x with calWait := x.calWait.filter fun w => w.1 != e.slot }
  if (c.serviceOf e.slot).isNone && c.calBusy tiles then c.updEng fun x => { x with calWait := x.calWait ++ [(e.slot, tiles)] }
  else if c.chain.isSome then c.result e.slot Rc.ERR_STATE c.state
  else
    match tiles.find? fun t => !(c.tileUp t && c.flag (Fld.TILE_CFG_ENABLE t)) with
    | some t => c.result e.slot Rc.ERR_RANGE (rangeDetail 0x10 t)
    | none => c.onService 2 e fun _ c => c.calCommand e.slot tiles

/-- The EMITTER_CALIBRATE commands that waited for a calibration to end start now, with the checks of their start (R240, R404). [DESIGN CHOICE: log 70] -/
def Chip.calResume (c : Chip) (x : Ctx) : Chip :=
  c.eng.calWait.foldl (fun (c : Chip) w => command 0x41 w.1 (fun e _ c => c.emitterCalibrate e) x c) c

/-- A field write of LOOP_CONFIG's own: RW fields only. -/
def Chip.putRw (c : Chip) (off : Nat) (v : Word) : Chip :=
  match RegMap.find off with
  | some (r, ix) => c.setReg off (BitVec.ofNat 32 (c.combine r ix (c.reg off).toNat v.toNat).1)
  | none => c

/-- An internal SAFE transaction whose targets can switch at once: it advances TXN.GEN, enters the conflict log and applies (R63, R67). [DESIGN CHOICE: log 123] -/
def Chip.internalSafe (c : Chip) (l : List Staged) : Chip :=
  let g := c.txn.gen + 1
  let c := c.updTxn fun x => { x with
    gen := g
    log := ((l.map fun s => (g, s.target)).eraseDups ++ x.log).filter fun e => decide (g < e.1 + logReach) }
  let c := (c.setReg Reg.TXN_GEN (BitVec.ofNat 32 g)).setReg Reg.TXN_LOG_OLDEST (BitVec.ofNat 32 c.txn.oldest)
  l.foldl Chip.applyEntry c

/-- The source codes of SLOT_IO are listed (R354). -/
def ioListed (w : Word) : Bool :=
  srcListed (bits w.toNat 7 0) && srcListed (bits w.toNat 15 8)

/-- A PERIOD within its range (R356). -/
def periodOk (w : Word) : Bool := decide (3125 ≤ bits w.toNat 27 0) && decide (bits w.toNat 27 0 ≤ 250000000)

/-- The register offset of an image byte of LOOP_CONFIG's biquads (R375, R424). -/
def biquadReg (n i k : Nat) : Nat := Reg.WINDLASS_BIQUAD n i k

/-- Word `off` of a slot image. [DESIGN CHOICE: log 123] -/
def imageWord (img : List Byte) (off : Nat) : Word := BitVec.ofNat 32 (leNat ((img.drop off).take 4))

/-- ERR_LOOP_CFG or WL_OVERLOAD of LOOP_CONFIG (R423). [DESIGN CHOICE: log 123] -/
def Chip.loopRefused (c : Chip) (e : JEntry) (n cause off : Nat) : Chip :=
  let c := c.wlRefused n cause
  if cause = 3 then c.result e.slot Rc.WL_OVERLOAD else c.result e.slot Rc.ERR_LOOP_CFG (cause + off * 256)

/-- Apply a slot image: SLOT_IO and PERIOD, the other RW fields, the T fields by an internal SAFE transaction, and LAW last (R372, R423, R424). [DESIGN CHOICE: log 123] -/
def Chip.applyImage (c : Chip) (now : Nat) (e : JEntry) (n : Nat) (img : List Byte) : Chip :=
  let base := 0x390000 + n * 0x40
  let io := imageWord img 4
  let period := imageWord img 8
  if !ioListed io then c.loopRefused e n 1 4
  else
    let c := c.putRw (base + 4) io
    if !periodOk period then c.loopRefused e n 1 8
    else
      let c := c.putRw (base + 8) period
      if c.wl.owned && c.wl.belt == n then c.loopRefused e n 2 0xC else
      let c := ((c.putRw (base + 0xC) (imageWord img 0xC)).putRw (base + 0x14) (imageWord img 0x14)).putRw (base + 0x34) (imageWord img 0x34)
      let ts := [0x10, 0x18, 0x1C, 0x20, 0x24, 0x28, 0x2C, 0x30].map fun k => Staged.reg (base + k) 0xFFFFFFFF (imageWord img k)
      let bs := (List.range 20).map fun k =>
        Staged.reg (biquadReg n (k / 5) (k % 5)) 0xFFFFFFFF (imageWord img (0x40 + k / 5 * 0x14 + k % 5 * 4))
      let c := c.internalSafe (ts ++ bs)
      let old := c.reg base
      let c := c.putRw base (imageWord img 0)
      match c.slotCfgCause n old with
      | some k => ((c.setFld (Fld.WINDLASS_SLOT_CFG_LAW n) 0).slotCfgSet now n old).loopRefused e n k 0
      | none => (c.slotCfgSet now n old).result e.slot Rc.OK

/-- LOOP_CONFIG (R423, R424). A slot that feeds a FOC drive or carries an injection stops as a write of LAW 0 stops it. [DESIGN CHOICE: log 123] -/
def Chip.loopConfig (c : Chip) (now : Nat) (mem : HostImg) (e : JEntry) : Chip :=
  let n := e.param 0x10 1
  let action := e.param 0x11 1
  if 95 < n then c.result e.slot Rc.ERR_RANGE 0x10
  else if 1 < action then c.result e.slot Rc.ERR_RANGE 0x11
  else if action = 0 then
    if e.param 0x18 8 ≠ 0 then c.result e.slot Rc.ERR_RANGE 0x18
    else if c.beltOrDrum n ∧ (c.state = St.primed ∨ c.state = St.printing) then c.result e.slot Rc.ERR_STATE c.state
    else
      let c := c.started e.slot
      let old := c.reg (Reg.WINDLASS_SLOT_CFG n)
      let c := c.setFld (Fld.WINDLASS_SLOT_CFG_LAW n) 0
      match c.slotCfgCause n old with
      | some k => (c.setReg (Reg.WINDLASS_SLOT_CFG n) old).loopRefused e n k 0
      | none => (c.slotCfgSet now n old).result e.slot Rc.OK
  else if e.param 0x18 8 % 32 ≠ 0 then c.result e.slot Rc.ERR_RANGE 0x18
  else if c.slotRuns n then c.result e.slot Rc.ERR_STATE c.state
  else
    match (c.useChannel e.slot (8 + 2 * e.part)).commandRead mem e (e.param 0x18 8) 160 with
    | .error c => c
    | .ok (img, c) =>
      let c := (c.endTransfer e.part e.slot).started e.slot
      match ((rangeFrom 0x38 8) ++ rangeFrom 0x90 16).find? fun i => img.getD i 0 != 0 with
      | some i => c.result e.slot Rc.ERR_LOOP_CFG (1 + i * 256)
      | none => c.applyImage now e n img

/-- The state byte of a command in QUERY kind 1; one that its acceptance refused never started (R404, R437). [DESIGN CHOICE: log 124] -/
def phaseCode (e : JEntry) : Nat :=
  match e.phase with
  | .accepted => 1
  | .started => 2
  | .result => if e.refused then 1 else 2
  | .completed => 3

/-- The 64 bytes of a QUERY result (R437). [DESIGN CHOICE: log 124] -/
def Chip.queryResult (c : Chip) (x : Ctx) (e : JEntry) : List Byte :=
  let kind := e.param 0x10 1
  let ix := e.param 0x11 1
  let tag := e.param 0x18 8
  let body : List Byte :=
    if kind = 0 then
      leBytes 4 (c.reg Reg.GLOBAL_ID).toNat
        ++ [BitVec.ofNat 8 c.state, BitVec.ofNat 8 (c.pages.filter fun p => !p.running).length,
            BitVec.ofNat 8 (match c.chain with | some h => h.part | none => 0xFF), 0]
        ++ leBytes 8 x.now ++ leBytes 8 (x.merge.nextSeq - 1) ++ leBytes 2 x.merge.journal.length ++ leBytes 2 x.merge.held.length
    else if kind = 1 then
      match x.merge.journal.reverse.find? fun k => k.part == e.part && k.ring == ix && k.tag.toNat == tag with
      | none => []
      | some k => leBytes 8 (phaseCode k) ++ leBytes 8 k.seq ++ leBytes 8 (if k.phase = .completed then k.cseq else 0)
    else if kind = 2 then
      match c.pages.find? fun p => p.part == e.part && p.tag == tag with
      | none => []
      | some p =>
        [BitVec.ofNat 8 (if p.cut.isSome then 3 else if p.running then 2 else 1), BitVec.ofNat 8 (b2n p.joined), BitVec.ofNat 8 p.stns.length, 0]
          ++ leBytes 4 p.speed ++ leBytes 8 (p.origin.getD 0) ++ leBytes 8 (p.cut.getD 0) ++ leBytes 4 p.lines
          ++ leBytes 2 p.locks.length ++ leBytes 2 p.descs
    else
      ((List.range 16).flatMap fun k => leBytes 2 ((c.biasOf ix).getD k 0 % 4096)) ++ leBytes 2 (c.tile ix).disabled
        ++ [BitVec.ofNat 8 (c.fld (Fld.TILE_LINK_STATUS_STATE ix)), BitVec.ofNat 8 (c.fld (Fld.TILE_SCHED_STATUS_STATE ix))]
  (body ++ List.replicate 64 0).take 64

/-- QUERY: the values of its start, also where the write of its result waits (R406, R436, R437). [DESIGN CHOICE: log 124] -/
def Chip.query (c : Chip) (mem : HostImg) (x : Ctx) (e : JEntry) : Chip :=
  let kind := e.param 0x10 1
  if 3 < kind then c.result e.slot Rc.ERR_RANGE 0x10
  else if (kind = 1 ∧ 3 < e.param 0x11 1) ∨ (kind = 3 ∧ 63 < e.param 0x11 1) then c.result e.slot Rc.ERR_RANGE 0x11
  else if e.param 0x20 8 % 64 ≠ 0 then c.result e.slot Rc.ERR_RANGE 0x20
  else
    let fixed := ((c.xfer e.slot).bind (·.saved)).getD (c.queryResult x e)
    let c := (c.useChannel e.slot (9 + 2 * e.part)).updXfer e.slot fun x => { x with saved := some fixed }
    match c.commandWrite mem e (e.param 0x20 8) fixed with
    | .error c => c
    | .ok c => (c.started e.slot).endService e Rc.OK 0

/-- FENCE has no effect and completes with OK under the ordering of R120 (R435). -/
def Chip.fence (c : Chip) (e : JEntry) : Chip := c.result e.slot Rc.OK

end Sys2Proof.Machine
end

