-- ==== Sys2Proof/Machine/Rings.lean ====
section
/-! DEFINITION. Rings and queues: doorbell polls, acceptance of entries, the checks at acceptance, barrier reads, deliveries, and what follows on a doorbell block (R92, R99, R100, R105 to R120, R404, R443 to R447).
-/
namespace Sys2Proof.Machine

/-- The opcodes of the command set (R409). -/
def knownOpcodes : List Nat :=
  [0x01, 0x02, 0x03, 0x04, 0x05, 0x06, 0x10, 0x11, 0x12, 0x13, 0x20, 0x21, 0x22, 0x23, 0x24, 0x30, 0x31, 0x32, 0x33, 0x34,
   0x40, 0x41, 0x42, 0x43, 0x44, 0x45, 0x46, 0x47, 0xF0, 0xF1]

/-- An opcode belongs to a ring (R409). -/
def ringTakes (ring o : Nat) : Bool :=
  knownOpcodes.contains o && (o / 16 == 15 || (if o / 16 ≤ 1 then ring == 0 else o / 16 == ring + 1))

/-- The privilege classes and the master partition that an opcode needs (R409). -/
def neededClasses (o : Nat) : Nat × Bool :=
  if o = 0x02 ∨ o = 0x03 ∨ o = 0x04 then (0, true)
  else if o = 0x06 then (4, true)
  else if o / 16 = 2 then (1, false)
  else if o / 16 = 3 then (2, false)
  else if o / 16 = 4 then (4, false)
  else (0, false)

/-- The parameter bytes that the tables of an opcode list: offset and length; those that a field of the entry makes 0 are left out (R403, R404, R410 to R436). [DEDUCED: log 39] -/
def listedBytes (o : Nat) (f : Nat → Nat → Nat) : List (Nat × Nat) :=
  if o = 0x06 then [(0x10, 8), (0x18, 2), (0x20, 8)]
  else if o = 0x11 then
    if f 0x10 1 = 1 then [(0x10, 1), (0x12, 2)] else [(0x10, 1), (0x12, 2), (0x14, 12)]
  else if o = 0x12 then if f 0x10 1 = 0 then [(0x10, 1)] else if f 0x10 1 = 1 then [(0x10, 1), (0x18, 6)] else [(0x10, 1), (0x18, 8)]
  else if o = 0x20 ∨ o = 0x23 ∨ o = 0x24 ∨ o = 0x41 then [(0x10, 8)]
  else if o = 0x30 then [(0x10, 1), (0x11, min 4 (f 0x10 1)), (0x18, 16)]
  else if o = 0x31 then if f 0x10 1 < 0x10 then [(0x10, 2), (0x14, 4)] else [(0x10, 1), (0x14, 4)]
  else if o = 0x32 then [(0x10, 1)]
  else if o = 0x33 then if f 0x11 1 = 0 then [(0x10, 2)] else [(0x10, 2), (0x18, 8)]
  else if o = 0x34 then if f 0x12 1 = 2 then [(0x10, 6), (0x18, 16)] else [(0x10, 3), (0x18, 16)]
  else if o = 0x40 then
    [(0x10, 8), (0x18, 4)] ++ (if f 0x1A 1 = 1 then [(0x20, 6)] else if f 0x1A 1 = 2 then [(0x20, 8)] else [])
      ++ [(0x28, 2 * min 8 (f 0x1B 1))]
  else if o = 0x42 then [(0x10, 8), (0x18, 2), (0x20, 8)]
  else if o = 0x43 then [(0x10, 1), (0x18, 8), (0x20, 4)]
  else if o = 0x44 then [(0x10, 1), (0x18, 8), (0x20, 2)]
  else if o = 0x45 then
    let pred := f 0x2C 1 % 16
    [(0x10, 20), (0x24, 8), (0x2C, 1)] ++ (if pred = 3 ∨ pred = 4 then [(0x2D, 1)] else []) ++ [(0x2E, 1), (0x30, 8)]
  else if o = 0x46 then [(0x10, 20), (0x24, 8), (0x2E, 1), (0x30, 8)]
  else if o = 0x47 then if f 0x10 1 = 1 then [(0x10, 1), (0x18, 8), (0x20, 9)] else [(0x10, 1)]
  else if o = 0xF1 then
    [(0x10, 1)] ++ (if f 0x10 1 = 1 ∨ f 0x10 1 = 3 then [(0x11, 1)] else [])
      ++ (if f 0x10 1 = 1 ∨ f 0x10 1 = 2 then [(0x18, 8)] else []) ++ [(0x20, 8)]
  else []

/-- Must-be-0 bits within a listed byte (R432, R433). [DEDUCED: log 39] -/
def reservedBits (o off : Nat) : Nat :=
  if o = 0x45 ∧ off = 0x2C then 0x80 else if (o = 0x45 ∨ o = 0x46) ∧ off = 0x2E then 0xFC else 0

/-- The first byte of an entry in which a must-be-0 bit is 1 (R105, R403, R404). [DEDUCED: log 39] -/
def formatFault (e : Entry) : Option Nat :=
  let o := e.byte 0
  let l := listedBytes o e.field
  let listed (k : Nat) : Bool := l.any fun r => decide (r.1 ≤ k) && decide (k < r.1 + r.2)
  ((1 :: rangeFrom 2 6) ++ rangeFrom 0x10 48).find? fun k =>
    if k = 1 then decide (8 ≤ e.byte 1)
    else if k < 8 then e.byte k != 0
    else if listed k then e.byte k &&& reservedBits o k != 0
    else e.byte k != 0

/-- Checks 1 to 3 of R404, made at acceptance: status and DETAIL of the first that fails. [DEDUCED: log 39] -/
def Chip.acceptCheck (c : Chip) (p ring : Nat) (e : Entry) : Option (Nat × Nat) :=
  let o := e.byte 0
  let (need, master) := neededClasses o
  if !ringTakes ring o then some (Rc.ERR_OPCODE, 0)
  else match formatFault e with
    | some k => some (Rc.ERR_FORMAT, k)
    | none =>
      if need &&& c.classes p ≠ need ∨ (master ∧ p ≠ 0) then some (Rc.ERR_PRIV, need + 16 * b2n master) else none

/-- Nothing is accepted: the journal is sealed with the loads shed, retention SRAM or both core pairs failed; in another stop IDLE is still accepted (R26, R382, R396, R453). [DESIGN CHOICE: log 106] -/
def acceptanceClosed (m : Merge) (c : Chip) : Bool := (m.sealed && c.eng.shed) || m.broken || c.eng.coresFailed

/-- One more entry of a ring is accepted: HEAD, and the OWN clear is queued (R108, R130). -/
def Merge.takeEntry (m : Merge) (p ring flags : Nat) : Merge :=
  m.updPart p fun q =>
    let n := q.heads.getD ring 0
    { q with heads := updAt q.heads ring fun _ => (n + 1) % 2 ^ 32, writes := q.writes ++ [.ownClear ring n (flags - flags % 2)] }

/-- Accept one fetched entry of a ring, or stop there: OWN 0, nothing accepted now, or no journal room; the acceptance is numbered once its instant is over, until then it carries the number it would take next (R30, R106, R111, R443, R446, R447). [DESIGN CHOICE: logs 40, 148] -/
def acceptOne (now p ring : Nat) (e : Entry) (x : Merge × Chip) : Option (Merge × Chip) :=
  let (m, c) := x
  let flags := e.byte 1
  let tag := e.field 8 8
  if flags % 2 = 0 ∨ acceptanceClosed m c then none
  else
    match m.matchTag p (BitVec.ofNat 64 tag) with
    | some k =>
      let m := m.takeEntry p ring flags
      some ((m.setOrder p ring (m.ringOrder p ring ++ [.dup k.slot])).flush c now p ring, c)
    | none =>
      match m.slotFor p (e.byte 0) ring with
      | none => none
      | some slot =>
        let j : JEntry := {
          slot := slot, tag := BitVec.ofNat 64 tag, seq := m.nextSeq + c.eng.accepting.length, time := now, part := p, ring := ring, opcode := e.byte 0
          barrier := bit flags 1, fence := bit flags 2, entry := e }
        let m := { m with journal := m.journal ++ [j] }
        let m := (m.setOrder p ring (m.ringOrder p ring ++ [.cmd slot])).takeEntry p ring flags
        let c := c.updEng fun g => { g with accepting := g.accepting ++ [slot] }
        match c.acceptCheck p ring e with
        | some (status, detail) => some (m.refuse slot status detail, c)
        | none => some (m, c)

/-- Accept fetched entries in index order up to the first that stops acceptance: whether all were accepted (R111). -/
def acceptAll (now p ring : Nat) : List Entry → Merge × Chip → Bool × (Merge × Chip)
  | [], x => (true, x)
  | e :: l, x =>
    match acceptOne now p ring e x with
    | none => (false, x)
    | some y => acceptAll now p ring l y

/-- Entries fetched in one burst: up to 4, within 4 KiB and before the ring wraps (R111, R122). -/
def fetchBursts (ring log : Nat) : Nat → Nat → Nat → List FItem
  | 0, _, _ => []
  | fuel + 1, from_, n =>
    if n = 0 then []
    else
      let s := from_ % 2 ^ log
      let k := min (min 4 n) (min (64 - s % 64) (2 ^ log - s))
      .entries ring from_ k :: fetchBursts ring log fuel ((from_ + k) % 2 ^ 32) (n - k)

/-- Entry fetches of a ring are outstanding. [DESIGN CHOICE: log 38] -/
def PartQ.fetching (q : PartQ) (ring : Nat) : Bool :=
  q.fetches.any fun i => match i with | .entries r _ _ => r == ring | _ => false

/-- A journal entry other than the SAFE_STOP reserve is free for a partition (R447). -/
def Merge.hasRoom (m : Merge) (p : Nat) : Bool := (m.slotFor p 0 1).isSome

/-- A record of the doorbell block's judgement: a value becomes invalid (R112, R440). -/
def Chip.doorbellInvalid (c : Chip) (p field value against : Nat) : Chip :=
  c.eventTo p Rc.DOORBELL_INVALID 0 (value + against * 2 ^ 32) field

/-- A tail of the doorbell block: its validity, and the fetches it asks for (R111, R112, R447). -/
def judgeTail (p : Nat) (b : Entry) (x : Merge × Chip) (ring : Nat) : Merge × Chip :=
  let (m, c) := x
  let q := m.part p
  let log := (q.geom.getD {}).ringLog.getD ring 4
  let tail := b.field (4 * ring) 4
  let head := q.heads.getD ring 0
  let n := (tail + 2 ^ 32 - head) % 2 ^ 32
  if 2 ^ log < n then
    let m := m.updPart p fun q => { q with tailErr := updAt q.tailErr ring fun _ => true }
    (m, if q.tailErr.getD ring false then c else c.doorbellInvalid p ring tail head)
  else
    let n := if m.hasRoom p then n else if ring = 0 then min 1 n else 0
    let more := if q.fetching ring then [] else fetchBursts ring log (n + 1) head n
    (m.updPart p fun q => { q with tailErr := updAt q.tailErr ring (fun _ => false), fetches := q.fetches ++ more }, c)

/-- A queue head of the doorbell block is invalid: ahead of the tail, or more than the queue size behind it (R112). -/
def headBad (head tail log : Nat) : Bool := decide (2 ^ log < (tail + 2 ^ 32 - head) % 2 ^ 32)

/-- CQ_HEAD and EQ_HEAD of the doorbell block: acknowledgements and freed slots (R109, R112, R117, R444). -/
def judgeHeads (p : Nat) (b : Entry) (x : Merge × Chip) : Merge × Chip :=
  let (m, c) := x
  let q := m.part p
  let g := q.geom.getD {}
  let ch := b.field 0x14 4
  let eh := b.field 0x18 4
  let badC := headBad ch q.cq.tail g.cqLog
  let badE := headBad eh q.eq.tail g.eqLog
  let c := if badC && !q.cqErr then c.doorbellInvalid p 4 ch q.cq.tail else c
  let c := if badE && !q.eqErr then c.doorbellInvalid p 5 eh q.eq.tail else c
  let m := if badC then m else (m.ackCompletions p ch).updPart p fun q => { q with cq := { q.cq with head := ch } }.judgeFull
  let m := if badE then m else m.updPart p fun q => { q.ackEvents eh with eq := { q.eq with head := eh } }.judgeFull
  (m.updPart p fun q => { q with cqErr := badC, eqErr := badE, headErr := badC || badE }, c)

/-- A suspended Sump transfer is abandoned: its segment is dropped and a gap with cause 3 is recorded (R92, R481). [DESIGN CHOICE: log 129] -/
def Chip.abandonSegment (c : Chip) : Chip :=
  match c.sump.closed with
  | [] => c
  | s :: l =>
    (c.updSump fun x => { x with closed := l, closedBytes := x.closedBytes - s.size, sent := 0, streamed := x.streamed + 1 }).openGap s.base 3 s.nrec

/-- The fault-resume word: acted on when its FAULT_ID names a suspended transfer of the partition (R92). [DESIGN CHOICE: log 32] -/
def Chip.faultResume (c : Chip) (p w : Nat) : Chip :=
  if 2 ≤ w / 65536 then c
  else
    match c.xlat.susp.find? fun s => s.part == p && s.id == w % 65536 && !s.retry && !s.parked with
    | none => c
    | some s =>
      if bit w 16 ∧ s.source = 4 then (c.unsuspend s).abandonSegment
      else if bit w 16 ∧ s.source = 3 then
        match s.cmd with
        | some k => c.abandonCommand k
        | none => c
      else c.updXlat fun x => { x with susp := x.susp.map fun y => if y = s then { y with retry := true } else y }

/-- Remove the first ring read of a partition that satisfies a test; its channel is free for the next. [DESIGN CHOICE: log 38] -/
def endFetch (p : Nat) (test : FItem → Bool) (x : Merge × Chip) : Merge × Chip :=
  let (m, c) := x
  let ch := 8 + 2 * p
  let m := m.updPart p fun q =>
    match q.fetches.findIdx? test with
    | some i => { q with fetches := q.fetches.eraseIdx i }
    | none => q
  let c := c.updDma fun d => { d with busy := d.busy.filter fun k => k != ch }
  (m, if (m.part p).fetches.isEmpty then c.setFld (Fld.DMA_CHAN_STATUS_STATE ch) 0 else c)

/-- A ring read that ended in a bus error: it is repeated at the next poll interval, and later accesses of the partition wait behind it (R124). [DESIGN CHOICE: log 38] -/
def fetchFailed (p : Nat) (i : FItem) (x : Merge × Chip) : Merge × Chip :=
  let (m, c) := x
  let ch := 8 + 2 * p
  let c := c.noteBusError (c.owner p)
  (m.updPart p fun q => { q with busRetry := true, waitPoll := true, failed := some i },
    (c.updDma fun d => { d with busy := d.busy.filter fun k => k != ch }).setFld (Fld.DMA_CHAN_STATUS_STATE ch) 0)

/-- A ring read succeeded: when it was the one being repeated, no access is being repeated any more (R124). [DESIGN CHOICE: log 38] -/
def fetchGood (p : Nat) (i : FItem) (x : Merge × Chip) : Merge × Chip :=
  (x.1.updPart p fun q => if q.failed = some i then { q with busRetry := false, waitPoll := false, failed := none } else q, x.2)

/-- The item is the doorbell read. -/
def FItem.isDoorbell : FItem → Bool
  | .doorbell => true
  | _ => false

/-- The item is an entry fetch of a ring. -/
def FItem.isEntries (ring : Nat) : FItem → Bool
  | .entries r _ _ => r == ring
  | _ => false

/-- The item is the barrier read of a journal slot. -/
def FItem.isBarrier (slot : Nat) : FItem → Bool
  | .barrier s => s == slot
  | _ => false

/-- The partition polls: attached, its port up, out of SLEEP, imaging SRAM rebuilt (R97, R110). -/
def Chip.polls (c : Chip) (p : Nat) : Bool := c.fast && c.attached p && !c.portDown (c.owner p) && !c.eng.rebuilding

/-- A poll of a partition: the doorbell read is issued, or the failed access repeated; the interval up to the next poll is the one that stands in the register now (R110, R124, R130). [DESIGN CHOICE: log 38] -/
def pollNow (now p : Nat) (x : Merge × Chip) : Merge × Chip :=
  let (m, c) := x
  let q := m.part p
  if !c.polls p || q.geom.isNone || q.resuming then (m, c)
  else
    let more := if q.fetches.any FItem.isDoorbell then [] else [FItem.doorbell]
    (m.updPart p fun q => { q with lastPoll := now, wait := c.fld (Fld.HOST_PART_POLL_INTERVAL p), waitPoll := false, fetches := q.fetches ++ more },
      c.updDma fun d => { d with xfers := d.xfers.map fun x => if x.part = p then { x with held := false } else x })

/-- DOORBELL_POLL: the poll interval has passed (R110, R124). [DESIGN CHOICE: log 38] -/
def doorbellPoll (now p : Nat) (x : Merge × Chip) : Merge × Chip :=
  if now < (x.1.part p).lastPoll + 1000 * (x.1.part p).wait then x else pollNow now p x

/-- DOORBELL_BLOCK_RECEIVED: the heads, the fault-resume word and the tails are judged, and fetches issued (R92, R109 to R112). [DESIGN CHOICE: log 38] -/
def doorbellReceived (now p : Nat) (blk : Option Entry) (x : Merge × Chip) : Merge × Chip :=
  let (m, c) := x
  if !c.polls p || !((m.part p).fetches.any FItem.isDoorbell) then (m, c)
  else
    match blk with
    | none => fetchFailed p .doorbell (m, c)
    | some b =>
      let x := fetchGood p .doorbell (endFetch p FItem.isDoorbell (m, c))
      let (m, c) := judgeHeads p b x
      let c := c.faultResume p (b.field 0x10 4)
      let c := c.endGap now
      (List.range 4).foldl (judgeTail p b) (m, c)

/-- Fetches of other rings that come before the first of this ring and are not suspended. [DESIGN CHOICE: log 38] -/
def Chip.earlierFetch (c : Chip) (q : PartQ) (p ring : Nat) : Bool :=
  (q.fetches.takeWhile fun i => !(i.isEntries ring)).any fun i => match i with
    | .entries r _ _ => !c.blocked p (8 + 2 * p) r
    | _ => false

/-- ENTRY_FETCH_COMPLETE: fetched entries are accepted in index order up to the first with OWN 0 (R111, R124). [DESIGN CHOICE: log 38] -/
def entryFetched (now p ring : Nat) (es : List Entry) (ok : Bool) (x : Merge × Chip) : Merge × Chip :=
  let (m, c) := x
  let q := m.part p
  match q.fetches.find? (FItem.isEntries ring) with
  | some (.entries _ from_ n) =>
    if !c.polls p || c.earlierFetch q p ring then (m, c)
    else if !ok || es.length ≠ n then fetchFailed p (.entries ring from_ n) (m, c)
    else
      let (m, c) := fetchGood p (.entries ring from_ n) (endFetch p (FItem.isEntries ring) (m, c))
      if (m.part p).heads.getD ring 0 ≠ from_ then (m, c)
      else
        let (all, (m, c)) := acceptAll now p ring es (m, c)
        if all then (m, c)
        else (m.updPart p fun q => { q with fetches := q.fetches.filter fun i => !i.isEntries ring }, c)
  | _ => (m, c)

/-- BARRIER_READ_COMPLETE: the completion record of the BARRIER entry is written; a failed read is repeated once, and then the status is ERR_BARRIER (R119). [DEDUCED: log 41] -/
def barrierRead (now slot : Nat) (ok : Bool) (x : Merge × Chip) : Merge × Chip :=
  let (m, c) := x
  match m.entry slot with
  | none => (m, c)
  | some e =>
    if e.phase ≠ .result || !e.barrier || !c.polls e.part || !((m.part e.part).fetches.any (FItem.isBarrier slot)) then (m, c)
    else
      let (m, c) := endFetch e.part (FItem.isBarrier slot) (m, c)
      if ok then
        let (m, c) := fetchGood e.part (.barrier slot) (m, c)
        ((m.updEntry slot fun e => { e with barrier := false }).flush c now e.part e.ring, c)
      else if e.barriers < 2 then
        ((m.updEntry slot fun e => { e with barriers := e.barriers + 1 }).updPart e.part
          fun q => { q with fetches := q.fetches ++ [.barrier slot] }, c)
      else
        ((m.updEntry slot fun e => { e with barrier := false, status := Rc.ERR_BARRIER }).flush c now e.part e.ring, c)

/-- HELD_RECORD_DELIVERY: held records for which the queues have room are written in sequence order (R99, R117). -/
def heldDelivery (now p : Nat) (x : Merge × Chip) : Merge × Chip :=
  let (m, c) := x
  if !c.fast then (m, c)
  else
    let (rs, m) := m.deliver c now p
    (m, c.logRecords now rs)

/-- MOD_TIME_EXPIRY: MOD_TIME after the first record not yet covered, the queue signals (R118). -/
def modTimeExpiry (now p k : Nat) (x : Merge × Chip) : Merge × Chip :=
  let (m, c) := x
  let t := c.fld (Fld.HOST_PART_Q_CTL_MOD_TIME p k)
  match ((m.part p).queue k).firstAt with
  | none => (m, c)
  | some a =>
    if !c.fast || c.portDown (c.owner p) || c.fld (Fld.HOST_PART_Q_CTL_MOD_COUNT p k) = 0 || t = 0
      || (m.part p).owesSignal k || decide (now < a + 1000 * t) then (m, c)
    else signalNow p k (m, c)

/-- DMA_BURST_COMPLETE: the burst of an image or a service channel ends (R122, R126, R129). [DESIGN CHOICE: log 46] -/
def Chip.dmaComplete (c : Chip) (now ch : Nat) (r : Burst) : Chip :=
  if !c.fast then c
  else if ch < 8 then c.imgComplete now ch r
  else
    match c.job ch with
    | none => c
    | some j =>
      match j.inFlight with
      | none => c
      | some n => c.serviceComplete ch j n r

end Sys2Proof.Machine
end

