-- ==== Sys2Proof/Machine/Ports.lean ====
section
/-! DEFINITION. The host ports and the partitions: port loss, return and reset, attach and detach, partition reset, roots and invalidation (R87 to R89, R96 to R100, R104, R450).
-/
namespace Sys2Proof.Machine

/-- A partition stops polling and taking records: its fetches end, its writes go back, its suspended transfers are parked (R97, R99). [DESIGN CHOICE: log 32] -/
def detachPart (p : Nat) (x : Merge × Chip) : Merge × Chip :=
  let (m, c) := x
  let ch := 8 + 2 * p
  let c := c.setFlag (Fld.HOST_PART_CTL_ATTACH p) false
  let c := c.updXlat fun x => { x with susp := x.susp.map fun s => if s.part = p then { s with parked := true } else s }
  let c := c.updDma fun d => { d with busy := d.busy.filter fun k => k != ch }
  (m.detach p, (c.setFld (Fld.DMA_CHAN_STATUS_STATE ch) 0).setFld (Fld.DMA_CHAN_STATUS_STATE (ch + 1)) 0)

/-- The geometry that the registers of a partition give (R104, R130). [DESIGN CHOICE: log 34] -/
def Chip.geometry (c : Chip) (p : Nat) : Geometry := {
  ringBase := (List.range 4).map fun r => c.pair (Reg.HOST_PART_RING_BASE_LO p r) (Reg.HOST_PART_RING_BASE_HI p r)
  ringLog := (List.range 4).map fun r => c.fld (Fld.HOST_PART_RING_SIZE_LOG2 p r)
  cqBase := c.pair (Reg.HOST_PART_Q_BASE_LO p 0) (Reg.HOST_PART_Q_BASE_HI p 0)
  cqLog := c.fld (Fld.HOST_PART_Q_CTL_LOG2_SIZE p 0)
  eqBase := c.pair (Reg.HOST_PART_Q_BASE_LO p 1) (Reg.HOST_PART_Q_BASE_HI p 1)
  eqLog := c.fld (Fld.HOST_PART_Q_CTL_LOG2_SIZE p 1)
  doorbell := c.pair (Reg.HOST_PART_DB_LO p) (Reg.HOST_PART_DB_HI p) }

/-- A size of the geometry lies outside 4 to 16 (R104). [DESIGN CHOICE: log 34] -/
def Geometry.bad (g : Geometry) : Bool := (g.cqLog :: g.eqLog :: g.ringLog).any fun k => decide (k < 4) || decide (16 < k)

/-- Show whether geometry written since the latch waits for the next partition reset (R104, R130). [DESIGN CHOICE: log 34] -/
def showGeometry (p : Nat) (x : Merge × Chip) : Merge × Chip :=
  (x.1, x.2.setFlag (Fld.HOST_PART_RING_STATUS_GEOM_PENDING p) (match (x.1.part p).geom with
    | some g => g != x.2.geometry p
    | none => false))

/-- The records that an attach has queued reach a queue: 0 completions, 1 events. -/
def PartQ.receives (q : PartQ) (k : Nat) : Bool :=
  q.writes.any fun w => match w with
    | .completion _ => k == 0
    | .copy _ => k == 0
    | .rewrite _ _ => k == 0
    | .event _ => k == 1
    | _ => false

/-- ATTACH is set: geometry latched if none is, then rewrites and OWN clears, the held records, the parked transfers and polling, and one interrupt per queue, each once what comes before it is done (R100, R104). [DESIGN CHOICE: log 32] -/
def attachPart (now p : Nat) (x : Merge × Chip) : Merge × Chip :=
  let (m, c) := x
  if !c.enabled p || c.portDown (c.owner p) || c.attached p then (m, c)
  else
    let fresh := (m.part p).geom.isNone
    let g := (m.part p).geom.getD (c.geometry p)
    if fresh && g.bad then (m, c.setFlag (Fld.HOST_PART_RING_STATUS_GEOM_ERR p) true)
    else
      let c := (c.setFlag (Fld.HOST_PART_CTL_ATTACH p) true).setFlag (Fld.HOST_PART_RING_STATUS_GEOM_ERR p) false
      let again := m.rewrites p
      let m := m.updPart p fun q => { q with geom := some g, writes := again ++ q.writes, lastPoll := now, wait := c.fld (Fld.HOST_PART_POLL_INTERVAL p) }.judgeFull
      let (rs, m) := m.deliver c now p
      let c := c.logRecords now rs
      let m := (List.range 4).foldl (fun (m : Merge) r => m.flush c now p r) m
      let m := m.updPart p fun q => { q with
        writes := q.writes ++ WItem.resume :: ((List.range 2).filter q.receives).map WItem.signal }
      resumePart p (m, c)

/-- The UP bit of a port in GLOBAL.STATUS (R72). [DESIGN CHOICE: log 32] -/
def Chip.setPortUp (c : Chip) (q : Port) (b : Bool) : Chip :=
  match q with
  | .a => c.setFlag Fld.GLOBAL_STATUS_PORT_A_UP b
  | .b => c.setFlag Fld.GLOBAL_STATUS_PORT_B_UP b

/-- PORT_DOWN: the partitions of the port detach, and channels behind it hold; a port whose link is up answers configuration requests. A link in L0 with Bus Master Enable set is no cause of R96, and nothing happens (R96 to R98). [DESIGN CHOICE: log 32] -/
def portDownNow (q : Port) (linkUp busMaster : Bool) (x : Merge × Chip) : Merge × Chip :=
  let (m, c) := x
  if linkUp && busMaster then (m, c) else
  let was := c.portDown q
  let c := ((c.setFlag (Fld.HOST_PORT_STATUS_LINK_UP q.num) linkUp).setFlag (Fld.HOST_PORT_STATUS_BUS_MASTER q.num) busMaster).setPortUp q linkUp
  let c := if linkUp then c else ((c.setFld (Fld.HOST_PORT_STATUS_RATE q.num) 0).setFld (Fld.HOST_PORT_STATUS_WIDTH q.num) 0).setFlag
    (Fld.HOST_PORT_STATUS_L1_2 q.num) false
  let c := if linkUp then c.updPort q.num fun x => { x with crs := false, crsEnd := none } else c
  if was then (m, c)
  else
    let c := (c.setFlag (Fld.HOST_PORT_STATUS_DOWN q.num) true).bump (Fld.HOST_PORT_STATUS_DOWN_COUNT q.num)
    let (m, c) := (c.ownedBy q).foldl (fun (x : Merge × Chip) p => detachPart p x) (m, c)
    (m, c.checkBehind)

/-- Pending vectors that are no longer masked are sent, those of partitions that the port owns; another one stays pending (R75, R76, R118). [PRESUMED: log 137] -/
def Chip.sendPending (c : Chip) (q : Port) : Chip :=
  let p := c.port q.num
  let vs := (List.range 64).filter fun v => bit p.msixPend v && !bit p.msixMask v && c.owner (v / 8) == q
  (c.each vs fun v c => c.send (.msix q v)).updPort q.num fun x => { x with
    msixPend := maskWhere 64 fun v => bit x.msixPend v && !vs.contains v }

/-- What the host has configured in a port (R74, R75). [PRESUMED: log 137] -/
def Chip.portSetup (c : Chip) (q : Port) (setup : Option PortSetup) : Chip :=
  match setup with
  | none => c
  | some x => c.updPort q.num fun p => { p with cfg := x.cfg, msixMask := x.mask }

/-- PORT_RETURN: the link is in L0 with Bus Master Enable set again; in SLEEP the engine asks it for L1.2 (R77, R96, R481). [DESIGN CHOICE: log 32, 33] -/
def Chip.portReturn (c : Chip) (now : Nat) (q : Port) (rate width : Nat) (setup : Option PortSetup) : Chip :=
  let c := ((c.setFlag (Fld.HOST_PORT_STATUS_LINK_UP q.num) true).setFlag (Fld.HOST_PORT_STATUS_BUS_MASTER q.num) true).setPortUp q true
  let c := ((c.setFld (Fld.HOST_PORT_STATUS_RATE q.num) rate).setFld (Fld.HOST_PORT_STATUS_WIDTH q.num) width).setFlag
    (Fld.HOST_PORT_STATUS_DOWN q.num) false
  let c := if c.state = St.sleep then c.setFlag (Fld.HOST_PORT_STATUS_L1_2 q.num) true else c
  ((((c.updPort q.num fun x => { x with crs := false, crsEnd := none }).portSetup q setup).sendPending q)).endGap now

/-- HOST_PORT_RESET: the port goes down; its configuration space, BARs and MSI-X table are reset, the engine's own state kept. A Function Level Reset ends at once and leaves the link up, so the port answers no later than 100 ms after it (R96). [DESIGN CHOICE, PRESUMED: log 32, 134] -/
def hostPortReset (now : Nat) (q : Port) (kind : PortResetKind) (x : Merge × Chip) : Merge × Chip :=
  let up := match kind with
    | .flr => x.2.flag (Fld.HOST_PORT_STATUS_LINK_UP q.num)
    | _ => false
  let (m, c) := portDownNow q up false x
  (m, c.updPort q.num fun y => { y with
    crs := true, crsEnd := if up then some (now + 100000000) else none, msixMask := 2 ^ 64 - 1, msixPend := 0, cfg := {} })

/-- Partition reset: counts, transactions, context slots, suspended transfers and cached translations of the partition (R71, R183, R450, R481). [DESIGN CHOICE: log 45] -/
def resetPartition (now p : Nat) (x : Merge × Chip) : Merge × Chip :=
  let (m, c) := x
  let mine := (c.xlat.susp.filter fun s => s.part == p && s.source == 3).filterMap (·.cmd)
  let c := c.each mine fun k c => c.abandonCommand k
  let c := c.each ((List.range 8).filter fun n => (c.slot n).held && (c.slot n).part == p) fun n c => c.releaseSlot n
  let stuck := c.xlat.susp.find? fun s => s.part == p && s.source == 4
  let c := match stuck with
    | some s => (c.unsuspend s).abandonSegment
    | none => if c.recording && c.fld Fld.SUMP_STATUS_PART == p then c.openGap now 3 0 else c
  let c := c.endGap now
  let c := c.updXlat fun x => { x with susp := x.susp.filter fun s => s.part != p }
  let c := (c.setFld (Fld.HOST_PART_FAULT_NEXT_FAULT_ID p) 0).showSusp p
  let c := (c.resetTxn now p).dropLeaves p 0 (2 ^ 39)
  let (m, c) := detachPart p (m, c)
  let c := (c.setFlag (Fld.HOST_PART_RING_STATUS_GEOM_ERR p) false).setFlag (Fld.HOST_PART_RING_STATUS_GEOM_PENDING p) false
  (m.resetPart p, c)

/-- XLAT_ROOT_APPLY: the root formed with the preceding ROOT_LO write (R89). -/
def Chip.rootApply (c : Chip) (p : Nat) : Chip :=
  let root := c.pair (Reg.HOST_PART_XLAT_ROOT_LO p) (Reg.HOST_PART_XLAT_ROOT_HI p)
  (c.updXlat fun x => { x with roots := updAt x.roots p fun _ => root }).dropLeaves p 0 (2 ^ 39)

/-- XLAT_INVALIDATE: GO over the range that SIZE and INVAL_ADDR name; locked entries stay and are reported (R87, R88, R440). [DEDUCED: log 35] -/
def Chip.invalidate (c : Chip) (p : Nat) (v : Word) : Chip :=
  if !bit v.toNat 31 || c.flag (Fld.HOST_PART_INVAL_STATUS_BUSY p) then c
  else
    let size := bits v.toNat 1 0
    let a := c.pair (Reg.HOST_PART_INVAL_ADDR_LO p) (Reg.HOST_PART_INVAL_ADDR_HI p)
    let (start, n) : Nat × Nat := match size with
      | 0 => (a / 2 ^ 12 * 2 ^ 12, 2 ^ 12)
      | 1 => (a / 2 ^ 21 * 2 ^ 21, 2 ^ 21)
      | 2 => (a / 2 ^ 30 * 2 ^ 30, 2 ^ 30)
      | _ => (0, 2 ^ 39)
    let met := (c.xlat.cache.filter fun l => l.part == p && l.locks != 0 && l.overlaps start n).length
    let c := (c.setFlag (Fld.HOST_PART_INVAL_STATUS_BUSY p) true).setFlag (Fld.HOST_PART_INVAL_STATUS_LOCKED_HIT p) (met != 0)
    let c := c.updXlat fun x => { x with invals := updAt x.invals p fun _ => some { size := size, addr := start, hit := met, flying := c.flying } }
    let c := c.dropLeaves p start n
    if met = 0 then c else c.eventTo p Rc.XLAT_INVAL_LOCKED 0 ((if size = 3 then a % 2 ^ 39 else start) + size * 2 ^ 40) met

/-- XLAT_INVALIDATE_DONE: BUSY clears, once the bursts that were in flight at GO have ended (R87). [DEDUCED: log 35] -/
def Chip.invalidateDone (c : Chip) (p : Nat) : Chip :=
  if ((c.xlat.invals.getD p none).elim [] (·.flying)).any fun b => c.flying.contains b then c
  else (c.setFlag (Fld.HOST_PART_INVAL_STATUS_BUSY p) false).updXlat fun x => { x with invals := updAt x.invals p fun _ => none }

end Sys2Proof.Machine
end

