-- ==== Sys2Proof/Machine/Sump.lean ====
section
/-! DEFINITION. The Sump recorder's commands and events: RECORDER, closing, streaming, snapshots, triggers and the host ring; and the reading of a recording (R434, R473 to R483, R487, R488).
-/
namespace Sys2Proof.Machine

/-- The start, stop and flush commands whose segments are all in host memory complete; after the last segment a triggered recorder freezes (R434, R479, R480). [DESIGN CHOICE: log 128] -/
def Chip.sumpSettle (c : Chip) : Chip :=
  let n := c.sump.streamed
  let done := c.sump.waiters.filter fun w => decide (w.2 ≤ n)
  let c := c.updSump fun x => { x with waiters := x.waiters.filter fun w => !decide (w.2 ≤ n) }
  let c := c.each done fun w c => c.result w.1 Rc.OK
  if c.sump.freezing && c.sump.closed.isEmpty && c.fld Fld.SUMP_STATUS_STATE == 2 then
    ((c.updSump fun x => { x with freezing := false }).setFld Fld.SUMP_STATUS_STATE 3).raise Ev.SUMP_EVENT_FROZEN
  else c

/-- The recorder stops without a marker: what was not streamed is lost (R482). [DESIGN CHOICE: log 128] -/
def Chip.sumpStop (c : Chip) : Chip :=
  (c.setFld Fld.SUMP_STATUS_STATE 0).updSump fun x => { base := x.base, size := x.size, nextSeq := x.nextSeq, streamed := x.nextSeq }

/-- RECORDER start: a snapshot, and recording from now on (R434, R477, R479). -/
def Chip.recorderStart (c : Chip) (now : Nat) (e : JEntry) : Chip :=
  let size := e.param 0x20 4
  if e.param 0x18 8 % 4096 ≠ 0 then c.result e.slot Rc.ERR_RANGE 0x18
  else if !((rangeFrom 20 11).any fun k => size == 2 ^ k) then c.result e.slot Rc.ERR_RANGE 0x20
  else if 255 < e.param 0x24 4 then c.result e.slot Rc.ERR_RANGE 0x24
  else if 15 < e.param 0x28 1 then c.result e.slot Rc.ERR_RANGE 0x28
  else if c.recording then c.result e.slot Rc.ERR_STATE c.state
  else
    let (s, c) := c.snapshot now
    if size / 4 < s.size then c.result e.slot Rc.ERR_RANGE 0x20
    else
      let c := (c.started e.slot).updSump fun _ => {
        base := e.param 0x18 8, size := size, sources := e.param 0x24 4, decim := e.param 0x28 1, lastSnap := now, waiters := [(e.slot, 1)] }
      let c := (((c.updSump fun s => { s with rd := 0, fbLast := List.replicate 16 [] }).setPair Reg.SUMP_WR_LO Reg.SUMP_WR_HI 0).setPair Reg.SUMP_RD_LO Reg.SUMP_RD_HI 0).setFld Fld.SUMP_GAPS_COUNT 0
      let c := ((c.setFld Fld.SUMP_STATUS_STATE 1).setFld Fld.SUMP_STATUS_PART e.part).setFld Fld.SUMP_STATUS_TRIG_CAUSE 0
      c.addSegment s

/-- RECORDER (R434, R480). -/
def Chip.recorder (c : Chip) (now : Nat) (e : JEntry) : Chip :=
  let action := e.param 0x10 1
  if 2 < action then c.result e.slot Rc.ERR_RANGE 0x10
  else if action = 1 then c.recorderStart now e
  else if !c.recording then c.result e.slot Rc.ERR_STATE c.state
  else if action = 2 ∧ c.fld Fld.SUMP_STATUS_STATE = 3 then c.result e.slot Rc.OK
  else
    let c := (c.started e.slot).closeSegment
    let c := if action = 0 then (c.setFld Fld.SUMP_STATUS_STATE 0).updSump fun x => { x with gap := none, freezing := false } else c
    (c.updSump fun x => { x with waiters := x.waiters ++ [(e.slot, x.nextSeq)] }).sumpSettle

/-- SEGMENT_CLOSE: 65,536 bytes of records, 1 ms after the first one, or a gap (R476). Triggers, stop and flush close the segment in their own commands. -/
def Chip.segmentClose (c : Chip) (now : Nat) : Chip :=
  let first := c.sump.open_.foldl (fun t r => min t r.time) now
  if c.fast && (decide (65536 ≤ c.sump.openBytes) || decide (first + 1000000 ≤ now) || c.sump.gap.isSome) then c.closeSegment
  else c

/-- SNAPSHOT_TIMER: SNAP_S seconds after the last snapshot another is written, or a gap with cause 5 when it is oversize (R479, R481). [DESIGN CHOICE: log 127] -/
def Chip.snapshotTimer (c : Chip) (now : Nat) : Chip :=
  let st := c.fld Fld.SUMP_STATUS_STATE
  let every := c.fld Fld.SUMP_CFG_SNAP_S
  if !c.fast || (st != 1 && st != 2) || c.sump.freezing || c.sump.gap.isSome || every = 0
    || decide (now < c.sump.lastSnap + every * 1000000000) then c
  else
    let (s, c) := c.snapshot now
    let c := c.updSump fun x => { x with lastSnap := now }
    if c.oversize s then (c.openGap now 5 0).endGap now
    else if sumpRing < c.sump.openBytes + c.sump.closedBytes + s.size then c.openGap now c.fullCause 0
    else c.addSegment s

/-- POST_TRIGGER_END: POST_MS after the trigger the last segment closes; STATE 3 follows when everything is streamed (R480). -/
def Chip.postTriggerEnd (c : Chip) (now : Nat) : Chip :=
  match c.sump.trigAt with
  | none => c
  | some t =>
    if c.fast && c.fld Fld.SUMP_STATUS_STATE == 2 && !c.sump.freezing && decide (t + c.fld Fld.SUMP_CFG_POST_MS * 1000000 ≤ now) then
      (c.closeSegment.updSump fun x => { x with freezing := true, gap := none }).sumpSettle
    else c

/-- Count segment bytes written to the host ring (R477). -/
def Chip.addWr (c : Chip) (n : Nat) : Chip :=
  c.setPair Reg.SUMP_WR_LO Reg.SUMP_WR_HI (c.pair Reg.SUMP_WR_LO Reg.SUMP_WR_HI + n)

/-- The pad segment that fills the host ring from a position up to its end; its times and payload are free (R477). [DESIGN CHOICE: log 128] -/
def padSegment (wr room sources : Nat) : Segment := {
  kind := 3, flags := 0, seq := 0, base := Config.freeNat wr, end_ := Config.freeNat wr, rawLen := 0
  payload := (List.range (room - 64)).map fun i => Config.freeByte (wr + i), nrec := 0, sources := sources }

/-- The segment that channel 39 writes next: the oldest closed one, or the pad that comes before it where it does not fit before the ring's end (R477). -/
def Chip.streamHead (c : Chip) (s : Segment) : Segment :=
  if c.sumpRoom < s.size then padSegment (c.pair Reg.SUMP_WR_LO Reg.SUMP_WR_HI) c.sumpRoom c.sump.sources else s

/-- A segment stands in the host ring with its header: WR counts it, and the commands that waited for it complete (R477, R479, R480). [DESIGN CHOICE: log 128] -/
def Chip.streamDone (c : Chip) (now : Nat) (s : Segment) (rest : List Segment) : Chip :=
  let h := c.streamHead s
  let c := ((c.updSump fun x => { x with sent := 0 }).addWr h.size).setFld (Fld.DMA_CHAN_STATUS_STATE 39) 0
  if h.kind = 3 then c
  else
    let c := c.updSump fun x => { x with closed := rest, closedBytes := x.closedBytes - s.size, streamed := x.streamed + 1 }
    (c.endGap now).sumpSettle

/-- A burst of channel 39: the next bytes of the payload, and after it the header; a failed translation suspends it at that byte with OPCODE 0 in its XLAT_FAULT record, for which R91 gives no opcode (R91, R122, R477). [DESIGN CHOICE: log 128, 140] -/
def Chip.streamBurst (c : Chip) (now : Nat) (mem : HostImg) : Chip :=
  match c.sump.closed with
  | [] => c
  | s :: rest =>
    let part := c.fld Fld.SUMP_STATUS_PART
    let h := c.streamHead s
    let n := h.payload.length
    let sent := c.sump.sent
    let (off, bytes) : Nat × List Byte :=
      if sent < n then (64 + sent, h.payload.drop sent) else (sent - n, (h.header (c.reg Reg.GLOBAL_ID).toNat).drop (sent - n))
    let a := c.sump.base + c.pair Reg.SUMP_WR_LO Reg.SUMP_WR_HI % c.sump.size + off
    match c.translate mem part a true (c.retryAsked part 39 0) with
    | .error cause => c.suspend part 4 39 a cause 0 0 true none
    | .ok (host, c) =>
      let k := burstLength a bytes.length
      let c := ((c.channelResumed part 39 0).sendWrite (c.owner part) host (bytes.take k)).updSump fun x => { x with sent := sent + k }
      if sent + k = n + 64 then c.streamDone now s rest else c

/-- Bursts of channel 39 with nothing else ready on its port, up to the end of a segment. -/
def Chip.streamAlone (now : Nat) (mem : HostImg) : Nat → Chip → Chip
  | 0, c => c
  | fuel + 1, c =>
    let q := c.owner (c.fld Fld.SUMP_STATUS_PART)
    if !c.streamReady q then c
    else
      let c := (c.countBurst q 39 (c.fld Fld.SUMP_STATUS_PART)).streamBurst now mem
      if c.sump.sent = 0 then c else Chip.streamAlone now mem fuel c

/-- SEGMENT_STREAM: channel 39 streams the oldest closed segment to the host ring, after a pad where it does not fit before the ring's end, while nothing else is ready on the port and no record of an attach is owed before it; else the arbiter grants its bursts (R100, R123, R477, R478). [DESIGN CHOICE: log 128] -/
def Chip.segmentStream (c : Chip) (now : Nat) (m : Merge) (mem : HostImg) : Chip :=
  let q := c.owner (c.fld Fld.SUMP_STATUS_PART)
  match c.sump.closed with
  | [] => c.sumpSettle
  | s :: _ =>
    if (m.part (c.fld Fld.SUMP_STATUS_PART)).resuming || ((List.range 39).any fun ch => c.ready m q ch) then c
    else Chip.streamAlone now mem (burstBound (max s.size c.sump.size)) c

/-- The write of RD_HI applies both halves; a value that moves RD back or beyond WR leaves RD unchanged and sets RD_ERR (R488). [DEDUCED: log 22] -/
def Chip.sumpRd (c : Chip) : Chip :=
  let old := c.sump.rd
  let new := c.pair Reg.SUMP_RD_LO Reg.SUMP_RD_HI
  if new < old ∨ c.pair Reg.SUMP_WR_LO Reg.SUMP_WR_HI < new then
    (c.setPair Reg.SUMP_RD_LO Reg.SUMP_RD_HI old).raise Ev.SUMP_EVENT_RD_ERR
  else c.updSump fun s => { s with rd := new }

end Sys2Proof.Machine
end

