-- ==== Sys2Proof/Machine/Engine.lean ====
section
/-! DEFINITION. The engine state commands: WAKE, SLEEP, PRIME, IDLE and REPLAY, and how each ends (R32 to R37, R396, R410 to R414, R483 to R487).
-/
namespace Sys2Proof.Machine

/-- The configured stations (R411). -/
def Chip.configuredStations (c : Chip) : List Nat := (List.range 8).filter c.configured

/-- The HV channel that a running slot feeds, when the channel is in use. -/
def Chip.hvOfSlot (c : Chip) (n : Nat) : Option Nat :=
  let d := c.fld (Fld.WINDLASS_SLOT_CFG_DEST n)
  if c.slotRuns n && decide (0x20 ≤ d) && decide (d < 0x38) && c.flag (Fld.WINDLASS_HV_CFG_EN (d - 0x20)) then some (d - 0x20) else none

/-- The lowest HV channel whose enabled slot lacks LOCK (R412, R413). -/
def Chip.hvUnlocked (c : Chip) : Option Nat :=
  (List.range 24).find? fun k => (List.range 96).any fun n => c.hvOfSlot n == some k && !c.flag (Fld.WINDLASS_SLOT_STATUS_LOCK n)

/-- A station's ceilings are locked and nonzero (R238). -/
def Chip.ceilingsOk (c : Chip) (s : Nat) : Bool :=
  c.flag (Fld.STATION_CEIL_LOCK_LOCK s) && c.fld (Fld.STATION_CEIL_DUTY_EMIT_CAP s) != 0 && c.fld (Fld.STATION_CEIL_DUTY_TILE_CAP s) != 0
    && c.fld (Fld.STATION_CEIL_BIAS_BIAS_MAX s) != 0

/-- A station whose ceilings fail, else an HV channel in use whose ceiling fails, as DETAIL of CEILING_UNLOCKED (R411). -/
def Chip.ceilingFault (c : Chip) : Option Nat :=
  match c.configuredStations.find? fun s => !c.ceilingsOk s with
  | some s => some s
  | none =>
    ((List.range 24).find? fun k => c.flag (Fld.WINDLASS_HV_CFG_EN k)
      && (!c.flag Fld.WINDLASS_HV_LOCK_LOCK || c.fld (Fld.WINDLASS_HV_CEIL_E_CEIL k) == 0)).map fun k => 0x8000 + k * 256

/-- The first enabled tile that shares station and position with an earlier one (R291). [DEDUCED: log 116] -/
def Chip.tileClash (c : Chip) : Option Nat :=
  let key (t : Nat) : Nat := c.stationOf t * 16 + c.positionOf t
  c.onTiles.find? fun t => c.onTiles.any fun u => decide (u < t) && key u == key t

/-- A tile has no placement banks yet: none were generated for its head, and none were given (R463). [DEDUCED: log 116] -/
def Chip.noBanks (c : Chip) (t : Nat) : Bool :=
  let rs := tableRanges (0x1000 + 2 * t) ++ tableRanges (0x1001 + 2 * t)
  let given (off : Nat) : Bool := rs.any fun r => decide (r.1 ≤ off) && decide (off < r.1 + r.2)
  c.nominal.getD t 0 == 0 && !(c.active.any fun e => given e.1) && !(c.zeros.any fun z => z.1 && given z.2)

/-- A configured tile that has placement banks breaks the geometry of its station's seams (R245). [DEDUCED: log 116] -/
def Chip.geometryBad (c : Chip) (t : Nat) : Bool :=
  let s := c.stationOf t
  !c.noBanks t && (c.firstDot t 0 != c.firstDot t 1 || [0, 1].any fun d =>
    decide (c.lastDot t d + 1 < c.firstDot t d + c.fld (Fld.SEAM_GEOM_PITCH s) + c.fld (Fld.SEAM_GEOM_OVERLAP s)))

/-- The first channel that is not fit to feed belt or drum position (R320). -/
def Chip.feedbackFault (c : Chip) : Option Nat :=
  let b := c.fld Fld.FEEDBACK_BELT_CFG_CH
  if c.fld Fld.FEEDBACK_BELT_SCALE_SCALE = 0 ∨ c.chanOn b = false then some b
  else (c.configuredStations.map fun s => c.fld (Fld.FEEDBACK_DRUM_CH_CH s)).find? fun ch => !c.chanOn ch

/-- The belt or a drum channel in fault (R331). -/
def Chip.primeEncoder (c : Chip) : Option Nat :=
  (c.fld Fld.FEEDBACK_BELT_CFG_CH :: c.configuredStations.map fun s => c.fld (Fld.FEEDBACK_DRUM_CH_CH s)).find? c.chanFault

/-- A drum slot that is missing or not enabled, or the belt slot not enabled (R360). -/
def Chip.primeSlot (c : Chip) : Option Nat :=
  let bad (n : Nat) : Bool := decide (96 ≤ n) || !c.slotRuns n
  match c.configuredStations.find? fun s =>
    !c.flag (Fld.WINDLASS_STN_SLOT_EN s) || bad (c.fld (Fld.WINDLASS_STN_SLOT_SLOT s)) with
  | some s => some (c.fld (Fld.WINDLASS_STN_SLOT_SLOT s))
  | none => if bad (c.fld Fld.WINDLASS_BELT_SLOT_SLOT) then some (c.fld Fld.WINDLASS_BELT_SLOT_SLOT) else none

/-- The first failed check of PRIME in the order of R411: status and DETAIL. [DESIGN CHOICE: log 115] -/
def Chip.primeRefused (c : Chip) : Option (Nat × Nat) :=
  if !c.flag Fld.SAFETY_STATUS_ILK_A || !c.flag Fld.SAFETY_STATUS_ILK_B then some (Rc.ILK_OPEN, c.ilkDetail 0)
  else if c.flag Fld.SAFETY_STATUS_ILK_DISC then some (Rc.ILK_FAULT, 0)
  else if c.fld Fld.POWER_STATUS_VBACK < c.fld Fld.POWER_VBACK_MIN_MIN_RUN then some (Rc.BACKUP_LOW, c.fld Fld.POWER_STATUS_VBACK)
  else
    (c.ceilingFault.map fun d => (Rc.CEILING_UNLOCKED, d))
      <|> (c.tileClash.map fun t => (Rc.ERR_TILE_CONFIG, t))
      <|> ((c.onTiles.find? c.geometryBad).map fun t => (Rc.SEAM_GEOMETRY, c.stationOf t))
      <|> (c.feedbackFault.map fun k => (Rc.ERR_FEEDBACK_CFG, k))
      <|> (c.primeEncoder.map fun k => (Rc.ENCODER_FAULT, k))
      <|> ((c.configuredStations.find? fun s => c.fld (Fld.STATION_DRUM_SCALE_SCALE s) == 0).map fun s => (Rc.ERR_STATION_CFG, s))
      <|> (c.primeSlot.map fun n => (Rc.ERR_LOOP_CFG, n))
      <|> (c.fuserCondition.map fun p => (Rc.FUSER_FAULT, p))

/-- The active handover bank of a tile against the overlap just latched: one with an entry beyond it is a failed bank, and the ROM default, whose entries are all 283, is one exactly then (R247). [DESIGN CHOICE: log 145] -/
def Chip.latchHandover (c : Chip) (t : Nat) : Chip :=
  let inst := 0x5000 + t
  let isDefault := (List.range 256).all fun i => c.tabNat true (0xB0000 + t * 0x200 + 2 * i) 2 == 283
  let fails := (c.handoverFail true t).isSome
  c.updTxn fun x => { x with
    bad := if fails then (if x.bad.contains inst then x.bad else inst :: x.bad)
      else if isDefault then x.bad.filter (· != inst) else x.bad }

/-- Step 1 of PRIME: what it latches (R192, R244, R291, R320, R359, R412). -/
def Chip.primeLatch (c : Chip) : Chip :=
  let c := { c with belt := { c.belt with
    ch := c.fld Fld.FEEDBACK_BELT_CFG_CH, inv := c.flag Fld.FEEDBACK_BELT_CFG_INV, scale := c.fld Fld.FEEDBACK_BELT_SCALE_SCALE } }
  let c := c.each (List.range 64) fun t c => c.latchTile t
  let c := c.each (List.range 8) fun s c => c.updStn s fun x => { x with
    ch := c.fld (Fld.FEEDBACK_DRUM_CH_CH s), scale := c.fld (Fld.STATION_DRUM_SCALE_SCALE s), edges := []
    drum := c.drumAt s, drumCopy := c.drumAt s
    pitch := c.fld (Fld.SEAM_GEOM_PITCH s), overlap := c.fld (Fld.SEAM_GEOM_OVERLAP s), aligned := false }
  let c := c.each c.onTiles fun t c => c.latchHandover t
  c.updWl fun w => { w with belt := c.fld Fld.WINDLASS_BELT_SLOT_SLOT, speed := c.fld Fld.WINDLASS_BELT_SLOT_PRIME_SPEED, owned := true }

/-- The speed slot of an axis: the one its current block takes its reference from (R354, R372). -/
def Chip.speedSlot (c : Chip) (a : Nat) : Option Nat :=
  (c.focSlot a).bind fun k =>
    let r := c.fld (Fld.WINDLASS_SLOT_IO_REF_SRC k)
    if 0x90 ≤ r ∧ r - 0x90 < 96 then some (r - 0x90) else none

/-- The reference that a speed slot has at PRIME: its SETPOINT, or for a drum slot REF_SCALE × the belt speed of PRIME_SPEED + SETPOINT (R352, R360). [DESIGN CHOICE: log 115] -/
def Chip.primeReference (c : Chip) (n : Nat) : Option Word :=
  let sp := c.reg (Reg.WINDLASS_SETPOINT n)
  let r := c.fld (Fld.WINDLASS_SLOT_IO_REF_SRC n)
  if r = 0xFF then some sp
  else if r = 0x80 then do
    let v ← F32.ofRatio (umSub c.wl.speed) 127
    let m ← F32.mul (c.reg (Reg.WINDLASS_REF_SCALE n)) v
    F32.add m sp
  else none

/-- Start a page-critical axis toward what its speed slot asks for; a reference that no rule gives here makes the target a free one (R309, R412). [DESIGN CHOICE: log 115] -/
def Chip.primeAxis (c : Chip) (now a : Nat) : Chip :=
  match c.speedSlot a with
  | none => c
  | some n =>
    let (w, c) : Word × Chip := match c.primeReference n with
      | some w => (w, c)
      | none => c.freeReal
    let (v, c) := c.elecTarget a n w
    c.driveTo now a n none v (c.reg (Reg.WINDLASS_SETPOINT n))

/-- PRIME (R411, R412): the checks, then steps 1 and 2. [DESIGN CHOICE: log 115] -/
def Chip.primeCommand (c : Chip) (now : Nat) (e : JEntry) : Chip :=
  match (c.each (List.range 64) fun t c => c.latchTile t).primeRefused with
  | some (st, d) => c.result e.slot st d
  | none =>
    let c := ((c.started e.slot).primeLatch).updSafety fun x => { x with forced := [false, false, false, false] }
    let up := c.onTiles.filter c.tileUp
    let c := (c.updEng fun x => { x with prime := some (e.slot, now), calDone := false, primeFails := 0, primeUp := up }).arm now true
    let c := c.refreshLoads.setBelt now (F32.ofNat c.wl.speed)
    c.each ((List.range 12).filter fun a => c.flag (Fld.DRIVE_CFG_PAGE_CRIT a)) fun a c => c.primeAxis now a

/-- PRIME ends without PRIMED: HV off, lasers disarmed, axes stopped; the engine stays in IDLE (R242, R413). [DESIGN CHOICE: log 115] -/
def Chip.primeFailed (c : Chip) (now status detail : Nat) : Chip :=
  match c.eng.prime with
  | none => c
  | some (slot, _) =>
    let c := (c.calAbort now).updEng fun x => { x with prime := none, calDone := false }
    let c := ((c.arm now false).stopDrives).updWl fun w => { w with owned := false }
    (c.each c.onTiles fun t c => c.refreshSched t).result slot status detail

/-- Step 3: K_s is latched at the instant at which the drum slot shows LOCK (R192, R360). [DESIGN CHOICE: log 115] -/
def Chip.latchAlign (c : Chip) (now s : Nat) : Chip :=
  if (c.stn s).aligned || !c.flag (Fld.WINDLASS_SLOT_STATUS_LOCK (c.fld (Fld.WINDLASS_STN_SLOT_SLOT s))) then c
  else
    let k := (c.beltPos * 65536 : Nat) - (c.writePos s now false - (c.stn s).align)
    let c := c.updStn s fun x => { x with align := k, aligned := true }
    c.setPair (Reg.STATION_DRUM_ALIGN_LO s) (Reg.STATION_DRUM_ALIGN_HI s) (pattern 48 (k / 65536))

/-- Steps 4 and 5: HV BREACH is cleared, and the tiles that were up when PRIME started, and whose links still are, are rearmed and calibrated (R229, R236, R240, R277, R367, R412, R470). [DESIGN CHOICE: log 115] -/
def Chip.primeTiles (c : Chip) (now : Nat) : Chip :=
  let ts := c.eng.primeUp.filter fun t => c.link t == Lk.up
  match c.calRefusal c.onTiles with
  | 0 =>
    let c := (c.each (List.range 24) fun k c => c.hvRearm k).refreshLoads
    let c := c.each c.onTiles fun t c => c.updTile t fun x => { x with
      primed := ts.contains t, kE := List.replicate 16 256, kT := 256, history := [], disabled := 0, breach := false }
    let c := c.each c.onTiles fun t c => ((c.clampRun t).showClamp t).showDisabled t
    let c := c.each c.onTiles fun t c => if !ts.contains t then c.refreshSched t else if !bit (c.tile t).kill 2 then (c.sendBias now t (c.biasOf t) true).refreshSched t
      else if c.canRejoin t then c.rejoin now t else c.refreshSched t
    if ts.isEmpty then c.updEng fun x => { x with calDone := true }
    else
      match c.eng.prime with
      | some (slot, _) => c.calBegin slot ts true
      | none => c
  | k => c.primeFailed now Rc.CAL_PRECONDITION k

/-- A PRIME in progress goes on as its drums reach LOCK; a drum that drops below 0.02 m/s during its calibration ends it (R242, R412). [DESIGN CHOICE: log 115] -/
def Chip.primeStep (c : Chip) (now : Nat) : Chip :=
  if c.eng.prime.isNone || c.eng.calDone then c
  else
    match c.eng.calJobs.find? fun (j : CalJob) => j.prime with
    | some j =>
      if j.tiles.any fun t => decide ((c.writeRate (c.stationOf t)).natAbs * 127 < 20000 * 6 * 64 * 65536) then
        c.primeFailed now Rc.CAL_PRECONDITION 2
      else c
    | none =>
      let c := c.each c.configuredStations fun s c => c.latchAlign now s
      if c.configuredStations.all fun s => (c.stn s).aligned then c.primeTiles now else c

/-- PRIME_COMPLETE: calibration ended and every enabled HV slot locked: PRIMED (R412). [DESIGN CHOICE: log 115] -/
def Chip.primeComplete (c : Chip) (now : Nat) : Chip :=
  match c.eng.prime with
  | none => c
  | some (slot, _) =>
    if !c.fast || !c.eng.calDone || c.hvUnlocked.isSome then c
    else
      let n := satN 65535 c.eng.primeFails
      let c := c.updEng fun x => { x with prime := none, calDone := false }
      let c := (c.enter St.primed Why.prime).driveBelt now
      if n = 0 then c.result slot Rc.OK else c.result slot Rc.CAL_PARTIAL n

/-- PRIME_TIMEOUT: 30 s without drum or HV lock (R413). [DESIGN CHOICE: log 115] -/
def Chip.primeTimeout (c : Chip) (now : Nat) : Chip :=
  match c.eng.prime with
  | none => c
  | some (_, t) =>
    if !c.fast || decide (now < t + 30000000000) then c
    else
      match c.configuredStations.find? fun s => !(c.stn s).aligned, c.hvUnlocked with
      | some s, _ => c.primeFailed now Rc.PRIME_TIMEOUT s
      | none, some k => c.primeFailed now Rc.PRIME_TIMEOUT (256 + k)
      | none, none => c

/-- Entry into SLEEP: links, mirrors, axes, HV and fuser off, the recorder stopped, held records and imaging SRAM lost, both ports in L1.2 (R24, R33, R54, R77, R99, R482). [DESIGN CHOICE: log 113] -/
def Chip.enterSleep (c : Chip) (now : Nat) : Chip :=
  let c := ((c.updEng fun x => { x with sleepFor := none }).enter St.sleep Why.sleep).emit .loseHeld
  let c := if c.recording then c.sumpStop else c
  let c := c.each (List.range 64) fun t c => ((c.stopMirror now t).linkOff t).refreshSched t
  let c := (c.coastDrives.loseImaging).setReg Reg.GLOBAL_SLEEP_DROP 0
  let c := c.each [0, 1] fun q c => if c.flag (Fld.HOST_PORT_STATUS_LINK_UP q) then c.setFlag (Fld.HOST_PORT_STATUS_L1_2 q) true else c
  c.refreshLoads

/-- SLEEP (R33, R410): refused while a page is armed or a transaction is open or waiting; else its completion is fixed, and SLEEP is entered once that record is written. [DESIGN CHOICE: log 113] -/
def Chip.sleepCommand (c : Chip) (now : Nat) (e : JEntry) : Chip :=
  if !c.pages.isEmpty || c.txn.opens.any Option.isSome || !c.txn.commits.isEmpty then c.result e.slot Rc.ERR_STATE (c.state + 256)
  else
    let c := (c.started e.slot).result e.slot Rc.OK
    if c.taking e.part then c.updEng fun x => { x with sleepFor := some (e.slot, e.part) } else c.enterSleep now

/-- The completion record of SLEEP is in host memory, or can no longer be written: SLEEP is entered (R33). [DESIGN CHOICE: log 113] -/
def Chip.trySleep (c : Chip) (now : Nat) (m : Merge) : Chip :=
  match c.eng.sleepFor with
  | none => c
  | some (slot, p) =>
    let ready := !c.taking p || match m.entry slot with
      | none => true
      | some e => match e.posting with
        | .written _ => true
        | _ => false
    if ready then c.enterSleep now else c

/-- The IDLE commands that wait complete with the state reached (R410). [DESIGN CHOICE: log 114] -/
def Chip.idleReached (c : Chip) : Chip :=
  let l := c.eng.idleCmds
  (c.updEng fun x => { x with idleCmds := [] }).each l fun k c => c.result k Rc.OK

/-- The report of a replay is written at once where nothing else is ready on its port, else it waits for its grant (R123, R487). [DESIGN CHOICE: log 47, 117] -/
def Chip.sendReport (c : Chip) (m : Merge) (r : OwedReport) : Chip :=
  let q := c.owner r.part
  match c.freeService 3 with
  | some ch =>
    if c.portDown q || !c.attached r.part || (m.part r.part).resuming || c.contended m q r.slot then c.oweReport r
    else (c.countBurst q ch r.part).setFld (Fld.DMA_CHAN_STATUS_STATE ch) 0 |>.reportBurst q r
  | none => c.oweReport r

/-- A replay ends: its report, its outcome, and the wait for the mirrors (R486, R487). [DESIGN CHOICE: log 117] -/
def Chip.endReplay (c : Chip) (m : Merge) (r : Replay) (x : Rerun) (cause status detail : Nat) : Chip :=
  let c := (c.sendReport m (r.owed x cause status detail)).updEng fun g => { g with replay := some { r with ended := true } }
  let c := c.setPair Reg.SUMP_REPLAY_POS_LO Reg.SUMP_REPLAY_POS_HI x.pos
  c.each c.onTiles fun t c => if c.link t == Lk.up then c.updTile t fun x => { x with wantStart := !x.driven } else c

/-- IDLE (R33, R396, R410, R486). [DESIGN CHOICE: log 114] -/
def Chip.idleCommand (c : Chip) (y : Ctx) (e : JEntry) : Chip :=
  let now := y.now
  if c.state = St.primed then
    let c := ((c.started e.slot).arm now false).stopDrives.updWl fun w => { w with owned := false }
    let c := c.each c.onTiles fun t c => c.refreshSched t
    (c.enter St.idle Why.idle).result e.slot Rc.OK
  else if c.state = St.safeStop then
    if c.heldInStop now then c.result e.slot Rc.ERR_STATE c.state
    else
      let c := (((c.started e.slot).setFlag Fld.SAFETY_STATUS_TRIP false).refreshCut now).unkillAll 2
      (c.enter St.idle Why.idle).refreshLoads.result e.slot Rc.OK
  else
    let c := (c.started e.slot).updEng fun x => { x with idleCmds := x.idleCmds ++ [e.slot] }
    match c.eng.replay with
    | some r =>
      if r.ended then c
      else
        let (x, c) := c.rerunSoFar r
        if x.found.isSome then c.endReplay y.merge r x 3 Rc.REPLAY_DIVERGED 0 else c.endReplay y.merge r x 2 Rc.REPLAY_STOPPED 0
    | none => c

/-- Entry into REPLAY: drive outputs, HV and fuser low, the arms clear, the mirrors stopped (R484). [DESIGN CHOICE: log 117] -/
def Chip.enterReplay (c : Chip) (now : Nat) (r : Replay) : Chip :=
  let c := ((c.arm now false).coastDrives.updEng fun x => { x with replay := some r }).enter St.replay Why.replay
  let c := c.each (List.range 64) fun t c => c.updTile t fun x => { x with wantStart := false }
  let c := c.each (List.range 64) fun t c => ((c.stopMirror now t).updTile t fun x => { x with retryAt := none }).refreshSched t
  c.refreshLoads

/-- The outcome of a replay that ran to its end: what the comparison of R485 finds (R414, R485, R486). -/
def Chip.replayVerdict (c : Chip) (m : Merge) (r : Replay) : Chip :=
  let x := r.tape.rerun none
  if x.found.isSome then c.endReplay m r x 3 Rc.REPLAY_DIVERGED 0 else c.endReplay m r x r.tape.cause Rc.OK 0

/-- REPLAY on its channel: the recording is read, the report's page is translated, and REPLAY is entered. How long the replay lasts is free: it ends with this command or goes on until its command acts again (R414, R483 to R487). [DESIGN CHOICE: log 117] -/
def Chip.replayOn (c : Chip) (y : Ctx) (mem : HostImg) (e : JEntry) : Except Chip Chip := do
  let (ins, c) ← c.readList mem e (e.param 0x10 8) (e.param 0x18 2)
  match ins with
  | .error i => pure (c.endService e Rc.ERR_FORMAT (rangeDetail 0 i))
  | .ok ins =>
    let (bs, c) ← Chip.readBuffers mem e ins (bufferRoom ins) c
    match c.translate mem e.part (e.param 0x20 8) true (c.retrying e.part e.slot) with
    | .error cause => .error (c.suspendXfer e ((c.serviceOf e.slot).getD 36) (e.param 0x20 8) cause true)
    | .ok (host, c) =>
      let x := readRecording (c.reg Reg.GLOBAL_ID).toNat (bs.length + 1) none none bs {}
      let c := c.endTransfer e.part e.slot
      let r : Replay := { slot := e.slot, part := e.part, host := host, tape := x }
      let c := c.enterReplay y.now r
      if x.cause = 4 then pure (c.endReplay y.merge r { copy := {}, pos := x.pos } 4 Rc.REC_FORMAT x.pos)
      else
        let (goesOn, c) := c.freeBool
        pure (if goesOn then c else c.replayVerdict y.merge r)

/-- REPLAY (R414). [DESIGN CHOICE: log 117] -/
def Chip.replayCommand (c : Chip) (y : Ctx) (mem : HostImg) (e : JEntry) : Chip :=
  if e.param 0x10 8 % 16 ≠ 0 then c.result e.slot Rc.ERR_RANGE 0x10
  else if e.param 0x18 2 = 0 ∨ 4096 < e.param 0x18 2 then c.result e.slot Rc.ERR_RANGE 0x18
  else if e.param 0x20 8 % 64 ≠ 0 then c.result e.slot Rc.ERR_RANGE 0x20
  else c.onService 3 e fun _ c => settled (c.replayOn y mem e)

/-- IDLE_AFTER_REPLAY: every mirror is locked or missing: IDLE (R486). [DESIGN CHOICE: log 114] -/
def Chip.idleAfterReplay (c : Chip) : Chip :=
  match c.eng.replay with
  | none => c
  | some r =>
    if !r.ended || c.state != St.replay || !c.fast then c
    else if c.onTiles.all fun t => (c.tile t).missing || (c.tile t).locked then
      (c.endReplayUnits.enter St.idle Why.replayEnded).idleReached.refreshLoads
    else c

end Sys2Proof.Machine
end

