-- ==== Sys2Proof/Machine/Grant.lean ====
section
/-! DEFINITION. The arbiter's grants: a burst of what a channel carries of its own, or of the command whose transfers stand on it (R95, R121 to R123, R406).
-/
namespace Sys2Proof.Machine

/-- What a command that reads or writes host memory does, by its opcode. -/
def memBody (mem : HostImg) (opcode : Nat) (e : JEntry) (x : Ctx) (c : Chip) : Chip :=
  match opcode with
  | 0x06 => c.replayCommand x mem e
  | 0x33 => c.loopConfig x.now mem e
  | 0x42 => c.seamMeasure x mem e
  | 0x43 => c.markStrip mem e
  | 0x45 => c.compress mem e
  | 0x46 => c.decompress mem e
  | 0xF1 => c.query mem x e
  | _ => c

/-- A grant to the transfers of a command: one burst, and what follows from it (R95, R123). -/
def Chip.grantXfer (c : Chip) (x : Ctx) (mem : HostImg) (f : Xfer) : Chip :=
  match x.merge.entry f.slot with
  | none => c
  | some e => c.pass x e (some 1) (memBody mem e.opcode)

/-- A grant of a port's arbiter to a channel (R121, R123). -/
def grantChannel (now : Nat) (q : Port) (mem : HostImg) (ch : Nat) (x : Merge × Chip) : Merge × Chip :=
  let (m, c) := x
  if c.ownReady m q ch then
    if ch < 8 then
      let part := match (c.img ch).page.bind c.pageOf with | some p => p.part | none => 0
      (m, (c.countGrant m q ch part).imgBurst q ch)
    else if ch < 24 then
      let p := (ch - 8) / 2
      let c := c.countGrant m q ch p
      let (m, c) := if ch % 2 = 0 then ringReadBurst mem p (m, c) else resumePart p (ringWriteBurst now mem p (m, c))
      if ch % 2 = 1 ∧ (m.part p).writes.isEmpty then (m, c.setFld (Fld.DMA_CHAN_STATUS_STATE ch) 0) else (m, c)
    else if ch = 39 then (m, (c.countGrant m q ch (c.fld Fld.SUMP_STATUS_PART)).streamBurst now mem)
    else
      match c.job ch with
      | none =>
        match c.owedReport m q ch with
        | none => (m, c)
        | some r => (m, (c.countGrant m q ch r.part).reportBurst q r)
      | some j => (m, (c.countGrant m q ch j.part).serviceBurst mem q ch j)
  else
    match c.xferOn m q ch with
    | none => (m, c)
    | some f => (m, (c.countGrant m q ch f.part).grantXfer ⟨now, m, []⟩ mem f)

/-- DMA_BURST_GRANT without what follows the end of a service command: one grant of a port's arbiter (R123). -/
def grantBurst (now : Nat) (q : Port) (mem : HostImg) (x : Merge × Chip) : Merge × Chip :=
  if x.2.portDown q then x
  else
    match x.2.arbiter x.1 q with
    | none => x
    | some ch => grantChannel now q mem ch x

/-- DMA_BURST_GRANT: a port's arbiter grants a burst, and a service command whose last word is written ends (R123). -/
def dmaGrant (now : Nat) (q : Port) (mem : HostImg) (x : Merge × Chip) : Merge × Chip :=
  let (m, c) := if x.2.fast then grantBurst now q mem x else x
  (m, c.finishJobs now m)

end Sys2Proof.Machine
end

