-- ==== Sys2Proof/Machine/Reset.lean ====
section
/-! DEFINITION. Resets, start-up and wake: what survives a reset, journal recovery, the sequence to IDLE; core pairs and memories (R26, R29, R35, R71, R398, R449 to R454, R459 to R472).
-/
namespace Sys2Proof.Machine

/-- The bits of a register that the wake context or the journal control area does not bring back although their code says so (R451, R462). [DESIGN CHOICE: log 118] -/
def notRestored (base : Nat) : Nat :=
  if base = Reg.WINDLASS_SLOT_CFG 0 then 7
  else if base = Reg.SEAM_CTL then 3
  else if base = Reg.WINDLASS_HV_CFG 0 ∨ base = Reg.WINDLASS_FUSER_CFG 0 ∨ base = Reg.MULE_CFG 0 ∨ base = Reg.HOST_PART_CTL 0 then 1
  else 0

/-- The bits of a register that a reset with the Wellhead held leaves alone: what lives in the Wellhead, levels of inputs, and at an engine reset the link of a port, but not its count; and every RW, T and M field (R459, R462). [DESIGN CHOICE: log 118] -/
def keptMask (engine : Bool) (r : RegSpec) : Nat :=
  if r.base = Reg.SAFETY_STATUS ∨ r.base = Reg.SAFETY_EVENT ∨ r.base = Reg.POWER_STATUS then 0xFFFFFFFF
  else if r.base = Reg.GLOBAL_STATUS then (if engine then 0xFF else 0x3F)
  else if r.base = Reg.HOST_PORT_STATUS 0 then (if engine then 0xFFFF else 0)
  else if r.base = Reg.MULE_STATUS 0 then 0x1C0
  else
    let m := (r.maskFor .rw) ||| (r.maskFor .t) ||| (r.maskFor .m)
    m &&& (0xFFFFFFFF - notRestored r.base)

/-- A register after a reset: the kept bits of its word over its reset value; none when that is the reset value. [DESIGN CHOICE: log 118] -/
def keptReg (engine : Bool) (e : Nat × Word) : Option (Nat × Word) :=
  match RegMap.find e.1 with
  | none => none
  | some (r, _) =>
    let m := BitVec.ofNat 32 (keptMask engine r)
    let d := RegMap.resetOf e.1
    let w := (e.2 &&& m) ||| (d &&& ~~~m)
    if w = d then none else some (e.1, w)

/-- Begun commits apply to every unit they affect when the wake context is restored; tables stand at their defaults in both banks (R71, R463). [DESIGN CHOICE: log 118] -/
def Chip.applyBegun (c : Chip) (m : Commit) : Chip :=
  m.entries.foldl (fun (c : Chip) e => match e with
    | .reg _ _ _ => c.applyEntry e
    | .table _ => c) c

/-- The span of a begun commit from its first switch to the restoration, and its number of units (R71). -/
def Commit.restoredDetail (m : Commit) (now : Nat) : Nat :=
  { m with first := m.began.getD now, last := now, units := (stagedUnits m.entries).length : Commit }.detail

/-- The outcome that a reset gives the command of a SAFE commit (R71, R449). -/
def Chip.commitFix (c : Chip) (now slot : Nat) : Option (Nat × Nat) :=
  (c.txn.commits.find? fun (m : Commit) => m.slot == some slot).map fun m =>
    if m.begun then (Rc.OK, m.restoredDetail now) else (Rc.TXN_RESET, 0)

/-- The record of a deferred commit after a reset, the switch instants of one that had begun, and the outcome in TXN.RESULT (R68, R71, R73). [DESIGN CHOICE: log 45, 118] -/
def Chip.restoreCommit (c : Chip) (now : Nat) (m : Commit) : Chip :=
  let ev (status detail : Nat) (time : Option Nat) (c : Chip) : Chip :=
    if m.slot.isSome then c
    else c.emit (.event { status := status, opcode := m.opcode, tag := m.tag, detail := detail, dest := .part m.part, time := time })
  if m.begun then
    let c := (c.applyBegun m).each (stagedUnits m.entries) fun u c => c.setReg (Reg.TXN_SWITCH_TIME m.part u) (BitVec.ofNat 32 now)
    let c := c.showResult m.part (if m.slot.isSome then Rc.OK else Rc.TXN_SWITCHED) (stagedUnits m.entries).length (now - m.began.getD now)
    ev Rc.TXN_SWITCHED (m.restoredDetail now) (some now) c
  else ev Rc.TXN_RESET 0 none (c.showResult m.part Rc.TXN_RESET 0 0)

/-- The chip after a reset with the Wellhead held, before start-up runs (R24, R451, R459, R462, R463). [DEDUCED, DESIGN CHOICE: log 80, 118] -/
def Chip.afterReset (c : Chip) (engine : Bool) : Chip :=
  let kept : List (Nat × Word) := c.regs.filterMap (keptReg engine)
  let e := c.eng
  let s := c.safety
  { regs := kept
    sqCount := c.sqCount.filter fun x => x.1 == Reg.SAFETY_EVENT
    ports := if engine then c.ports.map fun (p : PortSt) => { crs := p.crs, msixMask := p.msixMask, msixPend := p.msixPend, cfg := p.cfg } else [{}, {}]
    encs := c.encs.map fun (x : Enc) => { a := x.a, b := x.b }
    eng := {
      kept := e.kept, faultLog := e.faultLog, ilkLatch := e.ilkLatch, tap := e.tap, tapShift := e.tapShift, tapHeld := e.tapHeld, msel := e.msel, lastMirror := e.lastMirror
      i2cPins := e.i2cPins, i2cPtr := e.i2cPtr }
    safety := {
      mainLost := s.mainLost, lossAt := s.lossAt, mainSince := s.mainSince, dischargeFrom := s.dischargeFrom
      dischargeFailed := s.dischargeFailed, differSince := s.differSince, wellTemp := s.wellTemp
      killAll := s.killAll }
    free := c.free, emits := c.emits, outs := c.outs }

/-- The interlock opening that the Wellhead latched is recorded at its own time (R35, R401). [DESIGN CHOICE: log 105] -/
def Chip.latchedIlk (c : Chip) : Chip :=
  match c.eng.ilkLatch with
  | none => c
  | some (t, ch, st) =>
    let c := (c.updEng fun x => { x with ilkLatch := none }).raise Ev.SAFETY_EVENT_INTERLOCK_OPEN
    c.emit (.event { status := Rc.INTERLOCK_OPEN, detail := ch + st * 16, time := some t })

/-- Start-up begins: AWAKE, and the cut path as its inputs stand; KILL cause 1 persists where an opening had sent it (R279, R464, R466). [DEDUCED, DESIGN CHOICE: log 80, 120] -/
def Chip.startUp (c : Chip) (now why : Nat) (wake : Bool) : Chip :=
  let c := (c.enter St.awake why).updEng fun x => { x with starting := true, wake := wake, start0 := now, m0 := none, down := false }
  let c := (c.latchedIlk.refreshCut now).judgeDischarge
  if c.safety.killAll = 1 then c.killAll now 1 else c

/-- Time 0 of the power-on sequence: the cut signal is active, whatever its inputs, until M0 (R464). [DESIGN CHOICE: log 120] -/
def Chip.resetCut (c : Chip) (now : Nat) : Chip := ((c.setFlag Fld.SAFETY_STATUS_CUT true).showLen).showHv now

/-- An engine reset, or a power-on reset with the Wellhead held, takes effect: pages end, the journal is recovered, registers are restored, and start-up runs (R71, R449, R459 to R464). [DESIGN CHOICE: log 45, 118] -/
def resetNow (engine : Bool) (now why : Nat) (x : Merge × Chip) : Merge × Chip :=
  let (m, c) := numberAccepted now x
  let commits := c.commits
  let m := m.recover now (c.commitFix now)
  let c := if c.running.isEmpty then c else c.stopPages now 8
  let c := c.pages.foldl (fun (c : Chip) p => c.finishPage p Rc.CANCELLED 0) c
  let c := (c.each (List.range 12) fun a c => c.pin "DRV" a 0).afterReset engine
  let c := commits.foldl (fun (c : Chip) k => c.restoreCommit now k) c
  let c := ({ c with txn := { c.txn with touched := [], switched := [] } } : Chip).applyCam.updSump fun s =>
    { s with rd := c.pair Reg.SUMP_RD_LO Reg.SUMP_RD_HI }
  let roots := (List.range 8).map fun p => c.pair (Reg.HOST_PART_XLAT_ROOT_LO p) (Reg.HOST_PART_XLAT_ROOT_HI p)
  let c := c.updXlat fun x => { x with roots := roots }
  let c := (((c.setFlag Fld.SAFETY_STATUS_LEN_ARM false).setFlag Fld.SAFETY_STATUS_HV_ARM false).startUp now why false).resetCut now
  let c := c.trainAll now
  let x := (List.range 8).foldl (fun (x : Merge × Chip) p => showGeometry p x) (m, c)
  (x.1, x.2.refreshLoads)

/-- The power pins as a start finds them: MSEL, main and VBACK (R78, R379, R380). [DESIGN CHOICE: log 118] -/
def Chip.powerPins (c : Chip) (now : Nat) (msel mainOk : Bool) (vback : Nat) : Chip :=
  let c := c.setFld Fld.GLOBAL_PART_OWNER_OWNER_PORT (putBits (c.fld Fld.GLOBAL_PART_OWNER_OWNER_PORT) 0 0 (b2n msel))
  let c := (c.setFlag Fld.POWER_STATUS_MAIN_OK mainOk).setFld Fld.POWER_STATUS_VBACK vback
  let c := c.updEng fun x => { x with msel := Port.ofNum (b2n msel) }
  c.updSafety fun s => { s with
    mainLost := !mainOk, brown := false, lossAt := if mainOk then s.lossAt else now
    mainSince := if mainOk && s.mainLost then some now else s.mainSince }

/-- POWER_ON_RESET with the Wellhead held (R378, R459, R464). [DESIGN CHOICE: log 118, 119] -/
def powerOnReset (now : Nat) (msel mainOk : Bool) (vback : Nat) (x : Merge × Chip) : Merge × Chip :=
  resetNow false now Why.powerOn (x.1, (x.2.setFlag Fld.POWER_STATUS_HOLDUP false).powerPins now msel mainOk vback)

/-- The machine of a cold start: everything at its reset value, sequence number 0 taken by the STATE_CHANGE record (R25, R442, R448, R459). The queue of commands stays. [DESIGN CHOICE: log 11, 119] -/
def State.coldStart (s : State) (msel mainOk : Bool) (vback i2cPins : Nat) : State :=
  let c : Chip := { free := s.chip.free, eng := { i2cPins := i2cPins } }
  { clock := {}
    merge := State.reset.merge
    chip := ((c.powerPins 0 msel mainOk vback).refreshCut 0).judgeDischarge
    pending := s.pending }

/-- An engine reset asked for: through SAFE_STOP from PRIMED, PRINTING and REPLAY, else at once (R461). [DESIGN CHOICE: log 118] -/
def engineResetAsked (now : Nat) (x : Merge × Chip) : Merge × Chip :=
  let (m, c) := x
  if [St.primed, St.printing, St.replay].contains c.state then
    (m, (c.safeStop now Why.resetStop 8).updEng fun x => { x with resetPending := true })
  else resetNow true now Why.engineReset (m, c)

/-- A guarded pair of GLOBAL.RESET_CTL takes effect: port resets, then the engine reset, or else the partition resets (R459, R460). [DESIGN CHOICE: log 118] -/
def resetCtl (now : Nat) (v : Nat) (x : Merge × Chip) : Merge × Chip :=
  let x := if bit v 16 then hostPortReset now .a .hot x else x
  let x := if bit v 17 then hostPortReset now .b .hot x else x
  if bit v 0 then engineResetAsked now x
  else ((List.range 8).filter fun p => bit v (8 + p)).foldl (fun (x : Merge × Chip) p => resetPartition now p x) x

/-- STOP_SEQUENCE_FINISHED with what follows it: the journal is unsealed, a pending engine reset takes effect (R382, R383, R461). [DESIGN CHOICE: log 118] -/
def stopSequenceEnd (now : Nat) (x : Merge × Chip) : Merge × Chip :=
  let (m, c) := x
  if !c.stopFinished || !m.stopWritten then (m, c)
  else
    let m := { m with sealed := m.broken || c.eng.coresFailed, useStopArea := m.useStopArea && !c.eng.shed }
    let pend := c.eng.resetPending
    let c := (c.stopSequenceFinished now).updEng fun x => { x with resetPending := false }
    if pend then resetNow true now Why.engineReset (m, c) else (m, c)

/-- A wake from SLEEP: both ports in L0, engine time rebuilt, AWAKE (R33, R77, R472). [DESIGN CHOICE: log 120] -/
def Chip.wakeUp (c : Chip) (now why : Nat) : Chip :=
  if c.state != St.sleep || c.eng.down then c
  else
    let c := c.each [0, 1] fun q c => c.setFlag (Fld.HOST_PORT_STATUS_L1_2 q) false
    (c.startUp now why true).updEng fun x => { x with rebuilding := true }

/-- WAKE_REBUILD_DONE: imaging SRAM is rebuilt, the quads are powered, links train, and each attached partition is polled (R24, R110, R472). [DESIGN CHOICE: log 120] -/
def wakeRebuildDone (now : Nat) (x : Merge × Chip) : Merge × Chip :=
  let (m, c) := x
  if !c.eng.rebuilding || !c.fast then (m, c)
  else
    let c := (c.updEng fun x => { x with rebuilding := false }).trainAll now
    (List.range 8).foldl (fun (x : Merge × Chip) p => pollNow now p x) (m, c)

/-- START_UP_COMPLETE: every link and mirror that start-up brings up is up or missing: IDLE, unless a stop came between (R464, R471, R472). [DESIGN CHOICE: log 120] -/
def Chip.startUpComplete (c : Chip) : Chip :=
  if !c.fast || !c.eng.starting || c.eng.rebuilding || c.eng.m0.isNone then c
  else if (c.eng.boot.filter c.tileOn).all fun t => (c.tile t).missing || (c.tile t).locked then
    let c := c.updEng fun x => { x with starting := false, wake := false }
    if c.state = St.awake then c.enter St.idle Why.startUp else c
  else c

/-- DETAIL of CORE_FAILOVER (R454). [DESIGN CHOICE: log 121] -/
def Chip.failoverDetail (c : Chip) (kind resume : Nat) : Nat :=
  kind + c.eng.activePair * 16 + b2n c.eng.standby * 32 + min 200 resume * 65536

/-- LOCKSTEP_MISMATCH, or an uncorrectable firmware word: the standby pair takes over, or both pairs have failed (R452 to R454). [DESIGN CHOICE: log 121] -/
def Chip.failover (c : Chip) (now kind resume : Nat) : Chip :=
  if !c.fast || c.eng.coresFailed then c
  else if !c.eng.standby then c.coresFail now
  else
    let c := c.updEng fun x => { x with activePair := 1 - x.activePair, standby := false, testing := true }
    c.event Rc.CORE_FAILOVER 0 (c.failoverDetail kind resume)

/-- Entries fetched and not journalled when the active pair is halted are dropped; they are fetched again at the next poll (R443, R452). -/
def Merge.dropFetched (m : Merge) : Merge :=
  let entries (i : FItem) : Bool := match i with | .entries _ _ _ => true | _ => false
  { m with parts := m.parts.map fun q =>
      let q := { q with fetches := q.fetches.filter fun i => !entries i }
      if q.failed.any entries then { q with busRetry := false, waitPoll := false, failed := none } else q }

/-- LOCKSTEP_MISMATCH as a whole: the standby pair takes over without what was fetched and not journalled (R452). [DESIGN CHOICE: log 121] -/
def failoverNow (now kind resume : Nat) (x : Merge × Chip) : Merge × Chip :=
  if !x.2.fast || x.2.eng.coresFailed then x else (x.1.dropFetched, x.2.failover now kind resume)

/-- STANDBY_SELF_TEST_END (R453, R454). [DESIGN CHOICE: log 121] -/
def Chip.selfTestEnd (c : Chip) (pass : Bool) : Chip :=
  if !c.fast || !c.eng.testing || c.eng.coresFailed then c
  else
    let c := c.updEng fun x => { x with standby := pass, testing := false }
    c.event Rc.CORE_FAILOVER 0 (c.failoverDetail (if pass then 4 else 3) 0)

/-- The number of a memory in records (R440). [DESIGN CHOICE: log 112] -/
def memNum : SramMem → Nat
  | .imaging => 0
  | .firmware => 1
  | .retention => 2

/-- SRAM_UNCORRECTABLE; after a firmware word the time to resumption is a free value of at most 200 (R26, R440, R442, R452, R454). [DESIGN CHOICE: log 112] -/
def sramUncorrectable (now : Nat) (mem : SramMem) (off : Nat) (checkpoint : Bool) (owner : SramOwner) (x : Merge × Chip) : Merge × Chip :=
  let (m, c) := x
  if !c.fast then (m, c)
  else
    let record (effect inst : Nat) (c : Chip) : Chip :=
      c.event Rc.SRAM_UNCORRECTABLE off (memNum mem + b2n checkpoint * 16 + effect * 256 + inst * 65536)
    match mem with
    | .imaging =>
      if !c.running.isEmpty then (m, (record 1 0 c).abortAll 5)
      else match owner with
        | .table inst => (m, (record 2 inst c).updEng fun x => { x with invalid := inst :: x.invalid.filter fun k => k != inst })
        | _ => (m, record 0 0 c)
    | .firmware => if checkpoint then (m, (record 4 0 c).safeStop now Why.sram 8) else
      let (t, c) := (record 3 0 c).freeNat
      failoverNow now 2 (t % 201) (m, c)
    | .retention =>
      let c := (record 4 0 c).updEng fun x => { x with faultLog := x.faultLog ++ [(2, off)] }
      ({ m with broken := true }, (c.safeStop now Why.sram 8).emit .sealed)

/-- SRAM_CORRECTABLE_ERROR: written back and counted (R26). [DESIGN CHOICE: log 112] -/
def Chip.sramCorrectable (c : Chip) (mem : SramMem) : Chip :=
  if c.fast then c.updEng fun x => { x with eccCount := updAt x.eccCount (memNum mem) (· + 1) } else c

/-- ROM_PARITY: the second image answers, and the error is counted (R26). [DESIGN CHOICE: log 112] -/
def Chip.romParityError (c : Chip) : Chip := if c.fast then c.updEng fun x => { x with romParity := x.romParity + 1 } else c

/-- The REF correction at a die reading, from which on it holds: a value that becomes limited sets XTAL_COMP_RANGE; while the sensor is SUSPECT the correction stays (R391, R398). [DEDUCED: log 14] -/
def Chip.judgeRef (c : Chip) : Chip :=
  let i := c.fld Fld.THERMAL_COMP_CFG_REF_SENSOR
  if !c.fast || c.suspect i then c else
  let f := xtalPoly (fun i => c.reg (Reg.THERMAL_XTAL_REF i)) (c.dieTemp i)
  let far := decide (xtalLimit f ≠ f)
  let was := c.safety.refRange
  let c := c.updSafety fun s => { s with refRange := far, refCorr := xtalLimit f }
  if far && !was then c.raise Ev.SAFETY_EVENT_XTAL_COMP_RANGE else c

/-- WELLHEAD_SENSOR_READ: the ticks since the last reading are corrected at this temperature; the tick is slow where f is negative (R29, R398). [DEDUCED: log 14] -/
def State.wellheadRead (s : State) (dt : Nat) (temp : Int) : State :=
  let k := s.elapsed dt
  let (m, c) := s.opened dt
  let s := { s with merge := m }
  if s.chip.fast then { s with clock := k, chip := c }
  else
    let f := xtalPoly (fun i => c.reg (Reg.THERMAL_XTAL_WELL i)) temp
    let far := decide (xtalLimit f ≠ f)
    let was := c.safety.wellRange
    let c := c.updSafety fun x => { x with wellTemp := temp, wellRange := far }
    let c := if far && !was then c.raise Ev.SAFETY_EVENT_XTAL_COMP_RANGE else c
    { s with clock := { k with sinceRead := 0, corr := k.corr - (k.sinceRead : Int) * xtalLimit f }, chip := c }

end Sys2Proof.Machine
end

