-- ==== Sys2Proof/Machine/RegEffect.lean ====
section
/-! DEFINITION. What a register value does once it stands: the ranges and states in which each unit accepts a write, the form of a refusal, and the effects that follow (R101, R130, R243, R263, R315, R333, R339, R343, R350, R372, R375, R402, R470, R488).
-/
namespace Sys2Proof.Machine

/-- A number within bounds, both included. -/
def within (lo hi v : Nat) : Bool := decide (lo ≤ v) && decide (v ≤ hi)

/-- A SAFETY, POWER or THERMAL register (first offset `b`) holds a value within its ranges (R402). -/
def safetyRange (b w : Nat) : Bool :=
  if b = Reg.POWER_VBACK_MIN then within 900 3600 (bits w 15 0)
  else if b = Reg.THERMAL_CFG then within 80 108 (bits w 15 8) && within 60 (bits w 15 8) (bits w 7 0) && within 1 255 (bits w 23 16)
  else if b = Reg.THERMAL_FUSER_LIM 0 then within 1 400 (bits w 9 0) && within 1 255 (bits w 23 16)
  else if b = Reg.THERMAL_TH_RATE 0 then within 1 255 (bits w 7 0)
  else if b = Reg.THERMAL_COMP_CFG then within 0 11 (bits w 3 0)
  else true

/-- A SEAM register holds a value within its ranges (R244, R263). -/
def seamRange (b w : Nat) : Bool :=
  if b = Reg.SEAM_CTL then within 1 16 (bits w 12 8)
  else if b = Reg.SEAM_GEOM 0 then
    within 7087 9921 (bits w 13 0) && within 95 566 (bits w 25 16) && decide (bits w 13 0 + bits w 25 16 ≤ 10240)
  else if b = Reg.SEAM_STRIP then within 8 31 (bits w 4 0)
  else if b = Reg.SEAM_LSCAN_CFG then within 1 16384 (bits w 14 0)
  else if b = Reg.SEAM_LSCAN_TRIG then within 16 65535 (bits w 15 0)
  else if b = Reg.SEAM_LSCAN_MAP then within 0x100 0x4000 (bits w 23 0)
  else if b = Reg.SEAM_EDGE_SHAPE then
    within 32 65535 (bits w 15 0) && within 8 (bits w 15 0 / 2) (bits w 23 16) && within 8 64 (bits w 31 24)
  else if b = Reg.SEAM_AUTO then within 8192 65535 (bits w 15 0)
  else true

/-- A DRIVE register holds a value within its ranges; `period` is the axis's PWM period (R315). -/
def driveRange (b w period : Nat) : Bool :=
  if b = Reg.DRIVE_CFG 0 then
    within 1 15 (bits w 7 4) && (within 0 11 (bits w 15 12) || bits w 15 12 == 15) && within 0 2 (bits w 17 16)
  else if b = Reg.DRIVE_PWM 0 then within 2500 62500 (bits w 15 0) && bits w 0 0 == 0 && within 1 16 (bits w 19 16)
  else if b = Reg.DRIVE_PWM_PHASE 0 then decide (bits w 15 0 < period)
  else if b = Reg.DRIVE_PWM_TIMING 0 then within 1 255 (bits w 7 0) && within 20 300 (bits w 16 8)
  else if b = Reg.DRIVE_ISCALE 0 then within 1 65535 (bits w 15 0)
  else if b = Reg.DRIVE_ILIM 0 then within 1 2047 (bits w 11 0) && within 1 2047 (bits w 27 16)
  else if b = Reg.DRIVE_LIMITS 0 then within 1 255 (bits w 31 24)
  else if b = Reg.DRIVE_CATCH 0 then within 1 255 (bits w 23 16) && within 1 50 (bits w 29 24)
  else if b = Reg.DRIVE_START 0 then within 1 65535 (bits w 31 16)
  else true

/-- A FEEDBACK register holds a value within its ranges (R333). -/
def feedbackRange (b w : Nat) : Bool :=
  if b = Reg.FEEDBACK_ENC_CPR 0 then bits w 24 0 == 0 || within 4 16777216 (bits w 24 0)
  else if b = Reg.FEEDBACK_ENC_SPD_CFG 0 then within 1 40000 (bits w 15 0) && within 1 1000 (bits w 25 16) && within 1 63 (bits w 31 26)
  else if b = Reg.FEEDBACK_ENC_SLIP 0 then within 1 40000 (bits w 15 0)
  else if b = Reg.FEEDBACK_HALL_CFG 0 then within 1 63 (bits w 13 8)
  else if b = Reg.FEEDBACK_BISS_CFG 0 then
    within 0 2 (bits w 2 1) && within 25 255 (bits w 15 8) && within 8 40 (bits w 21 16) && within 0 2 (bits w 23 22)
      && within 1 (min (bits w 21 16) 32) (bits w 29 24)
  else if b = Reg.FEEDBACK_BISS_CRC 0 then within 0 16 (bits w 20 16)
  else if b = Reg.FEEDBACK_BISS_RATE 0 then within 10 65535 (bits w 15 0) && within 1 255 (bits w 23 16)
  else true

/-- A MULE register holds a value within its ranges; `other` is the other soft limit of the axis (R350). -/
def muleRange (b w : Nat) (other : Int) : Bool :=
  if b = Reg.MULE_CURRENT 0 then within 0 256 (bits w 8 0) && within 0 256 (bits w 17 9)
  else if b = Reg.MULE_VMAX 0 then within 1 2000000 w
  else if b = Reg.MULE_ACC 0 ∨ b = Reg.MULE_DEC 0 ∨ b = Reg.MULE_ESTOP_DEC 0 then within 1 4000000000 w
  else if b = Reg.MULE_SOFT_MIN 0 then decide (signed 32 w ≤ other)
  else if b = Reg.MULE_SOFT_MAX 0 then decide (other ≤ signed 32 w)
  else if b = Reg.MULE_HOME 0 then within 1 2000000 (bits w 20 0) && within 0 2 (bits w 22 21)
  else if b = Reg.MULE_HOME_DIST 0 then within 1 0x7FFFFFFF w
  else if b = Reg.MULE_STALL 0 then within 1 65535 (bits w 15 0)
  else true

/-- A WINDLASS register other than SLOT_CFG holds a value within its ranges (R354, R356, R372, R375). -/
def windlassRange (b w : Nat) : Bool :=
  if b = Reg.WINDLASS_BELT_SLOT then within 20000 600000 (bits w 27 8)
  else if b = Reg.WINDLASS_FOLLOW_CFG then within 0 15 (bits w 8 4) && within 1 1000 (bits w 25 16)
  else if b = Reg.WINDLASS_RC_FORGET 0 then within 1 15 (bits w 3 0)
  else if b = Reg.WINDLASS_CAP_CTL then within 1 255 (bits w 15 8) && within 1 64 (bits w 22 16)
  else if b = Reg.WINDLASS_CAP_SEL 0 then within 0 6 (bits w 10 8)
  else if b = Reg.WINDLASS_SLOT_IO 0 then ioListed (BitVec.ofNat 32 w)
  else if b = Reg.WINDLASS_PERIOD 0 then periodOk (BitVec.ofNat 32 w)
  else if b = Reg.WINDLASS_HV_CFG 0 then within 500 25000 (bits w 19 4)
  else if b = Reg.WINDLASS_FUSER_CFG 0 then within 1 255 (bits w 23 16)
  else if b = Reg.WINDLASS_FUSER_PMAX 0 then within 0 0x10000 (bits w 16 0)
  else true

/-- PRIMED or PRINTING. -/
def Chip.primedOrPrinting (c : Chip) : Bool := c.state == St.primed || c.state == St.printing

/-- A channel is named by the belt or a drum mapping of a configured station in PRIMED or PRINTING, or by a drive axis outside DISABLED (R333). [DESIGN CHOICE: log 90] -/
def Chip.channelNamed (c : Chip) (ch : Nat) : Bool :=
  (c.primedOrPrinting && (c.belt.ch == ch || c.configuredStations.any fun s => (c.stn s).ch == ch))
    || (List.range 12).any fun a => c.driveState a != Ds.disabled && c.fld (Fld.DRIVE_CFG_ENC_CH a) == ch

/-- A Hall triplet is named by a drive axis outside DISABLED (R333). [DESIGN CHOICE: log 90] -/
def Chip.hallNamed (c : Chip) (h : Nat) : Bool :=
  (List.range 12).any fun a => c.driveState a != Ds.disabled && c.fld (Fld.DRIVE_CFG_HALL_CH a) == h

/-- A FEEDBACK register accepts a write in the present state: the configuration of a channel, triplet or master only while EN was 0 or the write clears it, the belt and drum mappings only outside PRIMED and PRINTING (R333). [DESIGN CHOICE: log 90] -/
def Chip.feedbackAccepts (c : Chip) (b i old new : Nat) : Bool :=
  if b = Reg.FEEDBACK_ENC_CFG 0 then !bit old 0 || (!bit new 0 && !c.channelNamed i)
  else if b = Reg.FEEDBACK_ENC_CPR 0 ∨ b = Reg.FEEDBACK_ENC_SPD_CFG 0 then !c.flag (Fld.FEEDBACK_ENC_CFG_EN i)
  else if b = Reg.FEEDBACK_HALL_CFG 0 then !bit old 0 || (!bit new 0 && !c.hallNamed i)
  else if b = Reg.FEEDBACK_BISS_CFG 0 then !bit old 0 || (!bit new 0 && !c.channelNamed (12 + i))
  else if b = Reg.FEEDBACK_BELT_CFG ∨ b = Reg.FEEDBACK_BELT_SCALE ∨ b = Reg.FEEDBACK_DRUM_CH 0 then !c.primedOrPrinting
  else true

/-- A MULE register accepts a write in the present state: CFG, HOME and STALL only in DISABLED, except a CFG write that sets or clears EN; in FAULT every CFG write does (R339, R350). -/
def Chip.muleAccepts (c : Chip) (b m old new : Nat) : Bool :=
  let s := c.muleState m
  if b = Reg.MULE_CFG 0 then s == 0 || s == 4 || bit old 0 != bit new 0
  else if b = Reg.MULE_HOME 0 ∨ b = Reg.MULE_STALL 0 then s == 0
  else true

/-- Why a WINDLASS register refuses its new value (R359, R372, R375). [DESIGN CHOICE: log 103] -/
def Chip.windlassCause (c : Chip) (b n : Nat) (old new : Word) : Option Nat :=
  if b = Reg.WINDLASS_SLOT_CFG 0 then c.slotCfgCause n old
  else if (b = Reg.WINDLASS_SLOT_IO 0 ∨ b = Reg.WINDLASS_PERIOD 0) ∧ c.slotRuns n then some 2
  else if b = Reg.WINDLASS_SETPOINT 0 ∧ c.wl.owned ∧ c.wl.belt = n then some 2
  else if b = Reg.WINDLASS_HV_CFG 0 ∧ bit old.toNat 0 ∧ bits old.toNat 19 4 ≠ bits new.toNat 19 4 then some 2
  else if windlassRange b new.toNat then none else some 1

/-- Why a unit refuses the value that a register now holds over `old`: a cause as R372 numbers them, 1 a range and 2 a state. `q` is the writing port, none for a transaction. [DEDUCED: log 17] -/
def Chip.refusal (c : Chip) (b : Nat) (ix : List Nat) (old new : Word) (q : Option Port) : Option Nat :=
  let i := ix.headD 0
  let o := old.toNat
  let w := new.toNat
  let need (state range : Bool) : Option Nat := if !state then some 2 else if !range then some 1 else none
  if b < 0x20000 then need true (safetyRange b w)
  else if b = Reg.HOST_PART_POLL 0 then need true (within 1 64 (bits w 6 0))
  else if b = Reg.SUMP_CFG ∨ b = Reg.SUMP_TRIG_MASK then need (c.fld Fld.SUMP_STATUS_STATE == 0) true
  else if b = Reg.SUMP_RD_LO ∨ b = Reg.SUMP_RD_HI then
    need (match q with
      | some p => c.owner (c.fld Fld.SUMP_STATUS_PART) == p
      | none => true) true
  else if b < 0x300000 then none
  else if b < 0x310000 then
    need (!decide (b ≤ Reg.DRIVE_PWM_PHASE 0) || c.driveState i == Ds.disabled) (driveRange b w (c.fld (Fld.DRIVE_PWM_PERIOD i)))
  else if b < 0x320000 then need (c.feedbackAccepts b i o w) (feedbackRange b w)
  else if b < 0x328000 then
    need (c.muleAccepts b i o w) (muleRange b w
      (if b = Reg.MULE_SOFT_MIN 0 then c.fldS (Fld.MULE_SOFT_MAX_VALUE i) else c.fldS (Fld.MULE_SOFT_MIN_VALUE i)))
  else if b < 0x3C0000 then c.windlassCause b i old new
  else if b < 0x3E0000 then need true (seamRange b w)
  else none

/-- The slot that CFG_ERR_INFO records for a WINDLASS register: its own, and a free one for a register of no slot, of which the manual names none (R372). [DESIGN CHOICE: log 103] -/
def Chip.errSlot (c : Chip) (b i : Nat) : Nat × Chip :=
  if 0x390000 ≤ b ∧ b < 0x3B0000 then (i, c)
  else
    let (n, c) := c.freeNat
    (n % 128, c)

/-- A refused write: the register keeps its old word, and the unit reports it in its own form (R4, R130, R263, R315, R333, R350, R372, R402, R488). [DESIGN CHOICE: log 103] -/
def Chip.refuse (c : Chip) (b : Nat) (ix : List Nat) (off : Nat) (old : Word) (cause : Nat) : Chip :=
  let i := ix.headD 0
  let c := c.setReg off old
  if b < 0x20000 then c
  else if b < 0x50000 then c.setFlag (Fld.HOST_PART_RING_STATUS_POLL_ERR i) true
  else if b < 0x60000 then c.raise Ev.SUMP_EVENT_CFG_ERR
  else if b < 0x310000 then c.raise (Ev.DRIVE_EVENT_CFG_ERR i)
  else if b < 0x320000 then c.raise Ev.FEEDBACK_EVENT_CFG_ERR
  else if b < 0x328000 then c.raise (Ev.MULE_EVENT_CFG_ERR i)
  else if b < 0x3C0000 then
    let (n, c) := c.errSlot b i
    c.wlRefused n cause
  else c.raise Ev.SEAM_EVENT_CFG_ERR

/-- Units whose fields Windlass or the sweep scheduler read: WINDLASS, the stations, tiles, drive axes and FEEDBACK (R473, R484). [DESIGN CHOICE: log 23] -/
def replayedUnit (u : Nat) : Bool := u == 5 || (decide (8 ≤ u) && decide (u ≤ 92))

/-- A change of a configuration field enters the Sump (R473). [DESIGN CHOICE: log 23] -/
def Chip.logConfig (c : Chip) (now off : Nat) (old : Word) : Chip :=
  let w := c.reg off
  if w != old && replayedUnit (unitOf off) then c.sumpRec none 0x11 (unitOf off) now [BitVec.ofNat 32 off, w] else c

/-- The line-scan port follows SEAM.CTL.LSCAN_EN and the clock that it needs (R250, R263). -/
def Chip.lscanFollow (c : Chip) : Chip :=
  if c.lscanOn && c.seam.nextTrig.isNone then c.lscanStart
  else if !c.lscanOn && c.seam.nextTrig.isSome then c.lscanStop
  else c

/-- TILE.CFG changed: a tile that is enabled is brought up by itself, or reported missing in an unpowered quad; one that is disabled is shut off (R288, R469, R470). [DESIGN CHOICE: log 79] -/
def Chip.tileWrote (c : Chip) (now t old : Nat) : Chip :=
  let was := bit old 0
  let c :=
    if !was && c.tileOn t then (if c.quadOn t then c.tryTrain now t else c.tileMissing t 1)
    else if was && !c.tileOn t then c.disableTile now t
    else c
  (c.refreshSched t).showLoad

/-- The statuses with which a motion command that has begun can end (R422, R438). -/
def motionEnds : List Nat :=
  [Rc.OK, Rc.MOVE_REPLACED, Rc.SOFT_LIMIT, Rc.LIMIT_HIT, Rc.HOME_FAIL, Rc.STALL, Rc.AXIS_FAULT, Rc.SAFE_STOPPED, Rc.ERR_STATE]

/-- MULE.CFG stands: the inputs follow their active levels; EN sets DISABLED or FAULT to HOLD, and clearing it brings any state to DISABLED; which status a command ends with that it stops is free among those of R422, for the manual names none (R339, R345, R438). [DESIGN CHOICE: log 91, 92] -/
def Chip.muleCfgWrote (c : Chip) (now m : Nat) : Chip :=
  let c := c.showSwitches m
  if c.flag (Fld.MULE_CFG_EN m) then c.muleEnable now m
  else if c.muleState m = 0 then c
  else
    let (n, c) := c.freeNat
    c.muleDisable m (motionEnds.getD (n % motionEnds.length) Rc.OK)

/-- VMAX, ACC or DEC of a moving axis is applied at its next step (R343). -/
def Chip.profileWrote (c : Chip) (m k : Nat) : Chip :=
  if c.muleMoving m then c.updMule m fun x => { x with fresh := if bit x.fresh k then x.fresh else x.fresh + 2 ^ k } else c

/-- CAP_CTL stands: a capture in progress ends; otherwise a capture starts at once, or waits for an injection under TRIG (R374). [DESIGN CHOICE: log 102] -/
def Chip.capWrote (c : Chip) : Chip :=
  if c.fld Fld.WINDLASS_CAP_STATUS_STATE = 2 then c.endCapture
  else if c.flag Fld.WINDLASS_CAP_CTL_TRIG then
    (c.setFld Fld.WINDLASS_CAP_STATUS_STATE 1).setFld Fld.WINDLASS_CAP_STATUS_COUNT 0
  else c.startCapture 0 none

/-- What follows in a unit of the chip when a register has taken a word over `old` (the chapters of each register). -/
def Chip.wrote (c : Chip) (now b : Nat) (ix : List Nat) (old : Word) : Chip :=
  let i := ix.headD 0
  if b = Reg.GLOBAL_CLK_CTL ∨ b = Reg.SEAM_CTL then c.lscanFollow
  else if b = Reg.SAFETY_DCHG_LIMIT then c.judgeDischarge
  else if b = Reg.HOST_PART_XLAT_ROOT_HI 0 then c.rootApply i
  else if b = Reg.HOST_PART_POLL 0 then c.setFlag (Fld.HOST_PART_RING_STATUS_POLL_ERR i) false
  else if b = Reg.SUMP_RD_HI then c.sumpRd
  else if b = Reg.TILE_CFG 0 then c.tileWrote now i old.toNat
  else if b = Reg.FEEDBACK_ENC_CFG 0 then
    (if c.chanOn i && !bit old.toNat 0 then c.enableEnc i else c).showSources
  else if b = Reg.FEEDBACK_HALL_CFG 0 then
    (if c.flag (Fld.FEEDBACK_HALL_CFG_EN i) && !bit old.toNat 0 then c.enableHall i else c).showSources
  else if b = Reg.FEEDBACK_BISS_CFG 0 then
    (if c.chanOn (12 + i) && !bit old.toNat 0 then c.enableBiss i else c).showSources
  else if b = Reg.DRIVE_CFG 0 then c.showSources
  else if b = Reg.DRIVE_PWM 0 ∨ b = Reg.WINDLASS_PERIOD 0 then c.showLoad
  else if b = Reg.MULE_CFG 0 then c.muleCfgWrote now i
  else if b = Reg.MULE_VMAX 0 then c.profileWrote i 0
  else if b = Reg.MULE_ACC 0 then c.profileWrote i 1
  else if b = Reg.MULE_DEC 0 then c.profileWrote i 2
  else if b = Reg.WINDLASS_CAP_CTL then c.capWrote
  else if b = Reg.WINDLASS_RC_CFG 0 then c.showLoad
  else if b = Reg.WINDLASS_SLOT_CFG 0 then c.slotCfgSet now i old
  else if b = Reg.WINDLASS_HV_CFG 0 then (c.refreshHv i).judgeDischarge
  else if b = Reg.WINDLASS_FUSER_CFG 0 then c.fuserCfgWrote i old.toNat
  else if b = Reg.SEAM_CAM_OFFSET_HI then c.applyCam
  else c

/-- A partition's registers that a partition reset or an attach latches (R104). -/
def isGeometry (b : Nat) : Bool :=
  [Reg.HOST_PART_RING_BASE_LO 0 0, Reg.HOST_PART_RING_BASE_HI 0 0, Reg.HOST_PART_RING_SIZE 0 0, Reg.HOST_PART_Q_BASE_LO 0 0,
    Reg.HOST_PART_Q_BASE_HI 0 0, Reg.HOST_PART_Q_CTL 0 0, Reg.HOST_PART_DB_LO 0, Reg.HOST_PART_DB_HI 0].contains b

/-- PART_OWNER has changed: a partition that was disabled loses its ATTACH bit (R80). [DESIGN CHOICE: log 20] -/
def ownerWrote (old : Nat) (x : Merge × Chip) : Merge × Chip :=
  ((List.range 8).filter fun p => bit old (8 + p) && !x.2.enabled p).foldl (fun (x : Merge × Chip) p => detachPart p x) x

/-- ATTACH was written: 1 attaches where the port is up and the partition enabled, 0 detaches (R100, R101). -/
def attachWrote (now p : Nat) (old : Word) (x : Merge × Chip) : Merge × Chip :=
  let on := x.2.attached p
  let was := bit old.toNat 0
  if on = was then x
  else if on then attachPart now p (x.1, x.2.setFlag (Fld.HOST_PART_CTL_ATTACH p) false)
  else detachPart p x

/-- Everything that follows when a register has taken a word over `old`: it is refused, or its effects happen. -/
def regEffect (now : Nat) (q : Option Port) (off : Nat) (old : Word) (x : Merge × Chip) : Merge × Chip :=
  match RegMap.find off with
  | none => x
  | some (r, ix) =>
    match x.2.refusal r.base ix old (x.2.reg off) q with
    | some k => (x.1, x.2.refuse r.base ix off old k)
    | none =>
      let x := (x.1, (x.2.logConfig now off old).wrote now r.base ix old)
      if r.base = Reg.GLOBAL_PART_OWNER then ownerWrote (bits old.toNat 15 0) x
      else if r.base = Reg.HOST_PART_CTL 0 then attachWrote now (ix.headD 0) old x
      else if isGeometry r.base then showGeometry (ix.headD 0) x
      else x

/-- The action of a write to a write-only register (R43): ILK_CLEAR, INVAL_CTL, SUMP.TRIG and HV_REARM. -/
def Chip.woAction (c : Chip) (now b : Nat) (ix : List Nat) (v : Word) : Chip :=
  let i := ix.headD 0
  if b = Reg.SAFETY_ILK_CLEAR then (if bit v.toNat 0 then c.ilkClear now else c)
  else if b = Reg.HOST_PART_INVAL_CTL 0 then c.invalidate i v
  else if b = Reg.SUMP_TRIG then (if bit v.toNat 0 then c.sumpTrigger now 11 else c)
  else if b = Reg.WINDLASS_HV_REARM 0 then (if bit v.toNat 0 then c.hvRearm i else c)
  else c

/-- The Sump takes the new active bank of an instance that Windlass or the sweep scheduler read, in records of up to 254 words (R473). [DESIGN CHOICE: log 23] -/
def Chip.logTable (c : Chip) (now inst : Nat) : Chip :=
  if !c.recording || inst / 4096 == 6 then c
  else
    let ws := wordsOf (c.tabImage true inst)
    c.each (List.range (cdiv ws.length 254)) fun k c =>
      c.sumpRec none 0x12 inst now (BitVec.ofNat 32 (254 * k) :: (ws.drop (254 * k)).take 254)

/-- A table instance has switched: a bank that fails its checks takes its tiles out of the running page, a placement switch is judged against the seams (R216, R232, R245). -/
def Chip.tableSwitched (c : Chip) (now : Nat) (tabs : List Nat) (inst : Nat) : Chip :=
  let k := inst / 4096
  let i := inst % 4096
  let c := c.logTable now inst
  let lose (c : Chip) (t : Nat) : Chip := if c.running.any fun p => p.tiles.contains t then c.loseTile now t else c
  if k = 1 then
    let t := i / 2
    let c := if c.placeBad t then lose c t else c
    let c := c.refreshSched t
    let mine (d : Nat) : Bool := tabs.contains (0x1000 + 2 * t + d)
    if mine 0 && i % 2 == 1 then c else c.seamReach t mine
  else if k = 2 ∨ k = 3 then
    if c.txn.bad.contains inst then (c.tilesOf i).foldl (fun (c : Chip) t => lose c t) c else c
  else if k = 4 ∧ c.txn.bad.contains inst then lose c i
  else c

/-- A tile that is calibrating and whose link is down leaves its calibration (R242). -/
def Chip.dropDown (c : Chip) (now : Nat) : Chip :=
  ((c.eng.calJobs.flatMap (·.tiles)).filter fun t => (c.tile t).cal.isSome && c.link t != Lk.up).foldl
    (fun (c : Chip) t => c.calDrop now t) c

/-- M0 is reached: the cut signal of a power-on sequence ends unless one of its conditions holds (R464, R466). [DESIGN CHOICE: log 120] -/
def Chip.passM0 (c : Chip) (now : Nat) : Chip :=
  let was := c.eng.m0
  let c := c.checkM0 now
  if was.isNone && c.eng.m0.isSome && !c.eng.wake then c.refreshCut now else c

/-- What a command leaves to be done at once in the units: effects of the registers and tables that switched, cuts, image channels, commits whose units need no safe point, PRIME and start-up going on, SLEEP once its record is written. [DESIGN CHOICE: log 13] -/
def settle (now : Nat) (x : Merge × Chip) : Merge × Chip :=
  let c := x.2.catchUp now
  let regs := c.txn.touched
  let tabs := c.txn.switched
  let x := regs.foldl (fun (x : Merge × Chip) e => regEffect now none e.1 e.2 x) (x.1, { c with txn := { c.txn with touched := [], switched := [] } })
  let c := tabs.foldl (fun (c : Chip) i => c.tableSwitched now tabs i) x.2
  let c := ((((c.dropDown now).primeStep now).logCuts now).feedChannels.holdOff now).freeDecided.reseat
  (x.1, ((c.blankedStop now).passM0 now).trySleep now x.1)

/-- The next state of a command of the chip, with what it leaves to be done. [DESIGN CHOICE: log 13] -/
def runAll (dt : Nat) (f : Ctx → Chip → Chip) (s : State) : Host.Outcome State Fault Refusal :=
  .next (s.timedMerge dt fun now x => settle now (x.1, f ⟨now, x.1, s.firm.ready⟩ x.2))

/-- The next state of a command of the chip and the record merge unit, with what it leaves to be done. [DESIGN CHOICE: log 13] -/
def runMergeAll (dt : Nat) (f : Nat → Merge × Chip → Merge × Chip) (s : State) : Host.Outcome State Fault Refusal :=
  .next (s.timedMerge dt fun now x => settle now (f now x))

end Sys2Proof.Machine
end

