-- ==== Sys2Proof/Machine/RegWrite.lean ====
section
/-! DEFINITION. Writes that arrive from a port: the register window with its privilege, access codes, guarded pairs and bit aliases, and the table window (R40 to R58, R72, R80).
-/
namespace Sys2Proof.Machine

/-- The guarded pair that waits in a unit block ends with a cause (R47). [DESIGN CHOICE: log 19] -/
def Chip.breakPair (c : Chip) (o cause : Nat) : Chip :=
  match c.guardOf (unitOf o) with
  | none => c
  | some g => (c.guardFault g.port 0 g.off cause).dropGuard g.unit

/-- Another write reaches a unit block and ends the guarded pair that waits there: cause 4, for an alias write to its A too, which starts no new pair (R47). [DESIGN CHOICE: log 19] -/
def Chip.disturb (c : Chip) (o : Nat) : Chip := c.breakPair o 4

/-- A write to the A of a pair that waits starts a new one; any other pair of the unit block is disturbed: causes 5 and 4 (R47). -/
def Chip.secondFirst (c : Chip) (a : Nat) : Chip :=
  c.breakPair a (if c.guards.any fun g => g.unit == unitOf a && g.off == a then 5 else 4)

/-- The bits of a guarded register that must be 0 are 0, and the duty caps are at most 1,024 (R72, R243, R375). [DESIGN CHOICE: log 19] -/
def guardedValueOk (r : RegSpec) (v : Nat) : Bool :=
  v &&& (2 ^ 32 - 1 - r.fieldMask) == 0 &&
    (r.base != Reg.STATION_CEIL_DUTY 0 || (decide (bits v 10 0 ≤ 1024) && decide (bits v 26 16 ≤ 1024)))

/-- A valid guarded pair takes effect: RESET_CTL acts, any other register takes the value unless it is locked (R47, R50, R459). [DESIGN CHOICE: log 19] -/
def guardTake (now : Nat) (q : Port) (p off : Nat) (r : RegSpec) (ix : List Nat) (v : Word) (x : Merge × Chip) : Merge × Chip :=
  let (m, c) := x
  if r.base = Reg.GLOBAL_RESET_CTL then resetCtl now v.toNat (m, c)
  else if c.lockedField r.base ix 0 then (m, if c.reg off = v then c else c.lockViolation q p off)
  else
    let old := c.reg off
    (m, (c.setReg off v).logConfig now off old)

/-- The write to A + 0x4 of a guarded register at A (R47). [DESIGN CHOICE: log 19] -/
def guardSecond (now : Nat) (q : Port) (p a : Nat) (r : RegSpec) (ix : List Nat) (w : Word) (x : Merge × Chip) : Merge × Chip :=
  let (m, c) := x
  match c.guardOf (unitOf a) with
  | some g =>
    if g.off = a then
      let c := c.dropGuard g.unit
      if w = ~~~g.value ∧ guardedValueOk r g.value.toNat then guardTake now q p a r ix g.value (m, c)
      else (m, c.guardFault q p a 2)
    else (m, (c.disturb a).guardFault q p a 1)
  | none => (m, c.guardFault q p a 1)

/-- The write to A of a guarded register becomes pending (R47). [DESIGN CHOICE: log 19] -/
def Chip.guardFirst (c : Chip) (now : Nat) (q : Port) (a : Nat) (v : Word) : Chip :=
  let c := c.secondFirst a
  { c with guards := ⟨unitOf a, a, v, q, now⟩ :: c.guards }

/-- The word that a masked write leaves: 5 to 7 in IMG_RETRY.COUNT change nothing (R131), OWNER_PORT bits of enabled partitions stay, PART_0's bits are RO, COLD_START cannot be set (R46, R72, R80, R81, R101). -/
def Chip.maskedResult (c : Chip) (r : RegSpec) (ix : List Nat) (old v : Nat) : Nat :=
  let new := maskedWord r old v
  if r.base = Reg.GLOBAL_STATUS then putBits new 4 4 (bits new 4 4 &&& bits old 4 4)
  else if r.base = Reg.GLOBAL_PART_OWNER then
    (List.range 8).foldl (fun w p =>
      let w := if p = 0 || bit old (8 + p) then putBits w p p (bits old p p) else w
      if p = 0 then putBits w 8 8 1 else w) new
  else if r.base = Reg.HOST_PART_PRIV 0 ∧ ix = [0] then 0xF
  else if r.base = Reg.DMA_IMG_RETRY ∧ 4 < bits new 2 0 then putBits new 2 0 (bits old 2 0)
  else new

/-- A masked write changes the OWNER_PORT bit of an enabled partition other than PART_0 (R80). [DESIGN CHOICE: log 20] -/
def ownerStuck (r : RegSpec) (old v : Nat) : Bool :=
  r.base == Reg.GLOBAL_PART_OWNER &&
    (List.range 8).any fun p => p != 0 && bit old (8 + p) && bit (v / 65536) p && bit v p != bit old p

/-- A register takes a new word: the store, and everything that follows. [DEDUCED: log 17] -/
def takeWord (now : Nat) (q : Port) (off new : Nat) (x : Merge × Chip) : Merge × Chip :=
  let (m, c) := x
  let old := c.reg off
  regEffect now (some q) off old (m, c.setReg off (BitVec.ofNat 32 new))

/-- A masked write to an M register (R46, R80). -/
def maskedTake (now : Nat) (q : Port) (off : Nat) (r : RegSpec) (ix : List Nat) (v : Word) (x : Merge × Chip) : Merge × Chip :=
  let old := (x.2.reg off).toNat
  let x := takeWord now q off (x.2.maskedResult r ix old v.toNat) x
  if ownerStuck r old v.toNat then (x.1, x.2.errFault Err.priv off 0 q.num 0 false) else x

/-- A write by code RW, L, W1 and WO: the fields that take their new values, the report of a locked or set field, the action of a write-only register (R43, R50). [DEDUCED: log 17] -/
def plainTake (now : Nat) (q : Port) (p off : Nat) (r : RegSpec) (ix : List Nat) (v : Word) (x : Merge × Chip) : Merge × Chip :=
  let (m, c) := x
  let old := (c.reg off).toNat
  let (new, bad) := c.combine r ix old v.toNat
  let c := if bad then c.lockViolation q p off else c
  if r.fields.any (fun f => f.acc == .wo) then (m, c.woAction now r.base ix v)
  else if r.fields.all (fun f => f.acc == .ro) then (m, c)
  else takeWord now q off new (m, c)

/-- A whole-word write to a register that passed the privilege check (R43). -/
def regTake (now : Nat) (q : Port) (p off : Nat) (r : RegSpec) (ix : List Nat) (v : Word) (x : Merge × Chip) : Merge × Chip :=
  let (m, c) := x
  if r.guarded then (m, c.guardFirst now q off v)
  else
    let c := c.disturb off
    if r.seqClear then (m, c.seqClear off v)
    else if r.coupled then (m, c.coupledWrite q p off)
    else if r.masked then maskedTake now q off r ix v (m, c)
    else plainTake now q p off r ix v (m, c)

/-- A whole-word write to an offset of the register window (R41, R42, R47). [DEDUCED: log 17] -/
def wordWrite (now : Nat) (q : Port) (off : Nat) (v : Word) (x : Merge × Chip) : Merge × Chip :=
  let (m, c) := x
  match RegMap.find off with
  | some (r, ix) =>
    match c.attrib q r.priv ix with
    | some p => regTake now q p off r ix v (m, c)
    | none => (m, (c.disturb off).privViolation q off false)
  | none =>
    match RegMap.find (off - 4) with
    | some (r, ix) =>
      if 4 ≤ off ∧ r.guarded then
        match c.attrib q r.priv ix with
        | some p => guardSecond now q p (off - 4) r ix v (m, c)
        | none => (m, (c.disturb off).privViolation q off false)
      else (m, c.disturb off)
    | none => (m, c.disturb off)

/-- A write to the alias word of a bit: M, SQ and G registers ignore it; a register of T fields reports it; elsewhere the bit is set to bit 0 of the value (R44, R45, R52). A fault captures the address of the alias word, `off`, where the spec does not say whether it is that or the register's. [DEDUCED, DESIGN CHOICE: log 17] -/
def aliasWrite (now : Nat) (q : Port) (off b : Nat) (v : Word) (x : Merge × Chip) : Merge × Chip :=
  let (m, c) := x
  let c := c.disturb off
  match RegMap.find off with
  | none => (m, c)
  | some (r, ix) =>
    if r.guarded || r.seqClear || r.masked then (m, c)
    else
      match c.attrib q r.priv ix with
      | none => (m, c.privViolation q off false)
      | some p =>
        if r.coupled then (m, c.coupledWrite q p off)
        else
          let held := if r.fields.any (fun f => f.acc == .wo) then 0 else (c.reg off).toNat
          plainTake now q p off r ix (BitVec.ofNat 32 (putBits held b b (bits v.toNat 0 0))) (m, c)

/-- A write in SLEEP to anything but ID, STATUS and WAKE is dropped and counted (R54). [DESIGN CHOICE: log 21] -/
def Chip.sleepDrop (c : Chip) : Chip := c.bump Fld.GLOBAL_SLEEP_DROP_COUNT

/-- The offset responds in SLEEP (R54). [DESIGN CHOICE: log 21] -/
def answersAsleep (off : Nat) : Bool := off == Reg.GLOBAL_ID || off == Reg.GLOBAL_STATUS || off == Reg.GLOBAL_WAKE

/-- A write of the register window brings the block out of SLEEP: 1 to GLOBAL.WAKE, with every byte enable (R33, R40, R72). -/
def wakesBlock (off : Nat) (v : Word) (be : Nat) (c : Chip) : Bool :=
  c.state == St.sleep && !c.eng.down && be == 15 && off == Reg.GLOBAL_WAKE && bit v.toNat 0

/-- A 4-byte write from a port to the register window (R40, R41, R44, R47, R54, R72). -/
def busWrite (now : Nat) (q : Port) (off : Nat) (v : Word) (be : Nat) (x : Merge × Chip) : Merge × Chip :=
  let (m, c) := x
  if c.eng.down then (m, c)
  else if c.state = St.sleep ∧ !answersAsleep off then (m, c.sleepDrop)
  else if be ≠ 15 ∨ off % 4 ≠ 0 then (m, c)
  else if wakesBlock off v be c then (m, (c.disturb off).wakeUp now Why.wakeRegister)
  else
    let c := c.expireGuards now fun g => g.unit == unitOf (targetOf off)
    if off < aliasBase then wordWrite now q off v (m, c)
    else aliasWrite now q (targetOf off) ((off - aliasBase) % 128 / 4) v (m, c)

/-- A command that is a write to the register window. -/
def runWrite (dt : Nat) (q : Port) (off : Nat) (v : Word) (be : Nat) (s : State) : Host.Outcome State Fault Refusal :=
  .next (s.restarted dt (wakesBlock off v be) fun now x => settle now (busWrite now q off v be x))

/-- A command that is an aligned 8-byte write to the register window: two 4-byte writes at one instant, the lower address first (R40). [DESIGN CHOICE: log 138] -/
def runWrite8 (dt : Nat) (q : Port) (off : Nat) (lo hi : Word × Nat) (s : State) : Host.Outcome State Fault Refusal :=
  .next (s.restarted dt (fun c => wakesBlock off lo.1 lo.2 c || wakesBlock (off + 4) hi.1 hi.2 c) fun now x =>
    settle now (busWrite now q (off + 4) hi.1 hi.2 (busWrite now q off lo.1 lo.2 x)))

/-- What a word written to the table window meets: nothing there, the active image, a scheduled switch, a copy that holds it, or the shadow bank (R55, R57, R58). -/
inductive TableHit where
  | nothing
  | active
  | waiting
  | copying (inst : Nat)
  | shadow
  deriving DecidableEq, Repr

/-- Where a word of a table-window write lands. -/
def Chip.tableHit (c : Chip) (off : Nat) : TableHit :=
  if 0x800000 ≤ off then (if (tableAt (off - 0x800000)).isSome then .active else .nothing)
  else
    match tableAt off with
    | none => .nothing
    | some i => if c.tableScheduled i then .waiting else if c.tableCopying i then .copying i else .shadow

/-- Write the words of an access; the address of the first that met the active image or a scheduled switch comes with its cause. -/
def Chip.tableWords (c : Chip) : Nat → List Word → Chip × Option (Nat × Nat)
  | _, [] => (c, none)
  | off, w :: l =>
    let (c, hit) : Chip × Option (Nat × Nat) := match c.tableHit off with
      | .nothing => (c, none)
      | .active => (c, some (off, 1))
      | .waiting => (c, some (off, 2))
      | .copying i => (c.updTxn fun x => { x with
          copying := x.copying.map fun e => if e.1 == i then (e.1, e.2 ++ [(off, w)]) else e }, none)
      | .shadow => (c.putTableWord off w, none)
    let (c, more) := Chip.tableWords c (off + 4) l
    (c, match hit with
      | some h => some h
      | none => more)

/-- A write to the table window, of one to 64 words (R54, R55, R58). -/
def Chip.tableWrite (c : Chip) (q : Port) (off : Nat) (ws : List Word) : Chip :=
  if c.eng.down then c
  else if c.state = St.sleep then c.sleepDrop
  else if off % 4 ≠ 0 ∨ ws.isEmpty ∨ 64 < ws.length then c
  else
    match c.attrib q (.cls 2) [] with
    | none => c.privViolation q off true
    | some p =>
      let (c, hit) := c.tableWords off ws
      match hit with
      | some (a, cause) => c.errFault Err.busy a p q.num cause true
      | none => c

end Sys2Proof.Machine
end

