-- ==== Sys2Proof/Machine/Inputs.lean ====
section
/-! DEFINITION. Inputs that several units take: what they leave in the Sump, what a count or a Hall edge does to the axes and the belt, AXIS_JOG over both kinds of axis, and the rules by which an event acts only while the fast clocks run (R24, R46, R312, R418, R420, R474).
-/
namespace Sys2Proof.Machine

/-- An event of a unit on the fast clocks has no effect in SLEEP or in reset (R24, R378). [DESIGN CHOICE, DEDUCED: log 12, 16] -/
def clocked (f : Ctx → Chip → Chip) (x : Ctx) (c : Chip) : Chip := if c.fast then f x c else c

/-- The same for an event that also acts on the record merge unit. [DEDUCED: log 16] -/
def clockedMerge (f : Nat → Merge × Chip → Merge × Chip) (now : Nat) (x : Merge × Chip) : Merge × Chip :=
  if x.2.fast then f now x else x

/-- The channels that Windlass or the sweep scheduler read: belt, drums of configured stations, sources of enabled slots, repetitive tables in use (R474). [DESIGN CHOICE: log 23] -/
def Chip.readChannels (c : Chip) : List Nat :=
  let codes := ((List.range 96).filter c.slotRuns).flatMap fun n =>
    [c.fld (Fld.WINDLASS_SLOT_IO_FB_SRC n), c.fld (Fld.WINDLASS_SLOT_IO_REF_SRC n)]
  let ofCode (k : Nat) : Option Nat :=
    if k < 0x0C then some k else if 0x10 ≤ k ∧ k < 0x1C then some (k - 0x10) else if 0x1C ≤ k ∧ k < 0x20 then some (12 + k - 0x1C)
    else none
  (c.belt.ch :: c.configuredStations.map (fun s => (c.stn s).ch) ++ codes.filterMap ofCode
    ++ ((List.range 16).filter fun j => c.flag (Fld.WINDLASS_RC_CFG_EN j)).map fun j => c.fld (Fld.WINDLASS_RC_CFG_CH j)).eraseDups

/-- The payload of a FEEDBACK record of a channel (R473). -/
def Chip.feedbackWords (c : Chip) (ch : Nat) : List Word :=
  let (p, t) := c.chanAt ch
  let speed := if ch < 12 then c.reg (Reg.FEEDBACK_ENC_SPEED ch) else c.reg (Reg.FEEDBACK_BISS_SPEED (ch - 12))
  let flags := if ch < 12 then bits (c.reg (Reg.FEEDBACK_ENC_STATUS ch)).toNat 20 16
    else b2n (decide (c.chanDir ch < 0)) + b2n (c.chanDir ch == 0) * 2 + b2n (c.chanRef ch) * 8 + b2n (c.chanFault ch) * 16
  wordsOf (leBytes 8 (pattern 64 p) ++ leBytes 8 (t.getD 0)) ++ [speed, BitVec.ofNat 32 flags]

/-- The feedback channels that are read and whose latched state differs from the one recorded last (R474). [DESIGN CHOICE: log 23] -/
def Chip.logFeedback (c : Chip) (now : Nat) : Chip :=
  if !c.recording then c
  else
    c.each c.readChannels fun ch c =>
      let w := c.feedbackWords ch
      if w = c.sump.fbLast.getD ch [] then c
      else (c.updSump fun s => { s with fbLast := updAt s.fbLast ch fun _ => w }).sumpRec (some 1) 0x02 ch now w

/-- A Hall state that a current block reads (R354, R474). [DESIGN CHOICE: log 23] -/
def Chip.logHall (c : Chip) (now h : Nat) : Chip :=
  if (List.range 12).any fun a => (c.focSlot a).isSome && c.hallOf a == some h then
    c.sumpRec (some 2) 0x03 h now [BitVec.ofNat 32 (c.fld (Fld.FEEDBACK_HALL_STATE_STATE h))]
  else c

/-- A message as it was received (R273, R274, R473): its header and its fields. [DESIGN CHOICE: log 23] -/
def Chip.logUplink (c : Chip) (now t typ : Nat) (fields : List Byte) : Chip :=
  c.sumpRec (some 5) 0x06 t now (wordsOf (leBytes 2 typ ++ leBytes 2 (4 + fields.length) ++ fields))

/-- What an edge of a channel leaves to be done: the axes that use it, and the commits whose belt position is reached (R65, R303, R331). -/
def Chip.afterCount (c : Chip) (now ch : Nat) : Chip := (c.encoderDrives now ch).fireDue now

/-- HALL_EDGE: the inputs of a triplet have stood at a new state for a number of CTL samples; the filter accepts it: the triplet, then the axes it commutates when the edge was valid (R304, R307, R317, R329). -/
def Chip.hallInput (c : Chip) (now h st samples : Nat) : Chip :=
  if !filtered (c.fld (Fld.FEEDBACK_HALL_CFG_FILT h)) samples then c else
  let old := (c.hall h).index
  let c := (c.hallEdge now h st).showSources.logHall now h
  match hallIndex st, old with
  | some i, some j =>
    if i = j ∨ c.flag (Fld.FEEDBACK_HALL_CFG_EN h) = false then c
    else c.hallDrives now h (!(i == (j + 1) % 6 || j == (i + 1) % 6))
  | _, _ => c

/-- AXIS_JOG of a drive axis, with its checks in their order (R420). -/
def Chip.driveAxisJog (c : Chip) (now a : Nat) (e : JEntry) : Chip :=
  let n := e.param 0x11 1
  let fed := match c.focSlot a with
    | some k => c.fld (Fld.WINDLASS_SLOT_IO_REF_SRC k) == 0x90 + n
    | none => false
  if !decide (n < 96) || c.fld (Fld.WINDLASS_SLOT_CFG_LAW n) != 1 || !fed then c.result e.slot Rc.ERR_DRIVE_CFG
  else if (c.flag (Fld.DRIVE_CFG_PAGE_CRIT a) && c.primedOrPrinting) || (c.wl.owned && c.wl.belt == n) then
    c.result e.slot Rc.ERR_STATE c.state
  else (c.started e.slot).driveJog now a n e.slot (BitVec.ofNat 32 (e.param 0x14 4))

/-- AXIS_JOG (R418, R420). -/
def Chip.axisJog (c : Chip) (now : Nat) (e : JEntry) : Chip :=
  let k := e.param 0x10 1
  match muleCode k with
  | some m => c.muleJog now m e
  | none => if k < 12 then c.driveAxisJog now k e else c.result e.slot Rc.ERR_RANGE 0x10

end Sys2Proof.Machine
end

