-- ==== Sys2Proof/Machine/Tap.lean ====
section
/-! DEFINITION. The test access port: instructions, the data registers behind them, and what the boundary register drives (R15, R505). -/
namespace Sys2Proof.Machine

/-- IEEE 1149.1 instructions by the model's own numbers; one that the TAP does not implement is BYPASS (R505, IEEE 1149.1). [DESIGN CHOICE: log 24] -/
def tapCode : TapInstr → Nat
  | .bypass => 0
  | .idcode => 1
  | .samplePreload => 2
  | .extest => 3
  | .clamp => 4
  | .highz => 5
  | .other _ => 0

/-- The instruction in effect: EXTEST, CLAMP and HIGHZ act as BYPASS outside SLEEP (R505). [DESIGN CHOICE, PRESUMED: log 24, 134] -/
def Chip.tapActs (c : Chip) : Nat := if 3 ≤ c.eng.tap ∧ c.state ≠ St.sleep then 0 else c.eng.tap

/-- The 32 bits that IDCODE shifts out (R505, R510). [DESIGN CHOICE: log 24] -/
def tapIdcode : Word := 0x1706456B

/-- How a boundary cell stands to its ball: it observes only, or it can drive an output too (R505). -/
inductive CellKind where
  | observe
  | drive
  deriving DecidableEq, Repr

/-- A single-ended digital ball with its cell (R491, R496, R505). -/
structure Cell where
  ball : String
  index : Nat
  kind : CellKind
  deriving DecidableEq, Repr

/-- The cells of one ball name, for its instances. -/
def cellsOf (ball : String) (n : Nat) (kind : CellKind := .observe) : List Cell :=
  (List.range n).map fun i => { ball := ball, index := i, kind := kind }

/-- The boundary register: a cell for every single-ended digital ball but those of the TAP and TEST_EN, in the order of R491. Trough links, PCIe and LVDS lanes, analog and oscillator balls have none; LEN, HV_EN, HV_DCHG, HV_PWM, FUSER_OUT and the DRV outputs observe only (R491, R496, R505). [DESIGN CHOICE: log 24] -/
def boundaryCells : List Cell :=
  cellsOf "PCIE_PERST_N" 2 ++ cellsOf "PCIE_CLKREQ_N" 2 .drive ++ cellsOf "MSEL" 1 ++ cellsOf "I2C_SCL" 1 .drive ++ cellsOf "I2C_SDA" 1 .drive
    ++ cellsOf "I2C_A" 2 ++ cellsOf "DRV" 72 ++ cellsOf "DRV_FLT_N" 12 ++ cellsOf "ENC_A" 12 ++ cellsOf "ENC_B" 12 ++ cellsOf "ENC_Z" 12
    ++ cellsOf "HALL" 36 ++ cellsOf "BISS_MA" 4 .drive ++ cellsOf "BISS_SL" 4 ++ cellsOf "MULE_HOME" 16 ++ cellsOf "MULE_LIMN" 16
    ++ cellsOf "MULE_LIMP" 16 ++ cellsOf "CB_CLK" 4 .drive ++ cellsOf "CB_SYNC" 4 .drive ++ cellsOf "CB_DO" 4 .drive ++ cellsOf "CB_DI" 4
    ++ cellsOf "HV_PWM" 24 ++ cellsOf "HV_EN" 1 ++ cellsOf "HV_DCHG" 1 ++ cellsOf "FUSER_OUT" 8 ++ cellsOf "MAINS_ZC" 1
    ++ cellsOf "ILK" 2 ++ cellsOf "LEN" 8 ++ cellsOf "PFAIL_N" 1 ++ cellsOf "VHOLD" 1 .drive ++ cellsOf "LS_TRIG" 1 .drive

/-- The value by which an output is shown that HIGHZ leaves undriven. [DESIGN CHOICE: log 24] -/
def undriven : Nat := 2

/-- The outputs that the TAP drives now: under EXTEST and CLAMP the cells that can drive, from the update stage of the boundary register, under HIGHZ none of them; every other ball stays as it is (R505). -/
def Chip.tapDrives (c : Chip) : List (Cell × Nat) :=
  if c.tapActs < 3 then []
  else (boundaryCells.zip (List.range boundaryCells.length)).filterMap fun e =>
    if e.1.kind = .observe then none
    else some (e.1, if c.tapActs = 5 then undriven else b2n (c.eng.tapHeld.getD e.2 false))

/-- Drive what the TAP drives. -/
def Chip.showTap (c : Chip) : Chip := c.each c.tapDrives fun e c => c.pin e.1.ball e.1.index e.2

/-- TAP_INSTRUCTION: it takes effect (R505). [DESIGN CHOICE: log 24] -/
def Chip.tapInstruction (c : Chip) (i : TapInstr) : Chip :=
  let c := c.updEng fun x => { x with tap := tapCode i }
  (c.pin "TAP" 0 c.tapActs).showTap

/-- The boundary register is the selected data register: SAMPLE/PRELOAD and EXTEST. -/
def Chip.tapBoundary (c : Chip) : Bool := c.tapActs == 2 || c.tapActs == 3

/-- Capture-DR: the identification code, the levels on the balls, or the single 0 of the bypass register. `levels` are the levels on the balls of the cells, given from outside. [PRESUMED: log 134] -/
def Chip.tapCapture (c : Chip) (levels : List Bool) : Chip :=
  c.updEng fun x => { x with tapShift :=
    if c.tapActs = 1 then (List.range 32).map fun i => bit tapIdcode.toNat i
    else if c.tapBoundary then (List.range boundaryCells.length).map fun i => levels.getD i false
    else [false] }

/-- Shift-DR by one bit: the bit on TDO, and the selected register with TDI behind its last cell. [PRESUMED: log 134] -/
def Chip.tapShiftBit (c : Chip) (tdi : Bool) : Bool × Chip :=
  (c.eng.tapShift.headD false, c.updEng fun x => { x with tapShift := x.tapShift.drop 1 ++ [tdi] })

/-- Update-DR: the boundary register's update stage takes what was shifted in, and EXTEST drives it. [PRESUMED: log 134] -/
def Chip.tapUpdate (c : Chip) : Chip :=
  if c.tapBoundary then (c.updEng fun x => { x with tapHeld := x.tapShift }).showTap else c

/-- One scan of the selected data register: capture, one shift for each bit on TDI, update; the bits come out on TDO in their order (R505). No bits, no scan. [PRESUMED: log 134] -/
def Chip.tapScan (c : Chip) (levels tdi : List Bool) : Chip :=
  if tdi = [] then c
  else ((c.tapCapture levels).each tdi fun b c =>
    let r := c.tapShiftBit b
    r.2.pin "TDO" 0 (b2n r.1)).tapUpdate

end Sys2Proof.Machine
end

