-- ==== Sys2Proof/Machine/RowsEngine.lean ====
section
/-! DEFINITION. Resets, power, start-up, the cores and memories, engine state commands, transactions, the Sump and the service commands: a meaning for each command of those rows (R24 to R36, R378 to R488).
-/
namespace Sys2Proof.Machine

/-- The guarded pair of GLOBAL.RESET_CTL as one aligned 8-byte write: the word and its complement at one instant (R40, R52, R460). -/
def resetPairNext (dt : Nat) (q : Port) (v : Word) (s : State) : State :=
  s.restarted dt (fun _ => false) fun now x =>
    settle now (busWrite now q (Reg.GLOBAL_RESET_CTL + 4) (~~~v) 15 (busWrite now q Reg.GLOBAL_RESET_CTL v 15 x))

/-- COLD_START: power-on with the Wellhead unpowered; `i2cA` are the address pins of the I²C target (R25, R442, R459, R504). -/
def execColdStart (dt : Nat) (msel mainOk : Bool) (vback : BitVec 16) (i2cA : BitVec 2) (s : State) : Host.Outcome State Fault Refusal :=
  runMergeAll dt (fun _ x => x) (s.coldStart msel mainOk vback.toNat i2cA.toNat)

/-- POWER_ON_RESET: power-on reset is released; with the Wellhead held the kept state stays, and after VBACK failed the start is a cold one (R378, R379, R449, R459, R464). -/
def execPowerOnReset (dt : Nat) (msel mainOk : Bool) (vback : BitVec 16) (s : State) : Host.Outcome State Fault Refusal :=
  if s.chip.eng.coldNext then runMergeAll dt (fun _ x => x) (s.coldStart msel mainOk vback.toNat s.chip.eng.i2cPins)
  else .next (s.restarted dt (fun _ => true) fun now x => settle now (powerOnReset now msel mainOk vback.toNat x))

/-- BROWN_OUT: a rail of groups 2 to 4 stays below its threshold for 1 µs (R378). -/
def execBrownOut (dt : Nat) (s : State) : Host.Outcome State Fault Refusal := runAll dt (fun x c => c.brownOut x.now) s

/-- ENGINE_RESET: the guarded pair of GLOBAL.RESET_CTL, `v` and its complement in one 8-byte write, with ENGINE set in `v` (R52, R460, R461). -/
def execEngineReset (dt : Nat) (q : Port) (v : Word) (s : State) : Host.Outcome State Fault Refusal := .next (resetPairNext dt q v s)

/-- PARTITION_RESET: the guarded pair of GLOBAL.RESET_CTL with bits of PARTITION set in `v` (R52, R103, R450, R460). -/
def execPartitionReset (dt : Nat) (q : Port) (v : Word) (s : State) : Host.Outcome State Fault Refusal := .next (resetPairNext dt q v s)

/-- PORT_RESET: the guarded pair of GLOBAL.RESET_CTL with bits of PORT set in `v` (R52, R96, R460). -/
def execPortReset (dt : Nat) (q : Port) (v : Word) (s : State) : Host.Outcome State Fault Refusal := .next (resetPairNext dt q v s)

/-- WAKE: completes with OK (R37, R410). -/
def execWake (dt : Nat) (j : Fin 4096) (s : State) : Host.Outcome State Fault Refusal :=
  runAll dt (command 0x01 j.val fun e x c => c.result e.slot Rc.OK) s

/-- SLEEP (R33, R34, R410). -/
def execSleep (dt : Nat) (j : Fin 4096) (s : State) : Host.Outcome State Fault Refusal :=
  runAll dt (command 0x02 j.val fun e x c => c.sleepCommand x.now e) s

/-- PRIME (R33, R34, R244, R411, R412). -/
def execPrime (dt : Nat) (j : Fin 4096) (s : State) : Host.Outcome State Fault Refusal :=
  runAll dt (command 0x03 j.val fun e x c => c.primeCommand x.now e) s

/-- PRIME_COMPLETE: drums, high voltage and calibration are ready (R33, R412). -/
def execPrimeComplete (dt : Nat) (s : State) : Host.Outcome State Fault Refusal := runAll dt (clocked fun x c => c.primeComplete x.now) s

/-- PRIME_TIMEOUT: 30 s without them (R413). -/
def execPrimeTimeout (dt : Nat) (s : State) : Host.Outcome State Fault Refusal := runAll dt (clocked fun x c => c.primeTimeout x.now) s

/-- IDLE (R33, R34, R396, R410, R471). -/
def execIdle (dt : Nat) (j : Fin 4096) (s : State) : Host.Outcome State Fault Refusal :=
  runAll dt (command 0x04 j.val fun e x c => c.idleCommand x e) s

/-- SAFE_STOP (R33, R34, R410). -/
def execSafeStop (dt : Nat) (j : Fin 4096) (s : State) : Host.Outcome State Fault Refusal :=
  runAll dt (command 0x05 j.val fun e x c => c.safeStopCommand x.now e) s

/-- REPLAY; while the replay that this command started goes on, it runs to its end (R414, R483 to R487). -/
def execReplay (dt : Nat) (j : Fin 4096) (mem : HostImg) (s : State) : Host.Outcome State Fault Refusal :=
  runAll dt (fun x c =>
    match c.eng.replay with
    | some r =>
      if r.slot = j.val ∧ r.ended = false then c.replayVerdict x.merge r
      else commandMem 0x06 j.val (fun e x c => c.replayCommand x mem e) x c
    | none => commandMem 0x06 j.val (fun e x c => c.replayCommand x mem e) x c) s

/-- IDLE_AFTER_REPLAY: the mirrors are locked or missing after a replay (R486). -/
def execIdleAfterReplay (dt : Nat) (s : State) : Host.Outcome State Fault Refusal := runAll dt (fun x c => c.idleAfterReplay) s

/-- TXN_BEGIN (R59). -/
def execTxnBegin (dt : Nat) (j : Fin 4096) (s : State) : Host.Outcome State Fault Refusal :=
  runAll dt (command 0x10 j.val fun e x c => c.txnBegin e) s

/-- TXN_WRITE (R60, R415). -/
def execTxnWrite (dt : Nat) (j : Fin 4096) (s : State) : Host.Outcome State Fault Refusal :=
  runAll dt (command 0x11 j.val fun e x c => c.txnWrite e) s

/-- TXN_COMMIT (R61, R62, R63, R66, R216, R416). -/
def execTxnCommit (dt : Nat) (j : Fin 4096) (s : State) : Host.Outcome State Fault Refusal :=
  runAll dt (command 0x12 j.val fun e x c => c.txnCommit x e) s

/-- TXN_ROLLBACK (R70). -/
def execTxnRollback (dt : Nat) (j : Fin 4096) (s : State) : Host.Outcome State Fault Refusal :=
  runAll dt (command 0x13 j.val fun e x c => c.txnRollback e) s

/-- TXN_AT_TIME_TRIGGER: the engine time of a commit of the partition is reached (R65, R66). -/
def execTxnAtTimeTrigger (dt : Nat) (p : Fin 8) (s : State) : Host.Outcome State Fault Refusal := runAll dt (clocked fun x c => c.fireDue x.now) s

/-- TABLE_LOAD (R426). -/
def execTableLoad (dt : Nat) (j : Fin 4096) (s : State) : Host.Outcome State Fault Refusal :=
  runAll dt (command 0x40 j.val fun e x c => c.tableLoad x.now e) s

/-- LOOP_CONFIG (R423, R424). -/
def execLoopConfig (dt : Nat) (j : Fin 4096) (mem : HostImg) (s : State) : Host.Outcome State Fault Refusal :=
  runAll dt (commandMem 0x33 j.val fun e x c => c.loopConfig x.now mem e) s

/-- SEAM_MEASURE (R428). -/
def execSeamMeasure (dt : Nat) (j : Fin 4096) (mem : HostImg) (s : State) : Host.Outcome State Fault Refusal :=
  runAll dt (commandMem 0x42 j.val fun e x c => c.seamMeasure x mem e) s

/-- MARK_STRIP (R429). -/
def execMarkStrip (dt : Nat) (j : Fin 4096) (mem : HostImg) (s : State) : Host.Outcome State Fault Refusal :=
  runAll dt (commandMem 0x43 j.val fun e x c => c.markStrip mem e) s

/-- CAPTURE (R431). -/
def execCapture (dt : Nat) (j : Fin 4096) (s : State) : Host.Outcome State Fault Refusal :=
  runAll dt (command 0x44 j.val fun e x c => c.captureCommand e) s

/-- COMPRESS (R180, R181, R432). -/
def execCompress (dt : Nat) (j : Fin 4096) (mem : HostImg) (s : State) : Host.Outcome State Fault Refusal :=
  runAll dt (commandMem 0x45 j.val fun e x c => c.compress mem e) s

/-- DECOMPRESS_CHECK (R182, R433). -/
def execDecompressCheck (dt : Nat) (j : Fin 4096) (mem : HostImg) (s : State) : Host.Outcome State Fault Refusal :=
  runAll dt (commandMem 0x46 j.val fun e x c => c.decompress mem e) s

/-- RECORDER (R434). -/
def execRecorder (dt : Nat) (j : Fin 4096) (s : State) : Host.Outcome State Fault Refusal :=
  runAll dt (command 0x47 j.val fun e x c => c.recorder x.now e) s

/-- FENCE (R435). -/
def execFence (dt : Nat) (j : Fin 4096) (s : State) : Host.Outcome State Fault Refusal := runAll dt (command 0xF0 j.val fun e x c => c.fence e) s

/-- QUERY (R436, R437). -/
def execQuery (dt : Nat) (j : Fin 4096) (mem : HostImg) (s : State) : Host.Outcome State Fault Refusal :=
  runAll dt (commandMem 0xF1 j.val fun e x c => c.query mem x e) s

/-- ILK_OPEN: an interlock input has been low for 500 ns (R386). -/
def execIlkOpen (dt : Nat) (chB : Bool) (s : State) : Host.Outcome State Fault Refusal :=
  runAll dt (fun x c => c.ilkOpen x.now (s.corrected (s.elapsed dt)).restart.time chB) s

/-- ILK_CLOSE: an interlock input has been high for 10 ms (R386). -/
def execIlkClose (dt : Nat) (chB : Bool) (s : State) : Host.Outcome State Fault Refusal := runAll dt (fun x c => c.ilkClose x.now chB) s

/-- ILK_DISCREPANCY: the inputs have differed for 100 ms (R387). -/
def execIlkDiscrepancy (dt : Nat) (s : State) : Host.Outcome State Fault Refusal := runAll dt (fun x c => c.ilkDiscrepancy x.now) s

/-- MAIN_LOSS: PFAIL_N or VMAIN_AON has been low for 1 µs (R380, R382). -/
def execMainLoss (dt : Nat) (pfail aonLow : Bool) (vback : BitVec 16) (s : State) : Host.Outcome State Fault Refusal :=
  runAll dt (fun x c => c.mainLoss x.now pfail aonLow vback.toNat) s

/-- VBACK_SWITCHOVER: the Wellhead changes its supply (R379). -/
def execVbackSwitchover (dt : Nat) (toVback : Bool) (s : State) : Host.Outcome State Fault Refusal := runAll dt (fun x c => c.switchover toVback) s

/-- MAIN_RETURN: main is present again (R383). -/
def execMainReturn (dt : Nat) (s : State) : Host.Outcome State Fault Refusal := runAll dt (fun x c => c.mainReturn x.now) s

/-- HOLDUP_END: 600 ms after main loss (R382). -/
def execHoldupEnd (dt : Nat) (s : State) : Host.Outcome State Fault Refusal := runAll dt (fun x c => c.holdupEnd x.now) s

/-- DISCHARGE_CHECK: 100 ms after HV_EN fell (R388). -/
def execDischargeCheck (dt : Nat) (s : State) : Host.Outcome State Fault Refusal := runAll dt (fun x c => c.dischargeCheck x.now) s

/-- STOP_SEQUENCE_FINISHED: nothing moves and high voltage is discharged (R382, R383, R461). -/
def execStopSequenceFinished (dt : Nat) (s : State) : Host.Outcome State Fault Refusal := runMergeAll dt (fun now x => stopSequenceEnd now x) s

/-- VBACK_LOW: a reading of VBACK (R384). -/
def execVbackLow (dt : Nat) (vback : BitVec 16) (s : State) : Host.Outcome State Fault Refusal := runAll dt (fun x c => c.readVback vback.toNat) s

/-- VBACK_FAILED: VBACK falls below 0.90 V with main absent (R379). -/
def execVbackFailed (dt : Nat) (s : State) : Host.Outcome State Fault Refusal := runAll dt (fun x c => c.vbackFailed) s

/-- DIE_TEMP_READ: the die sensors are read, in 1/16 °C as two's complement (R391, R392, R393, R394). -/
def execDieTempRead (dt : Nat) (temps : List (BitVec 16)) (s : State) : Host.Outcome State Fault Refusal :=
  runAll dt (clocked fun x c => (c.dieTempRead x.now (temps.map (·.toNat))).judgeRef) s

/-- WELLHEAD_SENSOR_READ: the Wellhead reads its own sensor in SLEEP, in 1/16 °C as two's complement (R29, R398). -/
def execWellheadSensorRead (dt : Nat) (temp : BitVec 16) (s : State) : Host.Outcome State Fault Refusal := .next (s.wellheadRead dt temp.toInt)

/-- START_UP_COMPLETE: every link and mirror is up or missing (R464, R471). -/
def execStartUpComplete (dt : Nat) (s : State) : Host.Outcome State Fault Refusal := runAll dt (clocked fun x c => c.startUpComplete) s

/-- WAKE_REBUILD_DONE: imaging SRAM is rebuilt after a wake (R472). -/
def execWakeRebuildDone (dt : Nat) (s : State) : Host.Outcome State Fault Refusal := runMergeAll dt (fun now x => wakeRebuildDone now x) s

/-- LOCKSTEP_MISMATCH: the two cores of the active pair differ, or its firmware SRAM has an uncorrectable word (R452 to R454). -/
def execLockstepMismatch (dt : Nat) (fromSram : Bool) (resume100ns : Nat) (s : State) : Host.Outcome State Fault Refusal :=
  runMergeAll dt (fun now x => failoverNow now (if fromSram then 2 else 1) resume100ns x) s

/-- STANDBY_SELF_TEST_END: the failed pair passes or fails its self-test (R453, R454). -/
def execStandbySelfTestEnd (dt : Nat) (pass : Bool) (s : State) : Host.Outcome State Fault Refusal :=
  runAll dt (clocked fun x c => c.selfTestEnd pass) s

/-- SRAM_UNCORRECTABLE: an error beyond correction in an on-chip memory (R26). -/
def execSramUncorrectable (dt : Nat) (mem : SramMem) (off : Word) (checkpoint : Bool) (owner : SramOwner) (s : State) : Host.Outcome State Fault Refusal :=
  runMergeAll dt (fun now x => sramUncorrectable now mem off.toNat checkpoint owner x) s

/-- SRAM_CORRECTABLE_ERROR: an error that the code corrects (R26). -/
def execSramCorrectableError (dt : Nat) (mem : SramMem) (s : State) : Host.Outcome State Fault Refusal :=
  runAll dt (fun x c => c.sramCorrectable mem) s

/-- ROM_PARITY: a parity error of the first ROM image (R26). -/
def execRomParity (dt : Nat) (s : State) : Host.Outcome State Fault Refusal := runAll dt (fun x c => c.romParityError) s

/-- REORDER_WINDOW_END: tile events are entered at their stamps (R457). -/
def execReorderWindowEnd (dt : Nat) (s : State) : Host.Outcome State Fault Refusal :=
  runMergeAll dt (fun now x => let r := x.1.endWindow x.2 now; (r.2, x.2.logRecords now r.1)) s

/-- SEGMENT_CLOSE: a Sump segment closes (R476). -/
def execSegmentClose (dt : Nat) (s : State) : Host.Outcome State Fault Refusal := runAll dt (clocked fun x c => c.segmentClose x.now) s

/-- SEGMENT_STREAM: channel 39 writes a closed segment to the host ring (R477). -/
def execSegmentStream (dt : Nat) (mem : HostImg) (s : State) : Host.Outcome State Fault Refusal :=
  runAll dt (clocked fun x c => c.segmentStream x.now x.merge mem) s

/-- SNAPSHOT_TIMER: SNAP_S seconds have passed (R479). -/
def execSnapshotTimer (dt : Nat) (s : State) : Host.Outcome State Fault Refusal := runAll dt (clocked fun x c => c.snapshotTimer x.now) s

/-- POST_TRIGGER_END: POST_MS have passed since a trigger (R480). -/
def execPostTriggerEnd (dt : Nat) (s : State) : Host.Outcome State Fault Refusal := runAll dt (clocked fun x c => c.postTriggerEnd x.now) s

/-- TAP_INSTRUCTION: an instruction of the TAP takes effect (R505). -/
def execTapInstruction (dt : Nat) (tap : TapInstr) (levels tdi : List Bool) (s : State) : Host.Outcome State Fault Refusal :=
  run dt (fun _ c => (c.tapInstruction tap).tapScan levels tdi) s

end Sys2Proof.Machine
end

