-- ==== Sys2Proof/Machine/RowsHost.lean ====
section
/-! DEFINITION. Host ports, register and table writes, rings, queues and DMA: a meaning for each command of those rows (R37 to R139).
-/
namespace Sys2Proof.Machine

/-- HOST_PORT_RESET: PERST#, a hot reset or a Function Level Reset of a port (R96). -/
def execHostPortReset (dt : Nat) (q : Port) (kind : PortResetKind) (s : State) : Host.Outcome State Fault Refusal :=
  runMergeAll dt (fun now x => hostPortReset now q kind x) s

/-- PORT_DOWN: the link leaves L0, or Bus Master Enable is cleared (R79, R96, R97). -/
def execPortDown (dt : Nat) (q : Port) (linkUp busMaster : Bool) (s : State) : Host.Outcome State Fault Refusal :=
  runMergeAll dt (fun now x => portDownNow q linkUp busMaster x) s

/-- PORT_RETURN: the link is in L0 with Bus Master Enable set; `setup` is what the host has configured since, where it has (R74, R75, R96). -/
def execPortReturn (dt : Nat) (q : Port) (rate width : BitVec 3) (setup : Option PortSetup) (s : State) : Host.Outcome State Fault Refusal :=
  runAll dt (fun x c => c.portReturn x.now q rate.toNat width.toNat setup) s

/-- REGISTER_WRITE: a 4-byte write of the register window with its byte enables, or with `upper` an aligned 8-byte one: two 4-byte writes, the lower address first, each with its own byte enables (R40 to R43, R54). [DESIGN CHOICE: log 138] -/
def execRegisterWrite (dt : Nat) (q : Port) (off : BitVec 28) (v : Word) (be : BitVec 4) (upper : Option (Word × BitVec 4)) (s : State) :
    Host.Outcome State Fault Refusal :=
  match upper with
  | none => runWrite dt q off.toNat v be.toNat s
  | some (v1, be1) => runWrite8 dt q off.toNat (v, be.toNat) (v1, be1.toNat) s

/-- BIT_ALIAS_WRITE: a write to the alias word of one bit (R44, R45). -/
def execBitAliasWrite (dt : Nat) (q : Port) (off : BitVec 28) (v : Word) (s : State) : Host.Outcome State Fault Refusal :=
  runWrite dt q off.toNat v 15 s

/-- MASKED_WRITE: a write of an M register (R46). -/
def execMaskedWrite (dt : Nat) (q : Port) (off : BitVec 28) (v : Word) (s : State) : Host.Outcome State Fault Refusal :=
  runWrite dt q off.toNat v 15 s

/-- SQ_CLEAR_WRITE: a write of an SQ register (R48, R49). -/
def execSqClearWrite (dt : Nat) (q : Port) (off : BitVec 28) (v : Word) (s : State) : Host.Outcome State Fault Refusal :=
  runWrite dt q off.toNat v 15 s

/-- GUARD_FIRST_WRITE: the first write of a guarded pair (R47). -/
def execGuardFirstWrite (dt : Nat) (q : Port) (off : BitVec 28) (v : Word) (s : State) : Host.Outcome State Fault Refusal :=
  runWrite dt q off.toNat v 15 s

/-- GUARDED_PAIR_WRITE: the complement write of a guarded pair (R47). -/
def execGuardedPairWrite (dt : Nat) (q : Port) (off : BitVec 28) (v : Word) (s : State) : Host.Outcome State Fault Refusal :=
  runWrite dt q off.toNat v 15 s

/-- GUARD_TIMEOUT: 64 µs after the first write of the pair at `off` without its second (R47). -/
def execGuardTimeout (dt : Nat) (off : BitVec 28) (s : State) : Host.Outcome State Fault Refusal :=
  runAll dt (fun x c => c.expireGuards x.now fun g => g.off == off.toNat) s

/-- PART_OWNER_WRITE: a masked write of GLOBAL.PART_OWNER (R80). -/
def execPartOwnerWrite (dt : Nat) (q : Port) (v : Word) (s : State) : Host.Outcome State Fault Refusal := runWrite dt q Reg.GLOBAL_PART_OWNER v 15 s

/-- WAKE_REGISTER_WRITE: a write of GLOBAL.WAKE (R33, R72). -/
def execWakeRegisterWrite (dt : Nat) (q : Port) (v : Word) (s : State) : Host.Outcome State Fault Refusal := runWrite dt q Reg.GLOBAL_WAKE v 15 s

/-- I2C_WAKE: a byte written through the WAKE pointer of the I²C port; 0x01 wakes the engine from SLEEP; the pointer stays at WAKE (R33, R504). [DESIGN CHOICE: log 7] -/
def execI2cWake (dt : Nat) (byte : Byte) (s : State) : Host.Outcome State Fault Refusal :=
  .next (s.restarted dt (fun c => byte == 1 && c.state == St.sleep && !c.eng.down)
    fun now x =>
      let c := x.2.updEng fun e => { e with i2cPtr := 5 }
      settle now (x.1, if byte = 1 then c.wakeUp now Why.wakeI2c else c))

/-- TABLE_WINDOW_WRITE: one to 64 words written to the table window (R54, R55, R57, R58). -/
def execTableWindowWrite (dt : Nat) (q : Port) (off : BitVec 24) (words : List Word) (s : State) : Host.Outcome State Fault Refusal :=
  runAll dt (fun x c => c.tableWrite q off.toNat words) s

/-- TABLE_COPY_DONE: the copy that follows a switch has ended (R56, R57). -/
def execTableCopyDone (dt : Nat) (inst : BitVec 16) (s : State) : Host.Outcome State Fault Refusal :=
  runAll dt (clocked fun x c => c.tableCopied inst.toNat) s

/-- PARTITION_ATTACH: a write of HOST.PART_CTL (R99, R100, R104). -/
def execPartitionAttach (dt : Nat) (q : Port) (p : Fin 8) (v : Word) (s : State) : Host.Outcome State Fault Refusal :=
  runWrite dt q (Reg.HOST_PART_CTL p) v 15 s

/-- XLAT_ROOT_APPLY: a write of HOST.PART_XLAT_ROOT_HI (R89). -/
def execXlatRootApply (dt : Nat) (q : Port) (p : Fin 8) (v : Word) (s : State) : Host.Outcome State Fault Refusal :=
  runWrite dt q (Reg.HOST_PART_XLAT_ROOT_HI p) v 15 s

/-- XLAT_INVALIDATE: a write of HOST.PART_INVAL_CTL (R87). -/
def execXlatInvalidate (dt : Nat) (q : Port) (p : Fin 8) (v : Word) (s : State) : Host.Outcome State Fault Refusal :=
  runWrite dt q (Reg.HOST_PART_INVAL_CTL p) v 15 s

/-- XLAT_INVALIDATE_DONE: the invalidation has run over its range (R87). -/
def execXlatInvalidateDone (dt : Nat) (p : Fin 8) (s : State) : Host.Outcome State Fault Refusal :=
  runAll dt (clocked fun x c => c.invalidateDone p) s

/-- TILE_ENABLE_WRITE: a write of TILE.CFG (R291, R470). -/
def execTileEnableWrite (dt : Nat) (q : Port) (t : Fin 64) (v : Word) (s : State) : Host.Outcome State Fault Refusal :=
  runWrite dt q (Reg.TILE_CFG t) v 15 s

/-- HV_REARM: a write of WINDLASS.HV_REARM (R367). -/
def execHvRearm (dt : Nat) (q : Port) (k : Fin 24) (v : Word) (s : State) : Host.Outcome State Fault Refusal :=
  runWrite dt q (Reg.WINDLASS_HV_REARM k) v 15 s

/-- ILK_CLEAR: a write of SAFETY.ILK_CLEAR (R387). -/
def execIlkClear (dt : Nat) (q : Port) (v : Word) (s : State) : Host.Outcome State Fault Refusal := runWrite dt q Reg.SAFETY_ILK_CLEAR v 15 s

/-- SUMP_TRIG: a write of SUMP.TRIG (R480). -/
def execSumpTrig (dt : Nat) (q : Port) (v : Word) (s : State) : Host.Outcome State Fault Refusal := runWrite dt q Reg.SUMP_TRIG v 15 s

/-- SUMP_RD_WRITE: a write of SUMP.RD_LO or SUMP.RD_HI (R478, R488). -/
def execSumpRdWrite (dt : Nat) (q : Port) (hi : Bool) (v : Word) (s : State) : Host.Outcome State Fault Refusal :=
  runWrite dt q (if hi then Reg.SUMP_RD_HI else Reg.SUMP_RD_LO) v 15 s

/-- MULE_ENABLE_WRITE: a write of MULE.CFG (R339). -/
def execMuleEnableWrite (dt : Nat) (q : Port) (m : Fin 16) (v : Word) (s : State) : Host.Outcome State Fault Refusal :=
  runWrite dt q (Reg.MULE_CFG m) v 15 s

/-- MULE_PROFILE_WRITE: a write of MULE.VMAX, ACC or DEC (R343). -/
def execMuleProfileWrite (dt : Nat) (q : Port) (m : Fin 16) (which : Profile) (v : Word) (s : State) : Host.Outcome State Fault Refusal :=
  runWrite dt q (match which with
    | .vmax => Reg.MULE_VMAX m
    | .acc => Reg.MULE_ACC m
    | .dec => Reg.MULE_DEC m) v 15 s

/-- SLOT_ENABLE_WRITE: a write of WINDLASS.SLOT_CFG (R354, R357, R372). -/
def execSlotEnableWrite (dt : Nat) (q : Port) (n : Fin 96) (v : Word) (s : State) : Host.Outcome State Fault Refusal :=
  runWrite dt q (Reg.WINDLASS_SLOT_CFG n) v 15 s

/-- DOORBELL_POLL: the poll interval of a partition has passed (R110). -/
def execDoorbellPoll (dt : Nat) (p : Fin 8) (s : State) : Host.Outcome State Fault Refusal := runMergeAll dt (fun now x => doorbellPoll now p x) s

/-- DOORBELL_BLOCK_RECEIVED: the 64-byte doorbell read ends, none for a failed read (R92, R109, R111, R112, R124). -/
def execDoorbellBlockReceived (dt : Nat) (p : Fin 8) (blk : Option Entry) (s : State) : Host.Outcome State Fault Refusal :=
  runMergeAll dt (fun now x => doorbellReceived now p blk x) s

/-- ENTRY_FETCH_COMPLETE: the entries of the oldest fetch of a ring arrive, or the read failed (R81, R106, R108, R111, R124, R404, R409, R443, R446). -/
def execEntryFetchComplete (dt : Nat) (p : Fin 8) (ring : Fin 4) (entries : List Entry) (ok : Bool) (s : State) : Host.Outcome State Fault Refusal :=
  runMergeAll dt (fun now x => entryFetched now p ring entries ok x) s

/-- HELD_RECORD_DELIVERY: held records are written for which the queues have room (R117). -/
def execHeldRecordDelivery (dt : Nat) (p : Fin 8) (s : State) : Host.Outcome State Fault Refusal :=
  runMergeAll dt (fun now x => heldDelivery now p x) s

/-- MOD_TIME_EXPIRY: the moderation time of queue 0 (completions) or 1 (events) has passed (R118). -/
def execModTimeExpiry (dt : Nat) (p : Fin 8) (queue : Fin 2) (s : State) : Host.Outcome State Fault Refusal :=
  runMergeAll dt (fun now x => modTimeExpiry now p queue x) s

/-- BARRIER_READ_COMPLETE: the 4-byte read of a BARRIER entry returns or fails (R119). -/
def execBarrierReadComplete (dt : Nat) (j : Fin 4096) (ok : Bool) (s : State) : Host.Outcome State Fault Refusal :=
  runMergeAll dt (fun now x => barrierRead now j ok x) s

/-- DMA_BURST_GRANT: the arbiter of a port grants its next burst (R123). -/
def execDmaBurstGrant (dt : Nat) (q : Port) (mem : HostImg) (s : State) : Host.Outcome State Fault Refusal :=
  runMergeAll dt (fun now x => dmaGrant now q mem x) s

/-- DMA_BURST_COMPLETE: the read burst of an image or service channel ends; a service command that has nothing left to transfer completes (R122, R126, R129). -/
def execDmaBurstComplete (dt : Nat) (ch : Fin 40) (result : Burst) (s : State) : Host.Outcome State Fault Refusal :=
  runMergeAll dt (fun now x => let c := x.2.dmaComplete now ch result; (x.1, c.finishJobs now x.1)) s

/-- IMAGE_BURST_RETRY: a failed image burst is issued again (R126). -/
def execImageBurstRetry (dt : Nat) (lane : Fin 8) (s : State) : Host.Outcome State Fault Refusal :=
  runAll dt (clocked fun x c => (c.imgRetry x.now lane).checkBehind) s

end Sys2Proof.Machine
end

