-- ==== Sys2Proof/Machine/RowsImaging.lean ====
section
/-! DEFINITION. Pages, chains, sweeps, Trough links, calibration and seams: a meaning for each command of those rows (R140 to R295, R423 to R427).
-/
namespace Sys2Proof.Machine

/-- PAGE_ARM (R125, R138, R139, R142, R143, R144, R145, R149, R397, R417). -/
def execPageArm (dt : Nat) (j : Fin 4096) (mem : HostImg) (s : State) : Host.Outcome State Fault Refusal :=
  runAll dt (command 0x20 j.val fun e x c => c.pageArm x mem e) s

/-- CHAIN_START (R148). -/
def execChainStart (dt : Nat) (j : Fin 4096) (s : State) : Host.Outcome State Fault Refusal :=
  runAll dt (command 0x21 j.val fun e x c => c.chainStart x.now e) s

/-- CHAIN_END (R150, R151). -/
def execChainEnd (dt : Nat) (j : Fin 4096) (s : State) : Host.Outcome State Fault Refusal :=
  runAll dt (command 0x22 j.val fun e x c => c.chainEnd e) s

/-- PAGE_CANCEL (R153). -/
def execPageCancel (dt : Nat) (j : Fin 4096) (s : State) : Host.Outcome State Fault Refusal :=
  runAll dt (command 0x23 j.val fun e x c => c.pageCancel x.now e) s

/-- PAGE_ABORT (R156). -/
def execPageAbort (dt : Nat) (j : Fin 4096) (s : State) : Host.Outcome State Fault Refusal :=
  runAll dt (command 0x24 j.val fun e x c => c.pageAbort e) s

/-- PAGE_START: the belt has reached the start position of the next page (R157). -/
def execPageStart (dt : Nat) (s : State) : Host.Outcome State Fault Refusal := runAll dt (clocked fun x c => c.pageStart x.now) s

/-- CHAIN_CLOSE: the belt has reached a closing position without a joined page (R150). -/
def execChainClose (dt : Nat) (s : State) : Host.Outcome State Fault Refusal := runAll dt (clocked fun x c => c.chainClose) s

/-- PAGE_END: the last line of the oldest page has passed its last station (R151, R155, R159, R480). -/
def execPageEnd (dt : Nat) (s : State) : Host.Outcome State Fault Refusal := runAll dt (clocked fun x c => c.pageEnd x.now) s

/-- SIPHON_BAND_DECODE: the lane of a station decodes its next band (R163, R166, R167, R168, R169, R174, R176, R177, R178). -/
def execSiphonBandDecode (dt : Nat) (lane : Fin 8) (s : State) : Host.Outcome State Fault Refusal :=
  runAll dt (clocked fun x c => c.bandDecode lane) s

/-- SWEEP_PLAN: sweep k is planned at the start of sweep k − 3; a page that has fallen behind is found then (R196, R205). -/
def execSweepPlan (dt : Nat) (t : Fin 64) (s : State) : Host.Outcome State Fault Refusal :=
  runAll dt (clocked fun x c => (c.sweepPlan x.now t).checkBehind) s

/-- TRIM_REFINE: the trim of sweep k is refined at the start of sweep k − 1 (R202, R221, R276). -/
def execTrimRefine (dt : Nat) (t : Fin 64) (s : State) : Host.Outcome State Fault Refusal := runAll dt (clocked fun x c => c.trimRefine x.now t) s

/-- BD_STAMP: the stamps of a sweep arrive (R189, R202, R274). -/
def execBdStamp (dt : Nat) (t : Fin 64) (msg : BdStamp) (s : State) : Host.Outcome State Fault Refusal :=
  runAll dt (clocked fun x c => (c.logUplink x.now t 0x81 (leBytes 4 msg.sweep ++ leBytes 6 msg.lead ++ leBytes 6 msg.trail ++ leBytes 2 msg.flags ++ [0, 0])).bdStamp
    x.now t msg.sweep msg.lead msg.trail msg.flags) s

/-- MIRROR_SENSE: the mirror's phase and amplitude arrive (R274, R371). -/
def execMirrorSense (dt : Nat) (t : Fin 64) (sweep : BitVec 32) (phase ampl : BitVec 16) (s : State) : Host.Outcome State Fault Refusal :=
  runAll dt (clocked fun x c => (c.logUplink x.now t 0x82 (leBytes 4 sweep.toNat ++ leBytes 2 phase.toNat ++ leBytes 2 ampl.toNat)).mirrorSense x.now t phase.toNat) s

/-- MONITOR_PD: readings of the monitor photodiodes arrive (R241, R274). -/
def execMonitorPd (dt : Nat) (t : Fin 64) (sweep : BitVec 32) (codes : List (BitVec 16)) (s : State) : Host.Outcome State Fault Refusal :=
  runAll dt (clocked fun x c => c.monitorPd x.now t sweep.toNat (codes.map (·.toNat))) s

/-- HEAD_STATUS: a head reports its status or identity (R274, R278, R281, R287). -/
def execHeadStatus (dt : Nat) (t : Fin 64) (payload : List Byte) (s : State) : Host.Outcome State Fault Refusal :=
  runAll dt (clocked fun x c => c.headStatus x.now t payload) s

/-- HEAD_TEMP: head temperatures arrive (R273, R274). -/
def execHeadTemp (dt : Nat) (t : Fin 64) (temps : List (BitVec 16)) (s : State) : Host.Outcome State Fault Refusal :=
  runAll dt (clocked fun x c => c.headTemp x.now t (temps.map (·.toNat))) s

/-- ACK: the head acknowledges downlink frames (R271). -/
def execAck (dt : Nat) (t : Fin 64) (seq : BitVec 16) (nak : Bool) (s : State) : Host.Outcome State Fault Refusal :=
  runAll dt (clocked fun x c => c.ackMsg x.now t seq.toNat nak) s

/-- UPLINK_FRAME: a frame arrives, its 7 header bytes and its body (R266, R269, R270, R271). -/
def execUplinkFrame (dt : Nat) (t : Fin 64) (hdr body : List Byte) (s : State) : Host.Outcome State Fault Refusal :=
  runAll dt (clocked fun x c => c.uplinkFrame x.now t hdr body) s

/-- RETX_TIMEOUT: 6 µs without an acknowledgement (R271). -/
def execRetxTimeout (dt : Nat) (t : Fin 64) (s : State) : Host.Outcome State Fault Refusal := runAll dt (clocked fun x c => c.retxTimeout x.now t) s

/-- EPOCH_MARK: the engine launches one, at the given sixty-fourth of a ns (R283). -/
def execEpochMark (dt : Nat) (t : Fin 64) (sub : Fin 64) (s : State) : Host.Outcome State Fault Refusal :=
  runAll dt (clocked fun x c => c.epochMark x.now t sub) s

/-- ECHO_MARK: the echo of an epoch arrives (R283). -/
def execEchoMark (dt : Nat) (t : Fin 64) (epoch : BitVec 16) (sub : Fin 64) (s : State) : Host.Outcome State Fault Refusal :=
  runAll dt (clocked fun x c => c.echoMark x.now t epoch.toNat sub) s

/-- UPLINK_BLOCK_LOCK: blocks arrive by which the engine gains or loses block lock (R268). -/
def execUplinkBlockLock (dt : Nat) (t : Fin 64) (blocks : List LaneBlock) (s : State) : Host.Outcome State Fault Refusal :=
  runAll dt (clocked fun x c => c.uplinkBlocks x.now t blocks) s

/-- LINK_FAIL: a condition of link failure is met (R158, R289). -/
def execLinkFail (dt : Nat) (t : Fin 64) (s : State) : Host.Outcome State Fault Refusal := runAll dt (clocked fun x c => c.linkFail x.now t) s

/-- LINK_RETRAIN: 1 ms after a failure (R288). -/
def execLinkRetrain (dt : Nat) (t : Fin 64) (s : State) : Host.Outcome State Fault Refusal := runAll dt (clocked fun x c => c.linkRetrain x.now t) s

/-- TRAIN_TIMEOUT: 100 ms in training (R288, R466, R469). -/
def execTrainTimeout (dt : Nat) (t : Fin 64) (s : State) : Host.Outcome State Fault Refusal := runAll dt (clocked fun x c => c.trainTimeout x.now t) s

/-- BANK_LOAD_TIMEOUT: a bank load unanswered for 1 ms (R278). -/
def execBankLoadTimeout (dt : Nat) (t : Fin 64) (s : State) : Host.Outcome State Fault Refusal :=
  runAll dt (clocked fun x c => c.bankTimeout x.now t) s

/-- KILL_REPEAT: a KILL block is repeated while its cause lasts (R279). -/
def execKillRepeat (dt : Nat) (t : Fin 64) (s : State) : Host.Outcome State Fault Refusal := runAll dt (clocked fun x c => c.killRepeat t) s

/-- DLL_LOCK_LOST: a window in which the timebase DLL of a link group loses lock (R286). -/
def execDllLockLost (dt : Nat) (g : Fin 8) (w : DllWindow) (s : State) : Host.Outcome State Fault Refusal :=
  runAll dt (clocked fun x c => c.dllWindowLost x.now g w) s

/-- DLL_LOCK_RESTORED: the latest windows of the timebase DLL, by which it takes over (R286). -/
def execDllLockRestored (dt : Nat) (g : Fin 8) (ws : List DllWindow) (s : State) : Host.Outcome State Fault Refusal :=
  runAll dt (clocked fun x c => c.dllLocked x.now g ws) s

/-- REF_CLOCK_LOST: no REF edge for 200 ns (R22, R33). -/
def execRefClockLost (dt : Nat) (s : State) : Host.Outcome State Fault Refusal := runAll dt (clocked fun x c => c.refClockLost x.now) s

/-- REF_RESTORED: 65,536 good REF edges (R22). -/
def execRefRestored (dt : Nat) (s : State) : Host.Outcome State Fault Refusal := runAll dt (fun x c => c.refRestored) s

/-- MIRROR_START: the slot of the tile's group has come (R467). -/
def execMirrorStart (dt : Nat) (t : Fin 64) (s : State) : Host.Outcome State Fault Refusal := runAll dt (clocked fun x c => c.mirrorStart x.now t) s

/-- MIRROR_AMPL_STEP: 25 ms without a stamped sweep (R467). -/
def execMirrorAmplStep (dt : Nat) (t : Fin 64) (s : State) : Host.Outcome State Fault Refusal := runAll dt (clocked fun x c => c.mirrorStep x.now t) s

/-- BD_LOCK_TIMEOUT: the mirror has not locked in its time (R468). -/
def execBdLockTimeout (dt : Nat) (t : Fin 64) (s : State) : Host.Outcome State Fault Refusal := runAll dt (clocked fun x c => c.lockTimeout x.now t) s

/-- MIRROR_RETRY: 1 s after a lock failure (R468). -/
def execMirrorRetry (dt : Nat) (t : Fin 64) (s : State) : Host.Outcome State Fault Refusal := runAll dt (clocked fun x c => c.mirrorRetry x.now t) s

/-- CALIBRATION_COMPLETE: emitter calibrations that have ended complete (R241, R242, R427). -/
def execCalibrationComplete (dt : Nat) (s : State) : Host.Outcome State Fault Refusal := runAll dt (clocked fun x c => c.calComplete.calResume x) s

/-- EMITTER_CALIBRATE (R241, R427). -/
def execEmitterCalibrate (dt : Nat) (j : Fin 4096) (s : State) : Host.Outcome State Fault Refusal :=
  runAll dt (command 0x41 j.val fun e x c => c.emitterCalibrate e) s

/-- LSCAN_TRIGGER: the belt has advanced one trigger pitch (R251). -/
def execLscanTrigger (dt : Nat) (s : State) : Host.Outcome State Fault Refusal := runAll dt (clocked fun x c => c.lscanTrigger x) s

/-- LSCAN_LINE: a line of the line-scan sensor ends (R252, R253, R254, R257, R258, R259, R260, R261, R262). -/
def execLscanLine (dt : Nat) (words : List (BitVec 16)) (s : State) : Host.Outcome State Fault Refusal :=
  runAll dt (clocked fun x c => c.lscanLine x (words.map (·.toNat))) s

/-- SEAM_HELD_COMMIT: the waiting commit of the partition has ended (R262). -/
def execSeamHeldCommit (dt : Nat) (s : State) : Host.Outcome State Fault Refusal := runAll dt (clocked fun x c => c.heldCommit x.now) s

/-- LSCAN_LINE_TIMEOUT: 1 ms without an end of line (R252). -/
def execLscanLineTimeout (dt : Nat) (s : State) : Host.Outcome State Fault Refusal := runAll dt (clocked fun x c => c.lscanTimeout x) s

/-- LSCAN_SYNC_TIMEOUT: 100 µs without a start of line (R252). -/
def execLscanSyncTimeout (dt : Nat) (s : State) : Host.Outcome State Fault Refusal := runAll dt (clocked fun x c => c.lscanSyncTimeout x) s

/-- LSCAN_DLL_BYPASS: the line-scan DLL loses lock (R253). -/
def execLscanDllBypass (dt : Nat) (cause : Fin 4) (mhz : BitVec 8) (s : State) : Host.Outcome State Fault Refusal :=
  runAll dt (clocked fun x c => c.lscanBypass cause mhz.toNat) s

/-- LSCAN_DLL_LOCK: the line-scan DLL locks again (R253). -/
def execLscanDllLock (dt : Nat) (mhz : BitVec 8) (s : State) : Host.Outcome State Fault Refusal :=
  runAll dt (clocked fun x c => c.lscanLock mhz.toNat) s

end Sys2Proof.Machine
end

