-- ==== Sys2Proof/Machine/RowsMotion.lean ====
section
/-! DEFINITION. Drive axes, position feedback, Mule axes, Windlass, high voltage and fuser: a meaning for each command of those rows (R296 to R377, R418 to R422).
-/
namespace Sys2Proof.Machine

/-- CARRIER_PEAK: the outputs of an axis take their new duties (R293, R294, R295). -/
def execCarrierPeak (dt : Nat) (a : Fin 12) (s : State) : Host.Outcome State Fault Refusal := runAll dt (clocked fun x c => c.carrierPeak x.now a) s

/-- SHUNT_SAMPLE: the three shunts are converted (R296, R299, R301, R305, R308, R313). -/
def execShuntSample (dt : Nat) (a : Fin 12) (u v w : BitVec 12) (s : State) : Host.Outcome State Fault Refusal :=
  runAll dt (clocked fun x c => c.shuntSample x.now a [u.toNat, v.toNat, w.toNat]) s

/-- GATE_FAULT: DRV_FLT_N has been low for 200 ns (R301). -/
def execGateFault (dt : Nat) (a : Fin 12) (s : State) : Host.Outcome State Fault Refusal := runAll dt (clocked fun x c => c.gateFault x.now a) s

/-- OFFSET_CAL_END: 64 carrier periods of offset averaging have passed (R300). -/
def execOffsetCalEnd (dt : Nat) (a : Fin 12) (s : State) : Host.Outcome State Fault Refusal := runAll dt (clocked fun x c => c.offsetCalEnd x.now a) s

/-- HALL_EDGE: the state of a triplet changes, and has stood for `samples` CTL samples (R304, R317, R329). -/
def execHallEdge (dt : Nat) (h : Fin 12) (st : BitVec 3) (samples : Nat) (s : State) : Host.Outcome State Fault Refusal :=
  runAll dt (clocked fun x c => c.hallInput x.now h st.toNat samples) s

/-- HALL_LOST: invalid Hall states have lasted past their limit (R304). -/
def execHallLost (dt : Nat) (a : Fin 12) (s : State) : Host.Outcome State Fault Refusal := runAll dt (clocked fun x c => c.hallTimeout x.now a) s

/-- LOCKED_ROTOR: the locked-rotor time has passed (R312). -/
def execLockedRotor (dt : Nat) (a : Fin 12) (s : State) : Host.Outcome State Fault Refusal := runAll dt (clocked fun x c => c.lockedRotor x.now a) s

/-- OBSERVER_FAIL: 20 ms of open loop have passed (R308). -/
def execObserverFail (dt : Nat) (a : Fin 12) (s : State) : Host.Outcome State Fault Refusal := runAll dt (clocked fun x c => c.observerFail x.now a) s

/-- CATCH_FAIL: the catch time has passed (R309). -/
def execCatchFail (dt : Nat) (a : Fin 12) (s : State) : Host.Outcome State Fault Refusal := runAll dt (clocked fun x c => c.catchFail x.now a) s

/-- BRAKE_END: braking currents have been small for 50 ms (R311). -/
def execBrakeEnd (dt : Nat) (a : Fin 12) (s : State) : Host.Outcome State Fault Refusal := runAll dt (clocked fun x c => c.brakeEnd x.now a) s

/-- ENCODER_COUNT: the inputs of a channel change, and have stood for `samples` CTL samples; axes that use the channel, the belt and commits that wait for it follow (R6, R7, R65, R317, R318, R319, R322, R325, R326, R331). -/
def execEncoderCount (dt : Nat) (e : Fin 12) (inp : QuadIn) (samples : Nat) (s : State) : Host.Outcome State Fault Refusal :=
  runAll dt (clocked fun x c => (c.encoderInput x.now e inp samples).afterCount x.now e) s

/-- SLIP_RUN_END: 1 ms without a slip (R325). -/
def execSlipRunEnd (dt : Nat) (e : Fin 12) (s : State) : Host.Outcome State Fault Refusal := runAll dt (clocked fun x c => c.slipRunEnd x.now e) s

/-- INDEX_EDGE: the index of an encoder (R319, R327, R328, R331). -/
def execIndexEdge (dt : Nat) (e : Fin 12) (s : State) : Host.Outcome State Fault Refusal :=
  runAll dt (clocked fun x c => (c.indexEdge e).afterCount x.now e) s

/-- STANDSTILL: no count for ZERO_TIME (R323). -/
def execStandstill (dt : Nat) (e : Fin 12) (s : State) : Host.Outcome State Fault Refusal := runAll dt (clocked fun x c => c.standstill x.now e) s

/-- SPEED_UPDATE: speeds and filters are updated, the copies of the channels latched, calibrations watch their drums, the recorder takes channels that changed (R242, R321, R323, R324, R474). -/
def execSpeedUpdate (dt : Nat) (s : State) : Host.Outcome State Fault Refusal :=
  runAll dt (clocked fun x c => (((((c.speedUpdate x.now).keepInput x.now (.feedback c.fbCopy)).latchFeedback).calDrumCheck x.now).calResume x).logFeedback x.now) s

/-- HALL_INVALID_RUN_END: 10 ms of valid Hall states (R329). -/
def execHallInvalidRunEnd (dt : Nat) (h : Fin 12) (s : State) : Host.Outcome State Fault Refusal :=
  runAll dt (clocked fun x c => c.hallRunEnd x.now h) s

/-- BISS_FRAME_START: a master starts a frame (R330). -/
def execBissFrameStart (dt : Nat) (b : Fin 4) (s : State) : Host.Outcome State Fault Refusal := runAll dt (clocked fun x c => c.bissStart x.now b) s

/-- BISS_FRAME_END: a frame ends with its bits, or without an answer (R330). -/
def execBissFrameEnd (dt : Nat) (b : Fin 4) (frame : Option (List Bool)) (delay : BitVec 9) (s : State) : Host.Outcome State Fault Refusal :=
  runAll dt (clocked fun x c => (c.bissEnd x.now b frame delay.toNat).afterCount x.now (12 + b)) s

/-- COIL_BUS_FRAME: set-points and status words are exchanged on a chain (R335). -/
def execCoilBusFrame (dt : Nat) (chain : Fin 4) (status : List (BitVec 16)) (s : State) : Host.Outcome State Fault Refusal :=
  runAll dt (clocked fun x c => c.coilFrame x.now chain (status.map (·.toNat))) s

/-- MULE_STEP: the step timer of an axis expires (R340, R345). -/
def execMuleStep (dt : Nat) (m : Fin 16) (s : State) : Host.Outcome State Fault Refusal := runAll dt (clocked fun x c => c.muleStep x.now m) s

/-- MULE_SWITCH: a switch input has been stable for 2 µs (R345, R346). -/
def execMuleSwitch (dt : Nat) (m : Fin 16) (which : MuleInput) (level : Bool) (s : State) : Host.Outcome State Fault Refusal :=
  runAll dt (clocked fun x c => c.muleSwitch x.now m which level) s

/-- HOLD_DELAY: an axis has not stepped for HOLD_DELAY (R339). -/
def execHoldDelay (dt : Nat) (m : Fin 16) (s : State) : Host.Outcome State Fault Refusal := runAll dt (clocked fun x c => c.holdDelay x.now m) s

/-- SLOT_SAMPLE: a slot executes one sample; in REPLAY slots drive nothing (R298, R351, R352, R353, R355, R356, R363, R374, R484). -/
def execSlotSample (dt : Nat) (n : Fin 96) (s : State) : Host.Outcome State Fault Refusal :=
  runAll dt (clocked fun x c => if c.state = St.replay then c else c.slotSample x.now n) s

/-- OVERRUN_RUN_END: 1 ms without a skipped sample (R356). -/
def execOverrunRunEnd (dt : Nat) (n : Fin 96) (s : State) : Host.Outcome State Fault Refusal := runAll dt (clocked fun x c => c.overrunEnd x.now n) s

/-- SLOW_ADC_CONVERSION: the next channel of the slow ADC is converted (R358, R395, R399). -/
def execSlowAdcConversion (dt : Nat) (code : BitVec 16) (s : State) : Host.Outcome State Fault Refusal :=
  runAll dt (clocked fun x c => c.slowAdcConversion x.now code.toNat) s

/-- HV_FEEDBACK_CONVERSION: voltage and current of a channel are converted (R366). -/
def execHvFeedbackConversion (dt : Nat) (k : Fin 24) (volts amps : BitVec 12) (s : State) : Host.Outcome State Fault Refusal :=
  runAll dt (clocked fun x c => (c.hvConvert x.now k volts.toNat amps.toNat).judgeDischarge) s

/-- HV_ENERGY_BIN: a bin of 1 ms of the energy monitors ends (R367). -/
def execHvEnergyBin (dt : Nat) (s : State) : Host.Outcome State Fault Refusal :=
  runAll dt (clocked fun x c => c.each (List.range 24) fun k c => c.hvBin k) s

/-- MAINS_ZERO_CROSSING: a zero crossing of the mains (R369). -/
def execMainsZeroCrossing (dt : Nat) (s : State) : Host.Outcome State Fault Refusal := runAll dt (clocked fun x c => c.zeroCrossing x.now) s

/-- ZC_LOST: no crossing within three half-periods (R369). -/
def execZcLost (dt : Nat) (s : State) : Host.Outcome State Fault Refusal := runAll dt (clocked fun x c => c.zcLost x.now) s

/-- FOLLOW_UPDATE: the follow inputs of 1 µs, one sample for each CTL cycle, and the demand they give (R361, R362, R501). -/
def execFollowUpdate (dt : Nat) (samples : List QuadIn) (s : State) : Host.Outcome State Fault Refusal :=
  runAll dt (clocked fun x c => c.followUpdate x.now (samples.map fun i => (i.a, i.b))) s

/-- FOLLOW_RUN_END: 100 ms below 98 % of the ceiling (R362). -/
def execFollowRunEnd (dt : Nat) (s : State) : Host.Outcome State Fault Refusal := runAll dt (clocked fun x c => c.followRunEnd x.now) s

/-- RC_MASTER_COPY: the learned entries of a table are copied (R364). -/
def execRcMasterCopy (dt : Nat) (r : Fin 16) (s : State) : Host.Outcome State Fault Refusal := runAll dt (clocked fun x c => c.rcCopy r) s

/-- AXIS_MOVE (R418, R419). -/
def execAxisMove (dt : Nat) (j : Fin 4096) (s : State) : Host.Outcome State Fault Refusal :=
  runAll dt (command 0x30 j.val fun e x c => c.axisMove x.now e) s

/-- AXIS_JOG (R418, R420). -/
def execAxisJog (dt : Nat) (j : Fin 4096) (s : State) : Host.Outcome State Fault Refusal :=
  runAll dt (command 0x31 j.val fun e x c => c.axisJog x.now e) s

/-- AXIS_HOME (R345, R421). -/
def execAxisHome (dt : Nat) (j : Fin 4096) (s : State) : Host.Outcome State Fault Refusal :=
  runAll dt (command 0x32 j.val fun e x c => c.axisHome x.now e) s

/-- LOOP_INJECT (R373, R425). -/
def execLoopInject (dt : Nat) (j : Fin 4096) (s : State) : Host.Outcome State Fault Refusal :=
  runAll dt (command 0x34 j.val fun e x c => c.loopInject e) s

end Sys2Proof.Machine
end

