-- ==== Sys2Proof/Machine/Dispatch.lean ====
section
/-! DEFINITION. One arm per command: its meaning. -/
namespace Sys2Proof.Machine
open Sys2Proof

/-- The effect of a command on the block. -/
def exec (i : Instr) (s : State) : Host.Outcome State Fault Refusal :=
  match i with
  | .coldStart dt msel mainOk vback i2cA => Sys2Proof.Machine.execColdStart dt msel mainOk vback i2cA s
  | .powerOnReset dt msel mainOk vback => Sys2Proof.Machine.execPowerOnReset dt msel mainOk vback s
  | .brownOut dt => Sys2Proof.Machine.execBrownOut dt s
  | .engineReset dt q v => Sys2Proof.Machine.execEngineReset dt q v s
  | .partitionReset dt q v => Sys2Proof.Machine.execPartitionReset dt q v s
  | .portReset dt q v => Sys2Proof.Machine.execPortReset dt q v s
  | .hostPortReset dt q kind => Sys2Proof.Machine.execHostPortReset dt q kind s
  | .portDown dt q linkUp busMaster => Sys2Proof.Machine.execPortDown dt q linkUp busMaster s
  | .portReturn dt q rate width setup => Sys2Proof.Machine.execPortReturn dt q rate width setup s
  | .registerWrite dt q off v be upper => Sys2Proof.Machine.execRegisterWrite dt q off v be upper s
  | .bitAliasWrite dt q off v => Sys2Proof.Machine.execBitAliasWrite dt q off v s
  | .maskedWrite dt q off v => Sys2Proof.Machine.execMaskedWrite dt q off v s
  | .sqClearWrite dt q off v => Sys2Proof.Machine.execSqClearWrite dt q off v s
  | .guardFirstWrite dt q off v => Sys2Proof.Machine.execGuardFirstWrite dt q off v s
  | .guardedPairWrite dt q off v => Sys2Proof.Machine.execGuardedPairWrite dt q off v s
  | .guardTimeout dt off => Sys2Proof.Machine.execGuardTimeout dt off s
  | .partOwnerWrite dt q v => Sys2Proof.Machine.execPartOwnerWrite dt q v s
  | .wakeRegisterWrite dt q v => Sys2Proof.Machine.execWakeRegisterWrite dt q v s
  | .i2cWake dt byte => Sys2Proof.Machine.execI2cWake dt byte s
  | .tableWindowWrite dt q off words => Sys2Proof.Machine.execTableWindowWrite dt q off words s
  | .tableCopyDone dt inst => Sys2Proof.Machine.execTableCopyDone dt inst s
  | .partitionAttach dt q p v => Sys2Proof.Machine.execPartitionAttach dt q p v s
  | .xlatRootApply dt q p v => Sys2Proof.Machine.execXlatRootApply dt q p v s
  | .xlatInvalidate dt q p v => Sys2Proof.Machine.execXlatInvalidate dt q p v s
  | .xlatInvalidateDone dt p => Sys2Proof.Machine.execXlatInvalidateDone dt p s
  | .tileEnableWrite dt q t v => Sys2Proof.Machine.execTileEnableWrite dt q t v s
  | .hvRearm dt q k v => Sys2Proof.Machine.execHvRearm dt q k v s
  | .ilkClear dt q v => Sys2Proof.Machine.execIlkClear dt q v s
  | .sumpTrig dt q v => Sys2Proof.Machine.execSumpTrig dt q v s
  | .sumpRdWrite dt q hi v => Sys2Proof.Machine.execSumpRdWrite dt q hi v s
  | .muleEnableWrite dt q m v => Sys2Proof.Machine.execMuleEnableWrite dt q m v s
  | .muleProfileWrite dt q m which v => Sys2Proof.Machine.execMuleProfileWrite dt q m which v s
  | .slotEnableWrite dt q n v => Sys2Proof.Machine.execSlotEnableWrite dt q n v s
  | .doorbellPoll dt p => Sys2Proof.Machine.execDoorbellPoll dt p s
  | .doorbellBlockReceived dt p blk => Sys2Proof.Machine.execDoorbellBlockReceived dt p blk s
  | .entryFetchComplete dt p ring entries ok => Sys2Proof.Machine.execEntryFetchComplete dt p ring entries ok s
  | .heldRecordDelivery dt p => Sys2Proof.Machine.execHeldRecordDelivery dt p s
  | .modTimeExpiry dt p queue => Sys2Proof.Machine.execModTimeExpiry dt p queue s
  | .barrierReadComplete dt j ok => Sys2Proof.Machine.execBarrierReadComplete dt j ok s
  | .dmaBurstGrant dt q mem => Sys2Proof.Machine.execDmaBurstGrant dt q mem s
  | .dmaBurstComplete dt ch result => Sys2Proof.Machine.execDmaBurstComplete dt ch result s
  | .imageBurstRetry dt lane => Sys2Proof.Machine.execImageBurstRetry dt lane s
  | .wake dt j => Sys2Proof.Machine.execWake dt j s
  | .sleep dt j => Sys2Proof.Machine.execSleep dt j s
  | .prime dt j => Sys2Proof.Machine.execPrime dt j s
  | .primeComplete dt => Sys2Proof.Machine.execPrimeComplete dt s
  | .primeTimeout dt => Sys2Proof.Machine.execPrimeTimeout dt s
  | .idle dt j => Sys2Proof.Machine.execIdle dt j s
  | .safeStop dt j => Sys2Proof.Machine.execSafeStop dt j s
  | .replay dt j mem => Sys2Proof.Machine.execReplay dt j mem s
  | .idleAfterReplay dt => Sys2Proof.Machine.execIdleAfterReplay dt s
  | .txnBegin dt j => Sys2Proof.Machine.execTxnBegin dt j s
  | .txnWrite dt j => Sys2Proof.Machine.execTxnWrite dt j s
  | .txnCommit dt j => Sys2Proof.Machine.execTxnCommit dt j s
  | .txnRollback dt j => Sys2Proof.Machine.execTxnRollback dt j s
  | .txnAtTimeTrigger dt p => Sys2Proof.Machine.execTxnAtTimeTrigger dt p s
  | .pageArm dt j mem => Sys2Proof.Machine.execPageArm dt j mem s
  | .chainStart dt j => Sys2Proof.Machine.execChainStart dt j s
  | .chainEnd dt j => Sys2Proof.Machine.execChainEnd dt j s
  | .pageCancel dt j => Sys2Proof.Machine.execPageCancel dt j s
  | .pageAbort dt j => Sys2Proof.Machine.execPageAbort dt j s
  | .pageStart dt => Sys2Proof.Machine.execPageStart dt s
  | .chainClose dt => Sys2Proof.Machine.execChainClose dt s
  | .pageEnd dt => Sys2Proof.Machine.execPageEnd dt s
  | .siphonBandDecode dt lane => Sys2Proof.Machine.execSiphonBandDecode dt lane s
  | .sweepPlan dt t => Sys2Proof.Machine.execSweepPlan dt t s
  | .trimRefine dt t => Sys2Proof.Machine.execTrimRefine dt t s
  | .bdStamp dt t msg => Sys2Proof.Machine.execBdStamp dt t msg s
  | .mirrorSense dt t sweep phase ampl => Sys2Proof.Machine.execMirrorSense dt t sweep phase ampl s
  | .monitorPd dt t sweep codes => Sys2Proof.Machine.execMonitorPd dt t sweep codes s
  | .headStatus dt t payload => Sys2Proof.Machine.execHeadStatus dt t payload s
  | .headTemp dt t temps => Sys2Proof.Machine.execHeadTemp dt t temps s
  | .ack dt t seq nak => Sys2Proof.Machine.execAck dt t seq nak s
  | .uplinkFrame dt t hdr body => Sys2Proof.Machine.execUplinkFrame dt t hdr body s
  | .retxTimeout dt t => Sys2Proof.Machine.execRetxTimeout dt t s
  | .epochMark dt t sub => Sys2Proof.Machine.execEpochMark dt t sub s
  | .echoMark dt t epoch sub => Sys2Proof.Machine.execEchoMark dt t epoch sub s
  | .uplinkBlockLock dt t blocks => Sys2Proof.Machine.execUplinkBlockLock dt t blocks s
  | .linkFail dt t => Sys2Proof.Machine.execLinkFail dt t s
  | .linkRetrain dt t => Sys2Proof.Machine.execLinkRetrain dt t s
  | .trainTimeout dt t => Sys2Proof.Machine.execTrainTimeout dt t s
  | .bankLoadTimeout dt t => Sys2Proof.Machine.execBankLoadTimeout dt t s
  | .killRepeat dt t => Sys2Proof.Machine.execKillRepeat dt t s
  | .dllLockLost dt g w => Sys2Proof.Machine.execDllLockLost dt g w s
  | .dllLockRestored dt g ws => Sys2Proof.Machine.execDllLockRestored dt g ws s
  | .refClockLost dt => Sys2Proof.Machine.execRefClockLost dt s
  | .refRestored dt => Sys2Proof.Machine.execRefRestored dt s
  | .mirrorStart dt t => Sys2Proof.Machine.execMirrorStart dt t s
  | .mirrorAmplStep dt t => Sys2Proof.Machine.execMirrorAmplStep dt t s
  | .bdLockTimeout dt t => Sys2Proof.Machine.execBdLockTimeout dt t s
  | .mirrorRetry dt t => Sys2Proof.Machine.execMirrorRetry dt t s
  | .calibrationComplete dt => Sys2Proof.Machine.execCalibrationComplete dt s
  | .lscanTrigger dt => Sys2Proof.Machine.execLscanTrigger dt s
  | .lscanLine dt words => Sys2Proof.Machine.execLscanLine dt words s
  | .seamHeldCommit dt => Sys2Proof.Machine.execSeamHeldCommit dt s
  | .lscanLineTimeout dt => Sys2Proof.Machine.execLscanLineTimeout dt s
  | .lscanDllBypass dt cause mhz => Sys2Proof.Machine.execLscanDllBypass dt cause mhz s
  | .lscanDllLock dt mhz => Sys2Proof.Machine.execLscanDllLock dt mhz s
  | .carrierPeak dt a => Sys2Proof.Machine.execCarrierPeak dt a s
  | .shuntSample dt a u v w => Sys2Proof.Machine.execShuntSample dt a u v w s
  | .gateFault dt a => Sys2Proof.Machine.execGateFault dt a s
  | .offsetCalEnd dt a => Sys2Proof.Machine.execOffsetCalEnd dt a s
  | .hallEdge dt h st samples => Sys2Proof.Machine.execHallEdge dt h st samples s
  | .hallLost dt a => Sys2Proof.Machine.execHallLost dt a s
  | .lockedRotor dt a => Sys2Proof.Machine.execLockedRotor dt a s
  | .observerFail dt a => Sys2Proof.Machine.execObserverFail dt a s
  | .catchFail dt a => Sys2Proof.Machine.execCatchFail dt a s
  | .brakeEnd dt a => Sys2Proof.Machine.execBrakeEnd dt a s
  | .encoderCount dt e inp samples => Sys2Proof.Machine.execEncoderCount dt e inp samples s
  | .slipRunEnd dt e => Sys2Proof.Machine.execSlipRunEnd dt e s
  | .indexEdge dt e => Sys2Proof.Machine.execIndexEdge dt e s
  | .standstill dt e => Sys2Proof.Machine.execStandstill dt e s
  | .speedUpdate dt => Sys2Proof.Machine.execSpeedUpdate dt s
  | .hallInvalidRunEnd dt h => Sys2Proof.Machine.execHallInvalidRunEnd dt h s
  | .bissFrameStart dt b => Sys2Proof.Machine.execBissFrameStart dt b s
  | .bissFrameEnd dt b frame delay => Sys2Proof.Machine.execBissFrameEnd dt b frame delay s
  | .coilBusFrame dt chain status => Sys2Proof.Machine.execCoilBusFrame dt chain status s
  | .muleStep dt m => Sys2Proof.Machine.execMuleStep dt m s
  | .muleSwitch dt m which level => Sys2Proof.Machine.execMuleSwitch dt m which level s
  | .holdDelay dt m => Sys2Proof.Machine.execHoldDelay dt m s
  | .slotSample dt n => Sys2Proof.Machine.execSlotSample dt n s
  | .overrunRunEnd dt n => Sys2Proof.Machine.execOverrunRunEnd dt n s
  | .slowAdcConversion dt code => Sys2Proof.Machine.execSlowAdcConversion dt code s
  | .hvFeedbackConversion dt k volts amps => Sys2Proof.Machine.execHvFeedbackConversion dt k volts amps s
  | .hvEnergyBin dt => Sys2Proof.Machine.execHvEnergyBin dt s
  | .mainsZeroCrossing dt => Sys2Proof.Machine.execMainsZeroCrossing dt s
  | .zcLost dt => Sys2Proof.Machine.execZcLost dt s
  | .followUpdate dt samples => Sys2Proof.Machine.execFollowUpdate dt samples s
  | .followRunEnd dt => Sys2Proof.Machine.execFollowRunEnd dt s
  | .rcMasterCopy dt r => Sys2Proof.Machine.execRcMasterCopy dt r s
  | .ilkOpen dt chB => Sys2Proof.Machine.execIlkOpen dt chB s
  | .ilkClose dt chB => Sys2Proof.Machine.execIlkClose dt chB s
  | .ilkDiscrepancy dt => Sys2Proof.Machine.execIlkDiscrepancy dt s
  | .mainLoss dt pfail aonLow vback => Sys2Proof.Machine.execMainLoss dt pfail aonLow vback s
  | .vbackSwitchover dt toVback => Sys2Proof.Machine.execVbackSwitchover dt toVback s
  | .mainReturn dt => Sys2Proof.Machine.execMainReturn dt s
  | .holdupEnd dt => Sys2Proof.Machine.execHoldupEnd dt s
  | .dischargeCheck dt => Sys2Proof.Machine.execDischargeCheck dt s
  | .stopSequenceFinished dt => Sys2Proof.Machine.execStopSequenceFinished dt s
  | .vbackLow dt vback => Sys2Proof.Machine.execVbackLow dt vback s
  | .dieTempRead dt temps => Sys2Proof.Machine.execDieTempRead dt temps s
  | .startUpComplete dt => Sys2Proof.Machine.execStartUpComplete dt s
  | .wakeRebuildDone dt => Sys2Proof.Machine.execWakeRebuildDone dt s
  | .lockstepMismatch dt fromSram resume100ns => Sys2Proof.Machine.execLockstepMismatch dt fromSram resume100ns s
  | .standbySelfTestEnd dt pass => Sys2Proof.Machine.execStandbySelfTestEnd dt pass s
  | .sramUncorrectable dt mem off checkpoint owner => Sys2Proof.Machine.execSramUncorrectable dt mem off checkpoint owner s
  | .segmentClose dt => Sys2Proof.Machine.execSegmentClose dt s
  | .segmentStream dt mem => Sys2Proof.Machine.execSegmentStream dt mem s
  | .snapshotTimer dt => Sys2Proof.Machine.execSnapshotTimer dt s
  | .postTriggerEnd dt => Sys2Proof.Machine.execPostTriggerEnd dt s
  | .axisMove dt j => Sys2Proof.Machine.execAxisMove dt j s
  | .axisJog dt j => Sys2Proof.Machine.execAxisJog dt j s
  | .axisHome dt j => Sys2Proof.Machine.execAxisHome dt j s
  | .loopConfig dt j mem => Sys2Proof.Machine.execLoopConfig dt j mem s
  | .loopInject dt j => Sys2Proof.Machine.execLoopInject dt j s
  | .tableLoad dt j => Sys2Proof.Machine.execTableLoad dt j s
  | .emitterCalibrate dt j => Sys2Proof.Machine.execEmitterCalibrate dt j s
  | .seamMeasure dt j mem => Sys2Proof.Machine.execSeamMeasure dt j mem s
  | .markStrip dt j mem => Sys2Proof.Machine.execMarkStrip dt j mem s
  | .capture dt j => Sys2Proof.Machine.execCapture dt j s
  | .compress dt j mem => Sys2Proof.Machine.execCompress dt j mem s
  | .decompressCheck dt j mem => Sys2Proof.Machine.execDecompressCheck dt j mem s
  | .recorder dt j => Sys2Proof.Machine.execRecorder dt j s
  | .fence dt j => Sys2Proof.Machine.execFence dt j s
  | .query dt j mem => Sys2Proof.Machine.execQuery dt j mem s
  | .vbackFailed dt => Sys2Proof.Machine.execVbackFailed dt s
  | .sramCorrectableError dt mem => Sys2Proof.Machine.execSramCorrectableError dt mem s
  | .romParity dt => Sys2Proof.Machine.execRomParity dt s
  | .reorderWindowEnd dt => Sys2Proof.Machine.execReorderWindowEnd dt s
  | .wellheadSensorRead dt temp => Sys2Proof.Machine.execWellheadSensorRead dt temp s
  | .lscanSyncTimeout dt => Sys2Proof.Machine.execLscanSyncTimeout dt s
  | .tapInstruction dt tap levels tdi => Sys2Proof.Machine.execTapInstruction dt tap levels tdi s

end Sys2Proof.Machine
end

