-- ==== Sys2Proof/Machine/Step.lean ====
section
/-! DEFINITION. One step of the block: the command at the front of the queue acts on the state with the queue's rest; with no command waiting the block idles.
-/
namespace Sys2Proof.Machine
open Sys2Proof

/-- One step: take the front command; on an empty queue nothing happens (no time passes either: time passes with commands). [DESIGN CHOICE: log 2, 4] -/
def step (s : State) : Host.Outcome State Fault Refusal :=
  match s.pending with
  | [] => .next s
  | i :: rest => exec i { s with pending := rest }

/-- The state with the command that a table word spells put at the front of its queue; unchanged where the word spells none. [DESIGN CHOICE: log 3] -/
def State.withFetchWord (s : State) (nbits w : Nat) : State :=
  match decodeTableWord nbits w with
  | none => s
  | some i => { s with pending := i :: s.pending }

end Sys2Proof.Machine
end

