-- ==== Sys2Proof/Safety.lean ====
section
/-! DEFINITION. What a safe run keeps, in the terms that claims use: records are numbered once and in order, stores are in their canonical form, nothing else of the chip is waiting to happen (calm, still).
-/
namespace Sys2Proof.Machine

/-- The transaction unit has nothing to switch: no commit waits, and no register or table has just switched (R62 to R71). -/
def Chip.noCommit (c : Chip) : Bool := c.txn.commits.isEmpty && c.txn.touched.isEmpty && c.txn.switched.isEmpty

/-- No other unit is in the middle of something long: no commit waits, no calibration, PRIME, start-up, SLEEP or thermal stop at the sweep boundaries is under way (R33, R34, R62, R241, R393, R464). -/
def Chip.calm (c : Chip) : Bool :=
  c.noCommit && c.eng.calJobs.isEmpty && c.eng.prime.isNone && !c.eng.starting && c.eng.sleepFor.isNone && c.safety.blanking.isNone

/-- A calm chip that also has no page, no image channel at work and no hold-up supply on (R141, R382). -/
def Chip.still (c : Chip) : Bool :=
  c.calm && c.pages.isEmpty && (List.range 8).all (fun s => (c.img s).page.isNone) && !c.flag Fld.POWER_STATUS_HOLDUP

/-- The register file and both bank sets of the table window are in canonical form. -/
def Chip.canonical (c : Chip) : Bool :=
  Sparse.wf RegMap.resetOf c.regs && Sparse.wf (tableDefault c.nominal) c.shadow && Sparse.wf (tableDefault c.nominal) c.active

/-- How many units of each kind the chip holds: ports, lanes, context slots, tiles, stations, drive axes, incremental channels, Hall triplets, BiSS masters, Mule axes, default placement banks, image and service channels, partitions in the translation and transaction units, Windlass slots, HV channels, fuser zones, thermistors, feedback copies and tracks of the repetitive-control tables (R3). -/
def Chip.shape (c : Chip) : List Nat :=
  [c.ports.length, c.lanes.length, c.slots.length, c.tiles.length, c.stns.length, c.drives.length, c.encs.length, c.halls.length,
    c.biss.length, c.mules.length, c.nominal.length, c.dma.img.length, c.dma.owner.length, c.xlat.roots.length, c.xlat.invals.length,
    c.txn.opens.length, c.wl.slots.length, c.wl.hv.length, c.wl.zones.length, c.safety.thHist.length, c.fbCopy.length, c.wl.tracks.length]

/-- The numbers of units that the spec gives. -/
def Chip.unitCounts : List Nat := [2, 8, 8, 64, 8, 12, 12, 12, 4, 16, 64, 8, 15, 8, 8, 8, 96, 24, 8, 8, 16, 16]

/-- Stores in their canonical form, and as many units of each kind as the block has. -/
def Chip.sound (c : Chip) : Bool := c.canonical && c.shape == Chip.unitCounts

/-- No acceptance of the present instant waits for its number, and a core pair runs the firmware (R20, R30, R453). -/
def Chip.serving (c : Chip) : Bool := c.eng.accepting.isEmpty && !c.eng.coresFailed

/-- No service command holds a channel, moves data or waits to (R91, R121). -/
def Chip.noService (c : Chip) : Bool := c.dma.xfers.isEmpty && c.dma.parked.isEmpty && c.dma.owner.all (·.isNone)

/-- A sound chip whose fast clocks run, that serves, in which nothing else waits to happen and whose recorder is stopped; a service channel may be at work (R24, R480). -/
def Chip.resting (c : Chip) : Bool := c.serving && c.sound && c.still && c.fast && decide (c.fld Fld.SUMP_STATUS_STATE = 0)

/-- The same with no service channel at work. -/
def Chip.quiet (c : Chip) : Bool := c.resting && c.noService

/-- A sound, serving chip whose fast clocks run and whose recorder is stopped, with no page, no image or service channel at work, no hold-up supply on, and neither start-up, SLEEP nor a thermal stop under way; commits, PRIME and calibrations may be. -/
def Chip.unhurried (c : Chip) : Bool :=
  c.serving && c.noService && c.sound && c.fast && decide (c.fld Fld.SUMP_STATUS_STATE = 0) && !c.eng.starting && c.eng.sleepFor.isNone && c.safety.blanking.isNone && c.pages.isEmpty
    && (List.range 8).all (fun s => (c.img s).page.isNone) && !c.flag Fld.POWER_STATUS_HOLDUP

/-- A sound, serving, calm chip whose fast clocks run, whose recorder is stopped and whose service channels are free; pages may be armed and may run. -/
def Chip.working (c : Chip) : Bool := c.serving && c.noService && c.sound && c.calm && c.fast && decide (c.fld Fld.SUMP_STATUS_STATE = 0)

/-- Every register but the listed ones reads as before. -/
def Chip.regsBut (c c' : Chip) (l : List Nat) : Prop := ∀ off, off ∉ l → c'.reg off = c.reg off

/-- The engine time at which a command acts that comes `dt` after the one before it (R5, R29). -/
def State.at_ (s : State) (dt : Nat) : Nat := (s.elapsed dt).time

/-- The outcome of the command in a journal slot is fixed: its status, its DETAIL, and whether it is already COMPLETED or still waits for its ring's order (R405, R444). -/
def Merge.fixed (m : Merge) (slot status detail : Nat) : Prop :=
  ∃ e, m.entry slot = some e ∧ (e.phase = .result ∨ e.phase = .completed) ∧ e.status = status ∧ e.detail = detail

/-- What a command that comes `dt` after the one before it sees beside the chip (R5, R94). -/
def State.ctx (s : State) (dt : Nat) : Ctx := ⟨s.at_ dt, s.merge, s.firm.ready⟩

/-- A command of the journal may start at this instant: it stands in its slot with its opcode, its ring and the fences allow it, no ready command of higher priority has pre-empted it, and the engine state accepts it (R94, R120, R404, R405, R409). -/
def State.offers (s : State) (dt slot opcode : Nat) (e : JEntry) : Prop :=
  s.merge.startable slot opcode = some e ∧ (s.ctx dt).outranked opcode = false ∧ (acceptedIn opcode).contains s.chip.state = true

/-- The outcome of a command as the state holds it. -/
def State.outcome (s : State) (slot status detail : Nat) : Prop := s.merge.fixed slot status detail

/-- The command that ended in this state handed this event over, to be numbered and recorded (R30, R509). -/
def State.raised (s : State) (e : Ev) : Prop := Emit.event e ∈ s.chip.emits

/-- The command that ended in this state put this on an output. -/
def State.drove (s : State) (name : String) (index value : Nat) : Prop := Out.pin name index value ∈ s.chip.outs

/-- The command that ended in this state let the command in a journal slot take its first effect (R444). -/
def State.began (s : State) (slot : Nat) : Prop := Emit.started slot ∈ s.chip.emits

/-- The command that ended in this state fixed the outcome of the command in a journal slot (R444). -/
def State.ended (s : State) (slot status detail : Nat) : Prop := Emit.result slot status detail ∈ s.chip.emits

/-- Between two states a drive axis went to FAULT with a cause `dt` after the command before: its state, FAULT_INFO, the cause noted with its instant for the record at the end of the carrier period, its outputs low, and no register but its STATUS, FAULT_INFO and EVENT changed (R313, R314)., besides the registers listed in `also`. [DESIGN CHOICE: log 86] -/
def State.driveFaulted (s t : State) (dt a cause : Nat) (also : List Nat := []) : Prop :=
  t.chip.driveState a = Ds.fault ∧ t.chip.fld (Fld.DRIVE_FAULT_INFO_CAUSE a) = cause
    ∧ t.chip.fld (Fld.DRIVE_FAULT_INFO_STATE_BEFORE a) = s.chip.driveState a
    ∧ (t.chip.drive a).causes = (s.chip.drive a).causes ++ [(cause, s.at_ dt)] ∧ t.drove "DRV" a 0
    ∧ s.chip.regsBut t.chip ([Reg.DRIVE_STATUS a, Reg.DRIVE_FAULT_INFO a, Reg.DRIVE_EVENT a] ++ also)

/-- The bytes that an output writes to host memory: the port, the host address and the byte. -/
def Out.wrote : Out → List (Port × Nat × Byte)
  | .hostWrite q h bs => bs.zipIdx.map fun y => (q, h + y.2, y.1)
  | _ => []

/-- The command that ended in this state wrote exactly these bytes through a port, from this host address on, in this order, in however many TLPs. -/
def State.wrote (s : State) (q : Port) (h : Nat) (bs : List Byte) : Prop :=
  s.chip.outs.flatMap Out.wrote = Out.wrote (.hostWrite q h bs)

/-- A command may move all its data in its own row: the port is up with a payload size, nothing else is ready on it, and nothing of its partition comes before (R97, R100, R123, R124). -/
def State.moves (s : State) (q : Port) (e : JEntry) : Prop :=
  s.chip.portDown q = false ∧ 0 < (s.chip.port q.num).cfg.mps ∧ s.chip.ownBursts s.merge e = none

/-- The first GiB of a partition's device addresses is cached as one page at this host address, readable and writable, and nothing else is cached (R82, R85). -/
def Chip.mapsFlat (c : Chip) (p host : Nat) : Prop :=
  ∃ ns, c.xlat.cache = [{ part := p, level := 1, page := 0, host := host, rd := true, wr := true, ns := ns }]

/-- A service command may take its channel and a context slot: none is taken, and no transfer is suspended (R91, R121, R183). -/
def Chip.serviceFree (c : Chip) : Prop :=
  c.dma.owner = List.replicate 15 none ∧ c.dma.jobs = [] ∧ c.xlat.susp = [] ∧ ∀ n < 8, (c.slot n).held = false ∧ (c.slot n).cmd = none

/-- Every journal slot is used once (R443). -/
def Merge.slotsApart (m : Merge) : Prop := (m.journal.map (·.slot)).Nodup

end Sys2Proof.Machine
end

