-- ==== Sys2Proof/WellFormed.lean ====
section
/-! DEFINITION. Which commands are well formed: operands that the block's boundary can carry. A time step fits the 64-bit engine time (R5), a register write is aligned (R40), a host image lists its bytes once and in order, and a message has the length of its kind (R270, R273).
-/
namespace Sys2Proof
open Sys2Proof.Machine (aliasBase tableRanges)

/-- The word of a guarded pair of GLOBAL.RESET_CTL names nothing but ENGINE, PARTITION and PORT (R459, R460). -/
def resetPair (v : Word) : Bool := decide (v.toNat &&& 0x3FF01 = v.toNat)

/-- A host image lists each byte once, by rising address. -/
def hostImage : HostImg → Bool
  | [] => true
  | [_] => true
  | (a, _) :: (b, w) :: l => decide (a < b) && hostImage ((b, w) :: l)

/-- A read burst brings at most 256 bytes (R121). -/
def Burst.fits : Burst → Bool
  | .ok data => decide (data.length ≤ 256)
  | .busError => true

/-- What the host sets up in a port is what the port offers: BARs aligned to their sizes, a payload of 128 or 256 and a read request of 128 to 512 bytes, ranges A and B of the completion timeout, 64 vectors (R74, R75). -/
def Machine.PortSetup.fits (x : Machine.PortSetup) : Bool :=
  let c := x.cfg
  (c.bars.zip [2 ^ 28, 2 ^ 24, 2 ^ 16]).all (fun b => b.1 % b.2 == 0 && decide (b.1 < 2 ^ 64)) && c.bars.length == 3
    && [128, 256].contains c.mps && [128, 256, 512].contains c.mrrs && [0, 1, 2, 5, 6].contains c.timeout && c.aer.length == 4
    && c.msix.length == 64 && c.msix.all (fun e => e.1 % 4 == 0 && decide (e.1 < 2 ^ 64)) && decide (x.mask < 2 ^ 64)

/-- The time in ns since the command before this one. [DESIGN CHOICE: log 1] -/
def Instr.elapsed (i : Instr) : Nat :=
  match i with
  | .coldStart dt _ _ _ _ => dt
  | .powerOnReset dt _ _ _ => dt
  | .brownOut dt => dt
  | .engineReset dt _ _ => dt
  | .partitionReset dt _ _ => dt
  | .portReset dt _ _ => dt
  | .hostPortReset dt _ _ => dt
  | .portDown dt _ _ _ => dt
  | .portReturn dt _ _ _ _ => dt
  | .registerWrite dt _ _ _ _ _ => dt
  | .bitAliasWrite dt _ _ _ => dt
  | .maskedWrite dt _ _ _ => dt
  | .sqClearWrite dt _ _ _ => dt
  | .guardFirstWrite dt _ _ _ => dt
  | .guardedPairWrite dt _ _ _ => dt
  | .guardTimeout dt _ => dt
  | .partOwnerWrite dt _ _ => dt
  | .wakeRegisterWrite dt _ _ => dt
  | .i2cWake dt _ => dt
  | .tableWindowWrite dt _ _ _ => dt
  | .tableCopyDone dt _ => dt
  | .partitionAttach dt _ _ _ => dt
  | .xlatRootApply dt _ _ _ => dt
  | .xlatInvalidate dt _ _ _ => dt
  | .xlatInvalidateDone dt _ => dt
  | .tileEnableWrite dt _ _ _ => dt
  | .hvRearm dt _ _ _ => dt
  | .ilkClear dt _ _ => dt
  | .sumpTrig dt _ _ => dt
  | .sumpRdWrite dt _ _ _ => dt
  | .muleEnableWrite dt _ _ _ => dt
  | .muleProfileWrite dt _ _ _ _ => dt
  | .slotEnableWrite dt _ _ _ => dt
  | .doorbellPoll dt _ => dt
  | .doorbellBlockReceived dt _ _ => dt
  | .entryFetchComplete dt _ _ _ _ => dt
  | .heldRecordDelivery dt _ => dt
  | .modTimeExpiry dt _ _ => dt
  | .barrierReadComplete dt _ _ => dt
  | .dmaBurstGrant dt _ _ => dt
  | .dmaBurstComplete dt _ _ => dt
  | .imageBurstRetry dt _ => dt
  | .wake dt _ => dt
  | .sleep dt _ => dt
  | .prime dt _ => dt
  | .primeComplete dt => dt
  | .primeTimeout dt => dt
  | .idle dt _ => dt
  | .safeStop dt _ => dt
  | .replay dt _ _ => dt
  | .idleAfterReplay dt => dt
  | .txnBegin dt _ => dt
  | .txnWrite dt _ => dt
  | .txnCommit dt _ => dt
  | .txnRollback dt _ => dt
  | .txnAtTimeTrigger dt _ => dt
  | .pageArm dt _ _ => dt
  | .chainStart dt _ => dt
  | .chainEnd dt _ => dt
  | .pageCancel dt _ => dt
  | .pageAbort dt _ => dt
  | .pageStart dt => dt
  | .chainClose dt => dt
  | .pageEnd dt => dt
  | .siphonBandDecode dt _ => dt
  | .sweepPlan dt _ => dt
  | .trimRefine dt _ => dt
  | .bdStamp dt _ _ => dt
  | .mirrorSense dt _ _ _ _ => dt
  | .monitorPd dt _ _ _ => dt
  | .headStatus dt _ _ => dt
  | .headTemp dt _ _ => dt
  | .ack dt _ _ _ => dt
  | .uplinkFrame dt _ _ _ => dt
  | .retxTimeout dt _ => dt
  | .epochMark dt _ _ => dt
  | .echoMark dt _ _ _ => dt
  | .uplinkBlockLock dt _ _ => dt
  | .linkFail dt _ => dt
  | .linkRetrain dt _ => dt
  | .trainTimeout dt _ => dt
  | .bankLoadTimeout dt _ => dt
  | .killRepeat dt _ => dt
  | .dllLockLost dt _ _ => dt
  | .dllLockRestored dt _ _ => dt
  | .refClockLost dt => dt
  | .refRestored dt => dt
  | .mirrorStart dt _ => dt
  | .mirrorAmplStep dt _ => dt
  | .bdLockTimeout dt _ => dt
  | .mirrorRetry dt _ => dt
  | .calibrationComplete dt => dt
  | .lscanTrigger dt => dt
  | .lscanLine dt _ => dt
  | .seamHeldCommit dt => dt
  | .lscanLineTimeout dt => dt
  | .lscanDllBypass dt _ _ => dt
  | .lscanDllLock dt _ => dt
  | .carrierPeak dt _ => dt
  | .shuntSample dt _ _ _ _ => dt
  | .gateFault dt _ => dt
  | .offsetCalEnd dt _ => dt
  | .hallEdge dt _ _ _ => dt
  | .hallLost dt _ => dt
  | .lockedRotor dt _ => dt
  | .observerFail dt _ => dt
  | .catchFail dt _ => dt
  | .brakeEnd dt _ => dt
  | .encoderCount dt _ _ _ => dt
  | .slipRunEnd dt _ => dt
  | .indexEdge dt _ => dt
  | .standstill dt _ => dt
  | .speedUpdate dt => dt
  | .hallInvalidRunEnd dt _ => dt
  | .bissFrameStart dt _ => dt
  | .bissFrameEnd dt _ _ _ => dt
  | .coilBusFrame dt _ _ => dt
  | .muleStep dt _ => dt
  | .muleSwitch dt _ _ _ => dt
  | .holdDelay dt _ => dt
  | .slotSample dt _ => dt
  | .overrunRunEnd dt _ => dt
  | .slowAdcConversion dt _ => dt
  | .hvFeedbackConversion dt _ _ _ => dt
  | .hvEnergyBin dt => dt
  | .mainsZeroCrossing dt => dt
  | .zcLost dt => dt
  | .followUpdate dt _ => dt
  | .followRunEnd dt => dt
  | .rcMasterCopy dt _ => dt
  | .ilkOpen dt _ => dt
  | .ilkClose dt _ => dt
  | .ilkDiscrepancy dt => dt
  | .mainLoss dt _ _ _ => dt
  | .vbackSwitchover dt _ => dt
  | .mainReturn dt => dt
  | .holdupEnd dt => dt
  | .dischargeCheck dt => dt
  | .stopSequenceFinished dt => dt
  | .vbackLow dt _ => dt
  | .dieTempRead dt _ => dt
  | .startUpComplete dt => dt
  | .wakeRebuildDone dt => dt
  | .lockstepMismatch dt _ _ => dt
  | .standbySelfTestEnd dt _ => dt
  | .sramUncorrectable dt _ _ _ _ => dt
  | .segmentClose dt => dt
  | .segmentStream dt _ => dt
  | .snapshotTimer dt => dt
  | .postTriggerEnd dt => dt
  | .axisMove dt _ => dt
  | .axisJog dt _ => dt
  | .axisHome dt _ => dt
  | .loopConfig dt _ _ => dt
  | .loopInject dt _ => dt
  | .tableLoad dt _ => dt
  | .emitterCalibrate dt _ => dt
  | .seamMeasure dt _ _ => dt
  | .markStrip dt _ _ => dt
  | .capture dt _ => dt
  | .compress dt _ _ => dt
  | .decompressCheck dt _ _ => dt
  | .recorder dt _ => dt
  | .fence dt _ => dt
  | .query dt _ _ => dt
  | .vbackFailed dt => dt
  | .sramCorrectableError dt _ => dt
  | .romParity dt => dt
  | .reorderWindowEnd dt => dt
  | .wellheadSensorRead dt _ => dt
  | .lscanSyncTimeout dt => dt
  | .tapInstruction dt _ _ _ => dt

/-- What a command's operands other than its time step must meet. -/
def Instr.operandsOk (i : Instr) : Bool :=
  match i with
  | .coldStart _ _ _ _ _ => true
  | .powerOnReset _ _ _ _ => true
  | .brownOut _ => true
  | .engineReset _ _ v => resetPair v && v.getLsbD 0
  | .partitionReset _ _ v => resetPair v && !v.getLsbD 0 && decide (v.toNat / 256 % 256 ≠ 0)
  | .portReset _ _ v => resetPair v && decide (v.toNat / 65536 % 4 ≠ 0)
  | .hostPortReset _ _ _ => true
  | .portDown _ _ _ _ => true
  | .portReturn _ _ _ _ setup => setup.elim true Machine.PortSetup.fits
  | .registerWrite _ _ off _ _ upper => decide (off.toNat % (if upper.isSome then 8 else 4) = 0)
  | .bitAliasWrite _ _ off _ => decide (off.toNat % 4 = 0) && decide (aliasBase ≤ off.toNat)
  | .maskedWrite _ _ off _ => decide (off.toNat % 4 = 0)
  | .sqClearWrite _ _ off _ => decide (off.toNat % 4 = 0)
  | .guardFirstWrite _ _ off _ => decide (off.toNat % 4 = 0)
  | .guardedPairWrite _ _ off _ => decide (off.toNat % 4 = 0)
  | .guardTimeout _ off => decide (off.toNat % 4 = 0)
  | .partOwnerWrite _ _ _ => true
  | .wakeRegisterWrite _ _ _ => true
  | .i2cWake _ _ => true
  | .tableWindowWrite _ _ off words => decide (off.toNat % 4 = 0) && decide (1 ≤ words.length) && decide (words.length ≤ 64) && decide (off.toNat + 4 * words.length ≤ 2 ^ 24)
  | .tableCopyDone _ inst => !(tableRanges inst.toNat).isEmpty
  | .partitionAttach _ _ _ _ => true
  | .xlatRootApply _ _ _ _ => true
  | .xlatInvalidate _ _ _ _ => true
  | .xlatInvalidateDone _ _ => true
  | .tileEnableWrite _ _ _ _ => true
  | .hvRearm _ _ _ _ => true
  | .ilkClear _ _ _ => true
  | .sumpTrig _ _ _ => true
  | .sumpRdWrite _ _ _ _ => true
  | .muleEnableWrite _ _ _ _ => true
  | .muleProfileWrite _ _ _ _ _ => true
  | .slotEnableWrite _ _ _ _ => true
  | .doorbellPoll _ _ => true
  | .doorbellBlockReceived _ _ _ => true
  | .entryFetchComplete _ _ _ entries ok => decide (entries.length ≤ if ok then 4 else 0)
  | .heldRecordDelivery _ _ => true
  | .modTimeExpiry _ _ _ => true
  | .barrierReadComplete _ _ _ => true
  | .dmaBurstGrant _ _ mem => hostImage mem
  | .dmaBurstComplete _ _ result => result.fits
  | .imageBurstRetry _ _ => true
  | .wake _ _ => true
  | .sleep _ _ => true
  | .prime _ _ => true
  | .primeComplete _ => true
  | .primeTimeout _ => true
  | .idle _ _ => true
  | .safeStop _ _ => true
  | .replay _ _ mem => hostImage mem
  | .idleAfterReplay _ => true
  | .txnBegin _ _ => true
  | .txnWrite _ _ => true
  | .txnCommit _ _ => true
  | .txnRollback _ _ => true
  | .txnAtTimeTrigger _ _ => true
  | .pageArm _ _ mem => hostImage mem
  | .chainStart _ _ => true
  | .chainEnd _ _ => true
  | .pageCancel _ _ => true
  | .pageAbort _ _ => true
  | .pageStart _ => true
  | .chainClose _ => true
  | .pageEnd _ => true
  | .siphonBandDecode _ _ => true
  | .sweepPlan _ _ => true
  | .trimRefine _ _ => true
  | .bdStamp _ _ _ => true
  | .mirrorSense _ _ _ _ _ => true
  | .monitorPd _ _ _ codes => decide (codes.length = 16)
  | .headStatus _ _ payload => decide (payload.length = 40)
  | .headTemp _ _ temps => decide (temps.length = 4)
  | .ack _ _ _ _ => true
  | .uplinkFrame _ _ hdr body => decide (hdr.length = 7 ∧ body.length % 8 = 0 ∧ 0 < body.length)
  | .retxTimeout _ _ => true
  | .epochMark _ _ _ => true
  | .echoMark _ _ _ _ => true
  | .uplinkBlockLock _ _ _ => true
  | .linkFail _ _ => true
  | .linkRetrain _ _ => true
  | .trainTimeout _ _ => true
  | .bankLoadTimeout _ _ => true
  | .killRepeat _ _ => true
  | .dllLockLost _ _ _ => true
  | .dllLockRestored _ _ _ => true
  | .refClockLost _ => true
  | .refRestored _ => true
  | .mirrorStart _ _ => true
  | .mirrorAmplStep _ _ => true
  | .bdLockTimeout _ _ => true
  | .mirrorRetry _ _ => true
  | .calibrationComplete _ => true
  | .lscanTrigger _ => true
  | .lscanLine _ words => words.all fun w => decide (w.toNat < 1024)
  | .seamHeldCommit _ => true
  | .lscanLineTimeout _ => true
  | .lscanDllBypass _ _ _ => true
  | .lscanDllLock _ _ => true
  | .carrierPeak _ _ => true
  | .shuntSample _ _ _ _ _ => true
  | .gateFault _ _ => true
  | .offsetCalEnd _ _ => true
  | .hallEdge _ _ _ _ => true
  | .hallLost _ _ => true
  | .lockedRotor _ _ => true
  | .observerFail _ _ => true
  | .catchFail _ _ => true
  | .brakeEnd _ _ => true
  | .encoderCount _ _ _ _ => true
  | .slipRunEnd _ _ => true
  | .indexEdge _ _ => true
  | .standstill _ _ => true
  | .speedUpdate _ => true
  | .hallInvalidRunEnd _ _ => true
  | .bissFrameStart _ _ => true
  | .bissFrameEnd _ b frame _ => (frame.elim true fun b => decide (b.length ≤ 64))
  | .coilBusFrame _ _ status => decide (status.length = 4)
  | .muleStep _ _ => true
  | .muleSwitch _ _ _ _ => true
  | .holdDelay _ _ => true
  | .slotSample _ _ => true
  | .overrunRunEnd _ _ => true
  | .slowAdcConversion _ _ => true
  | .hvFeedbackConversion _ _ _ _ => true
  | .hvEnergyBin _ => true
  | .mainsZeroCrossing _ => true
  | .zcLost _ => true
  | .followUpdate _ samples => samples.length == 250
  | .followRunEnd _ => true
  | .rcMasterCopy _ _ => true
  | .ilkOpen _ _ => true
  | .ilkClose _ _ => true
  | .ilkDiscrepancy _ => true
  | .mainLoss _ _ _ _ => true
  | .vbackSwitchover _ _ => true
  | .mainReturn _ => true
  | .holdupEnd _ => true
  | .dischargeCheck _ => true
  | .stopSequenceFinished _ => true
  | .vbackLow _ _ => true
  | .dieTempRead _ temps => decide (temps.length = 12)
  | .startUpComplete _ => true
  | .wakeRebuildDone _ => true
  | .lockstepMismatch _ _ _ => true
  | .standbySelfTestEnd _ _ => true
  | .sramUncorrectable _ _ _ _ _ => true
  | .segmentClose _ => true
  | .segmentStream _ mem => hostImage mem
  | .snapshotTimer _ => true
  | .postTriggerEnd _ => true
  | .axisMove _ _ => true
  | .axisJog _ _ => true
  | .axisHome _ _ => true
  | .loopConfig _ _ mem => hostImage mem
  | .loopInject _ _ => true
  | .tableLoad _ _ => true
  | .emitterCalibrate _ _ => true
  | .seamMeasure _ _ mem => hostImage mem
  | .markStrip _ _ mem => hostImage mem
  | .capture _ _ => true
  | .compress _ _ mem => hostImage mem
  | .decompressCheck _ _ mem => hostImage mem
  | .recorder _ _ => true
  | .fence _ _ => true
  | .query _ _ mem => hostImage mem
  | .vbackFailed _ => true
  | .sramCorrectableError _ _ => true
  | .romParity _ => true
  | .reorderWindowEnd _ => true
  | .wellheadSensorRead _ _ => true
  | .lscanSyncTimeout _ => true
  | .tapInstruction _ _ _ _ => true

/-- A well-formed command. -/
def Instr.wf (i : Instr) : Bool := decide (i.elapsed < 2 ^ 64) && i.operandsOk

end Sys2Proof
end

