-- ==== Sys2Proof/Certificates/Slice0/Obligations.lean ====
section
/-! DEFINITION. The statements for the provers. Each says in its docstring what its Lean says; records are meant by what a command handed to the record merge unit (Emit), outputs by what it sent outside (Out), the completion of a journal command by its Emit.result. -/
section
open Sys2Proof Sys2Proof.Machine

/-- A step is the front command on the state with the rest of the queue; an empty queue idles (95_what_each_step_holds.md).

For every command and every state, a step of the state with that command at the front of its queue is exec of the command on the state with the queue's rest; with no command waiting a step answers the same state. (Where a clause goes beyond the words of the cited rules it is the model's choice: log entries 2, 4.) -/
def Obligations.StepTakesFront : Prop :=
  (∀ (c : Instr) (rest : List Instr) (s : State), step { s with pending := c :: rest } = exec c { s with pending := rest })
    ∧ ∀ s : State, s.pending = [] → step s = .next s

/-- Every command answers a next state that leaves the queue to the step and lets engine time go on (R5, R25, R29).

For every command and every state exec answers a next state; the queue of waiting commands is as before; for every command but COLD_START and POWER_ON_RESET, which may start the count of engine time anew, engine time does not decrease, and while the fast clocks run it goes on by the time that passed at the corrected rate of REF: by exactly that time where no correction holds. (Where a clause goes beyond the words of the cited rules it is the model's choice: log entries 1, 12, 14, 15.) -/
def Obligations.EveryCommandCompletes : Prop :=
  ∀ (c : Instr) (s : State), ∃ t, exec c s = .next t ∧ t.pending = s.pending
    ∧ ((∀ dt m o v a, c ≠ .coldStart dt m o v a) → (∀ dt m o v, c ≠ .powerOnReset dt m o v) →
      s.clock.time ≤ t.clock.time ∧ (s.chip.fast = true → t.clock.time = s.at_ c.elapsed)
        ∧ (s.chip.fast = true → s.chip.safety.refCorr = 0 → s.clock.rest < 65536000000 → t.clock.time = s.clock.time + c.elapsed))

/-- Reset leaves a sound chip with its first record numbered, no command waiting and every register at its reset value (R25, R442, R459).

State.reset is sound: its stores are in their canonical form and it holds as many units of each kind as the block; engine time is 0, the next sequence number is 1, the STATE_CHANGE record of the cold start with number 0 waits for PART_0, no command waits, the state is AWAKE, and each register reads its reset value. (Where the spec gives no reset value the value is the model's choice, log entry 10.) (Where a clause goes beyond the words of the cited rules it is the model's choice: log entries 10, 11.) -/
def Obligations.SoundAtReset : Prop :=
  State.reset.chip.sound = true ∧ State.reset.pending = [] ∧ State.reset.clock.time = 0 ∧ State.reset.merge.nextSeq = 1
    ∧ State.reset.merge.held = [(0, coldRecord)] ∧ State.reset.chip.state = St.awake ∧ State.reset.merge.slotsApart
    ∧ ∀ off, State.reset.chip.reg off = RegMap.resetOf off

/-- Every step keeps the stores canonical and the units of the block complete (R3, R39, R41, R55).

For every state whose chip is sound (register file and both bank sets of the table window in canonical form, and as many ports, lanes, context slots, tiles, stations, axes, channels, masters, partitions, slots, HV channels, zones and thermistors as the block has), if a step answers a next state, that state's chip is sound. -/
def Obligations.SoundKept : Prop :=
  ∀ s t : State, s.chip.sound = true → step s = .next t → t.chip.sound = true

/-- Every step but a cold start only adds sequence numbers, and never uses one below the next (R30, R115, R443).

For every state in which each numbered journal entry's acceptance number lies below the next number to assign and no journal slot is used twice, if the front command is neither COLD_START nor POWER_ON_RESET and the step answers a next state, the next number has not decreased, the same holds of that state's journal, and every numbered entry that is in both states under one acceptance number keeps its slot, tag, partition and opcode. An entry accepted at the present instant is numbered once that instant is over (log entry 148). -/
def Obligations.NumbersGoUp : Prop :=
  let numbered (s : State) (e : JEntry) : Prop := e ∈ s.merge.journal ∧ e.slot ∉ s.chip.eng.accepting
  ∀ s t : State, (∀ e, numbered s e → e.seq < s.merge.nextSeq) → s.merge.slotsApart → (∀ e ∈ s.merge.journal, e.slot < 4096) →
    (∀ c rest, s.pending = c :: rest → (∀ dt m o v a, c ≠ .coldStart dt m o v a) ∧ ∀ dt m o v, c ≠ .powerOnReset dt m o v) →
    step s = .next t → s.merge.nextSeq ≤ t.merge.nextSeq ∧ (∀ e, numbered t e → e.seq < t.merge.nextSeq) ∧ t.merge.slotsApart
      ∧ (∀ e ∈ t.merge.journal, e.slot < 4096)
      ∧ ∀ e x, numbered s e → numbered t x → x.seq = e.seq → (∀ y, numbered s y → y.seq = e.seq → y = e) →
        x.slot = e.slot ∧ x.tag = e.tag ∧ x.part = e.part ∧ x.opcode = e.opcode

/-- An invalidation never removes a locked leaf and reports those it meets (R88).

For every sound chip and partition with no invalidation busy, a GO over a range leaves every locked leaf of the partition in the cache; where the range overlaps one, LOCKED_HIT is set and one XLAT_INVAL_LOCKED event record goes to the partition; where it overlaps none, LOCKED_HIT is clear. -/
def Obligations.LockedLeavesStay : Prop :=
  ∀ (c : Chip) (p : Fin 8) (v : Word), c.sound = true → c.flag (Fld.HOST_PART_INVAL_STATUS_BUSY p) = false → bit v.toNat 31 = true →
    let a := c.pair (Reg.HOST_PART_INVAL_ADDR_LO p) (Reg.HOST_PART_INVAL_ADDR_HI p)
    let size := bits v.toNat 1 0
    let log := if size = 0 then 12 else if size = 1 then 21 else if size = 2 then 30 else 39
    let start := if size = 3 then 0 else a / 2 ^ log * 2 ^ log
    let c' := c.invalidate p v
    (∀ l ∈ c.xlat.cache, l.locks ≠ 0 → l ∈ c'.xlat.cache)
    ∧ ((∃ l ∈ c.xlat.cache, l.part = p.val ∧ l.locks ≠ 0 ∧ l.overlaps start (2 ^ log) = true) →
      c'.flag (Fld.HOST_PART_INVAL_STATUS_LOCKED_HIT p) = true
        ∧ ∃ e : Ev, c'.emits = c.emits ++ [.event e] ∧ e.status = Rc.XLAT_INVAL_LOCKED ∧ e.dest = .part p)
    ∧ ((∀ l ∈ c.xlat.cache, l.part = p.val → l.locks ≠ 0 → l.overlaps start (2 ^ log) = false) →
      c'.flag (Fld.HOST_PART_INVAL_STATUS_LOCKED_HIT p) = false ∧ c'.emits = c.emits)

/-- Nothing that an image channel does suspends a transfer or raises XLAT_FAULT (R93).

For every chip and image channel: its burst, the end of a burst with data or a bus error, and its retry leave the suspended transfers as they were and hand over no XLAT_FAULT event record beyond those already handed over. -/
def Obligations.ImageChannelsNeverSuspend : Prop :=
  ∀ (c : Chip) (q : Port) (k : Fin 8) (now : Nat),
    let mute (c' : Chip) : Prop := c'.xlat.susp = c.xlat.susp ∧ ∀ e : Ev, e.status = Rc.XLAT_FAULT → Emit.event e ∈ c'.emits → Emit.event e ∈ c.emits
    mute (c.imgBurst q k) ∧ (∀ r : Burst, mute (c.dmaComplete now k r)) ∧ mute ((c.imgRetry now k).checkBehind) ∧ mute (c.feedChannel k)

/-- Gate faults, locked rotors, failed observers and failed catches put an axis into FAULT (R301, R306, R308, R309, R312, R313, R314).

For a quiet chip and an axis outside FAULT: GATE_FAULT (cause 3), LOCKED_ROTOR once its timer has run LR_TIMEOUT x 10 ms (cause 1), OBSERVER_FAIL after 20 ms of open loop on an axis that is not page-critical (cause 4) and CATCH_FAIL after CATCH_TIMEOUT x 100 ms in OFFSET_CAL (cause 5) each answer a next state in which the axis stands in FAULT with that cause and the state before it in FAULT_INFO, the cause is noted with its instant for the record that the end of the carrier period writes, its outputs are low, and no register but its STATUS, FAULT_INFO and EVENT changed. (Where a clause goes beyond the words of the cited rules it is the model's choice: log entry 86.) -/
def Obligations.DriveTripsFault : Prop :=
  ∀ (dt : Nat) (a : Fin 12) (s : State), s.chip.quiet = true → s.chip.driveState a ≠ Ds.fault →
    (∃ t, exec (.gateFault dt a) s = .next t ∧ s.driveFaulted t dt a 3)
    ∧ (∀ t0, (s.chip.drive a).lrFrom = some t0 → t0 + s.chip.fld (Fld.DRIVE_LIMITS_LR_TIMEOUT a) * 10000000 ≤ s.at_ dt →
      ∃ t, exec (.lockedRotor dt a) s = .next t ∧ s.driveFaulted t dt a 1)
    ∧ (∀ t0, (s.chip.drive a).openAt = some t0 → (s.chip.drive a).lostObs = true → t0 + 20000000 ≤ s.at_ dt →
      s.chip.flag (Fld.DRIVE_CFG_PAGE_CRIT a) = false → ∃ t, exec (.observerFail dt a) s = .next t ∧ s.driveFaulted t dt a 4)
    ∧ (s.chip.driveState a = Ds.offsetCal →
      (s.chip.drive a).startedAt + s.chip.fld (Fld.DRIVE_CATCH_CATCH_TIMEOUT a) * 100000000 ≤ s.at_ dt →
      ∃ t, exec (.catchFail dt a) s = .next t ∧ s.driveFaulted t dt a 5)

/-- An axis that commutates on Halls faults when they are lost; an axis with an observer changes to it (R304, R307, R313).

For a quiet chip, an axis in RUN whose Halls have been invalid for one electrical period at the last speed and for 10 ms: HALL_LOST answers a next state. With SRC 1 and the Halls in use the axis stands in FAULT with cause 6; with SRC 3 and the Halls in use it stays in RUN, SRC_USED becomes 2, DRIVE.EVENT shows HALL_LOST, and no other register changes. -/
def Obligations.HallsLost : Prop :=
  ∀ (dt : Nat) (a : Fin 12) (s : State) (h t0 : Nat), s.chip.quiet = true → s.chip.driveState a = Ds.run → s.chip.srcUsed a = 1 →
    (s.chip.drive a).hallLost = false → s.chip.hallOf a = some h → (s.chip.hall h).invalidAt = some t0 →
    t0 + max 10000000 (elecPeriod (s.chip.hallLast a)) ≤ s.at_ dt →
    (s.chip.fld (Fld.DRIVE_CFG_SRC a) = 1 → ∃ t, exec (.hallLost dt a) s = .next t ∧ s.driveFaulted t dt a 6)
    ∧ (s.chip.fld (Fld.DRIVE_CFG_SRC a) = 3 → ∃ t, exec (.hallLost dt a) s = .next t ∧ t.chip.driveState a = Ds.run
      ∧ t.chip.srcUsed a = 2 ∧ bit (t.chip.reg (Reg.DRIVE_EVENT a)).toNat (Ev.DRIVE_EVENT_HALL_LOST a).2 = true
      ∧ s.chip.regsBut t.chip [Reg.DRIVE_STATUS a, Reg.DRIVE_EVENT a])

/-- Shunt samples give the phase currents or add to the offset sums; the averages of 64 samples are the offsets (R296, R298, R299, R300, R301, R309, R313).

For a quiet chip and an observer axis in OFFSET_CAL with 64 samples taken: OFFSET_CAL_END answers a next state. When every rounded average lies within 2,048 +- 256 the three offset registers show the averages, the axis stands in CATCHING and its catch began at this instant; when one does not, the axis is in FAULT with cause 8. For a quiet chip: SHUNT_SAMPLE answers a next state. The codes are those corrected for drift. In RUN with an encoder or Hall source, no converted phase beyond I_TRIP and all three phases measured, I_U, I_V and I_W are the codes less the offsets and RECON is 0; with phase U reconstructed, I_U is the negative sum of the other two. In every state but FAULT a phase beyond I_TRIP puts the axis into FAULT with cause 2. In OFFSET_CAL with fewer than 64 samples and none beyond I_TRIP the codes are added to the sums. In DISABLED, and in FAULT once the records of its period are written, with none beyond I_TRIP and in FAULT with one, the sample shows in I_U, I_V and I_W with RECON 0, and neither the state nor any other register changes. (Where a clause goes beyond the words of the cited rules it is the model's choice: log entries 86, 147, 150.) -/
def Obligations.ShuntsAndOffsets : Prop :=
  (∀ (dt : Nat) (a : Fin 12) (s : State) (u v w : Nat), s.chip.quiet = true → s.chip.driveState a = Ds.offsetCal →
    s.chip.fld (Fld.DRIVE_CFG_SRC a) = 2 → (s.chip.drive a).calN = 64 → (s.chip.drive a).calSum = [u, v, w] →
    ∃ t, exec (.offsetCalEnd dt a) s = .next t
      ∧ ((∀ x ∈ [u, v, w], 1792 ≤ (x + 32) / 64 ∧ (x + 32) / 64 ≤ 2304) →
        t.chip.fld (Fld.DRIVE_I_OFFSET_UV_OFF_U a) = (u + 32) / 64 ∧ t.chip.fld (Fld.DRIVE_I_OFFSET_UV_OFF_V a) = (v + 32) / 64
        ∧ t.chip.fld (Fld.DRIVE_I_OFFSET_W_OFF_W a) = (w + 32) / 64 ∧ t.chip.driveState a = Ds.catching
        ∧ (t.chip.drive a).catchAt = some (s.at_ dt))
      ∧ ((∃ x ∈ [u, v, w], (x + 32) / 64 < 1792 ∨ 2304 < (x + 32) / 64) →
        t.chip.driveState a = Ds.fault ∧ t.chip.fld (Fld.DRIVE_FAULT_INFO_CAUSE a) = 8))
  ∧ (∀ (dt : Nat) (a : Fin 12) (u v w : BitVec 12) (s : State), s.chip.quiet = true →
    let code (x : BitVec 12) : Nat := s.chip.corrected (3 + a.val / 2) 12 x.toNat
    let iu : Int := (code u : Int) - s.chip.fld (Fld.DRIVE_I_OFFSET_UV_OFF_U a)
    let iv : Int := (code v : Int) - s.chip.fld (Fld.DRIVE_I_OFFSET_UV_OFF_V a)
    let iw : Int := (code w : Int) - s.chip.fld (Fld.DRIVE_I_OFFSET_W_OFF_W a)
    let trip := s.chip.fld (Fld.DRIVE_ILIM_I_TRIP a)
    ∃ t, exec (.shuntSample dt a u v w) s = .next t
      ∧ (s.chip.driveState a = Ds.run → s.chip.fld (Fld.DRIVE_CFG_SRC a) < 2 → (s.chip.drive a).recon < 2 → (∀ i ∈ [iu, iv, iw], i.natAbs ≤ trip) →
        t.chip.driveState a = Ds.run ∧ t.chip.fldS (Fld.DRIVE_I_UV_I_V a) = iv ∧ t.chip.fldS (Fld.DRIVE_I_W_I_W a) = iw
        ∧ ((s.chip.drive a).recon = 0 → t.chip.fldS (Fld.DRIVE_I_UV_I_U a) = iu ∧ t.chip.fld (Fld.DRIVE_I_W_RECON a) = 0)
        ∧ ((s.chip.drive a).recon = 1 → t.chip.fldS (Fld.DRIVE_I_UV_I_U a) = -(iv + iw) ∧ t.chip.fld (Fld.DRIVE_I_W_RECON a) = 1))
      ∧ (s.chip.driveState a ≠ Ds.fault → (∃ i ∈ [iu, iv, iw], trip < i.natAbs) → s.driveFaulted t dt a 2 [Reg.DRIVE_I_UV a, Reg.DRIVE_I_W a])
      ∧ (s.chip.driveState a = Ds.offsetCal → (s.chip.drive a).calN < 64 → (∀ i ∈ [iu, iv, iw], i.natAbs ≤ trip) →
        (t.chip.drive a).calN = (s.chip.drive a).calN + 1
        ∧ ∀ k < 3, (t.chip.drive a).calSum.getD k 0 = (s.chip.drive a).calSum.getD k 0 + [code u, code v, code w].getD k 0)
      ∧ ((s.chip.driveState a = Ds.disabled ∧ ∀ i ∈ [iu, iv, iw], i.natAbs ≤ trip) ∨ (s.chip.driveState a = Ds.fault ∧ (s.chip.drive a).causes = []) →
        t.chip.driveState a = s.chip.driveState a ∧ t.chip.fldS (Fld.DRIVE_I_UV_I_U a) = iu ∧ t.chip.fldS (Fld.DRIVE_I_UV_I_V a) = iv
        ∧ t.chip.fldS (Fld.DRIVE_I_W_I_W a) = iw ∧ t.chip.fld (Fld.DRIVE_I_W_RECON a) = 0
        ∧ s.chip.regsBut t.chip [Reg.DRIVE_I_UV a, Reg.DRIVE_I_W a]))

/-- A waiting duty set takes effect at the carrier peak, which also writes the records of a faulted period; a braked axis stops after its quiet time (R293, R295, R298, R308, R310, R311, R313).

For a quiet chip: CARRIER_PEAK at a carrier peak of an axis in RUN whose speed is not ramping answers a next state in which a waiting duty set with its reconstructed phase is the set in force, none waits any more, DEPTH_LIM says whether depth limiting shaped it, the six gates follow it and the axis stays in RUN; at an instant that is no peak of the axis nothing changes. At a peak of an axis in FAULT with causes noted, one AXIS_FAULT record for each cause, with the state before the fault and the cause's own instant as its TIME, was raised, none is noted any more, and the axis stays in FAULT. BRAKE_END on an axis in BRAKE whose currents have been small for 50 ms answers a next state in which an axis that brakes to a stop is DISABLED with its outputs low and one that lost its observer is in FAULT with cause 4. (Where a clause goes beyond the words of the cited rules it is the model's choice: log entries 86, 87, 147.) -/
def Obligations.CarrierAndBrakeEnd : Prop :=
  ∀ (dt : Nat) (a : Fin 12) (s : State), s.chip.quiet = true →
    (∀ d r deep, s.chip.atPeak (s.at_ dt) a = true → s.chip.driveState a = Ds.run → (s.chip.drive a).ramping = false →
      (s.chip.drive a).next = some (d, r, deep) →
      ∃ t, exec (.carrierPeak dt a) s = .next t ∧ (t.chip.drive a).duty = d ∧ (t.chip.drive a).recon = r
        ∧ (t.chip.drive a).next = none ∧ t.chip.flag (Fld.DRIVE_STATUS_DEPTH_LIM a) = deep ∧ t.chip.driveState a = Ds.run
        ∧ (t.chip.drive a).gates = ((List.range 3).map fun k => s.chip.phaseGates a k (d.getD k 0)).flatten)
    ∧ (s.chip.atPeak (s.at_ dt) a = false → ∃ t, exec (.carrierPeak dt a) s = .next t ∧ t.chip = s.chip.fresh)
    ∧ (s.chip.atPeak (s.at_ dt) a = true → s.chip.driveState a = Ds.fault → (s.chip.drive a).causes ≠ [] →
      ∃ t, exec (.carrierPeak dt a) s = .next t ∧ t.chip.driveState a = Ds.fault ∧ (t.chip.drive a).causes = []
        ∧ ∀ k u, 1 ≤ k → k ≤ 8 → (s.chip.drive a).causes.find? (fun e => e.1 == k) = some (k, u) →
          t.raised { status := Rc.AXIS_FAULT, tag := a, detail := k + s.chip.fld (Fld.DRIVE_FAULT_INFO_STATE_BEFORE a) * 16, time := some u })
    ∧ (∀ q, s.chip.driveState a = Ds.brake → (s.chip.drive a).quiet = some q → q + 50000000 ≤ s.at_ dt →
      ∃ t, exec (.brakeEnd dt a) s = .next t
        ∧ ((s.chip.drive a).after = 0 → t.chip.driveState a = Ds.disabled ∧ t.drove "DRV" a 0
          ∧ s.chip.regsBut t.chip [Reg.DRIVE_STATUS a])
        ∧ ((s.chip.drive a).after = 2 → s.driveFaulted t dt a 4))

/-- A quadrature step moves count and position by one; a BiSS or SSI frame gives the position or counts as bad (R317, R318, R319, R330).

For a quiet chip and an incremental channel: ENCODER_COUNT answers a next state. Inputs that stood for fewer than FILT + 1 CTL samples leave the channel, its count and its position as they were; otherwise the channel holds the new inputs. On an enabled channel, for one changed input the raw count moved by one in the direction of the pair (reversed by DIR_INV), modulo 2^32, and the position is the count less REF_PHASE; when both inputs changed the count and the position stay, ENC_ERR.QUAD counts and FEEDBACK.EVENT shows QUAD_ERR; when none changed, and on a channel that is not enabled, count and position stay. For a quiet chip and an enabled master: BISS_FRAME_START with no frame running and none ended in the last 20 us answers a next state in which a frame runs from this instant and the clock output is driven. BISS_FRAME_END of a running frame answers a next state in which no frame runs and this instant ended the last one; in plain-binary SSI mode the position registers hold the first DATA_BITS bits, most significant first, REF is set and BAD_RUN is 0; without an answer the position stays, LAST_ERR is 1 and BAD_RUN went up (at most 3). (Where a clause goes beyond the words of the cited rules it is the model's choice: log entries 88, 89.) -/
def Obligations.CountsAndFrames : Prop :=
  (∀ (dt : Nat) (e : Fin 12) (inp : QuadIn) (samples : Nat) (s : State), s.chip.quiet = true → samples ≤ s.chip.fld (Fld.FEEDBACK_ENC_CFG_FILT e) →
    ∃ t, exec (.encoderCount dt e inp samples) s = .next t ∧ t.chip.enc e = s.chip.enc e ∧ t.chip.encCount e = s.chip.encCount e
      ∧ t.chip.encPos e = s.chip.encPos e)
  ∧ (∀ (dt : Nat) (e : Fin 12) (inp : QuadIn) (samples : Nat) (s : State), s.chip.quiet = true → s.chip.fld (Fld.FEEDBACK_ENC_CFG_FILT e) + 1 ≤ samples →
    ∃ t, exec (.encoderCount dt e inp samples) s = .next t ∧ (t.chip.enc e).a = inp.a ∧ (t.chip.enc e).b = inp.b
      ∧ (s.chip.chanOn e = true → ∀ d, quadStep (s.chip.enc e).a (s.chip.enc e).b inp.a inp.b = some d → d ≠ 0 →
        let n := s.chip.encCount e + (if s.chip.flag (Fld.FEEDBACK_ENC_CFG_DIR_INV e) then -d else d)
        t.chip.encCount e = signed 32 (pattern 32 n)
        ∧ t.chip.encPos e = signed 32 (pattern 32 (n - s.chip.fldS (Fld.FEEDBACK_ENC_REF_PHASE_VALUE e))))
      ∧ (s.chip.chanOn e = true → quadStep (s.chip.enc e).a (s.chip.enc e).b inp.a inp.b = none →
        t.chip.encCount e = s.chip.encCount e ∧ t.chip.encPos e = s.chip.encPos e
        ∧ t.chip.fld (Fld.FEEDBACK_ENC_ERR_QUAD e) = min 65535 (s.chip.fld (Fld.FEEDBACK_ENC_ERR_QUAD e) + 1)
        ∧ bit (t.chip.reg Reg.FEEDBACK_EVENT).toNat Ev.FEEDBACK_EVENT_QUAD_ERR.2 = true)
      ∧ (s.chip.chanOn e = false ∨ (inp.a = (s.chip.enc e).a ∧ inp.b = (s.chip.enc e).b) →
        t.chip.encCount e = s.chip.encCount e ∧ t.chip.encPos e = s.chip.encPos e))
  ∧ (∀ (dt : Nat) (b : Fin 4) (s : State), s.chip.quiet = true →
    (s.chip.chanOn (12 + b) = true → (s.chip.bissCh b).frame = none → (∀ t0, (s.chip.bissCh b).lastEnd = some t0 → t0 + 20000 ≤ s.at_ dt) →
      ∃ t, exec (.bissFrameStart dt b) s = .next t ∧ (t.chip.bissCh b).frame = some (s.at_ dt) ∧ t.drove "BISS_MA" b 1
        ∧ s.chip.regsBut t.chip [])
    ∧ (∀ t0 delay frame, (s.chip.bissCh b).frame = some t0 →
      ∃ t, exec (.bissFrameEnd dt b frame delay) s = .next t ∧ (t.chip.bissCh b).frame = none
        ∧ (t.chip.bissCh b).lastEnd = some (s.at_ dt)
        ∧ (∀ l, frame = some l → s.chip.fld (Fld.FEEDBACK_BISS_CFG_MODE b) = 1 →
          t.chip.pair (Reg.FEEDBACK_BISS_POS_LO b) (Reg.FEEDBACK_BISS_POS_HI b)
            = msbNat (l.take (s.chip.fld (Fld.FEEDBACK_BISS_CFG_DATA_BITS b)))
          ∧ t.chip.flag (Fld.FEEDBACK_BISS_STATUS_REF b) = true ∧ t.chip.fld (Fld.FEEDBACK_BISS_STATUS_BAD_RUN b) = 0)
        ∧ (frame = none → t.chip.fld (Fld.FEEDBACK_BISS_STATUS_LAST_ERR b) = 1
          ∧ t.chip.fld (Fld.FEEDBACK_BISS_STATUS_BAD_RUN b) = min 3 (s.chip.fld (Fld.FEEDBACK_BISS_STATUS_BAD_RUN b) + 1)
          ∧ t.chip.pair (Reg.FEEDBACK_BISS_POS_LO b) (Reg.FEEDBACK_BISS_POS_HI b)
            = s.chip.pair (Reg.FEEDBACK_BISS_POS_LO b) (Reg.FEEDBACK_BISS_POS_HI b))))

/-- Runs of slips and of invalid Hall states end in one record each; a quiet channel stands still (R323, R325, R329, R332).

For a quiet chip: SLIP_RUN_END, 1 ms after the last slip of a run, raises one COUNT_SLIP record with the number of slips (at most 65,535) and empties the run; HALL_INVALID_RUN_END, 10 ms after the states became valid, raises one HALL_INVALID record with the number of invalid entries and the last invalid state; neither changes a register. STANDSTILL, ZERO_TIME ms after the last count of an enabled channel, sets STANDSTILL, and the speed reads 0 with no fraction. (Where a clause goes beyond the words of the cited rules it is the model's choice: log entry 89.) -/
def Obligations.FeedbackRunsEnd : Prop :=
  ∀ (dt : Nat) (e : Fin 12) (s : State), s.chip.quiet = true →
    (∀ t0, (s.chip.enc e).lastSlip = some t0 → 0 < (s.chip.enc e).slips → t0 + 1000000 ≤ s.at_ dt →
      ∃ t, exec (.slipRunEnd dt e) s = .next t
        ∧ t.raised { status := Rc.COUNT_SLIP, tag := e, detail := min 65535 (s.chip.enc e).slips }
        ∧ (t.chip.enc e).slips = 0 ∧ (t.chip.enc e).lastSlip = none ∧ s.chip.regsBut t.chip [])
    ∧ (∀ t0, (s.chip.hall e).validAt = some t0 → 0 < (s.chip.hall e).bad → t0 + 10000000 ≤ s.at_ dt →
      ∃ t, exec (.hallInvalidRunEnd dt e) s = .next t
        ∧ t.raised { status := Rc.HALL_INVALID, tag := e, detail := min 65535 (s.chip.hall e).bad + (s.chip.hall e).badState * 65536 }
        ∧ (t.chip.hall e).bad = 0 ∧ s.chip.regsBut t.chip [])
    ∧ (∀ t0, (s.chip.enc e).last = some t0 → s.chip.chanOn e = true →
      t0 + s.chip.fld (Fld.FEEDBACK_ENC_SPD_CFG_ZERO_TIME e) * 1000000 ≤ s.at_ dt →
      ∃ t, exec (.standstill dt e) s = .next t ∧ t.chip.flag (Fld.FEEDBACK_ENC_STATUS_STANDSTILL e) = true
        ∧ t.chip.reg (Reg.FEEDBACK_ENC_SPEED e) = 0 ∧ t.chip.fld (Fld.FEEDBACK_ENC_STATUS_FRAC e) = 0
        ∧ s.chip.regsBut t.chip [Reg.FEEDBACK_ENC_STATUS e, Reg.FEEDBACK_ENC_SPEED e])

/-- The first index references a channel, the speed update shows standstill, a Hall edge shows its state (R304, R319, R323, R324, R327, R329).

For a quiet chip: INDEX_EDGE on an enabled channel with index checking on (IDX_EN, a CPR of 4 or more) that is not referenced answers a next state in which REF is set, REF_PHASE is n mod CPR and the position is n less that. SPEED_UPDATE answers a next state in which every enabled channel that stands still shows speed 0, and the registers SPEED and STATUS of every channel that is not enabled read as before. For a quiet chip: HALL_EDGE of a state that stood for FILT + 1 CTL samples or more on an enabled triplet answers a next state in which HALL_STATE.STATE is the new state; for 000 and 111 the INVALID count went up by one (at most its greatest value), FEEDBACK.EVENT shows HALL_INVALID, no drive axis changed state and no register changed besides but STATUS of the axes (SECTOR, ENC_REF); for a valid state the triplet's place in the order 001, 011, 010, 110, 100, 101 is held. On a triplet that is not enabled neither the triplet, nor an axis's state, nor a register but STATUS of the axes changes; a state that stood for fewer samples changes nothing. (Where a clause goes beyond the words of the cited rules it is the model's choice: log entries 88, 89.) -/
def Obligations.IndexSpeedAndHallEdges : Prop :=
  (∀ (dt : Nat) (s : State), s.chip.quiet = true →
    (∀ e : Fin 12, s.chip.chanOn e = true → s.chip.indexOn e = true → s.chip.flag (Fld.FEEDBACK_ENC_STATUS_REF e) = false →
      ∃ t, exec (.indexEdge dt e) s = .next t ∧ t.chip.flag (Fld.FEEDBACK_ENC_STATUS_REF e) = true
        ∧ t.chip.fldS (Fld.FEEDBACK_ENC_REF_PHASE_VALUE e) = s.chip.encCount e % (s.chip.fld (Fld.FEEDBACK_ENC_CPR_CPR e) : Int)
        ∧ t.chip.encCount e = s.chip.encCount e
        ∧ t.chip.encPos e = signed 32 (pattern 32 (s.chip.encCount e - s.chip.encCount e % (s.chip.fld (Fld.FEEDBACK_ENC_CPR_CPR e) : Int))))
    ∧ (∃ t, exec (.speedUpdate dt) s = .next t ∧ ∀ e < 12,
      (s.chip.chanOn e = true → s.chip.flag (Fld.FEEDBACK_ENC_STATUS_STANDSTILL e) = true → t.chip.reg (Reg.FEEDBACK_ENC_SPEED e) = 0)
      ∧ (s.chip.chanOn e = false → t.chip.reg (Reg.FEEDBACK_ENC_SPEED e) = s.chip.reg (Reg.FEEDBACK_ENC_SPEED e)
        ∧ t.chip.reg (Reg.FEEDBACK_ENC_STATUS e) = s.chip.reg (Reg.FEEDBACK_ENC_STATUS e))))
  ∧ (∀ (dt : Nat) (h : Fin 12) (st : BitVec 3) (samples : Nat) (s : State), s.chip.quiet = true → samples ≤ s.chip.fld (Fld.FEEDBACK_HALL_CFG_FILT h) →
    ∃ t, exec (.hallEdge dt h st samples) s = .next t ∧ t.chip = s.chip.fresh)
  ∧ (∀ (dt : Nat) (h : Fin 12) (st : BitVec 3) (samples : Nat) (s : State), s.chip.quiet = true → s.chip.fld (Fld.FEEDBACK_HALL_CFG_FILT h) + 1 ≤ samples →
    let status := (List.range 12).map Reg.DRIVE_STATUS
    let still (t : State) : Prop := ∀ a < 12, t.chip.driveState a = s.chip.driveState a
    ∃ t, exec (.hallEdge dt h st samples) s = .next t
      ∧ (s.chip.flag (Fld.FEEDBACK_HALL_CFG_EN h) = true → t.chip.fld (Fld.FEEDBACK_HALL_STATE_STATE h) = st.toNat)
      ∧ (s.chip.flag (Fld.FEEDBACK_HALL_CFG_EN h) = true → st = 0 ∨ st = 7 →
        t.chip.fld (Fld.FEEDBACK_HALL_STATE_INVALID h) = min 65535 (s.chip.fld (Fld.FEEDBACK_HALL_STATE_INVALID h) + 1)
        ∧ bit (t.chip.reg Reg.FEEDBACK_EVENT).toNat Ev.FEEDBACK_EVENT_HALL_INVALID.2 = true
        ∧ still t ∧ s.chip.regsBut t.chip ([Reg.FEEDBACK_HALL_STATE h, Reg.FEEDBACK_EVENT] ++ status))
      ∧ (s.chip.flag (Fld.FEEDBACK_HALL_CFG_EN h) = true → ∀ k, [1, 3, 2, 6, 4, 5][k]? = some st.toNat → (t.chip.hall h).index = some k)
      ∧ (s.chip.flag (Fld.FEEDBACK_HALL_CFG_EN h) = false → t.chip.hall h = s.chip.hall h ∧ still t ∧ s.chip.regsBut t.chip status))

/-- A step is one microstep; switch inputs latch and stop; an idle axis falls to its holding current (R339, R340, R345, R346).

For a quiet chip and a Mule axis in a single-axis move with nothing waiting for the step: MULE_STEP answers a next state in which the position moved by one microstep in the axis's direction and no other axis's position changed. At the target the axis is in HOLD with speed 0 and the command it runs ended with OK; elsewhere its state is as before. For a quiet chip: MULE_SWITCH that changes the level of an input answers a next state in which the input's flag is level = polarity and LATCH holds the position of 2 us before. When a limit becomes active in the direction in which a single axis moves (STATE 2, not homing and not yet decelerating), MULE.EVENT shows LIMIT_HIT and the axis decelerates at ESTOP_DEC, to end with LIMIT_HIT. HOLD_DELAY on an axis in HOLD that has not stepped for HOLD_DELAY ms answers a next state in which HOLD_I is set; no register but STATUS changes. (Where a clause goes beyond the words of the cited rules it is the model's choice: log entry 91.) -/
def Obligations.MuleStepsAndInputs : Prop :=
  (∀ (dt : Nat) (m : Fin 16) (s : State), s.chip.quiet = true → (s.chip.mule m).kind = 1 → (s.chip.mule m).group = none →
    (s.chip.mule m).next = [] → (s.chip.mule m).fresh = 0 →
    ∃ t, exec (.muleStep dt m) s = .next t ∧ t.chip.mulePos m = signed 32 (pattern 32 (s.chip.mulePos m + s.chip.muleDir m))
      ∧ (∀ k < 16, k ≠ m.val → t.chip.mulePos k = s.chip.mulePos k)
      ∧ (t.chip.mulePos m = s.chip.fldS (Fld.MULE_TARGET_VALUE m) → t.chip.muleState m = 1 ∧ t.chip.reg (Reg.MULE_SPEED m) = 0
        ∧ ∀ j, (s.chip.mule m).cmd = some j → t.ended j Rc.OK 0)
      ∧ (t.chip.mulePos m ≠ s.chip.fldS (Fld.MULE_TARGET_VALUE m) → t.chip.muleState m = s.chip.muleState m))
  ∧ (∀ (dt : Nat) (m : Fin 16) (s : State), s.chip.quiet = true →
    (∀ level n p, (s.chip.mule m).levels = [!level, n, p] →
      ∃ t, exec (.muleSwitch dt m .home level) s = .next t
        ∧ t.chip.flag (Fld.MULE_STATUS_HOME_IN m) = (level == s.chip.flag (Fld.MULE_CFG_HOME_POL m))
        ∧ t.chip.fldS (Fld.MULE_LATCH_VALUE m) = signed 32 (pattern 32 (s.chip.posAt m (s.at_ dt - 2000))))
    ∧ (∀ h level p, (s.chip.mule m).levels = [h, !level, p] → level = s.chip.flag (Fld.MULE_CFG_LIMN_POL m) →
      s.chip.muleState m = 2 → (s.chip.mule m).kind ≠ 3 → (s.chip.mule m).home = 0 → (s.chip.mule m).leader = none → s.chip.muleDir m = -1 →
      ∃ t, exec (.muleSwitch dt m .limN level) s = .next t ∧ t.chip.flag (Fld.MULE_STATUS_LIMN_IN m) = true
        ∧ bit (t.chip.reg (Reg.MULE_EVENT m)).toNat (Ev.MULE_EVENT_LIMIT_HIT m).2 = true ∧ (t.chip.mule m).kind = 3
        ∧ (t.chip.mule m).dec = s.chip.fld (Fld.MULE_ESTOP_DEC_VALUE m) ∧ (t.chip.mule m).endWith = Rc.LIMIT_HIT)
    ∧ (∀ h n level, (s.chip.mule m).levels = [h, n, !level] → level = s.chip.flag (Fld.MULE_CFG_LIMP_POL m) →
      s.chip.muleState m = 2 → (s.chip.mule m).kind ≠ 3 → (s.chip.mule m).home = 0 → (s.chip.mule m).leader = none → s.chip.muleDir m = 1 →
      ∃ t, exec (.muleSwitch dt m .limP level) s = .next t ∧ t.chip.flag (Fld.MULE_STATUS_LIMP_IN m) = true
        ∧ bit (t.chip.reg (Reg.MULE_EVENT m)).toNat (Ev.MULE_EVENT_LIMIT_HIT m).2 = true ∧ (t.chip.mule m).kind = 3
        ∧ (t.chip.mule m).dec = s.chip.fld (Fld.MULE_ESTOP_DEC_VALUE m) ∧ (t.chip.mule m).endWith = Rc.LIMIT_HIT)
    ∧ (s.chip.muleState m = 1 → (s.chip.mule m).lastStep + s.chip.fld (Fld.MULE_CURRENT_HOLD_DELAY m) * 1000000 ≤ s.at_ dt →
      ∃ t, exec (.holdDelay dt m) s = .next t ∧ t.chip.flag (Fld.MULE_STATUS_HOLD_I m) = true
        ∧ s.chip.regsBut t.chip [Reg.MULE_STATUS m]))

/-- A coil-bus frame sends every axis's set-points and takes the status words in the order of the stages (R335, R336, R337).

For a quiet chip and a chain with an enabled axis: COIL_BUS_FRAME answers a next state in which the set-points of all four axes went out. An enabled axis shows its status word in BUS_STATUS, and a word with an ID other than 0xA5 counts in ID_ERR; one outside FAULT without stall detection whose word carries that ID and no fault bit keeps its state. The status words stand in the order of stages 3, 2, 1, 0. A chain without an enabled axis sends and changes nothing. (Where a clause goes beyond the words of the cited rules it is the model's choice: log entry 133.) -/
def Obligations.CoilBusExchanges : Prop :=
  ∀ (dt : Nat) (chain : Fin 4) (ws : List (BitVec 16)) (s : State), s.chip.quiet = true →
    ∃ t, exec (.coilBusFrame dt chain ws) s = .next t
      ∧ ((∃ k < 4, s.chip.flag (Fld.MULE_CFG_EN (4 * chain.val + k)) = true) →
        ∀ k < 4, let m := 4 * chain.val + k
          let w := (ws.getD (3 - k) 0).toNat
          t.drove "CB_SETPOINT" m (s.chip.coilWord m)
          ∧ (s.chip.flag (Fld.MULE_CFG_EN m) = true → t.chip.fld (Fld.MULE_BUS_STATUS_WORD m) = bits w 12 0
            ∧ (bits w 7 0 ≠ 0xA5 → t.chip.fld (Fld.MULE_BUS_STATUS_ID_ERR m) = min 255 (s.chip.fld (Fld.MULE_BUS_STATUS_ID_ERR m) + 1))
            ∧ (bits w 7 0 = 0xA5 → bits w 12 8 = 0 → s.chip.muleState m ≠ 4 → s.chip.flag (Fld.MULE_CFG_ENC_EN m) = false →
              t.chip.muleState m = s.chip.muleState m)))
      ∧ ((∀ k < 4, s.chip.flag (Fld.MULE_CFG_EN (4 * chain.val + k)) = false) → t.chip = s.chip.fresh)

/-- Axis commands set axes in motion; codes that name no axis are out of range (R300, R309, R339, R340, R344, R345, R418, R419, R420, R421).

For a quiet chip, a Mule axis in HOLD that runs nothing, belongs to no group and is named by none that waits, is not homed and not unidirectional, and a command that its ring lets start: AXIS_MOVE of this one axis to another position, with no limit active that way, answers a next state in which the command began, TARGET is the target and STATE is 2; to the present position it completes with OK. AXIS_JOG at a speed v other than 0 and within VMAX, with no limit active that way, begins with STATE 2 and speed v wanted. AXIS_HOME, with no limit active that way, begins with STATE 3 and HOMED clear, at HOME_VEL in the direction of HOME_DIR. For a quiet chip and a command that its ring lets start: AXIS_JOG with a code that names no axis, AXIS_HOME with one that names no Mule axis and AXIS_MOVE of one axis with such a code complete with ERR_RANGE, the offset of the code as DETAIL, and change no register. AXIS_JOG of drive axis a in DISABLED, with a speed slot that feeds its current block, on an axis that is not page-critical, a target other than 0 and a start that nothing refuses, answers a next state in which the command began, the slot's SETPOINT is the target and the axis is in OFFSET_CAL, or, where its encoder channel is in fault and no Halls are fitted, in FAULT with cause 7. (Where a clause goes beyond the words of the cited rules it is the model's choice: log entries 87, 91.) -/
def Obligations.AxisCommandsAct : Prop :=
  (∀ (dt : Nat) (j : Fin 4096) (e : JEntry) (m : Fin 16) (s : State), s.chip.quiet = true → s.chip.muleState m = 1 →
    (s.chip.mule m).kind = 0 → (s.chip.mule m).leader = none → s.chip.groupOf m = none → s.chip.flag (Fld.MULE_STATUS_HOMED m) = false →
    s.chip.flag (Fld.MULE_CFG_UNIDIR m) = false →
    (s.offers dt j 0x30 e → e.param 0x10 1 = 1 → e.param 0x11 1 = 0x10 + m.val →
      let goal := signed 32 (e.param 0x18 4)
      (goal = s.chip.mulePos m → ∃ t, exec (.axisMove dt j) s = .next t ∧ t.outcome j Rc.OK 0 ∧ t.chip.muleState m = 1)
      ∧ (goal ≠ s.chip.mulePos m → s.chip.limitActive m (goal - s.chip.mulePos m) = false →
        ∃ t, exec (.axisMove dt j) s = .next t ∧ t.began j ∧ t.chip.fldS (Fld.MULE_TARGET_VALUE m) = goal ∧ t.chip.muleState m = 2
          ∧ (t.chip.mule m).kind = 1 ∧ (t.chip.mule m).cmd = some j.val))
    ∧ (s.offers dt j 0x31 e → e.param 0x10 1 = 0x10 + m.val → e.param 0x11 1 = 0 →
      let v := signed 32 (e.param 0x14 4)
      v ≠ 0 → v.natAbs ≤ s.chip.fld (Fld.MULE_VMAX_VALUE m) → s.chip.limitActive m v = false →
      ∃ t, exec (.axisJog dt j) s = .next t ∧ t.began j ∧ t.chip.muleState m = 2 ∧ (t.chip.mule m).kind = 2
        ∧ (t.chip.mule m).jog = v ∧ (t.chip.mule m).cmd = some j.val)
    ∧ (s.offers dt j 0x32 e → e.param 0x10 1 = 0x10 + m.val →
      s.chip.limitActive m (if s.chip.flag (Fld.MULE_HOME_HOME_DIR m) then -1 else 1) = false →
      ∃ t, exec (.axisHome dt j) s = .next t ∧ t.began j ∧ t.chip.muleState m = 3
        ∧ t.chip.flag (Fld.MULE_STATUS_HOMED m) = false ∧ (t.chip.mule m).home = 1
        ∧ (t.chip.mule m).jog = (if s.chip.flag (Fld.MULE_HOME_HOME_DIR m) then -(s.chip.fld (Fld.MULE_HOME_HOME_VEL m) : Int)
          else s.chip.fld (Fld.MULE_HOME_HOME_VEL m))))
  ∧ (∀ (dt : Nat) (j : Fin 4096) (e : JEntry) (s : State), s.chip.quiet = true →
    (s.offers dt j 0x31 e → (0x0B < e.param 0x10 1 ∧ e.param 0x10 1 < 0x10 ∨ 0x1F < e.param 0x10 1) →
      ∃ t, exec (.axisJog dt j) s = .next t ∧ t.outcome j Rc.ERR_RANGE 0x10 ∧ s.chip.regsBut t.chip [])
    ∧ (s.offers dt j 0x32 e → (e.param 0x10 1 < 0x10 ∨ 0x1F < e.param 0x10 1) →
      ∃ t, exec (.axisHome dt j) s = .next t ∧ t.outcome j Rc.ERR_RANGE 0x10 ∧ s.chip.regsBut t.chip [])
    ∧ (s.offers dt j 0x30 e → e.param 0x10 1 = 1 → (e.param 0x11 1 < 0x10 ∨ 0x1F < e.param 0x11 1) →
      ∃ t, exec (.axisMove dt j) s = .next t ∧ t.outcome j Rc.ERR_RANGE 0x11 ∧ s.chip.regsBut t.chip [])
    ∧ (∀ (a : Fin 12) (k : Nat), s.offers dt j 0x31 e → e.param 0x10 1 = a.val → e.param 0x11 1 < 96 →
      let n := e.param 0x11 1
      let w := BitVec.ofNat 32 (e.param 0x14 4)
      s.chip.fld (Fld.WINDLASS_SLOT_CFG_LAW n) = 1 → s.chip.focSlot a = some k →
      s.chip.fld (Fld.WINDLASS_SLOT_IO_REF_SRC k) = 0x90 + n → s.chip.flag (Fld.DRIVE_CFG_PAGE_CRIT a) = false →
      s.chip.wl.owned = false → s.chip.driveState a = Ds.disabled → s.chip.startRefused a = none →
      (s.chip.elecTarget a n w).1 ≠ 0 →
      ∃ t, exec (.axisJog dt j) s = .next t ∧ t.began j ∧ t.chip.reg (Reg.WINDLASS_SETPOINT n) = w
        ∧ (s.chip.sourceLost a = false → t.chip.driveState a = Ds.offsetCal)
        ∧ (s.chip.sourceLost a = true → t.chip.driveState a = Ds.fault ∧ t.chip.fld (Fld.DRIVE_FAULT_INFO_CAUSE a) = 7)))

/-- An unacknowledged frame is sent again after 6 us; an acknowledgement clears the frames up to its SEQ; a KILL run goes on while its cause persists (R271, R272, R279).

For a quiet chip and a link that works: RETX_TIMEOUT, 6 us after the last transmission of the oldest unacknowledged frame, answers a next state in which every frame in flight sent fewer than 8 times was sent once more at this instant and a frame sent 8 times stays as it was. ACK of a frame in flight answers a next state in which, with nothing waiting, exactly the frames after it in the window are still in flight. KILL_REPEAT sends one KILL block, and that block scrambled on the lane, while a KILL cause persists, and nothing otherwise. None of these changes a register but COUNT and EVENT of the tile's link. (Where a clause goes beyond the words of the cited rules it is the model's choice: log entries 73, 146.) -/
def Obligations.RetransmissionAndAcks : Prop :=
  ∀ (dt : Nat) (k : Fin 64) (s : State), s.chip.quiet = true → s.chip.talks k = true →
    (∀ f l, (s.chip.tile k).flight = f :: l → f.at_ + 6000 ≤ s.at_ dt →
      ∃ t, exec (.retxTimeout dt k) s = .next t
        ∧ (t.chip.tile k).flight = (s.chip.tile k).flight.map (fun (g : DnFrame) =>
          if g.copies < 8 then { g with copies := g.copies + 1, at_ := s.at_ dt } else g)
        ∧ s.chip.regsBut t.chip [Reg.TILE_LINK_COUNT k, Reg.TILE_LINK_EVENT k])
    ∧ (∀ seq : BitVec 16, (s.chip.tile k).waiting = [] → (∃ f ∈ (s.chip.tile k).flight, f.seq = seq.toNat) →
      ∃ t, exec (.ack dt k seq false) s = .next t
        ∧ (t.chip.tile k).flight = (s.chip.tile k).flight.filter (fun (g : DnFrame) => decide (32768 ≤ (seq.toNat + 65536 - g.seq) % 65536))
        ∧ s.chip.regsBut t.chip [])
    ∧ (∃ t, exec (.killRepeat dt k) s = .next t ∧ s.chip.regsBut t.chip []
      ∧ ((s.chip.tile k).kill ≠ 0 → t.chip.outs = [Out.block k 0x2D (List.replicate 7 0xA5),
        Out.lane k (laneBlocks (Config.freeNat s.chip.free % 2 ^ 58) [(2, 0x2D :: List.replicate 7 0xA5)])])
      ∧ ((s.chip.tile k).kill = 0 → t.chip.outs = []))

/-- An epoch mark takes the next epoch number and its launch instant; its echo is held with its arrival (R266, R283, R285, R291).

For a quiet chip and a link that works: EPOCH_MARK answers a next state in which the epoch number went up by one modulo 2^32, its launch instant in 1/64 ns is the latest of the 16 held, with the LINK_ASYM that its epoch uses, and, outside IDENT, the mark's block went out, scrambled on the lane as well. ECHO_MARK of a held epoch answers a next state in which its arrival in 1/64 ns is the latest echo held; of an epoch that is not held it changes nothing. Outside IDENT and, for the echo, ALIGN neither changes a register but RT of the tile. (Where a clause goes beyond the words of the cited rules it is the model's choice: log entries 75, 76, 146.) -/
def Obligations.EpochsAndEchoes : Prop :=
  ∀ (dt : Nat) (k sub : Fin 64) (s : State), s.chip.quiet = true → s.chip.talks k = true →
    (∃ t, exec (.epochMark dt k sub) s = .next t ∧ (t.chip.tile k).epoch = ((s.chip.tile k).epoch + 1) % 2 ^ 32
      ∧ (t.chip.tile k).marks.head? = some (((s.chip.tile k).epoch + 1) % 65536, 64 * s.at_ dt + sub.val, s.chip.fldS (Fld.TILE_LINK_ASYM_ASYM k))
      ∧ (s.chip.link k ≠ Lk.ident →
        let mark := leBytes 2 ((s.chip.tile k).epoch + 1) ++ List.replicate 5 0
        t.chip.outs = [Out.block k 0x4B mark, Out.lane k (laneBlocks (Config.freeNat s.chip.free % 2 ^ 58) [(2, 0x4B :: mark)])]
          ∧ s.chip.regsBut t.chip []))
    ∧ (∀ epoch : BitVec 16, (∃ m ∈ (s.chip.tile k).marks, m.1 = epoch.toNat) →
      ∃ t, exec (.echoMark dt k epoch sub) s = .next t
        ∧ (t.chip.tile k).echoes.head? = some (epoch.toNat, 64 * s.at_ dt + sub.val)
        ∧ (s.chip.link k ≠ Lk.ident → s.chip.link k ≠ Lk.align → s.chip.regsBut t.chip [Reg.TILE_LINK_RT k]))
    ∧ (∀ epoch : BitVec 16, (∀ m ∈ (s.chip.tile k).marks, m.1 ≠ epoch.toNat) →
      ∃ t, exec (.echoMark dt k epoch sub) s = .next t ∧ t.chip = s.chip.fresh)

/-- A link fails by its cause and trains again 1 ms later; training that takes 100 ms is reported (R288, R289, R290, R291, R466, R469).

For a quiet chip: LINK_FAIL on a link between IDENT and UP whose condition k of R289 is met answers a next state in which the link is FAILED with LAST_FAIL k, LINK_DOWN is set in the tile's EVENT, one LINK_FAULT record with cause k was raised and KILL cause 3 persists; where no condition is met the state of the link stays. LINK_RETRAIN 1 ms after the failure answers a next state in TRAIN that numbers from 0 in both directions, with one frame in flight, which asks the head for its identity. TRAIN_TIMEOUT of a link that entered TRAIN 100 ms ago, an entry not reported yet, answers a next state with one TILE_MISSING record, step 1 and the link state, unless the tile is missing already, one LINK_FAULT record with cause 7 and TRAIN_SLOW set; just the entries of less than 100 ms ago are left to be reported. (Where a clause goes beyond the words of the cited rules it is the model's choice: log entries 73, 76.) -/
def Obligations.LinksFailAndRetrain : Prop :=
  ∀ (dt : Nat) (k : Fin 64) (s : State), s.chip.quiet = true →
    (∃ t, exec (.linkFail dt k) s = .next t
      ∧ (s.chip.failCause (s.at_ dt) k ≠ 0 → t.chip.link k = Lk.failed
        ∧ t.chip.fld (Fld.TILE_LINK_STATUS_LAST_FAIL k) = s.chip.failCause (s.at_ dt) k
        ∧ bit (t.chip.reg (Reg.TILE_LINK_EVENT k)).toNat (Ev.TILE_LINK_EVENT_LINK_DOWN k).2 = true
        ∧ t.raised { status := Rc.LINK_FAULT, tag := k, detail := s.chip.failCause (s.at_ dt) k }
        ∧ bit (t.chip.tile k).kill 2 = true ∧ (t.chip.tile k).failedAt = some (s.at_ dt))
      ∧ (s.chip.failCause (s.at_ dt) k = 0 → t.chip = s.chip.fresh))
    ∧ (∀ f, s.chip.link k = Lk.failed → (s.chip.tile k).failedAt = some f → f + 1000000 ≤ s.at_ dt →
      ∃ t, exec (.linkRetrain dt k) s = .next t ∧ t.chip.link k = Lk.train ∧ (t.chip.tile k).trainAt = (s.chip.tile k).trainAt ++ [s.at_ dt]
        ∧ (t.chip.tile k).txSeq = 1 ∧ (t.chip.tile k).rxNext = 0
        ∧ (t.chip.tile k).flight = [{ seq := 0, msg := leBytes 1 5 ++ leBytes 1 0 ++ leBytes 2 40 ++ (leBytes 2 0x8000 ++ List.replicate 34 0), copies := 1, at_ := s.at_ dt }]
        ∧ s.chip.regsBut t.chip [Reg.TILE_LINK_STATUS k])
    ∧ ((∃ a ∈ (s.chip.tile k).trainAt, a + 100000000 ≤ s.at_ dt) →
      ∃ t, exec (.trainTimeout dt k) s = .next t ∧ (t.chip.tile k).missing = true
        ∧ (t.chip.tile k).trainAt = (s.chip.tile k).trainAt.filter (fun a => decide (s.at_ dt < a + 100000000))
        ∧ ((s.chip.tile k).missing = false → t.raised { status := Rc.TILE_MISSING, tag := k, detail := 1 + s.chip.link k * 256 })
        ∧ t.raised { status := Rc.LINK_FAULT, tag := k, detail := 7 }
        ∧ bit (t.chip.reg (Reg.TILE_LINK_EVENT k)).toNat (Ev.TILE_LINK_EVENT_TRAIN_SLOW k).2 = true
        ∧ s.chip.regsBut t.chip [Reg.TILE_LINK_STATUS k, Reg.TILE_LINK_EVENT k])

/-- A good frame in sequence is taken, a bad one is discarded and counted; block lock is gained and lost by counts (R268, R269, R271, R272).

For a quiet chip and a link that works: UPLINK_FRAME under block lock with a bad header or CRC adds one to DISCARD, ends the frame that the receiver was in, and changes nothing else; a good sequenced frame is the last one heard at this instant and an acknowledgement goes out; with the SEQ expected the next SEQ is expected, ahead of it that stays and a NAK is owed, behind it both stay. Without block lock a frame changes nothing. UPLINK_BLOCK_LOCK with 64 blocks in succession with valid sync headers, the first of a run, gains lock; with 16 blocks whose sync headers are bad it loses lock, which is timed from this instant, and a frame cut by that counts in DISCARD. (Where a clause goes beyond the words of the cited rules it is the model's choice: log entries 74, 134, 146.) -/
def Obligations.UplinkFrames : Prop :=
  ∀ (dt : Nat) (k : Fin 64) (s : State), s.chip.quiet = true → s.chip.talks k = true →
    (∀ hdr body : List Byte, s.chip.flag (Fld.TILE_LINK_STATUS_UP_LOCK k) = false →
      ∃ t, exec (.uplinkFrame dt k hdr body) s = .next t ∧ t.chip = s.chip.fresh)
    ∧ (∀ hdr body : List Byte, s.chip.flag (Fld.TILE_LINK_STATUS_UP_LOCK k) = true → frameGood hdr body = false →
      ∃ t, exec (.uplinkFrame dt k hdr body) s = .next t
        ∧ t.chip.fld (Fld.TILE_LINK_COUNT_DISCARD k) = min 65535 (s.chip.fld (Fld.TILE_LINK_COUNT_DISCARD k) + 1)
        ∧ t.chip.tiles = (s.chip.updTile k fun x => { x with rx := { x.rx with left := 0 } }).tiles ∧ s.chip.regsBut t.chip [Reg.TILE_LINK_COUNT k])
    ∧ (∀ hdr body : List Byte, s.chip.flag (Fld.TILE_LINK_STATUS_UP_LOCK k) = true → frameGood hdr body = true →
      leNat ((hdr.drop 5).take 1) % 2 = 1 →
      let ahead := (leNat (hdr.take 2) + 65536 - (s.chip.tile k).rxNext) % 65536
      ∃ t, exec (.uplinkFrame dt k hdr body) s = .next t ∧ (t.chip.tile k).lastUp = s.at_ dt
        ∧ (ahead = 0 → (t.chip.tile k).rxNext = ((s.chip.tile k).rxNext + 1) % 65536 ∧ (t.chip.tile k).nak = false)
        ∧ (ahead ≠ 0 → (t.chip.tile k).rxNext = (s.chip.tile k).rxNext
          ∧ (t.chip.tile k).nak = (decide (ahead < 32768) || (s.chip.tile k).nak))
        ∧ (let ack := frameHdr 0 1 (t.chip.tile k) false false
          Out.frame k ack (frameBody ack [] 1) ∈ t.chip.outs)
        ∧ s.chip.regsBut t.chip [Reg.TILE_LINK_COUNT k, Reg.TILE_LINK_EVENT k])
    ∧ (∀ l : List LaneBlock, s.chip.flag (Fld.TILE_LINK_STATUS_UP_LOCK k) = false → (s.chip.tile k).rx.run = 0 → l.length = 64 →
      (∀ b ∈ l, b.sync = 1 ∨ b.sync = 2) →
      ∃ t, exec (.uplinkBlockLock dt k l) s = .next t ∧ t.chip.flag (Fld.TILE_LINK_STATUS_UP_LOCK k) = true
        ∧ (t.chip.tile k).lockLost = none ∧ s.chip.regsBut t.chip [Reg.TILE_LINK_STATUS k])
    ∧ (∀ l : List LaneBlock, s.chip.flag (Fld.TILE_LINK_STATUS_UP_LOCK k) = true → (s.chip.tile k).lockLost = none → l.length = 16 →
      (∀ b ∈ l, b.sync ≠ 1 ∧ b.sync ≠ 2) →
      ∃ t, exec (.uplinkBlockLock dt k l) s = .next t ∧ t.chip.flag (Fld.TILE_LINK_STATUS_UP_LOCK k) = false
        ∧ (t.chip.tile k).lockLost = some (s.at_ dt)
        ∧ t.chip.fld (Fld.TILE_LINK_COUNT_DISCARD k) = min 65535 (s.chip.fld (Fld.TILE_LINK_COUNT_DISCARD k) + b2n ((s.chip.tile k).rx.left != 0))
        ∧ s.chip.regsBut t.chip [Reg.TILE_LINK_STATUS k, Reg.TILE_LINK_COUNT k])

/-- A status of a head shows its fault, KILLED and banks; an unacceptable identity is refused; a hot head is flagged; an unacknowledged bank load is done again (R274, R278, R281, R287, R288, R291).

For a quiet chip and a link that works: HEAD_STATUS with KIND 0, no fault, outside IDENT and of a tile with no bank being loaded answers a next state in which HEAD_STATE shows FAULT 0, KILLED and BANK_VALID as sent. With KIND 1 a link in TRAIN with block lock goes to IDENT and holds the identity, which the next EPOCH_MARK judges: an acceptable one is shown and leads to ALIGN; one that is not, there or sent after IDENT, makes the link REFUSED with LAST_FAIL 6 and one LINK_FAULT record with cause 6. HEAD_TEMP shows up to four temperatures, and HEAD_HOT is set when one lies above TEMP_WARN. BANK_LOAD_TIMEOUT of the only load, 1 ms after its last word and for the first time, answers a next state in which the same bank is being loaded again with one failure counted. (Where a clause goes beyond the words of the cited rules it is the model's choice: log entries 76, 78.) -/
def Obligations.HeadReports : Prop :=
  ∀ (dt : Nat) (k : Fin 64) (s : State), s.chip.quiet = true → s.chip.talks k = true →
    let refused (t : State) : Prop := t.chip.link k = Lk.refused ∧ t.chip.fld (Fld.TILE_LINK_STATUS_LAST_FAIL k) = 6
      ∧ t.raised { status := Rc.LINK_FAULT, tag := k, detail := 6 }
    (∀ b : List Byte, leNat ((b.drop 4).take 1) = 0 → leNat ((b.drop 5).take 1) = 0 → s.chip.link k ≠ Lk.ident → (s.chip.tile k).loads = [] →
      ∃ t, exec (.headStatus dt k b) s = .next t ∧ t.chip.fld (Fld.TILE_HEAD_STATE_FAULT k) = 0
        ∧ t.chip.flag (Fld.TILE_LINK_STATUS_DN_LOCK k) = true
        ∧ t.chip.fld (Fld.TILE_HEAD_STATE_KILLED k) = leNat ((b.drop 6).take 1) % 2
        ∧ t.chip.fld (Fld.TILE_HEAD_STATE_BANK_VALID k) = leNat ((b.drop 6).take 1) / 4 % 16
        ∧ s.chip.regsBut t.chip [Reg.TILE_LINK_STATUS k, Reg.TILE_HEAD_STATE k, Reg.TILE_LINK_RT k])
    ∧ (∀ b : List Byte, leNat ((b.drop 4).take 1) = 1 →
      (s.chip.link k = Lk.train → s.chip.flag (Fld.TILE_LINK_STATUS_UP_LOCK k) = true →
        ∃ t, exec (.headStatus dt k b) s = .next t ∧ t.chip.link k = Lk.ident ∧ (t.chip.tile k).ident = some b)
      ∧ (Lk.ident < s.chip.link k → identityOk b = false → ∃ t, exec (.headStatus dt k b) s = .next t ∧ refused t))
    ∧ (∀ b : List Byte, s.chip.link k = Lk.ident → (s.chip.tile k).ident = some b → ∀ sub,
      ∃ t, exec (.epochMark dt k sub) s = .next t ∧ (identityOk b = false → refused t)
        ∧ (identityOk b = true → (s.chip.tile k).echoes.length < 8 → t.chip.link k = Lk.align
          ∧ ∀ i < 4, t.chip.reg (Reg.TILE_HEAD_ID k i) = BitVec.ofNat 32 (leNat ((b.drop (8 + 4 * i)).take 4))))
    ∧ (∀ temps : List (BitVec 16), temps.length = 4 → ∃ t, exec (.headTemp dt k temps) s = .next t
      ∧ (∀ i < 2, t.chip.fld (Fld.TILE_HEAD_TEMP_TEMP_LO k i) = (temps.getD (2 * i) 0).toNat
        ∧ t.chip.fld (Fld.TILE_HEAD_TEMP_TEMP_HI k i) = (temps.getD (2 * i + 1) 0).toNat)
      ∧ ((∃ v ∈ temps, s.chip.fldS (Fld.TILE_TEMP_WARN_LIMIT k) < v.toInt) →
        bit (t.chip.reg (Reg.TILE_LINK_EVENT k)).toNat (Ev.TILE_LINK_EVENT_HEAD_HOT k).2 = true)
      ∧ ((∀ v ∈ temps, v.toInt ≤ s.chip.fldS (Fld.TILE_TEMP_WARN_LIMIT k)) →
        s.chip.regsBut t.chip [Reg.TILE_HEAD_TEMP k 0, Reg.TILE_HEAD_TEMP k 1]))
    ∧ (∀ (l : BankLoad) (u : Nat), (s.chip.tile k).loads = [l] → l.sentAt = some u → u + 1000000 ≤ s.at_ dt → l.fails = 0 →
      ∃ t, exec (.bankLoadTimeout dt k) s = .next t ∧ s.chip.regsBut t.chip []
        ∧ ∃ n, (t.chip.tile k).loads = [n] ∧ n.bank = l.bank ∧ n.words = l.words ∧ n.fails = 1 ∧ n.acked = false)

/-- The timebase DLLs and REF: bypass, lock, and the safe stop that a lost REF causes (R35, R285, R286, R292, R398).

For a quiet chip: DLL_LOCK_LOST, with a window in which the counts disagree by more than 2 or the detector stayed off centre for 1,024 cycles, of a group that is not on its bypass clock, no link standing in ALIGN, answers a next state in which its eight tiles show bypass and no lock and one LINK_DLL_BYPASS record with cause 1 was raised; with another window it changes nothing; DLL_LOCK_RESTORED of such a group on its bypass clock, with REF present, the reverse with one LINK_DLL_LOCK record when the last 16 windows were locked ones. With fewer than 16 windows, the last one locked, the group shows lock and stays on its bypass clock; with no window, or an unlocked last one, nothing changes. REF_CLOCK_LOST in IDLE answers a next state in which REF counts as lost, one REF_CLOCK_LOST record was raised and the engine is in SAFE_STOP; REF_RESTORED ends the loss and changes no register. (Where a clause goes beyond the words of the cited rules it is the model's choice: log entries 77, 104.) -/
def Obligations.ClocksLostAndRestored : Prop :=
  ∀ (dt : Nat) (g : Fin 8) (s : State), s.chip.quiet = true →
    (s.chip.flag (Fld.TILE_LINK_STATUS_DLL_BYPASS (8 * g.val)) = false → (∀ k < 64, s.chip.link k ≠ Lk.align) →
      ∀ w : DllWindow, w.reference + 2 < w.delayed ∨ w.delayed + 2 < w.reference ∨ 1024 ≤ w.offCycles →
      ∃ t, exec (.dllLockLost dt g w) s = .next t ∧ t.raised { status := Rc.LINK_DLL_BYPASS, detail := g.val + 256 }
        ∧ (∀ i < 8, t.chip.flag (Fld.TILE_LINK_STATUS_DLL_LOCK (8 * g.val + i)) = false
          ∧ t.chip.flag (Fld.TILE_LINK_STATUS_DLL_BYPASS (8 * g.val + i)) = true)
        ∧ ∀ k < 64, k / 8 ≠ g.val → t.chip.reg (Reg.TILE_LINK_STATUS k) = s.chip.reg (Reg.TILE_LINK_STATUS k))
    ∧ (∀ w : DllWindow, w.delayed ≤ w.reference + 2 → w.reference ≤ w.delayed + 2 → w.offCycles < 1024 →
      ∃ t, exec (.dllLockLost dt g w) s = .next t ∧ t.chip = s.chip.fresh)
    ∧ (s.chip.flag (Fld.TILE_LINK_STATUS_DLL_BYPASS (8 * g.val)) = true → s.chip.flag (Fld.TILE_LINK_STATUS_DLL_LOCK (8 * g.val)) = false →
      s.chip.eng.refLost = false → (∀ k < 64, s.chip.link k ≠ Lk.align) →
      ∀ l ws : List DllWindow,
        (ws.length = 16 → (∀ w ∈ ws, w.delayed ≤ w.reference + 2 ∧ w.reference ≤ w.delayed + 2 ∧ w.offset.natAbs ≤ 1) →
          ∃ t, exec (.dllLockRestored dt g (l ++ ws)) s = .next t ∧ t.raised { status := Rc.LINK_DLL_LOCK, detail := g.val }
            ∧ (∀ i < 8, t.chip.flag (Fld.TILE_LINK_STATUS_DLL_LOCK (8 * g.val + i)) = true
              ∧ t.chip.flag (Fld.TILE_LINK_STATUS_DLL_BYPASS (8 * g.val + i)) = false))
        ∧ (∀ w : DllWindow, ws.length < 15 → w.delayed ≤ w.reference + 2 → w.reference ≤ w.delayed + 2 → w.offset.natAbs ≤ 1 →
          ∃ t, exec (.dllLockRestored dt g (ws ++ [w])) s = .next t ∧ (∀ r, ¬ t.raised r)
            ∧ ∀ i < 8, t.chip.flag (Fld.TILE_LINK_STATUS_DLL_LOCK (8 * g.val + i)) = true
              ∧ t.chip.flag (Fld.TILE_LINK_STATUS_DLL_BYPASS (8 * g.val + i)) = true)
        ∧ (∀ w : DllWindow, w.reference + 2 < w.delayed ∨ w.delayed + 2 < w.reference ∨ 1 < w.offset.natAbs →
          ∃ t, exec (.dllLockRestored dt g (ws ++ [w])) s = .next t ∧ t.chip = s.chip.fresh)
        ∧ ∃ t, exec (.dllLockRestored dt g []) s = .next t ∧ t.chip = s.chip.fresh)
    ∧ (s.chip.eng.refLost = false → s.chip.state = St.idle → (∀ k < 64, s.chip.link k ≠ Lk.align) →
      ∃ t, exec (.refClockLost dt) s = .next t ∧ t.chip.eng.refLost = true ∧ t.chip.state = St.safeStop
        ∧ t.raised { status := Rc.REF_CLOCK_LOST, detail := St.idle })
    ∧ (∃ t, exec (.refRestored dt) s = .next t ∧ t.chip.eng.refLost = false ∧ s.chip.regsBut t.chip [])

/-- A waiting mirror starts in its slot at 1/16 of full scale and steps up every 25 ms; one that does not lock is reported and tried again (R467, R468, R469, R470).

For a quiet chip: MIRROR_START of a tile that waits, is due no retry and whose slot has come, with a nominal frequency from 2,000 to 8,000 Hz, answers a next state in which the mirror is driven at that frequency with amplitude 4,096 from this instant; MIRROR_RETRY does the same for a tile that is due one. MIRROR_AMPL_STEP before the first stamped sweep, k x 25 ms after the start at amplitude k x 4,096 below 1/2, answers a next state with 4,096 more. BD_LOCK_TIMEOUT of a driven mirror that has not locked in 2,400 ms answers a next state in which the tile is missing, its drive is off and a retry is due 1 s later. A tile whose mirror is not driven is left as it is by both. (Where a clause goes beyond the words of the cited rules it is the model's choice: log entry 71.) -/
def Obligations.MirrorsStart : Prop :=
  ∀ (dt : Nat) (k : Fin 64) (s : State), s.chip.quiet = true → 2000 ≤ (s.chip.tile k).mirrorNom → (s.chip.tile k).mirrorNom ≤ 8000 →
    let started (t : State) : Prop := (t.chip.tile k).driven = true ∧ (t.chip.tile k).ampl = 4096
      ∧ (t.chip.tile k).freq = (s.chip.tile k).mirrorNom * 65536 ∧ (t.chip.tile k).startAt = some (s.at_ dt)
      ∧ t.chip.eng.lastMirror = some (s.at_ dt) ∧ (t.chip.tile k).locked = false
    (∀ m, s.chip.mirrorWaits k = true → (s.chip.tile k).retryAt = none → s.chip.mirrorSlot k = some m → m ≤ s.at_ dt →
      ∃ t, exec (.mirrorStart dt k) s = .next t ∧ started t)
    ∧ (∀ m, s.chip.mirrorWaits k = true → (s.chip.tile k).retryAt ≠ none → s.chip.mirrorSlot k = some m → m ≤ s.at_ dt →
      ∃ t, exec (.mirrorRetry dt k) s = .next t ∧ started t)
    ∧ (∀ t0, (s.chip.tile k).startAt = some t0 → (s.chip.tile k).driven = true → (s.chip.tile k).stamped = false →
      (s.chip.tile k).ampl < 32768 → t0 + (s.chip.tile k).ampl / 4096 * 25000000 ≤ s.at_ dt →
      ∃ t, exec (.mirrorAmplStep dt k) s = .next t ∧ (t.chip.tile k).ampl = (s.chip.tile k).ampl + 4096 ∧ s.chip.regsBut t.chip [])
    ∧ (∀ t0, (s.chip.tile k).startAt = some t0 → (s.chip.tile k).driven = true → (s.chip.tile k).locked = false →
      t0 + 2400000000 ≤ s.at_ dt →
      ∃ t, exec (.bdLockTimeout dt k) s = .next t ∧ (t.chip.tile k).missing = true ∧ (t.chip.tile k).driven = false
        ∧ (t.chip.tile k).wantStart = true ∧ (t.chip.tile k).retryAt = some (s.at_ dt + 1000000000))
    ∧ ((s.chip.tile k).startAt = none → (∃ t, exec (.mirrorAmplStep dt k) s = .next t ∧ t.chip = s.chip.fresh)
      ∧ ∃ t, exec (.bdLockTimeout dt k) s = .next t ∧ t.chip = s.chip.fresh)

/-- Stamped and missed sweeps are judged; a ready tile plans a sweep three sweeps ahead and refines its trim; the mirror's phase drives its frequency (R189, R190, R195, R196, R202, R220, R371).

For a quiet chip: BD_STAMP of a sweep with both stamps and no plan, on a driven mirror, answers a next state in which the tile has been stamped, its latest mid-instant is the sum of both instants, and SPAN_MEAS shows their difference in 1/64 ns; without one of the stamps BD_MISS is set and the run of misses went up. SWEEP_PLAN of a tile that is ready, not being calibrated and not blanked by a thermal stop, in the beginning sweep j, answers a next state with one blank plan more, for sweep j + 3, shown in SWEEP_NUM; of a tile that does not plan it changes nothing. TRIM_REFINE in the beginning sweep j of a planning tile with an unrefined plan of sweep j + 1 refines it with the predicted position and the trim shifted by the change of the prediction, within the reach of the trim. MIRROR_SENSE of a driven and stamped mirror takes the phase error (16,384 less the phase, over 65,536) as the latest error of its frequency loop. (Where a clause goes beyond the words of the cited rules it is the model's choice: log entries 61, 64, 67.) -/
def Obligations.SweepsStampedAndPlanned : Prop :=
  ∀ (dt : Nat) (k : Fin 64) (s : State), s.chip.quiet = true →
    (∀ (m : BdStamp), (s.chip.tile k).driven = true → (∀ p ∈ (s.chip.tile k).plans, p.sweep ≠ m.sweep) → m.flags < 2 →
      ∃ t, exec (.bdStamp dt k m) s = .next t ∧ (t.chip.tile k).stamped = true ∧ (t.chip.tile k).missRun = 0
        ∧ (t.chip.tile k).lastMid = some (m.sweep, extendTime (s.at_ dt) m.lead + extendTime (s.at_ dt) m.trail)
        ∧ (extendTime (s.at_ dt) m.trail - extendTime (s.at_ dt) m.lead < 2 ^ 24 →
          t.chip.fld (Fld.TILE_SPAN_MEAS_SPAN k (m.flags % 2)) = extendTime (s.at_ dt) m.trail - extendTime (s.at_ dt) m.lead))
    ∧ (∀ (m : BdStamp), (s.chip.tile k).driven = true → (∀ p ∈ (s.chip.tile k).plans, p.sweep ≠ m.sweep) → m.flags = 4 ∨ m.flags = 8 →
      ∃ t, exec (.bdStamp dt k m) s = .next t ∧ (t.chip.tile k).missRun = (s.chip.tile k).missRun + 1
        ∧ bit (t.chip.reg (Reg.TILE_PLACE_EVENT k)).toNat (Ev.TILE_PLACE_EVENT_BD_MISS k).2 = true)
    ∧ (∀ j d m lead, s.chip.planning k = true → (s.chip.refreshSched k).planning k = true → (s.chip.tile k).cal = none → (∀ b ∈ s.chip.safety.blanked, b.1 ≠ k.val) →
      s.chip.sweepAt (s.at_ dt) k = some j → (∀ p ∈ (s.chip.tile k).plans, sweepDist p.sweep (pattern 32 ((j : Int) + 3)) < 0) →
      (s.chip.tile k).dirOf (pattern 32 ((j : Int) + 3)) = some d → (s.chip.tile k).midOf (pattern 32 ((j : Int) + 3)) = some m →
      s.chip.leadOf k (pattern 32 ((j : Int) + 3)) = some lead →
      ∃ t q, exec (.sweepPlan dt k) s = .next t ∧ (t.chip.tile k).plans = (s.chip.tile k).plans ++ [q]
        ∧ q.sweep = pattern 32 ((j : Int) + 3) ∧ q.dir = d ∧ q.mid = m ∧ q.lines = [] ∧ q.blank = true
        ∧ t.chip.fld (Fld.TILE_SWEEP_NUM_SWEEP k) = pattern 32 ((j : Int) + 3))
    ∧ (s.chip.planning k = false → ∃ t, exec (.sweepPlan dt k) s = .next t ∧ t.chip = s.chip.fresh)
    ∧ (∀ j p, s.chip.planning k = true → s.chip.sweepAt (s.at_ dt) k = some j →
      (s.chip.tile k).plans.find? (fun (q : Plan) => q.sweep == pattern 32 ((j : Int) + 1) && !q.refined) = some p →
      ∃ t, exec (.trimRefine dt k) s = .next t ∧ ∃ q ∈ (t.chip.tile k).plans, q.sweep = p.sweep ∧ q.refined = true ∧ q.lines = p.lines
        ∧ q.w = s.chip.predictW (s.chip.stationOf k) (((s.chip.tile k).midOf p.sweep).getD p.mid) p.ripple
        ∧ q.delta = clampI (-trimReach) trimReach (p.delta + posDist p.w q.w))
    ∧ (∀ sweep phase ampl, (s.chip.tile k).driven = true → (s.chip.tile k).stamped = true →
      ∃ t, exec (.mirrorSense dt k sweep phase ampl) s = .next t ∧ (t.chip.tile k).sensed = true
        ∧ (t.chip.tile k).ePhi = some ((F32.ofRatio (16384 - phase.toInt) 65536).getD 0))

/-- Monitor readings are shown; EMITTER_CALIBRATE begins with its preconditions met and ends with its count of failures (R240, R241, R242, R427).

For a quiet chip: MONITOR_PD of a tile that is not being calibrated answers a next state in which its MPD registers show the 12 bits of the readings and no other register changed. EMITTER_CALIBRATE that its ring lets start in PRIMED, with no chain, of tiles that are up and enabled, completes with CAL_PRECONDITION 1 when an interlock channel is open; with nothing that refuses it a calibration of these tiles for this command is under way. CALIBRATION_COMPLETE on a serving chip whose fast clocks run, with one calibration that is not PRIME's, all of whose tiles are done, and none waiting, answers a next state in which its command ended with OK, or with CAL_PARTIAL and the number of failures. (Where a clause goes beyond the words of the cited rules it is the model's choice: log entry 70.) -/
def Obligations.EmittersCalibrated : Prop :=
  ∀ (dt : Nat) (s : State),
    (∀ (k : Fin 64) (sweep : BitVec 32) (codes : List (BitVec 16)), s.chip.quiet = true → (s.chip.tile k).cal = none →
      ∃ t, exec (.monitorPd dt k sweep codes) s = .next t
        ∧ (∀ e < 16, t.chip.fld (Fld.TILE_MPD_VALUE k e) = (codes.getD e 0).toNat % 4096)
        ∧ s.chip.regsBut t.chip ((List.range 16).map fun e => Reg.TILE_MPD k e))
    ∧ (∀ (j : Fin 4096) (e : JEntry), s.chip.quiet = true → s.offers dt j 0x41 e → s.chip.chain = none →
      let tiles := (List.range 64).filter fun k => bit (e.param 0x10 8) k
      (∀ k ∈ tiles, s.chip.tileUp k = true ∧ s.chip.tileOn k = true) →
      (s.chip.flag Fld.SAFETY_STATUS_ILK_A = false ∨ s.chip.flag Fld.SAFETY_STATUS_ILK_B = false →
        ∃ t, exec (.emitterCalibrate dt j) s = .next t ∧ t.ended e.slot Rc.CAL_PRECONDITION 1)
      ∧ (s.chip.calRefusal tiles = 0 → ∃ t, exec (.emitterCalibrate dt j) s = .next t ∧ t.began e.slot
        ∧ ∃ job ∈ t.chip.eng.calJobs, job.slot = e.slot ∧ job.tiles = tiles))
    ∧ (∀ job : CalJob, s.chip.serving = true → s.chip.fast = true → s.chip.eng.calJobs = [job] → job.prime = false → s.chip.eng.calWait = [] →
      (∀ k ∈ job.tiles, s.chip.calDone k = true) →
      ∃ t, exec (.calibrationComplete dt) s = .next t
        ∧ (job.fails = 0 → t.ended job.slot Rc.OK 0)
        ∧ (0 < job.fails → t.ended job.slot Rc.CAL_PARTIAL (min 65535 job.fails)))

/-- Line-scan triggers, lines, time-outs and DLL; a held seam correction is committed (R63, R250, R251, R252, R253, R254, R262).

For a quiet chip with the line-scan port on and nothing being measured: LSCAN_TRIGGER at or after the position of the next trigger, with none outstanding, answers a next state in which LS_TRIG was pulsed, the trigger is outstanding with this instant, its identifier, the belt position and the PIXELS in force, the next one falls one pitch on, and LINE_ID counts. LSCAN_LINE with the framing words, the identifier, as many pixels as PIXELS held at its trigger and their sum modulo 1,024, without bypass, is accepted and no count changed; with another sum it is discarded with cause 4; either way its pixels are the newest capture line. LSCAN_SYNC_TIMEOUT after 100 us discards with cause 1 and LSCAN_LINE_TIMEOUT after 1 ms with cause 6; every discard adds one to BAD, shows its cause and sets LINE_BAD. For a quiet chip: LSCAN_DLL_BYPASS on an enabled port that is not in bypass, or has locked again and not yet left it, answers a next state that shows bypass, no lock and the measured rate, with one LSCAN_DLL_BYPASS record and its event bit; LSCAN_DLL_LOCK shows lock and the rate, and bypass ends at once with no line outstanding, else it stays until the line boundary. SEAM_HELD_COMMIT with a correction held for a partition that holds the class of SEAM writes answers a next state in which nothing is held any more, TXN.GEN counts, and a commit of that partition with exactly the held entries waits for the belt position ahead by the LEAD that its measurement held. (Where a clause goes beyond the words of the cited rules it is the model's choice: log entry 81.) -/
def Obligations.LineScanActs : Prop :=
  (∀ (dt : Nat) (s : State), s.chip.quiet = true → s.chip.lscanOn = true → s.chip.seam.meas = [] →
    let discarded (t : State) (cause : Nat) : Prop := t.chip.fld Fld.SEAM_LSCAN_STATUS_LAST_BAD = cause
      ∧ t.chip.fld Fld.SEAM_LSCAN_COUNT_BAD = min 65535 (s.chip.fld Fld.SEAM_LSCAN_COUNT_BAD + 1)
      ∧ bit (t.chip.reg Reg.SEAM_EVENT).toNat Ev.SEAM_EVENT_LINE_BAD.2 = true
      ∧ s.chip.regsBut t.chip [Reg.SEAM_LSCAN_STATUS, Reg.SEAM_LSCAN_COUNT, Reg.SEAM_EVENT]
    (∀ p, s.chip.seam.nextTrig = some p → beltAtOrAfter s.chip.beltPos p = true → s.chip.seam.outstanding = none →
      ∃ t, exec (.lscanTrigger dt) s = .next t ∧ t.drove "LS_TRIG" 0 1
        ∧ t.chip.seam.outstanding = some (s.at_ dt, s.chip.seam.lineId, s.chip.beltPos) ∧ t.chip.seam.pixels = s.chip.fld Fld.SEAM_LSCAN_CFG_PIXELS
        ∧ t.chip.seam.nextTrig = some (beltAdd p (s.chip.fld Fld.SEAM_LSCAN_TRIG_PITCH))
        ∧ t.chip.fld Fld.SEAM_LSCAN_STATUS_LINE_ID = (s.chip.seam.lineId + 1) % 1024
        ∧ s.chip.regsBut t.chip [Reg.SEAM_LSCAN_STATUS])
    ∧ (∀ (t0 id b : Nat) (px : List (BitVec 16)) (sum : BitVec 16), s.chip.seam.outstanding = some (t0, id, b) → id < 1024 →
      s.chip.seam.gone = false → (∀ x ∈ px, x.toNat < 0x3FF) → px.length = s.chip.seam.pixels →
      s.chip.flag Fld.SEAM_LSCAN_STATUS_BYPASS = false → s.chip.seam.pendLock = false →
      let words : List (BitVec 16) := [0x3FF, 0, 0, 0x2AC, BitVec.ofNat 16 id] ++ px ++ [0x3FF, 0, 0, 0x1F0, sum]
      ∃ t, exec (.lscanLine dt words) s = .next t ∧ t.chip.seam.outstanding = none
        ∧ t.chip.seam.capture.head? = some (id, (px.map (·.toNat)).take 16384)
        ∧ (sum.toNat % 1024 = sumN (px.map (·.toNat)) % 1024 → s.chip.regsBut t.chip [])
        ∧ (sum.toNat % 1024 ≠ sumN (px.map (·.toNat)) % 1024 → discarded t 4))
    ∧ (∀ t0 id b, s.chip.seam.outstanding = some (t0, id, b) → s.chip.seam.gone = false → t0 + 100000 ≤ s.at_ dt →
      ∃ t, exec (.lscanSyncTimeout dt) s = .next t ∧ t.chip.seam.gone = true ∧ discarded t 1)
    ∧ (∀ t0 id b, s.chip.seam.outstanding = some (t0, id, b) → s.chip.seam.gone = false → t0 + 1000000 ≤ s.at_ dt →
      ∃ t, exec (.lscanLineTimeout dt) s = .next t ∧ t.chip.seam.outstanding = none ∧ discarded t 6))
  ∧ (∀ (dt : Nat) (s : State), s.chip.quiet = true →
    (∀ (cause : Fin 4) (mhz : BitVec 8), s.chip.lscanOn = true →
      s.chip.flag Fld.SEAM_LSCAN_STATUS_BYPASS = false ∨ s.chip.flag Fld.SEAM_LSCAN_STATUS_DLL_LOCK = true →
      ∃ t, exec (.lscanDllBypass dt cause mhz) s = .next t ∧ t.chip.flag Fld.SEAM_LSCAN_STATUS_BYPASS = true
        ∧ t.chip.flag Fld.SEAM_LSCAN_STATUS_DLL_LOCK = false ∧ t.chip.fld Fld.SEAM_LSCAN_STATUS_RATE = mhz.toNat
        ∧ t.raised { status := Rc.LSCAN_DLL_BYPASS, detail := cause.val + mhz.toNat * 256 }
        ∧ bit (t.chip.reg Reg.SEAM_EVENT).toNat Ev.SEAM_EVENT_LSCAN_DLL_BYPASS.2 = true
        ∧ s.chip.regsBut t.chip [Reg.SEAM_LSCAN_STATUS, Reg.SEAM_EVENT])
    ∧ (∀ mhz : BitVec 8, s.chip.lscanOn = true →
      ∃ t, exec (.lscanDllLock dt mhz) s = .next t ∧ t.chip.flag Fld.SEAM_LSCAN_STATUS_DLL_LOCK = true
        ∧ t.chip.fld Fld.SEAM_LSCAN_STATUS_RATE = mhz.toNat
        ∧ (s.chip.seam.outstanding = none → t.chip.flag Fld.SEAM_LSCAN_STATUS_BYPASS = false)
        ∧ (s.chip.seam.outstanding ≠ none → t.chip.flag Fld.SEAM_LSCAN_STATUS_BYPASS = s.chip.flag Fld.SEAM_LSCAN_STATUS_BYPASS
          ∧ t.chip.seam.pendLock = true)
        ∧ s.chip.regsBut t.chip [Reg.SEAM_LSCAN_STATUS])
    ∧ (s.chip.seam.held ≠ [] → bit (s.chip.classes s.chip.seam.heldPart) 2 = true →
      ∃ t m, exec (.seamHeldCommit dt) s = .next t ∧ t.chip.seam.held = [] ∧ t.chip.txn.commits = [m]
        ∧ m.part = s.chip.seam.heldPart ∧ m.auto = true ∧ m.fired = false
        ∧ m.entries = s.chip.seam.held.map (fun e => Staged.reg e.1 e.2.1 e.2.2)
        ∧ m.trig = .belt (beltAdd s.chip.beltPos s.chip.seam.heldLead)
        ∧ t.chip.reg Reg.TXN_GEN = BitVec.ofNat 32 (s.chip.txn.gen + 1)))

/-- A sample of a slot that is due gives an output within its limits, or 0 with a record when a value was not finite (R351, R352, R353, R355, R356, R357).

For a quiet chip outside REPLAY and an enabled slot with a law other than field-oriented control, finite output limits in order, a sample due and its turn come: SLOT_SAMPLE answers a next state in which the sample instant is the one that was due and OUT either lies from OUT_MIN to OUT_MAX, or is held at 0 by a high-voltage channel in BREACH, or is 0 with one WL_NONFINITE record for the slot, LOCK clear and its integrator 0. A slot with LAW 0, with nothing due, or not in its turn leaves the chip as it was. (Where a clause goes beyond the words of the cited rules it is the model's choice: log entries 93, 94.) -/
def Obligations.SlotOutputsBounded : Prop :=
  ∀ (dt : Nat) (n : Fin 96) (s : State), s.chip.quiet = true → s.chip.state ≠ St.replay →
    (∀ inst late, s.chip.slotRuns n = true → s.chip.fld (Fld.WINDLASS_SLOT_CFG_LAW n) ≠ 2 → s.chip.slotDue (s.at_ dt) n = some (inst, late) →
      s.chip.slotTurn (s.at_ dt) n = true →
      F32.finite (s.chip.slotReg n 0x24) = true → F32.finite (s.chip.slotReg n 0x28) = true →
      F32.le (s.chip.slotReg n 0x24) (s.chip.slotReg n 0x28) = true →
      ∃ t, exec (.slotSample dt n) s = .next t ∧ (t.chip.slotSt n).lastT = some inst
        ∧ ((F32.le (s.chip.slotReg n 0x24) (t.chip.reg (Reg.WINDLASS_OUT n)) = true
            ∧ F32.le (t.chip.reg (Reg.WINDLASS_OUT n)) (s.chip.slotReg n 0x28) = true)
          ∨ (t.chip.reg (Reg.WINDLASS_OUT n) = 0 ∧ ∃ k < 24, s.chip.fld (Fld.WINDLASS_SLOT_CFG_DEST n) = 0x20 + k
            ∧ s.chip.fld (Fld.WINDLASS_HV_STATUS_STATE k) = 2)
          ∨ (t.chip.reg (Reg.WINDLASS_OUT n) = 0 ∧ t.raised { status := Rc.WL_NONFINITE, detail := n }
            ∧ (t.chip.slotSt n).integ = 0 ∧ t.chip.flag (Fld.WINDLASS_SLOT_STATUS_LOCK n) = false)))
    ∧ (s.chip.slotRuns n = false ∨ s.chip.slotDue (s.at_ dt) n = none ∨ s.chip.slotTurn (s.at_ dt) n = false →
      ∃ t, exec (.slotSample dt n) s = .next t ∧ t.chip = s.chip.fresh)

/-- Conversions of the slow ADC and of high voltage, energy bins, runs of overruns and master copies (R351, R356, R358, R364, R366, R367, R376).

For a quiet chip whose follow input is not its ADC channel: SLOW_ADC_CONVERSION of a voltage channel (0 to 15) answers a next state in which SADC of that channel is the code, corrected for drift, x 1.5 / 65,536, the next channel is due and no other register changed. HV_FEEDBACK_CONVERSION holds voltage and current as the corrected codes times their scales, where these are finite, and adds V x I x 24 us to the bin where that is. HV_ENERGY_BIN, with no page-critical channel, answers a next state in which each enabled channel outside BREACH whose last 100 bins have a finite sum above E_CEIL is in BREACH with its output low and one HV_ENERGY record, and every other channel with a finite sum keeps its state. OVERRUN_RUN_END, 1 ms after the last skipped sample of a run, raises one WL_OVERRUN record with their number. RC_MASTER_COPY of an enabled learning table leaves nothing of it unsaved and the other tables as they were. (Where a clause goes beyond the words of the cited rules it is the model's choice: log entries 95, 97, 150.) -/
def Obligations.ConversionsAndEnergy : Prop :=
  ∀ (dt : Nat) (s : State), s.chip.quiet = true →
    (∀ code : BitVec 16, s.chip.wl.adc < 16 → s.chip.fld Fld.WINDLASS_FOLLOW_CFG_MODE ≠ 3 →
      ∃ t, exec (.slowAdcConversion dt code) s = .next t ∧ t.chip.wl.adc = s.chip.wl.adc + 1
        ∧ t.chip.reg (Reg.WINDLASS_SADC s.chip.wl.adc) = (F32.ofRatio (s.chip.corrected 0 16 code.toNat * 3 : Nat) 131072).getD 0
        ∧ s.chip.regsBut t.chip [Reg.WINDLASS_SADC s.chip.wl.adc])
    ∧ (∀ (k : Fin 24) (v a : BitVec 12), ∃ t, exec (.hvFeedbackConversion dt k v a) s = .next t
      ∧ (∀ x y, (F32.ofScaled (s.chip.corrected 1 12 v.toNat) 0).bind (F32.mul (s.chip.reg (Reg.WINDLASS_HV_SCALE_V k))) = some x →
        (F32.ofScaled (s.chip.corrected 2 12 a.toNat) 0).bind (F32.mul (s.chip.reg (Reg.WINDLASS_HV_SCALE_I k))) = some y →
        (t.chip.wl.hv.getD k {}).v = x ∧ (t.chip.wl.hv.getD k {}).i = y
        ∧ ∀ w, HvSt.addEnergy { s.chip.wl.hv.getD k {} with v := x, i := y } = some w → (t.chip.wl.hv.getD k {}).acc = w)
      ∧ s.chip.regsBut t.chip [Reg.SAFETY_STATUS])
    ∧ ((∀ k < 24, s.chip.flag (Fld.WINDLASS_HV_CFG_PAGE_CRIT k) = false) →
      ∃ t, exec (.hvEnergyBin dt) s = .next t ∧ ∀ k < 24,
        let x := s.chip.wl.hv.getD k {}
        (t.chip.wl.hv.getD k {}).acc = 0 ∧ (t.chip.wl.hv.getD k {}).bins = (x.acc :: x.bins).take 100
        ∧ ∀ sum, hvSum ((x.acc :: x.bins).take 100) = some sum →
        let above : Prop := s.chip.fld (Fld.WINDLASS_HV_STATUS_STATE k) ≠ 2 ∧ s.chip.flag (Fld.WINDLASS_HV_CFG_EN k) = true
          ∧ F32.lt (F32.ofNat (s.chip.fld (Fld.WINDLASS_HV_CEIL_E_CEIL k))) sum = true
        (above → t.chip.fld (Fld.WINDLASS_HV_STATUS_STATE k) = 2 ∧ t.drove "HV_PWM" k 0
          ∧ t.raised { status := Rc.HV_ENERGY, tag := k, detail := satN 0xFFFFFF (F32.floorScaled sum 0).toNat })
        ∧ (¬ above → t.chip.fld (Fld.WINDLASS_HV_STATUS_STATE k) = s.chip.fld (Fld.WINDLASS_HV_STATUS_STATE k)))
    ∧ (∀ (n : Fin 96) (u : Nat), (s.chip.slotSt n).lastSkip = some u → 0 < (s.chip.slotSt n).skips → u + 1000000 ≤ s.at_ dt →
      ∃ t, exec (.overrunRunEnd dt n) s = .next t ∧ (t.chip.slotSt n).skips = 0
        ∧ t.raised { status := Rc.WL_OVERRUN, detail := n + min 65535 (s.chip.slotSt n).skips * 65536 } ∧ s.chip.regsBut t.chip [])
    ∧ (∀ r : Fin 16, s.chip.flag (Fld.WINDLASS_RC_CFG_EN r) = true → s.chip.flag (Fld.WINDLASS_RC_CFG_LEARN r) = true →
      ∃ t, exec (.rcMasterCopy dt r) s = .next t ∧ s.chip.regsBut t.chip []
        ∧ ∀ e : Host.Cell, e ∈ t.chip.wl.unsaved ↔ e ∈ s.chip.wl.unsaved ∧ (e.1 - 0xD0000) / 0x1000 ≠ r.val)

/-- Mains crossings, the follow demand and injections (R361, R362, R369, R373, R376, R425).

For a quiet chip: MAINS_ZERO_CROSSING after a half-period from 7.69 to 11.11 ms answers a next state in which HALF_PERIOD shows it in us, and PRESENT is set by the third such half-period in a row. ZC_LOST, three half-periods after the last valid crossing, clears PRESENT and raises one ZC_LOST record. FOLLOW_UPDATE in MODE 1 or 2 puts the net pulses or counts of its samples in front of the window; the sum of the last FWIN over FWIN, times FOLLOW_SCALE, where finite and not negative, is the demand; FOLLOW_RUN_END, 100 ms below 98 % of the ceiling, closes the runs. LOOP_INJECT of an idle injector into an enabled slot, STEP form, with parameters in range and no page, begins and shows BUSY with its slot; while an injection runs it completes with INJECT_BUSY, and with a slot above 95 with ERR_RANGE and DETAIL 0x10. (Where a clause goes beyond the words of the cited rules it is the model's choice: log entries 96, 99, 100.) -/
def Obligations.MainsFollowAndInjection : Prop :=
  ∀ (dt : Nat) (s : State), s.chip.quiet = true →
    (∀ z, s.chip.wl.zcAt = some z → 7690000 ≤ s.at_ dt - z → s.at_ dt - z ≤ 11110000 →
      ∃ t, exec (.mainsZeroCrossing dt) s = .next t ∧ t.chip.fld Fld.WINDLASS_ZC_STATUS_HALF_PERIOD = (s.at_ dt - z) / 1000
        ∧ t.chip.wl.zcAt = some (s.at_ dt) ∧ t.chip.wl.zcValid = some (s.at_ dt) ∧ t.chip.wl.zcRun = min 3 (s.chip.wl.zcRun + 1)
        ∧ (2 ≤ s.chip.wl.zcRun → t.chip.flag Fld.WINDLASS_ZC_STATUS_PRESENT = true))
    ∧ (∀ z, s.chip.wl.zcValid = some z → s.chip.flag Fld.WINDLASS_ZC_STATUS_PRESENT = true →
      z + 3 * s.chip.fld Fld.WINDLASS_ZC_STATUS_HALF_PERIOD * 1000 ≤ s.at_ dt →
      ∃ t, exec (.zcLost dt) s = .next t ∧ t.chip.flag Fld.WINDLASS_ZC_STATUS_PRESENT = false ∧ t.chip.wl.zcRun = 0
        ∧ t.raised { status := Rc.ZC_LOST, detail := s.chip.fld Fld.WINDLASS_ZC_STATUS_HALF_PERIOD }
        ∧ bit (t.chip.reg Reg.WINDLASS_EVENT).toNat Ev.WINDLASS_EVENT_ZC_LOST.2 = true)
    ∧ (∀ (samples : List QuadIn) (n d q w : Word), s.chip.fld Fld.WINDLASS_FOLLOW_CFG_MODE = 1 ∨ s.chip.fld Fld.WINDLASS_FOLLOW_CFG_MODE = 2 →
      let net := ((samples.map fun i => (i.a, i.b)).foldl (FollowIn.sample (s.chip.fld Fld.WINDLASS_FOLLOW_CFG_MODE)) (s.chip.wl.follow, 0)).2
      let window := (net :: s.chip.wl.follow.window).take 1000
      s.chip.wl.owned = false → F32.ofScaled (sumI (window.take (s.chip.fld Fld.WINDLASS_FOLLOW_CFG_FWIN))) 0 = some n → F32.ofScaled (s.chip.fld Fld.WINDLASS_FOLLOW_CFG_FWIN) 0 = some d →
      F32.div n d = some q → F32.mul q (s.chip.reg Reg.WINDLASS_FOLLOW_SCALE) = some w → F32.lt w 0 = false →
      ∃ t, exec (.followUpdate dt samples) s = .next t ∧ t.chip.wl.demand = w ∧ t.chip.wl.follow.window = window ∧ s.chip.regsBut t.chip [Reg.WINDLASS_FOLLOW_DEMAND])
    ∧ (∀ b, s.chip.wl.below = some b → b + 100000000 ≤ s.at_ dt →
      ∃ t, exec (.followRunEnd dt) s = .next t ∧ t.chip.wl.runs = 0 ∧ s.chip.regsBut t.chip [])
    ∧ (∀ (j : Fin 4096) (e : JEntry), s.offers dt j 0x34 e →
      (95 < e.param 0x10 1 → ∃ t, exec (.loopInject dt j) s = .next t ∧ t.ended e.slot Rc.ERR_RANGE 0x10 ∧ s.chip.regsBut t.chip [])
      ∧ (e.param 0x10 1 ≤ 95 → e.param 0x11 1 ≤ 2 → e.param 0x12 1 = 0 → 0 < e.param 0x18 4 → e.param 0x18 4 ≤ 16777216 →
        F32.finite (BitVec.ofNat 32 (e.param 0x1C 4)) = true → s.chip.slotRuns (e.param 0x10 1) = true →
        (s.chip.wl.inj ≠ none → ∃ t, exec (.loopInject dt j) s = .next t ∧ t.ended e.slot Rc.INJECT_BUSY 0 ∧ s.chip.regsBut t.chip [])
        ∧ (s.chip.wl.inj = none → ∃ t k, exec (.loopInject dt j) s = .next t ∧ t.began e.slot ∧ t.chip.wl.inj = some k
          ∧ k.slot = e.param 0x10 1 ∧ k.n = e.param 0x18 4 ∧ k.amp = BitVec.ofNat 32 (e.param 0x1C 4)
          ∧ t.chip.flag Fld.WINDLASS_INJ_STATUS_BUSY = true ∧ t.chip.fld Fld.WINDLASS_INJ_STATUS_SLOT = e.param 0x10 1
          ∧ s.chip.regsBut t.chip [Reg.WINDLASS_INJ_STATUS])))

/-- An opening interlock cuts lasers and high voltage at once, and stops the engine where it could write; a discrepancy latches (R35, R385, R386, R387, R401).

For a quiet chip: ILK_OPEN of a closed input answers a next state in which that input is open, the cut signal is active, both arms are clear and one INTERLOCK_OPEN record with the open inputs and the state was raised; from PRIMED and PRINTING the engine is in SAFE_STOP, in any other state it stays there. ILK_CLOSE answers a next state in which the input is closed and the cut signal is active exactly if another of its conditions holds, the arms staying as they were. ILK_DISCREPANCY 100 ms after the inputs began to differ latches ILK_DISC, cuts, raises one ILK_DISCREPANCY record and leads into SAFE_STOP. (Where a clause goes beyond the words of the cited rules it is the model's choice: log entries 80, 104, 105.) -/
def Obligations.InterlockOpensAndCloses : Prop :=
  ∀ (dt : Nat) (s : State), s.chip.quiet = true →
    (∀ chB : Bool, s.chip.flag (if chB then Fld.SAFETY_STATUS_ILK_B else Fld.SAFETY_STATUS_ILK_A) = true →
      ∃ t, exec (.ilkOpen dt chB) s = .next t ∧ t.chip.flag (if chB then Fld.SAFETY_STATUS_ILK_B else Fld.SAFETY_STATUS_ILK_A) = false
        ∧ t.chip.flag Fld.SAFETY_STATUS_CUT = true ∧ t.chip.flag Fld.SAFETY_STATUS_LEN_ARM = false
        ∧ t.chip.flag Fld.SAFETY_STATUS_HV_ARM = false ∧ t.chip.flag Fld.SAFETY_STATUS_LEN_OUT = false
        ∧ t.raised { status := Rc.INTERLOCK_OPEN, detail :=
            (if chB then b2n (!s.chip.flag Fld.SAFETY_STATUS_ILK_A) + 2 else 1 + 2 * b2n (!s.chip.flag Fld.SAFETY_STATUS_ILK_B))
              + s.chip.state * 16 }
        ∧ (s.chip.state = St.primed ∨ s.chip.state = St.printing → t.chip.state = St.safeStop)
        ∧ (s.chip.state ≠ St.primed → s.chip.state ≠ St.printing → t.chip.state = s.chip.state))
    ∧ (∃ t, exec (.ilkClose dt false) s = .next t ∧ t.chip.flag Fld.SAFETY_STATUS_ILK_A = true
      ∧ t.chip.flag Fld.SAFETY_STATUS_CUT = (!s.chip.flag Fld.SAFETY_STATUS_ILK_B || s.chip.flag Fld.SAFETY_STATUS_ILK_DISC
        || s.chip.safety.mainLost || s.chip.safety.brown || s.chip.flag Fld.SAFETY_STATUS_TRIP)
      ∧ (t.chip.flag Fld.SAFETY_STATUS_CUT = false → t.chip.flag Fld.SAFETY_STATUS_LEN_ARM = s.chip.flag Fld.SAFETY_STATUS_LEN_ARM
        ∧ t.chip.flag Fld.SAFETY_STATUS_HV_ARM = s.chip.flag Fld.SAFETY_STATUS_HV_ARM) ∧ t.chip.state = s.chip.state)
    ∧ (∀ u, s.chip.safety.differSince = some u → u + 100000000 ≤ s.at_ dt → s.chip.flag Fld.SAFETY_STATUS_ILK_DISC = false →
      ∃ t, exec (.ilkDiscrepancy dt) s = .next t ∧ t.chip.flag Fld.SAFETY_STATUS_ILK_DISC = true
        ∧ t.chip.flag Fld.SAFETY_STATUS_CUT = true ∧ t.chip.state = St.safeStop
        ∧ t.raised { status := Rc.ILK_DISCREPANCY, detail := s.chip.ilkDetail s.chip.state })

/-- Main loss stops the engine, turns the hold-up supply on and every link off; its return, the switch to VBACK, the end of hold-up and the end of the stop (R379, R380, R381, R382, R383, R401).

For a quiet chip with main present: MAIN_LOSS answers a next state in which main counts as lost at this instant, MAIN_OK is clear, the cut signal is active, HOLDUP is on, the engine is in SAFE_STOP, every link is OFF and one MAIN_LOSS record with the inputs that fell and VBACK was raised. VBACK_SWITCHOVER shows the supply in GLOBAL.STATUS and POWER.STATUS and changes no other register. MAIN_RETURN after a loss ends it at this instant and sets MAIN_OK. VBACK_FAILED with main lost takes the device down and makes the next start a cold one. HOLDUP_END of a serving chip with free service channels, 600 ms after a loss that lasts, turns HOLDUP off and takes the device down. STOP_SEQUENCE_FINISHED of a stop whose conditions are met, every record of it written or kept, with no load shed and no reset waiting, ends the stop and changes no register. (Where a clause goes beyond the words of the cited rules it is the model's choice: log entry 106.) -/
def Obligations.MainLostAndReturned : Prop :=
  ∀ (dt : Nat) (s : State),
    (∀ (pfail aonLow : Bool) (vback : BitVec 16), s.chip.quiet = true → s.chip.safety.mainLost = false →
      ∃ t, exec (.mainLoss dt pfail aonLow vback) s = .next t ∧ t.chip.safety.mainLost = true ∧ t.chip.safety.lossAt = s.at_ dt
        ∧ t.chip.flag Fld.POWER_STATUS_MAIN_OK = false ∧ t.chip.flag Fld.SAFETY_STATUS_CUT = true
        ∧ t.chip.flag Fld.POWER_STATUS_HOLDUP = true ∧ t.chip.state = St.safeStop ∧ (∀ k < 64, t.chip.link k = Lk.off)
        ∧ t.raised { status := Rc.MAIN_LOSS, detail := b2n pfail + b2n aonLow * 2 + vback.toNat * 65536 })
    ∧ (∀ toVback : Bool, s.chip.quiet = true → ∃ t, exec (.vbackSwitchover dt toVback) s = .next t
      ∧ t.chip.flag Fld.GLOBAL_STATUS_VBACK_ACTIVE = toVback ∧ t.chip.flag Fld.POWER_STATUS_VBACK_ACTIVE = toVback
      ∧ s.chip.regsBut t.chip [Reg.GLOBAL_STATUS, Reg.POWER_STATUS])
    ∧ (s.chip.quiet = true → s.chip.safety.mainLost = true → ∃ t, exec (.mainReturn dt) s = .next t
      ∧ t.chip.safety.mainLost = false ∧ t.chip.safety.mainSince = some (s.at_ dt) ∧ t.chip.flag Fld.POWER_STATUS_MAIN_OK = true)
    ∧ (s.chip.quiet = true → s.chip.safety.mainLost = true → ∃ t, exec (.vbackFailed dt) s = .next t
      ∧ t.chip.eng.down = true ∧ t.chip.eng.coldNext = true ∧ s.chip.regsBut t.chip [])
    ∧ (s.chip.calm = true → s.chip.serving = true → s.chip.noService = true → s.chip.pages = [] → s.chip.flag Fld.POWER_STATUS_HOLDUP = true →
      s.chip.safety.mainLost = true →
      s.chip.safety.lossAt + 600000000 ≤ s.at_ dt → ∃ t, exec (.holdupEnd dt) s = .next t
      ∧ t.chip.flag Fld.POWER_STATUS_HOLDUP = false ∧ t.chip.eng.down = true ∧ t.drove "VHOLD" 0 0)
    ∧ (s.chip.quiet = true → s.chip.stopFinished = true → s.merge.stopWritten = true → s.chip.eng.shed = false → s.chip.eng.resetPending = false →
      ∃ t, exec (.stopSequenceFinished dt) s = .next t ∧ t.chip.eng.stopping = false ∧ s.chip.regsBut t.chip [])

/-- Discharge, VBACK, brown-out and die temperatures are judged as read (R378, R384, R388, R391, R392, R394).

For a quiet chip: DISCHARGE_CHECK, 100 ms after HV_EN fell, sets DCHG_OK when every channel that takes part is below the limit, and otherwise raises one HV_DISCHARGE_FAIL record with the channels above it and leads into SAFE_STOP. VBACK_LOW shows the reading; in PRIMED or PRINTING the first reading below MIN_RUN raises one VBACK_LOW record with it. BROWN_OUT cuts, drives every motor output low and takes the device down. DIE_TEMP_READ of twelve readings, no sensor suspect and neighbours within 4 C, with less than 1,000 readings so far, shows every reading; MAX_TEMP is the greatest of them at MAX_SENSOR; below the stop limit the state stays, and the first reading at or above the warning limit raises THERMAL_WARN; at 118 C or more TRIP is set, the cut signal is active and the engine is in SAFE_STOP. (Where a clause goes beyond the words of the cited rules it is the model's choice: log entries 106, 107, 110.) -/
def Obligations.SuppliesAndTemperatures : Prop :=
  ∀ (dt : Nat) (s : State), s.chip.quiet = true →
    (∀ u, s.chip.safety.dischargeFrom = some u → u + 100000000 ≤ s.at_ dt →
      ∃ t, exec (.dischargeCheck dt) s = .next t ∧ t.chip.safety.dischargeFrom = none
        ∧ ((∀ k < 24, s.chip.discharged k = true) → t.chip.flag Fld.SAFETY_STATUS_DCHG_OK = true ∧ s.chip.regsBut t.chip [Reg.SAFETY_STATUS])
        ∧ ((∃ k < 24, s.chip.discharged k = false) → t.chip.flag Fld.SAFETY_STATUS_DCHG_OK = false ∧ t.chip.state = St.safeStop
          ∧ t.raised { status := Rc.HV_DISCHARGE_FAIL, detail := maskWhere 24 fun k => !s.chip.discharged k }))
    ∧ (∀ v : BitVec 16, ∃ t, exec (.vbackLow dt v) s = .next t ∧ t.chip.fld Fld.POWER_STATUS_VBACK = v.toNat
      ∧ s.chip.regsBut t.chip [Reg.POWER_STATUS, Reg.SAFETY_EVENT]
      ∧ (v.toNat < s.chip.fld Fld.POWER_VBACK_MIN_MIN_RUN → s.chip.safety.vbackLow = false →
        s.chip.state = St.primed ∨ s.chip.state = St.printing → t.raised { status := Rc.VBACK_LOW, detail := v.toNat }))
    ∧ (∃ t, exec (.brownOut dt) s = .next t ∧ t.chip.eng.down = true ∧ t.chip.flag Fld.SAFETY_STATUS_CUT = true
      ∧ t.chip.flag Fld.SAFETY_STATUS_LEN_ARM = false ∧ t.chip.flag Fld.SAFETY_STATUS_HV_ARM = false ∧ ∀ a < 12, t.drove "DRV" a 0)
    ∧ (∀ temps : List (BitVec 16), temps.length = 12 → (∀ i < 12, s.chip.suspect i = false) → s.chip.safety.history.length < 1000 →
      (∀ i < 12, ((temps.getD i 0).toInt - (temps.getD ((i + 1) % 12) 0).toInt).natAbs ≤ 64) →
      ∃ t, exec (.dieTempRead dt temps) s = .next t ∧ (∀ i < 12, t.chip.dieTemp i = (temps.getD i 0).toInt)
        ∧ (∀ i < 12, (temps.getD i 0).toInt ≤ t.chip.fldS Fld.THERMAL_MAX_TEMP)
        ∧ (temps.getD (t.chip.fld Fld.THERMAL_MAX_SENSOR) 0).toInt = t.chip.fldS Fld.THERMAL_MAX_TEMP
        ∧ ((∀ x ∈ temps, x.toInt < 16 * (s.chip.fld Fld.THERMAL_CFG_STOP : Int) ∧ x.toInt < tripTemp) → t.chip.state = s.chip.state
          ∧ (s.chip.safety.warned = false → (∃ x ∈ temps, 16 * (s.chip.fld Fld.THERMAL_CFG_WARN : Int) ≤ x.toInt) →
            ∃ d, t.raised { status := Rc.THERMAL_WARN, detail := d }))
        ∧ ((∃ x ∈ temps, tripTemp ≤ x.toInt) → s.chip.flag Fld.SAFETY_STATUS_TRIP = false →
          t.chip.flag Fld.SAFETY_STATUS_TRIP = true ∧ t.chip.flag Fld.SAFETY_STATUS_CUT = true ∧ t.chip.state = St.safeStop))

/-- Start-up ends in IDLE; the standby pair takes over; memory errors are counted, recorded or stop the engine (R26, R452, R453, R454, R464, R471, R472).

START_UP_COMPLETE of a start-up whose mirrors are all locked or missing, on a serving chip in AWAKE with nothing else under way, answers a next state in IDLE with start-up over. WAKE_REBUILD_DONE on a serving, rebuilding chip with no service transfer, commit, calibration, PRIME, SLEEP or page ends the rebuilding. For a quiet chip: LOCKSTEP_MISMATCH with a standby pair changes the active pair, leaves no standby and raises one CORE_FAILOVER record; without one both pairs have failed and the engine is in SAFE_STOP. STANDBY_SELF_TEST_END while a failed pair is tested makes it standby exactly if it passed, with one CORE_FAILOVER record; with no test under way it changes nothing. SRAM_CORRECTABLE_ERROR and ROM_PARITY count and change no register. SRAM_UNCORRECTABLE of a table's imaging word marks the instance invalid with effect 2; of retention SRAM it leads into SAFE_STOP with effect 4. (Where a clause goes beyond the words of the cited rules it is the model's choice: log entries 112, 120, 121.) -/
def Obligations.StartUpCoresAndMemories : Prop :=
  ∀ (dt : Nat) (s : State),
    (s.chip.fast = true → s.chip.serving = true → s.chip.noService = true → s.chip.safety.blanking = none → s.chip.eng.starting = true → s.chip.eng.rebuilding = false → s.chip.eng.m0 ≠ none → s.chip.state = St.awake →
      s.chip.noCommit = true → s.chip.pages = [] → s.chip.eng.calJobs = [] → s.chip.eng.prime = none → s.chip.eng.sleepFor = none →
      (∀ k < 64, s.chip.tileOn k = true → (s.chip.tile k).missing = true ∨ (s.chip.tile k).locked = true) →
      ∃ t, exec (.startUpComplete dt) s = .next t ∧ t.chip.state = St.idle ∧ t.chip.eng.starting = false
        ∧ t.raised { status := 0x80, detail := St.awake + St.idle * 16 + Why.startUp * 256 })
    ∧ (s.chip.fast = true → s.chip.serving = true → s.chip.noService = true → s.chip.eng.rebuilding = true → s.chip.noCommit = true → s.chip.eng.calJobs = [] → s.chip.eng.prime = none →
      s.chip.eng.sleepFor = none → s.chip.pages = [] → ∃ t, exec (.wakeRebuildDone dt) s = .next t ∧ t.chip.eng.rebuilding = false)
    ∧ (s.chip.quiet = true →
      (∀ (fromSram : Bool) (resume : Nat),
        (s.chip.eng.standby = true → s.chip.eng.activePair < 2 →
          ∃ t, exec (.lockstepMismatch dt fromSram resume) s = .next t ∧ t.chip.eng.activePair = 1 - s.chip.eng.activePair
            ∧ t.chip.eng.standby = false ∧ s.chip.regsBut t.chip []
            ∧ t.raised { status := Rc.CORE_FAILOVER, detail := (if fromSram then 2 else 1) + (1 - s.chip.eng.activePair) * 16 + min 200 resume * 65536 })
        ∧ (s.chip.eng.standby = false → ∃ t, exec (.lockstepMismatch dt fromSram resume) s = .next t ∧ t.chip.eng.coresFailed = true
            ∧ t.chip.state = St.safeStop ∧ t.raised { status := Rc.CORE_FAILOVER, detail := 5 + s.chip.eng.activePair * 16 }))
      ∧ (∀ pass : Bool, s.chip.eng.testing = false → ∃ t, exec (.standbySelfTestEnd dt pass) s = .next t ∧ t.chip = s.chip.fresh)
      ∧ (∀ pass : Bool, s.chip.eng.testing = true →
        ∃ t, exec (.standbySelfTestEnd dt pass) s = .next t ∧ t.chip.eng.standby = pass ∧ t.chip.eng.testing = false ∧ s.chip.regsBut t.chip []
          ∧ t.raised { status := Rc.CORE_FAILOVER, detail := (if pass then 4 else 3) + s.chip.eng.activePair * 16 + b2n pass * 32 })
      ∧ (∀ m : SramMem, ∃ t, exec (.sramCorrectableError dt m) s = .next t ∧ s.chip.regsBut t.chip []
        ∧ t.chip.eng.eccCount = updAt s.chip.eng.eccCount (memNum m) (· + 1))
      ∧ (∃ t, exec (.romParity dt) s = .next t ∧ t.chip.eng.romParity = s.chip.eng.romParity + 1 ∧ s.chip.regsBut t.chip [])
      ∧ (∀ (off : Word) (inst : Nat), ∃ t, exec (.sramUncorrectable dt .imaging off false (.table inst)) s = .next t
        ∧ inst ∈ t.chip.eng.invalid ∧ t.raised { status := Rc.SRAM_UNCORRECTABLE, tag := off.toNat, detail := 2 * 256 + inst * 65536 }
        ∧ s.chip.regsBut t.chip [])
      ∧ (∀ (off : Word) (owner : SramOwner), ∃ t, exec (.sramUncorrectable dt .retention off false owner) s = .next t
        ∧ t.chip.state = St.safeStop ∧ t.raised { status := Rc.SRAM_UNCORRECTABLE, tag := off.toNat, detail := 2 + 4 * 256 }))

/-- WAKE, SLEEP, IDLE and SAFE_STOP: the state each leads to, and where each is refused (R33, R35, R37, R396, R408, R410).

For a quiet chip and a command of the journal that may start in this state: WAKE completes with OK and changes no register. SLEEP with an open transaction completes with ERR_STATE, its DETAIL holding the state and the transaction bit, and changes no register; with none open it begins and completes with OK, and where its partition can take no record SLEEP is entered at once: every link is OFF, SLEEP_DROP reads 0 and one STATE_CHANGE was raised; where the partition can, SLEEP waits for that record. IDLE from PRIMED clears both arms and leads to IDLE with OK; from SAFE_STOP it is refused with ERR_STATE while a condition of R396 holds, and else leads to IDLE, clears TRIP and completes with OK. SAFE_STOP in SAFE_STOP completes with OK and changes no register; from any other state it begins, disarms, leads to SAFE_STOP and completes with OK. (Where a clause goes beyond the words of the cited rules it is the model's choice: log entries 104, 113, 114.) -/
def Obligations.StateCommandsAct : Prop :=
  ∀ (dt : Nat) (j : Fin 4096) (e : JEntry) (s : State), s.chip.quiet = true →
    (s.offers dt j 0x01 e → ∃ t, exec (.wake dt j) s = .next t ∧ t.ended j Rc.OK 0 ∧ s.chip.regsBut t.chip [])
    ∧ (s.offers dt j 0x02 e → e.posting = .unwritten →
      (s.chip.txn.opens.any Option.isSome = true →
        ∃ t, exec (.sleep dt j) s = .next t ∧ t.ended j Rc.ERR_STATE (s.chip.state + 256) ∧ s.chip.regsBut t.chip [])
      ∧ (s.chip.txn.opens.any Option.isSome = false →
        ∃ t, exec (.sleep dt j) s = .next t ∧ t.began j ∧ t.ended j Rc.OK 0
          ∧ (s.chip.taking e.part = false → t.chip.state = St.sleep ∧ (∀ k < 64, t.chip.link k = Lk.off)
            ∧ t.chip.fld Fld.GLOBAL_SLEEP_DROP_COUNT = 0 ∧ t.raised { status := 0x80, detail := s.chip.state + Why.sleep * 256 })
          ∧ (s.chip.taking e.part = true → t.chip.state = s.chip.state ∧ t.chip.eng.sleepFor = some (j.val, e.part) ∧ s.chip.regsBut t.chip [])))
    ∧ (s.offers dt j 0x04 e →
      (s.chip.state = St.primed → ∃ t, exec (.idle dt j) s = .next t ∧ t.began j ∧ t.ended j Rc.OK 0 ∧ t.chip.state = St.idle
        ∧ t.chip.flag Fld.SAFETY_STATUS_LEN_ARM = false ∧ t.chip.flag Fld.SAFETY_STATUS_HV_ARM = false)
      ∧ (s.chip.state = St.safeStop → s.chip.heldInStop (s.at_ dt) = true →
        ∃ t, exec (.idle dt j) s = .next t ∧ t.ended j Rc.ERR_STATE St.safeStop ∧ s.chip.regsBut t.chip [])
      ∧ (s.chip.state = St.safeStop → s.chip.heldInStop (s.at_ dt) = false →
        ∃ t, exec (.idle dt j) s = .next t ∧ t.began j ∧ t.ended j Rc.OK 0 ∧ t.chip.state = St.idle ∧ t.chip.flag Fld.SAFETY_STATUS_TRIP = false))
    ∧ (s.offers dt j 0x05 e →
      (s.chip.state = St.safeStop → ∃ t, exec (.safeStop dt j) s = .next t ∧ t.ended j Rc.OK 0 ∧ s.chip.regsBut t.chip [])
      ∧ (s.chip.state ≠ St.safeStop → ∃ t, exec (.safeStop dt j) s = .next t ∧ t.began j ∧ t.ended j Rc.OK 0 ∧ t.chip.state = St.safeStop
        ∧ t.chip.flag Fld.SAFETY_STATUS_LEN_ARM = false ∧ t.chip.flag Fld.SAFETY_STATUS_HV_ARM = false
        ∧ t.raised { status := 0x80, detail := s.chip.state + St.safeStop * 16 + Why.safeStop * 256 }))

/-- PRIME checks, begins, and ends in PRIMED or with PRIME_TIMEOUT (R34, R408, R411, R412, R413).

For a quiet chip: PRIME whose first failing check of R411, over TILE.CFG as PRIME reads it, gives a status and a DETAIL completes with them and changes no register; with no failing check and a configured station whose drum slot does not show LOCK it begins, is under way from this instant, and arms lasers and high voltage unless the cut signal is active. For an unhurried chip with no commit and no calibration under way: PRIME_COMPLETE once calibration is done and no high-voltage slot in use lacks LOCK leads to PRIMED with one STATE_CHANGE and completes the command with OK, or with CAL_PARTIAL and the number of emitters that failed. PRIME_TIMEOUT 30 s after the start with a configured station that is not aligned ends the command with PRIME_TIMEOUT and the first such station, and clears both arms, the state staying. (Where a clause goes beyond the words of the cited rules it is the model's choice: log entries 115, 116.) -/
def Obligations.PrimeRuns : Prop :=
  ∀ (dt : Nat) (s : State),
    (∀ (j : Fin 4096) (e : JEntry), s.chip.quiet = true → s.offers dt j 0x03 e →
      let read : Chip := s.chip.each (List.range 64) fun k c => c.latchTile k
      (∀ status detail, read.primeRefused = some (status, detail) →
        ∃ t, exec (.prime dt j) s = .next t ∧ t.ended j status detail ∧ s.chip.regsBut t.chip [] ∧ t.chip.eng.prime = none)
      ∧ (read.primeRefused = none →
        (∃ k < 8, read.configured k = true ∧ s.chip.flag (Fld.WINDLASS_SLOT_STATUS_LOCK (s.chip.fld (Fld.WINDLASS_STN_SLOT_SLOT k))) = false) →
        ∃ t, exec (.prime dt j) s = .next t ∧ t.began j ∧ t.chip.eng.prime = some (j.val, s.at_ dt) ∧ t.chip.state = s.chip.state
          ∧ t.chip.flag Fld.SAFETY_STATUS_LEN_ARM = !s.chip.flag Fld.SAFETY_STATUS_CUT
          ∧ t.chip.flag Fld.SAFETY_STATUS_HV_ARM = !s.chip.flag Fld.SAFETY_STATUS_CUT))
    ∧ (∀ slot t0, s.chip.unhurried = true → s.chip.noCommit = true → s.chip.eng.calJobs = [] → s.chip.eng.prime = some (slot, t0) →
      (s.chip.eng.calDone = true → s.chip.hvUnlocked = none →
        ∃ t, exec (.primeComplete dt) s = .next t ∧ t.chip.state = St.primed ∧ t.chip.eng.prime = none
          ∧ t.raised { status := 0x80, detail := s.chip.state + St.primed * 16 + Why.prime * 256 }
          ∧ (s.chip.eng.primeFails = 0 → t.ended slot Rc.OK 0)
          ∧ (0 < s.chip.eng.primeFails → t.ended slot Rc.CAL_PARTIAL (min 65535 s.chip.eng.primeFails)))
      ∧ (t0 + 30000000000 ≤ s.at_ dt → ∀ k, (s.chip.configuredStations.find? fun k => !(s.chip.stn k).aligned) = some k →
        ∃ t, exec (.primeTimeout dt) s = .next t ∧ t.ended slot Rc.PRIME_TIMEOUT k ∧ t.chip.eng.prime = none ∧ t.chip.state = s.chip.state
          ∧ t.chip.flag Fld.SAFETY_STATUS_LEN_ARM = false ∧ t.chip.flag Fld.SAFETY_STATUS_HV_ARM = false))

/-- REPLAY runs to its end, and the engine returns to IDLE once the mirrors are ready (R36, R404, R414, R486).

For a quiet chip: while a replay goes on that the command of a journal slot started, REPLAY on that slot answers a next state in which the replay has ended; with the port of its partition up, the partition attached with no record of the attach owed, and nothing else ready on the port, the command completed with REPLAY_DIVERGED where re-execution of the recording finds an output that differs, and with OK where it finds none; otherwise the outcome waits with its report. IDLE_AFTER_REPLAY of an ended replay, with every enabled tile locked or missing, leads to IDLE, completes every waiting IDLE command with OK, and leaves no replay. REPLAY whose list address is not a multiple of 16 completes with ERR_RANGE and the offset of that field, the registers staying. (Where a clause goes beyond the words of the cited rules it is the model's choice: log entry 117.) -/
def Obligations.ReplayRunsAndReturns : Prop :=
  ∀ (dt : Nat) (s : State), s.chip.quiet = true →
    (∀ (j : Fin 4096) (mem : HostImg) (r : Replay), s.chip.eng.replay = some r → r.slot = j.val → r.ended = false →
      ∃ t, exec (.replay dt j mem) s = .next t
        ∧ (let q := s.chip.owner r.part
          let goes : Prop := s.chip.portDown q = false ∧ s.chip.attached r.part = true ∧ (s.merge.part r.part).resuming = false
            ∧ s.chip.contended s.merge q r.slot = false
          (goes → t.ended j (if (r.tape.rerun none).found.isSome then Rc.REPLAY_DIVERGED else Rc.OK) 0)
          ∧ (¬ goes → t.chip.eng.reports.length = s.chip.eng.reports.length + 1))
        ∧ (∃ r', t.chip.eng.replay = some r' ∧ r'.ended = true) ∧ t.chip.state = s.chip.state)
    ∧ (∀ r : Replay, s.chip.eng.replay = some r → r.ended = true → s.chip.state = St.replay →
      (∀ k ∈ s.chip.onTiles, (s.chip.tile k).missing = true ∨ (s.chip.tile k).locked = true) →
      ∃ t, exec (.idleAfterReplay dt) s = .next t ∧ t.chip.state = St.idle ∧ t.chip.eng.replay = none
        ∧ (∀ k ∈ s.chip.eng.idleCmds, t.ended k Rc.OK 0) ∧ t.chip.eng.idleCmds = [])
    ∧ (∀ (j : Fin 4096) (mem : HostImg) (e : JEntry), s.chip.eng.replay = none → s.merge.startableOrRetry s.chip j 0x06 = some e →
      (acceptedIn 0x06).contains s.chip.state = true → (s.ctx dt).outranked 0x06 = false → e.param 0x10 8 % 16 ≠ 0 →
      ∃ t, exec (.replay dt j mem) s = .next t ∧ t.ended j Rc.ERR_RANGE 0x10 ∧ s.chip.regsBut t.chip [])

/-- The TAP, the Wellhead's own sensor and the reorder window act on their own state alone (R15, R29, R398, R457, R505).

TAP_INSTRUCTION of a serving chip puts its instruction into effect, EXTEST, CLAMP and HIGHZ acting as BYPASS outside SLEEP, and changes no register; under IDCODE a scan of 32 bits shifts the identification code out, its low bit first, under BYPASS a scan shifts its own bits out, one bit late behind a 0, and under EXTEST in SLEEP the boundary register's update stage takes what the scan left in it. WELLHEAD_SENSOR_READ of a serving chip that sleeps or is held keeps the temperature, corrects the Wellhead time since the reading before it at this temperature and starts a new interval; while the fast clocks run it changes nothing but the passing of time. REORDER_WINDOW_END of a quiet chip enters each tile event whose 16 us have passed with a number of its own, keeps the others, and changes no register. (Where a clause goes beyond the words of the cited rules it is the model's choice: log entries 15, 24, 44.) -/
def Obligations.SmallUnitsAct : Prop :=
  ∀ (dt : Nat) (s : State), s.chip.serving = true →
    (∀ (i : TapInstr) (levels tdi : List Bool), ∃ t, exec (.tapInstruction dt i levels tdi) s = .next t ∧ t.chip.eng.tap = tapCode i ∧ s.chip.regsBut t.chip []
      ∧ t.drove "TAP" 0 (if 3 ≤ tapCode i ∧ s.chip.state ≠ St.sleep then 0 else tapCode i) ∧ t.clock.time = s.at_ dt
      ∧ (i = .idcode → tdi.length = 32 →
        t.chip.outs = Out.pin "TAP" 0 1 :: (List.range 32).map fun k => Out.pin "TDO" 0 (b2n (bit tapIdcode.toNat k)))
      ∧ (i = .bypass → t.chip.outs = Out.pin "TAP" 0 0 :: ((false :: tdi).take tdi.length).map fun b => Out.pin "TDO" 0 (b2n b))
      ∧ (i = .extest → s.chip.state = St.sleep → tdi ≠ [] →
        t.chip.eng.tapHeld = (((List.range boundaryCells.length).map fun k => levels.getD k false) ++ tdi).drop tdi.length))
    ∧ (∀ temp : BitVec 16, ∃ t, exec (.wellheadSensorRead dt temp) s = .next t ∧ t.merge = s.merge
      ∧ (s.chip.fast = true → t.chip = s.chip.fresh ∧ t.clock = s.elapsed dt)
      ∧ (s.chip.fast = false → t.chip.safety.wellTemp = temp.toInt ∧ t.clock.time = s.clock.time ∧ t.clock.slept = s.clock.slept + dt
        ∧ t.clock.sinceRead = 0 ∧ t.clock.corr = s.clock.corr
          - ((s.clock.sinceRead + dt : Nat) : Int) * xtalLimit (xtalPoly (fun i => s.chip.reg (Reg.THERMAL_XTAL_WELL i)) temp.toInt)
        ∧ s.chip.regsBut t.chip [Reg.SAFETY_EVENT]))
    ∧ (s.chip.quiet = true → let due (x : Nat × Nat × Nat × Ev) : Bool := decide (x.2.1 + 16000 ≤ s.at_ dt)
      ∃ t, exec (.reorderWindowEnd dt) s = .next t ∧ s.chip.regsBut t.chip []
        ∧ t.merge.reorder = (s.merge.reorder.filter fun x => !due x)
        ∧ t.merge.nextSeq = s.merge.nextSeq + (s.merge.reorder.filter due).length)

/-- A direct, alias, masked or clear write of the register window does to its register what its access code says, and nothing else (R40, R42, R43, R44, R45, R46, R48, R49, R53).

For a quiet chip with no guarded pair pending: REGISTER_WRITE with every byte enable to a STATION register of RW fields only, by a port that may write it, gives every field the bits written and changes no other register; an aligned 8-byte write to two such registers does the same for each half; without every byte enable a 4-byte write changes nothing; by a port that no partition lets write it the register keeps its word, GLOBAL.ERR_EVENT shows the violation and only the ERR registers change. BIT_ALIAS_WRITE to such a register sets exactly the aliased bit to bit 0 of the value. MASKED_WRITE of GLOBAL.PWR_CTL by the port of PART_0, up, changes exactly the bits that its mask selects. SQ_CLEAR_WRITE of a sequence-clear register clears bits 23 to 0 when it carries the present SEQ and changes nothing when it does not. (Where a clause goes beyond the words of the cited rules it is the model's choice: log entries 17, 138.) -/
def Obligations.RegisterWritesTake : Prop :=
  ∀ (dt : Nat) (q : Port) (v : Word) (s : State), s.chip.quiet = true → s.chip.guards = [] →
    (∀ (off : BitVec 28) (r : RegSpec) (ix : List Nat), 0x100000 ≤ off.toNat → off.toNat < 0x180000 → RegMap.find off.toNat = some (r, ix) →
      r.fields.all (fun f => f.acc == .rw) = true → s.chip.attrib q r.priv ix ≠ none →
      ∃ t, exec (.registerWrite dt q off v 15 none) s = .next t ∧ s.chip.regsBut t.chip [off.toNat]
        ∧ ∀ f ∈ r.fields, bits (t.chip.reg off.toNat).toNat f.hi f.lo = bits v.toNat f.hi f.lo)
    ∧ (∀ (off : BitVec 28) (w : Word) (r r' : RegSpec) (ix ix' : List Nat), 0x100000 ≤ off.toNat → off.toNat + 4 < 0x180000 → off.toNat % 8 = 0 →
      RegMap.find off.toNat = some (r, ix) → RegMap.find (off.toNat + 4) = some (r', ix') →
      r.fields.all (fun f => f.acc == .rw) = true → r'.fields.all (fun f => f.acc == .rw) = true →
      s.chip.attrib q r.priv ix ≠ none → s.chip.attrib q r'.priv ix' ≠ none →
      ∃ t, exec (.registerWrite dt q off v 15 (some (w, 15))) s = .next t ∧ s.chip.regsBut t.chip [off.toNat, off.toNat + 4]
        ∧ (∀ f ∈ r.fields, bits (t.chip.reg off.toNat).toNat f.hi f.lo = bits v.toNat f.hi f.lo)
        ∧ ∀ f ∈ r'.fields, bits (t.chip.reg (off.toNat + 4)).toNat f.hi f.lo = bits w.toNat f.hi f.lo)
    ∧ (∀ (off : BitVec 28) (be : BitVec 4), be ≠ 15 → ∃ t, exec (.registerWrite dt q off v be none) s = .next t ∧ t.chip = s.chip.fresh)
    ∧ (∀ (off : BitVec 28) (r : RegSpec) (ix : List Nat), off.toNat < aliasBase → RegMap.find off.toNat = some (r, ix) → s.chip.attrib q r.priv ix = none →
      ∃ t, exec (.registerWrite dt q off v 15 none) s = .next t
        ∧ bit (t.chip.reg Reg.GLOBAL_ERR_EVENT).toNat Err.priv = true ∧ t.chip.reg Reg.GLOBAL_ERR_LAST_ADDR = BitVec.ofNat 32 off.toNat
        ∧ s.chip.regsBut t.chip [Reg.GLOBAL_ERR_EVENT, Reg.GLOBAL_ERR_FIRST_ADDR, Reg.GLOBAL_ERR_FIRST_INFO, Reg.GLOBAL_ERR_LAST_ADDR, Reg.GLOBAL_ERR_LAST_INFO])
    ∧ (∀ (target b : Nat) (r : RegSpec) (ix : List Nat), 0x100000 ≤ target → target < 0x180000 → b < 32 → RegMap.find target = some (r, ix) →
      r.fields.all (fun f => f.acc == .rw) = true → s.chip.attrib q r.priv ix ≠ none → (∃ f ∈ r.fields, f.lo ≤ b ∧ b ≤ f.hi) →
      ∃ t, exec (.bitAliasWrite dt q (BitVec.ofNat 28 (aliasBase + target * 32 + 4 * b)) v) s = .next t ∧ s.chip.regsBut t.chip [target]
        ∧ ∀ k < 32, bit (t.chip.reg target).toNat k = (if k = b then bit v.toNat 0 else bit (s.chip.reg target).toNat k))
    ∧ (s.chip.attrib q .master [] ≠ none → ∃ t, exec (.maskedWrite dt q (BitVec.ofNat 28 Reg.GLOBAL_PWR_CTL) v) s = .next t ∧ s.chip.regsBut t.chip [Reg.GLOBAL_PWR_CTL]
      ∧ ∀ k < 16, bit (t.chip.fld Fld.GLOBAL_PWR_CTL_QUAD_EN) k
        = (if bit v.toNat (16 + k) then bit v.toNat k else bit (s.chip.fld Fld.GLOBAL_PWR_CTL_QUAD_EN) k))
    ∧ (∀ (off : BitVec 28) (r : RegSpec) (ix : List Nat), off.toNat < aliasBase → RegMap.find off.toNat = some (r, ix) → r.seqClear = true →
      s.chip.attrib q r.priv ix ≠ none →
      ∃ t, exec (.sqClearWrite dt q off v) s = .next t ∧ s.chip.regsBut t.chip [off.toNat, Reg.GLOBAL_ERR_LAST_INFO]
        ∧ (bits v.toNat 31 24 = bits (s.chip.reg off.toNat).toNat 31 24 → bits (t.chip.reg off.toNat).toNat 23 0 = 0
          ∧ bits (t.chip.reg off.toNat).toNat 31 24 = bits (s.chip.reg off.toNat).toNat 31 24)
        ∧ (bits v.toNat 31 24 ≠ bits (s.chip.reg off.toNat).toNat 31 24 → t.chip.reg off.toNat = s.chip.reg off.toNat))

/-- A guarded register changes only by a word and its complement in time (R47, R50, R53).

For a quiet chip and a port that may write a guarded register: GUARD_FIRST_WRITE with no pair pending changes no register and leaves the word pending for the unit block. GUARDED_PAIR_WRITE to the next word within 64 us, with a value whose bits outside the fields are 0, on a register other than RESET_CTL that is not locked and holds no duty cap: with the complement the register takes the word, with anything else it keeps its own and the captured fault has cause 2; the pair is over either way. GUARD_TIMEOUT after 64 us discards the pending word with cause 3; none of these faults changes a register outside the ERR registers. (Where a clause goes beyond the words of the cited rules it is the model's choice: log entry 19.) -/
def Obligations.GuardedPairsTake : Prop :=
  ∀ (dt : Nat) (q : Port) (s : State), s.chip.quiet = true →
    let errs := [Reg.GLOBAL_ERR_EVENT, Reg.GLOBAL_ERR_FIRST_ADDR, Reg.GLOBAL_ERR_FIRST_INFO, Reg.GLOBAL_ERR_LAST_ADDR, Reg.GLOBAL_ERR_LAST_INFO]
    (∀ (off : BitVec 28) (v : Word) (r : RegSpec) (ix : List Nat), off.toNat < aliasBase → s.chip.guards = [] → RegMap.find off.toNat = some (r, ix) →
      r.guarded = true → s.chip.attrib q r.priv ix ≠ none →
      ∃ t, exec (.guardFirstWrite dt q off v) s = .next t ∧ s.chip.regsBut t.chip []
        ∧ t.chip.guards = [⟨unitOf off.toNat, off.toNat, v, q, s.at_ dt⟩])
    ∧ (∀ (a : Nat) (v w : Word) (q1 : Port) (t0 : Nat) (r : RegSpec) (ix : List Nat), RegMap.find a = some (r, ix) → r.guarded = true →
      a ≠ Reg.GLOBAL_RESET_CTL → r.base ≠ Reg.STATION_CEIL_DUTY 0 → s.chip.attrib q r.priv ix ≠ none → s.chip.lockedField r.base ix 0 = false →
      s.chip.guards = [⟨unitOf a, a, v, q1, t0⟩] → s.at_ dt ≤ t0 + 64000 → v.toNat &&& (2 ^ 32 - 1 - r.fieldMask) = 0 →
      ∃ t, exec (.guardedPairWrite dt q (BitVec.ofNat 28 (a + 4)) w) s = .next t ∧ t.chip.guards = []
        ∧ (w = ~~~v → t.chip.reg a = v ∧ s.chip.regsBut t.chip [a])
        ∧ (w ≠ ~~~v → s.chip.regsBut t.chip errs ∧ t.chip.fld Fld.GLOBAL_ERR_LAST_INFO_CAUSE = 2))
    ∧ (∀ (off : BitVec 28) (g : GuardPend), s.chip.guards = [g] → g.off = off.toNat → g.at_ + 64000 < s.at_ dt →
      ∃ t, exec (.guardTimeout dt off) s = .next t ∧ t.chip.guards = [] ∧ s.chip.regsBut t.chip errs
        ∧ bit (t.chip.reg Reg.GLOBAL_ERR_EVENT).toNat Err.guard = true ∧ t.chip.fld Fld.GLOBAL_ERR_LAST_INFO_CAUSE = 3)

/-- PART_OWNER enables a partition but moves none that is enabled; WAKE, or the byte 0x01 over I2C, wakes the block from SLEEP and does nothing otherwise (R33, R72, R80, R472).

For a quiet chip with no guarded pair pending, by the port of PART_0: PART_OWNER_WRITE that selects the ENABLE bit of a partition enables it and changes no other bit; one that would move an enabled partition changes nothing in PART_OWNER and sets the violation. WAKE_REGISTER_WRITE outside SLEEP leaves the chip as it was, and I2C_WAKE there does so but for its pointer, which stands at WAKE; in SLEEP, on a serving chip with power and nothing under way, WAKE_REGISTER_WRITE with bit 0 set and I2C_WAKE with 0x01 lead to AWAKE with the rebuilding of imaging SRAM begun. (Where a clause goes beyond the words of the cited rules it is the model's choice: log entries 7, 20, 21.) -/
def Obligations.OwnersAndWakes : Prop :=
  ∀ (dt : Nat) (q : Port) (v : Word) (s : State),
    (s.chip.quiet = true → s.chip.guards = [] → s.chip.attrib q .master [] ≠ none → ∀ p, 0 < p → p < 8 →
      (∃ t, exec (.partOwnerWrite dt q (BitVec.ofNat 32 (2 ^ (8 + p) + 2 ^ (24 + p)))) s = .next t ∧ t.chip.enabled p = true
        ∧ (∀ k < 8, t.chip.owner k = s.chip.owner k ∧ (k ≠ p → k ≠ 0 → t.chip.enabled k = s.chip.enabled k))
        ∧ s.chip.regsBut t.chip [Reg.GLOBAL_PART_OWNER])
      ∧ (s.chip.enabled p = true →
        ∃ t, exec (.partOwnerWrite dt q (BitVec.ofNat 32 (2 ^ (16 + p) + (if s.chip.owner p = .a then 2 ^ p else 0)))) s = .next t
          ∧ (∀ k < 8, t.chip.owner k = s.chip.owner k) ∧ bit (t.chip.reg Reg.GLOBAL_ERR_EVENT).toNat Err.priv = true))
    ∧ (s.chip.quiet = true → s.chip.guards = [] → (∃ t, exec (.wakeRegisterWrite dt q v) s = .next t ∧ t.chip = s.chip.fresh)
      ∧ ∀ byte, ∃ t, exec (.i2cWake dt byte) s = .next t ∧ t.chip = s.chip.fresh.updEng fun g => { g with i2cPtr := 5 })
    ∧ (s.chip.state = St.sleep → s.chip.eng.down = false → s.chip.serving = true → s.chip.noService = true → s.chip.calm = true → s.chip.pages = [] → s.chip.guards = [] →
      (bit v.toNat 0 = true → ∃ t, exec (.wakeRegisterWrite dt q v) s = .next t ∧ t.chip.state = St.awake ∧ t.chip.eng.starting = true
        ∧ t.chip.eng.rebuilding = true)
      ∧ ∃ t, exec (.i2cWake dt 1) s = .next t ∧ t.chip.state = St.awake ∧ t.chip.eng.starting = true ∧ t.chip.eng.rebuilding = true)

/-- Writes that enable, rearm, clear and trigger act on their units (R243, R288, R339, R343, R367, R372, R387, R470, R478, R480, R488).

For a still, serving chip whose fast clocks run and whose service channels are free, with no guarded pair pending and a port that may write: TILE_ENABLE_WRITE of a disabled tile whose link is OFF and whose quad is powered begins training, of an enabled tile clears the enable and turns its link OFF. HV_REARM takes a channel out of BREACH to the state its holders give. ILK_CLEAR with both inputs closed clears the latched discrepancy and leaves the cut signal to its other conditions. SUMP_TRIG while the recorder waits triggers it with cause 11. SUMP_RD_WRITE of the HI word moves the read pointer within what was written and is refused with RD_ERR behind it. MULE_ENABLE_WRITE brings a DISABLED axis to HOLD. MULE_PROFILE_WRITE takes a value from 1 to 2,000,000 and refuses 0. SLOT_ENABLE_WRITE of an enabled slot with another law than 0 is refused with cause 2, with LAW 0 the slot stops when it feeds no drive axis. (Where a clause goes beyond the words of the cited rules it is the model's choice: log entries 22, 79, 101.) -/
def Obligations.UnitsTakeWrites : Prop :=
  ∀ (dt : Nat) (q : Port) (v : Word) (s : State), s.chip.sound = true → s.chip.still = true → s.chip.fast = true → s.chip.serving = true →
    s.chip.noService = true → s.chip.guards = [] →
    (∀ k : Fin 64, s.chip.attrib q .master [] ≠ none → (s.chip.tileOn k = false → s.chip.link k = Lk.off → s.chip.quadOn k = true → bit v.toNat 0 = true →
        ∃ t, exec (.tileEnableWrite dt q k v) s = .next t ∧ t.chip.tileOn k = true ∧ t.chip.link k = Lk.train ∧ (t.chip.tile k).trainAt = (s.chip.tile k).trainAt ++ [s.at_ dt])
      ∧ (s.chip.tileOn k = true → bit v.toNat 0 = false →
        ∃ t, exec (.tileEnableWrite dt q k v) s = .next t ∧ t.chip.tileOn k = false ∧ t.chip.link k = Lk.off))
    ∧ (s.chip.attrib q (.cls 1) [] ≠ none →
      (∀ k : Fin 24, s.chip.fld (Fld.WINDLASS_HV_STATUS_STATE k) = 2 → bit v.toNat 0 = true →
        ∃ t, exec (.hvRearm dt q k v) s = .next t ∧ s.chip.regsBut t.chip [Reg.WINDLASS_HV_STATUS k]
          ∧ t.chip.fld (Fld.WINDLASS_HV_STATUS_STATE k) = (if s.chip.flag (Fld.WINDLASS_HV_CFG_EN k) then
              (if s.chip.flag Fld.SAFETY_STATUS_HV_EN then 1 else 3) else 0))
      ∧ (∀ m : Fin 16, s.chip.muleState m = 0 → s.chip.flag (Fld.MULE_CFG_EN m) = false → bit v.toNat 0 = true →
        ∃ t, exec (.muleEnableWrite dt q m v) s = .next t ∧ t.chip.muleState m = 1 ∧ t.chip.flag (Fld.MULE_CFG_EN m) = true
          ∧ t.chip.mulePos m = s.chip.mulePos m)
      ∧ (∀ (m : Fin 16) (w : Profile), let off := match w with
            | .vmax => Reg.MULE_VMAX m
            | .acc => Reg.MULE_ACC m
            | .dec => Reg.MULE_DEC m
          ∃ t, exec (.muleProfileWrite dt q m w v) s = .next t
          ∧ (1 ≤ v.toNat → v.toNat ≤ 2000000 → t.chip.reg off = v ∧ s.chip.regsBut t.chip [off])
          ∧ (v = 0 → t.chip.reg off = s.chip.reg off ∧ bit (t.chip.reg (Reg.MULE_EVENT m)).toNat (Ev.MULE_EVENT_CFG_ERR m).2 = true))
      ∧ (∀ n : Fin 96, s.chip.slotRuns n = true →
        (bits v.toNat 2 0 ≠ 0 → ∃ t, exec (.slotEnableWrite dt q n v) s = .next t ∧ t.chip.reg (Reg.WINDLASS_SLOT_CFG n) = s.chip.reg (Reg.WINDLASS_SLOT_CFG n)
          ∧ t.chip.fld Fld.WINDLASS_CFG_ERR_INFO_CAUSE = 2 ∧ t.chip.fld Fld.WINDLASS_CFG_ERR_INFO_SLOT = n.val)
        ∧ (v = BitVec.ofNat 32 0xFF000000 → 12 ≤ s.chip.fld (Fld.WINDLASS_SLOT_CFG_DEST n) →
          ∃ t, exec (.slotEnableWrite dt q n v) s = .next t ∧ t.chip.slotRuns n = false)))
    ∧ (s.chip.attrib q .master [] ≠ none → s.chip.flag Fld.SAFETY_STATUS_ILK_A = true → s.chip.flag Fld.SAFETY_STATUS_ILK_B = true → bit v.toNat 0 = true →
      ∃ t, exec (.ilkClear dt q v) s = .next t ∧ t.chip.flag Fld.SAFETY_STATUS_ILK_DISC = false
        ∧ t.chip.flag Fld.SAFETY_STATUS_CUT = (s.chip.safety.mainLost || s.chip.safety.brown || s.chip.flag Fld.SAFETY_STATUS_TRIP))
    ∧ (s.chip.attrib q (.cls 2) [] ≠ none →
      (s.chip.fld Fld.SUMP_STATUS_STATE = 1 → bit v.toNat 0 = true →
        ∃ t, exec (.sumpTrig dt q v) s = .next t ∧ t.chip.fld Fld.SUMP_STATUS_STATE = 2 ∧ t.chip.fld Fld.SUMP_STATUS_TRIG_CAUSE = 11
          ∧ t.chip.sump.trigAt = some (s.at_ dt))
      ∧ (s.chip.owner (s.chip.fld Fld.SUMP_STATUS_PART) = q → s.chip.sump.rd < 2 ^ 64 →
        let new := (s.chip.reg Reg.SUMP_RD_LO).toNat + v.toNat * 2 ^ 32
        ∃ t, exec (.sumpRdWrite dt q true v) s = .next t
          ∧ (s.chip.sump.rd ≤ new → new ≤ s.chip.pair Reg.SUMP_WR_LO Reg.SUMP_WR_HI → t.chip.sump.rd = new)
          ∧ (new < s.chip.sump.rd → t.chip.sump.rd = s.chip.sump.rd
            ∧ bit (t.chip.reg Reg.SUMP_EVENT).toNat Ev.SUMP_EVENT_RD_ERR.2 = true)))

/-- A word written to the shadow half of the table window lies in the shadow bank alone; the active half refuses it; the copy after a switch makes the banks equal (R54, R55, R56, R57, R58).

For a quiet chip and a port that may write tables: TABLE_WINDOW_WRITE of one word that lies whole in an instance that neither waits for a switch nor is being copied reads back from the shadow bank, the active bank and every register as before; to the active half it leaves both banks and sets the table fault with cause 1. TABLE_COPY_DONE with nothing held makes every byte of the instance in the shadow bank equal to the active one and ends the copy. -/
def Obligations.TablesTake : Prop :=
  ∀ (dt : Nat) (s : State), s.chip.quiet = true →
    (∀ (q : Port) (off : BitVec 24) (w : Word), s.chip.attrib q (.cls 2) [] ≠ none → off.toNat % 4 = 0 →
      (off.toNat < 0x800000 → s.chip.tableHit off.toNat = .shadow → (∀ i < 4, tableAt (off.toNat + i) ≠ none) →
        ∃ t, exec (.tableWindowWrite dt q off [w]) s = .next t ∧ t.chip.tabNat false off.toNat 4 = w.toNat
          ∧ t.chip.active = s.chip.active ∧ s.chip.regsBut t.chip []
          ∧ ∀ a, a < off.toNat ∨ off.toNat + 4 ≤ a → t.chip.tabByte false a = s.chip.tabByte false a)
      ∧ (s.chip.tableHit off.toNat = .active →
        ∃ t, exec (.tableWindowWrite dt q off [w]) s = .next t ∧ t.chip.active = s.chip.active ∧ t.chip.shadow = s.chip.shadow
          ∧ bit (t.chip.reg Reg.GLOBAL_ERR_EVENT).toNat Err.busy = true ∧ t.chip.fld Fld.GLOBAL_ERR_LAST_INFO_CAUSE = 1))
    ∧ (∀ inst : BitVec 16, s.chip.txn.copying = [(inst.toNat, [])] →
      ∃ t, exec (.tableCopyDone dt inst) s = .next t ∧ t.chip.txn.copying = [] ∧ t.chip.active = s.chip.active ∧ s.chip.regsBut t.chip []
        ∧ ∀ r ∈ tableRanges inst.toNat, ∀ a, r.1 ≤ a → a < r.1 + r.2 → t.chip.tabByte false a = t.chip.tabByte true a)

/-- ATTACH latches the geometry of an enabled partition whose port is up; roots and invalidations act on the cached leaves of their partition alone (R87, R88, R89, R100, R101, R104).

For a quiet chip with no guarded pair pending and the port of the partition: PARTITION_ATTACH with bit 0 set, of an enabled, detached partition whose port is up and whose geometry has legal sizes, attaches it and latches that geometry; with the port down it stays detached. XLAT_ROOT_APPLY makes the pair of root registers the root and leaves no unlocked leaf of the partition cached, the leaves of the others as they were. XLAT_INVALIDATE of everything sets BUSY and does the same to the leaves; XLAT_INVALIDATE_DONE, once no burst that was in flight at GO still is, clears BUSY and changes no other register; before, it changes nothing. (Where a clause goes beyond the words of the cited rules it is the model's choice: log entries 34, 35, 43.) -/
def Obligations.PartitionsAttachAndTranslate : Prop :=
  ∀ (dt : Nat) (q : Port) (p : Fin 8) (v : Word) (s : State), s.chip.quiet = true → s.chip.guards = [] → s.chip.owner p = q →
    let cleared (t : State) : Prop := (∀ l ∈ t.chip.xlat.cache, l ∈ s.chip.xlat.cache ∧ (l.part = p.val → l.locks ≠ 0))
      ∧ ∀ l ∈ s.chip.xlat.cache, l.part ≠ p.val ∨ l.locks ≠ 0 → l ∈ t.chip.xlat.cache
    (bit v.toNat 0 = true → s.chip.enabled p = true → s.chip.attached p = false →
      (s.chip.portDown q = false → s.merge.parts.length = 8 → (s.merge.part p).geom = none → (s.chip.geometry p).bad = false →
        ∃ t, exec (.partitionAttach dt q p v) s = .next t ∧ t.chip.attached p = true ∧ (t.merge.part p).geom = some (s.chip.geometry p))
      ∧ (s.chip.portDown q = true → ∃ t, exec (.partitionAttach dt q p v) s = .next t ∧ t.chip.attached p = false))
    ∧ (∃ t, exec (.xlatRootApply dt q p v) s = .next t ∧ cleared t
      ∧ t.chip.xlat.roots.getD p 0 = (s.chip.reg (Reg.HOST_PART_XLAT_ROOT_LO p)).toNat + v.toNat % 2 ^ 20 * 2 ^ 32
      ∧ s.chip.regsBut t.chip [Reg.HOST_PART_XLAT_ROOT_HI p])
    ∧ (s.chip.flag (Fld.HOST_PART_INVAL_STATUS_BUSY p) = false → v = BitVec.ofNat 32 (2 ^ 31 + 3) →
      ∃ t, exec (.xlatInvalidate dt q p v) s = .next t ∧ t.chip.flag (Fld.HOST_PART_INVAL_STATUS_BUSY p) = true ∧ cleared t
        ∧ s.chip.regsBut t.chip [Reg.HOST_PART_INVAL_STATUS p])
    ∧ (let flying := (s.chip.xlat.invals.getD p none).elim [] (·.flying)
      ∃ t, exec (.xlatInvalidateDone dt p) s = .next t
      ∧ ((∀ b ∈ flying, b ∉ s.chip.flying) → t.chip.flag (Fld.HOST_PART_INVAL_STATUS_BUSY p) = false
        ∧ s.chip.regsBut t.chip [Reg.HOST_PART_INVAL_STATUS p])
      ∧ ((∃ b ∈ flying, b ∈ s.chip.flying) → t.chip = s.chip.fresh))

/-- A cold start leaves reset values; resets with the Wellhead held recover the journal and the configuration (R25, R47, R78, R379, R442, R449, R451, R459, R460, R461, R462, R464).

COLD_START of every state, with main present, answers a next state in AWAKE with engine time `dt`, an empty journal, the next sequence number 1, no page, no chain, no commit, no cached translation and no partition attached; every register but GLOBAL.PART_OWNER, POWER.STATUS and SAFETY.STATUS reads its reset value, OWNER_PORT of PART_0 is MSEL, VBACK reads as measured and the I²C address pins are held; the queue of commands stays. (Reset values the spec does not give are the model's choice, log entry 10.) For a quiet chip whose retention was not lost: POWER_ON_RESET answers a next state in AWAKE with start-up under way, in which every journal entry is COMPLETED, engine time goes on, no partition is attached, and every STATION field of access code RW in a register of nothing else reads as before. ENGINE_RESET, the guarded pair of RESET_CTL with ENGINE by the port of PART_0 with no pair pending, does the same from AWAKE, IDLE and SAFE_STOP; from PRIMED and PRINTING it leads into SAFE_STOP and waits for the stop to finish. (Where a clause goes beyond the words of the cited rules it is the model's choice: log entries 10, 45, 118.) -/
def Obligations.ResetsRecover : Prop :=
  (∀ (dt : Nat) (msel : Bool) (vback : BitVec 16) (pins : BitVec 2) (s : State),
    ∃ t, exec (.coldStart dt msel true vback pins) s = .next t ∧ t.chip.eng.i2cPins = pins.toNat ∧ t.chip.state = St.awake ∧ t.clock.time = dt ∧ t.merge.journal = []
      ∧ t.merge.nextSeq = 1 ∧ t.chip.pages = [] ∧ t.chip.chain = none ∧ t.chip.txn.commits = [] ∧ t.chip.xlat.cache = []
      ∧ (∀ p < 8, t.chip.attached p = false) ∧ t.chip.owner 0 = Port.ofNum (b2n msel) ∧ t.chip.fld Fld.POWER_STATUS_VBACK = vback.toNat
      ∧ (∀ off, off ∉ [Reg.GLOBAL_PART_OWNER, Reg.POWER_STATUS, Reg.SAFETY_STATUS] → t.chip.reg off = RegMap.resetOf off)
      ∧ t.pending = s.pending)
  ∧ (∀ (dt : Nat) (s : State), s.chip.quiet = true →
    let restored (t : State) : Prop := t.chip.state = St.awake ∧ t.chip.eng.starting = true ∧ (∀ e ∈ t.merge.journal, e.phase = .completed)
      ∧ t.clock.time = s.at_ dt ∧ s.merge.nextSeq ≤ t.merge.nextSeq ∧ (∀ p < 8, t.chip.attached p = false)
      ∧ ∀ off r ix, 0x100000 ≤ off → off < 0x180000 → RegMap.find off = some (r, ix) → r.fields.all (fun f => f.acc == .rw) = true →
        ∀ f ∈ r.fields, bits (t.chip.reg off).toNat f.hi f.lo = bits (s.chip.reg off).toNat f.hi f.lo
    (∀ (msel mainOk : Bool) (vback : BitVec 16), s.chip.eng.coldNext = false → ∃ t, exec (.powerOnReset dt msel mainOk vback) s = .next t ∧ restored t)
    ∧ (∀ q : Port, s.chip.attrib q .master [] ≠ none → s.chip.guards = [] →
      (s.chip.state = St.awake ∨ s.chip.state = St.idle ∨ s.chip.state = St.safeStop → ∃ t, exec (.engineReset dt q 1) s = .next t ∧ restored t)
      ∧ (s.chip.state = St.primed ∨ s.chip.state = St.printing →
        ∃ t, exec (.engineReset dt q 1) s = .next t ∧ t.chip.state = St.safeStop ∧ t.chip.eng.resetPending = true ∧ t.chip.eng.stopping = true)))

/-- A partition reset empties its rings and queues; a port reset takes the port down and detaches what it owns (R96, R97, R103, R104, R450, R460).

For a quiet chip: PARTITION_RESET of a partition, the guarded pair of RESET_CTL by the port of PART_0 with no pair pending, answers a next state in which the partition is detached, its heads read 0 and its geometry is to be latched afresh, with no open transaction, while the heads, geometry and attachment of every other partition stay. PORT_RESET of a port and HOST_PORT_RESET of each kind take the port down, mask all its MSI-X vectors, clear their pending bits, answer configuration requests with Retry again and detach every partition it owns, the other port's partitions staying attached. PORT_DOWN of a port that was up, with its link down or Bus Master Enable clear, counts one more loss, up to 255, shows the link and Bus Master Enable as they are, and detaches the same partitions; with the link up and Bus Master Enable set it changes nothing. PORT_RETURN with no recording gap open shows rate and width, clears DOWN, holds what the host has configured, where it has, and changes no other register. (Where a clause goes beyond the words of the cited rules it is the model's choice: log entries 32, 33, 137.) -/
def Obligations.PartitionAndPortResets : Prop :=
  ∀ (dt : Nat) (s : State), s.chip.quiet = true →
    let offline (q : Port) (t : State) : Prop := t.chip.portDown q = true
      ∧ ∀ p < 8, t.chip.attached p = (s.chip.attached p && s.chip.owner p != q)
    let resetPort (q : Port) (t : State) : Prop := (s.chip.portDown q = false → offline q t) ∧ (t.chip.port q.num).crs = true
      ∧ (t.chip.port q.num).msixMask = 2 ^ 64 - 1 ∧ (t.chip.port q.num).msixPend = 0 ∧ t.chip.state = s.chip.state
    (∀ q : Port, s.chip.attrib q .master [] ≠ none → s.chip.guards = [] →
      (∀ p < 8, ∃ t, exec (.partitionReset dt q (BitVec.ofNat 32 (2 ^ (8 + p)))) s = .next t ∧ t.chip.attached p = false
        ∧ (t.merge.part p).heads = [0, 0, 0, 0] ∧ (t.merge.part p).geom = none ∧ t.chip.openTxn p = none
        ∧ ∀ k < 8, k ≠ p → (t.merge.part k).heads = (s.merge.part k).heads ∧ (t.merge.part k).geom = (s.merge.part k).geom
          ∧ t.chip.attached k = s.chip.attached k)
      ∧ ∃ t, exec (.portReset dt q (BitVec.ofNat 32 (2 ^ 17))) s = .next t ∧ resetPort .b t)
    ∧ (∀ (q : Port) (kind : PortResetKind), ∃ t, exec (.hostPortReset dt q kind) s = .next t ∧ resetPort q t)
    ∧ (∀ q : Port, ∃ t, exec (.portDown dt q true true) s = .next t ∧ t.chip = s.chip.fresh)
    ∧ (∀ (q : Port) (linkUp busMaster : Bool), s.chip.portDown q = false → (linkUp && busMaster) = false →
      ∃ t, exec (.portDown dt q linkUp busMaster) s = .next t ∧ offline q t
        ∧ t.chip.fld (Fld.HOST_PORT_STATUS_DOWN_COUNT q.num) = min 255 (s.chip.fld (Fld.HOST_PORT_STATUS_DOWN_COUNT q.num) + 1)
        ∧ t.chip.flag (Fld.HOST_PORT_STATUS_LINK_UP q.num) = linkUp ∧ t.chip.flag (Fld.HOST_PORT_STATUS_BUS_MASTER q.num) = busMaster)
    ∧ (∀ (q : Port) (rate width : BitVec 3) (setup : Option PortSetup), s.chip.sump.gap = none →
      ∃ t, exec (.portReturn dt q rate width setup) s = .next t
      ∧ (t.chip.port q.num).cfg = (setup.elim (s.chip.port q.num).cfg fun u => u.cfg)
      ∧ t.chip.portDown q = false ∧ t.chip.fld (Fld.HOST_PORT_STATUS_RATE q.num) = rate.toNat
      ∧ t.chip.fld (Fld.HOST_PORT_STATUS_WIDTH q.num) = width.toNat ∧ (t.chip.port q.num).crs = false
      ∧ s.chip.regsBut t.chip [Reg.GLOBAL_STATUS, Reg.HOST_PORT_STATUS q.num])

/-- A partition polls its doorbell block, and a valid tail ahead of the head fetches its entries (R109, R110, R111, R112, R117, R124).

For a quiet chip and a partition that polls, with latched geometry: DOORBELL_POLL after the poll interval that held at the last poll, with no record of an attach owed, issues the doorbell read, once, and notes this instant and the interval that the register gives now; before that instant it changes nothing. DOORBELL_BLOCK_RECEIVED of a failed read keeps the read for the next poll interval; of a block that acknowledges both queues up to their tails, names no suspended transfer, repeats the heads of rings 1 to 3 and gives ring 0 one new entry, with room in the journal, leaves exactly the fetch of that entry and no error noted. Both change no register but the ring-fetch channel's CHAN_STATUS. (Where a clause goes beyond the words of the cited rules it is the model's choice: log entry 38.) -/
def Obligations.DoorbellsPollAndFetch : Prop :=
  ∀ (dt : Nat) (p : Fin 8) (s : State), s.chip.quiet = true → s.chip.polls p = true → (s.merge.part p).geom.isSome = true →
    let q := s.merge.part p
    let chan := [Reg.DMA_CHAN_STATUS (8 + 2 * p.val)]
    (q.fetches = [] → q.resuming = false → q.lastPoll + 1000 * q.wait ≤ s.at_ dt →
      ∃ t, exec (.doorbellPoll dt p) s = .next t ∧ (t.merge.part p).fetches = [.doorbell] ∧ (t.merge.part p).lastPoll = s.at_ dt
        ∧ (t.merge.part p).wait = s.chip.fld (Fld.HOST_PART_POLL_INTERVAL p) ∧ s.chip.regsBut t.chip [])
    ∧ (s.at_ dt < q.lastPoll + 1000 * q.wait → ∃ t, exec (.doorbellPoll dt p) s = .next t ∧ t.merge = s.merge ∧ t.chip = s.chip.fresh)
    ∧ (q.fetches = [.doorbell] →
      (∃ t, exec (.doorbellBlockReceived dt p none) s = .next t ∧ (t.merge.part p).fetches = [.doorbell]
        ∧ (t.merge.part p).busRetry = true ∧ (t.merge.part p).waitPoll = true ∧ s.chip.regsBut t.chip chan)
      ∧ (∀ b : Entry, s.chip.sump.gap = none → q.heads.length = 4 → b.field 0 4 = (q.heads.getD 0 0 + 1) % 2 ^ 32 →
        (∀ r < 4, 0 < r → b.field (4 * r) 4 = q.heads.getD r 0) → (∀ r < 4, q.heads.getD r 0 < 2 ^ 32) →
        b.field 0x10 4 = 2 ^ 32 - 1 → b.field 0x14 4 = q.cq.tail → b.field 0x18 4 = q.eq.tail → q.cq.tail < 2 ^ 32 → q.eq.tail < 2 ^ 32 →
        (s.merge.ackCompletions p q.cq.tail).hasRoom p = true →
        ∃ t, exec (.doorbellBlockReceived dt p (some b)) s = .next t ∧ (t.merge.part p).fetches = [.entries 0 (q.heads.getD 0 0) 1]
          ∧ (t.merge.part p).headErr = false ∧ (t.merge.part p).cq.head = q.cq.tail ∧ (t.merge.part p).eq.head = q.eq.tail
          ∧ (t.merge.part p).eqUnacked = [] ∧ s.chip.regsBut t.chip chan))

/-- A fetched entry whose OWN is 1 is accepted with the next number; OWN 0 accepts nothing (R31, R105, R108, R111, R124, R404, R443, R447).

For a quiet chip and a partition that polls, with the fetch of one entry of a ring outstanding at its head: ENTRY_FETCH_COMPLETE with an entry of OWN 0 accepts nothing, ends the fetch and leaves head and journal. With OWN 1, acceptance open, no live tag like its own and a free slot, for an entry that passes the checks of acceptance, the journal gains exactly that entry in that slot, ACCEPTED at this instant, the head goes on by one and the clearing of OWN is queued; the acceptance takes the next engine sequence number once its instant is over, after the events of that instant. A failed read accepts nothing and keeps the fetch for the next poll interval. (Where a clause goes beyond the words of the cited rules it is the model's choice: log entries 38, 40, 148.) -/
def Obligations.EntriesAccepted : Prop :=
  ∀ (dt : Nat) (p : Fin 8) (ring : Fin 4) (e : Entry) (s : State), s.chip.quiet = true → s.chip.polls p = true →
    let q := s.merge.part p
    let head := q.heads.getD ring 0
    q.fetches = [.entries ring head 1] → q.heads.length = 4 → s.merge.parts.length = 8 →
    (∃ t, exec (.entryFetchComplete dt p ring [] false) s = .next t ∧ (t.merge.part p).fetches = q.fetches
      ∧ (t.merge.part p).waitPoll = true ∧ t.merge.journal = s.merge.journal)
    ∧ (e.byte 1 % 2 = 0 → ∃ t, exec (.entryFetchComplete dt p ring [e] true) s = .next t ∧ (t.merge.part p).fetches = []
      ∧ t.merge.journal = s.merge.journal ∧ (t.merge.part p).heads = q.heads ∧ t.merge.nextSeq = s.merge.nextSeq)
    ∧ (∀ slot, e.byte 1 % 2 = 1 → acceptanceClosed s.merge s.chip = false → s.merge.matchTag p (BitVec.ofNat 64 (e.field 8 8)) = none →
      s.merge.slotFor p (e.byte 0) ring = some slot → s.chip.acceptCheck p ring e = none →
      ∃ t, exec (.entryFetchComplete dt p ring [e] true) s = .next t ∧ (t.merge.part p).fetches = []
        ∧ (t.merge.part p).heads.getD ring 0 = (head + 1) % 2 ^ 32 ∧ t.merge.nextSeq = s.merge.nextSeq ∧ t.chip.eng.accepting = [slot]
        ∧ (∀ d, 0 < d → (t.opened d).2.eng.accepting = [] ∧ s.merge.nextSeq < (t.opened d).1.nextSeq
          ∧ ∃ x, (t.opened d).1.entry slot = some x ∧ x.seq = s.merge.nextSeq ∧ x.tag = BitVec.ofNat 64 (e.field 8 8))
        ∧ (t.merge.part p).writes = q.writes ++ [.ownClear ring head (e.byte 1 - 1)]
        ∧ t.merge.journal = s.merge.journal ++ [{ slot := slot, tag := BitVec.ofNat 64 (e.field 8 8), seq := s.merge.nextSeq, time := s.at_ dt, part := p, ring := ring, opcode := e.byte 0, barrier := bit (e.byte 1) 1, fence := bit (e.byte 1) 2, entry := e }])

/-- Held records are queued when there is room, a moderated queue signals in time, and a BARRIER entry completes once its read is back (R99, R117, R118, R119, R405).

For a quiet chip: HELD_RECORD_DELIVERY of a partition that can take records, with one event record held for it, nothing else owed to it and room in its event queue, queues exactly that record and holds it no longer. MOD_TIME_EXPIRY after the moderation time of a queue signals: nothing stays uncovered, and the interrupt goes out unless its vector is masked, in which case its pending bit is set. BARRIER_READ_COMPLETE of a RESULT entry with BARRIER set, at the front of its ring's order, whose read is outstanding in a polling partition: a good read completes it with its status; the first failed read repeats the read; a second failed one completes it with ERR_BARRIER. No register changes but the CHAN_STATUS of the partition's channels. (Where a clause goes beyond the words of the cited rules it is the model's choice: log entries 41, 43.) -/
def Obligations.RecordsDeliveredAndSignalled : Prop :=
  ∀ (dt : Nat) (s : State), s.chip.quiet = true →
    (∀ (p : Fin 8) (r : Rec), s.chip.taking p = true → s.merge.parts.length = 8 → s.merge.held = [(p.val, r)] → s.merge.stopArea = [] →
      (∀ e ∈ s.merge.journal, e.part ≠ p.val) → (s.merge.part p).copies = [] → (s.merge.part p).dropped = none → 0 < (s.merge.part p).roomE →
      ∃ t, exec (.heldRecordDelivery dt p) s = .next t ∧ t.merge.held = []
        ∧ (t.merge.part p).writes = (s.merge.part p).writes ++ [.event r] ∧ s.chip.regsBut t.chip [])
    ∧ (∀ (p : Fin 8) (k : Fin 2) (a : Nat), let q := s.merge.part p
      let vector := 8 * p.val + s.chip.fld (Fld.HOST_PART_Q_CTL_VECTOR p k)
      s.merge.parts.length = 8 → (q.queue k).firstAt = some a → s.chip.portDown (s.chip.owner p) = false →
      0 < s.chip.fld (Fld.HOST_PART_Q_CTL_MOD_COUNT p k) → 0 < s.chip.fld (Fld.HOST_PART_Q_CTL_MOD_TIME p k) → q.owesSignal k = false →
      a + 1000 * s.chip.fld (Fld.HOST_PART_Q_CTL_MOD_TIME p k) ≤ s.at_ dt →
      ∃ t, exec (.modTimeExpiry dt p k) s = .next t ∧ ((t.merge.part p).queue k).uncovered = 0 ∧ ((t.merge.part p).queue k).firstAt = none
        ∧ (bit (s.chip.port (s.chip.owner p).num).msixMask vector = false → Out.msix (s.chip.owner p) vector ∈ t.chip.outs)
        ∧ (bit (s.chip.port (s.chip.owner p).num).msixMask vector = true →
          bit (t.chip.port (s.chip.owner p).num).msixPend vector = true ∧ t.chip.outs = [])
        ∧ s.chip.regsBut t.chip [])
    ∧ (∀ (j : Fin 4096) (e : JEntry) (l : List OrdItem), s.merge.entry j = some e → e.phase = .result → e.barrier = true →
      s.chip.polls e.part = true → e.part < 8 → e.ring < 4 → s.merge.parts.length = 8 → s.merge.order.length = 32 →
      (s.merge.part e.part).fetches = [.barrier j] → s.merge.ringOrder e.part e.ring = .cmd j :: l →
      let chans := [Reg.DMA_CHAN_STATUS (8 + 2 * e.part), Reg.DMA_CHAN_STATUS (9 + 2 * e.part)]
      (∃ t x, exec (.barrierReadComplete dt j true) s = .next t ∧ t.merge.entry j = some x ∧ x.phase = .completed
        ∧ x.status = e.status ∧ x.detail = e.detail ∧ x.cseq = s.merge.nextSeq ∧ s.chip.regsBut t.chip chans)
      ∧ (e.barriers < 2 → ∃ t, exec (.barrierReadComplete dt j false) s = .next t
        ∧ t.merge.entry j = some { e with barriers := e.barriers + 1 } ∧ (t.merge.part e.part).fetches = [.barrier j])
      ∧ (2 ≤ e.barriers → ∃ t x, exec (.barrierReadComplete dt j false) s = .next t ∧ t.merge.entry j = some x ∧ x.phase = .completed
        ∧ x.status = Rc.ERR_BARRIER ∧ s.chip.regsBut t.chip chans))

/-- A grant issues the burst of a ready channel; the data of an image burst enter its lane; a failed one is retried or halts (R85, R122, R123, R125, R126, R129).

For a quiet chip: DMA_BURST_GRANT, when the arbiter of a port picks the ring-fetch channel of a partition whose doorbell read waits, and its translation is cached and readable, reads the 64 bytes at its host address through that port. For a working chip whose one image channel carries a page that runs uncut, with a burst of its descriptor in flight that does not end it: DMA_BURST_COMPLETE with as many bytes adds them to the lane's input and goes on in the descriptor; a bus error with retries left waits 1 us. IMAGE_BURST_RETRY at or after that instant counts the retry, clears the wait, and raises the channel's retry event, when no decoder is behind. DMA_BURST_COMPLETE of a read descriptor's burst on a service channel that fails, on a resting chip in which no other command has transfers, ends that descriptor with cause 3. (Where a clause goes beyond the words of the cited rules it is the model's choice: log entries 46, 47.) -/
def Obligations.DmaMoves : Prop :=
  ∀ (dt : Nat) (s : State),
    (∀ (p : Fin 8) (l : Leaf) (mem : HostImg), let q := s.chip.owner p
      s.chip.quiet = true → s.chip.portDown q = false → 64 ≤ (s.chip.port q.num).cfg.mrrs → s.chip.arbiter s.merge q = some (8 + 2 * p.val) →
      (s.merge.part p).fetches = [.doorbell] → s.chip.retryAsked p (8 + 2 * p.val) 4 = false → s.chip.dma.jobs = [] →
      let a := ((s.merge.part p).geom.getD {}).doorbell
      a < 2 ^ 39 → s.chip.cached p a = some l → l.rd = true →
      ∃ t, exec (.dmaBurstGrant dt q mem) s = .next t ∧ Out.hostRead q (l.host + a % pageSize l.level) 64 ∈ t.chip.outs
        ∧ (8 + 2 * p.val) ∈ t.chip.dma.busy ∧ t.merge = s.merge)
    ∧ (∀ (k : Fin 8) (g : Page) (d : ImgDesc) (n : Nat), s.chip.working = true → s.chip.dma.jobs = [] → s.chip.dma.img.length = 8 →
      s.chip.pages = [g] → g.running = true → g.cut = none →
      (∀ i < 8, i ≠ k.val → (s.chip.img i).page = some g.seq) → (s.chip.img k).page = some g.seq → (s.chip.img k).halted = false →
      (s.chip.img k).inFlight = some n → (s.chip.img k).desc = some d → (s.chip.img k).done + n < d.len →
      s.chip.flag Fld.POWER_STATUS_HOLDUP = false →
      (∀ data : List Byte, data.length = n →
        ∃ t, exec (.dmaBurstComplete dt (k.castLE (by decide)) (.ok data)) s = .next t ∧ (t.chip.img k).done = (s.chip.img k).done + n
          ∧ (t.chip.img k).inFlight = none ∧ (t.chip.img k).tries = 0
          ∧ (t.chip.lane k).input.find? (fun e => e.1 == g.seq)
            = some (g.seq, (((s.chip.lane k).input.find? fun e => e.1 == g.seq).elim [] (·.2)) ++ data))
      ∧ ((s.chip.img k).tries < s.chip.fld Fld.DMA_IMG_RETRY_COUNT →
        ∃ t, exec (.dmaBurstComplete dt (k.castLE (by decide)) .busError) s = .next t ∧ (t.chip.img k).retryAt = some (s.at_ dt + 1000)
          ∧ (t.chip.img k).inFlight = none ∧ (t.chip.img k).done = (s.chip.img k).done ∧ s.chip.regsBut t.chip []))
    ∧ (∀ (k : Fin 8) (u : Nat), s.chip.quiet = true → (s.chip.img k).retryAt = some u → u ≤ s.at_ dt → (s.chip.img k).halted = false →
      ∃ t, exec (.imageBurstRetry dt k) s = .next t ∧ (t.chip.img k).retryAt = none ∧ (t.chip.img k).tries = (s.chip.img k).tries + 1
        ∧ bit (t.chip.reg Reg.DMA_IMG_EVENT).toNat (8 + k.val) = true
        ∧ s.chip.regsBut t.chip [Reg.DMA_IMG_EVENT, Reg.DMA_IMG_STATUS k])
    ∧ (∀ (ch : Fin 40) (job : SvcJob) (n : Nat), s.chip.resting = true → s.chip.dma.xfers = [] → s.chip.dma.parked = [] → 24 ≤ ch.val →
      s.chip.dma.jobs = [(ch.val, job)] → job.inFlight = some n →
      ∃ t, exec (.dmaBurstComplete dt ch .busError) s = .next t
        ∧ t.chip.dma.jobs = [(ch.val, { job with phase := 2, cause := 3, inFlight := none })] ∧ s.chip.regsBut t.chip [])

/-- TXN_BEGIN opens a transaction, TXN_WRITE stages what the partition may write, TXN_ROLLBACK discards it (R59, R60, R61, R63, R70, R73, R415).

For a quiet chip and a command of the journal that may start: TXN_BEGIN with none open opens an empty transaction at the present generation and completes with OK; with one open it completes with ERR_TXN_OPEN. TXN_WRITE of FORM 0 with an aligned offset, in an open transaction with fewer than 512 entries, stages exactly its register entry when a register lies there, the mask covers RW, L and T fields only and the partition may write it, and completes with OK; else with ERR_TXN_TARGET, nothing staged; with no open transaction it completes with ERR_NO_TXN. TXN_ROLLBACK discards the open transaction with OK; with neither a transaction nor a commit it completes with ERR_NO_TXN. None changes a register but TXN.STATE, BEGIN_GEN and TRIGGER of the partition. (Where a clause goes beyond the words of the cited rules it is the model's choice: log entry 25.) -/
def Obligations.TransactionsStageAndRollBack : Prop :=
  ∀ (dt : Nat) (j : Fin 4096) (e : JEntry) (s : State), s.chip.quiet = true → e.part < 8 →
    let txn := [Reg.TXN_STATE e.part, Reg.TXN_BEGIN_GEN e.part, Reg.TXN_TRIGGER_LO e.part, Reg.TXN_TRIGGER_HI e.part]
    (s.offers dt j 0x10 e →
      (s.chip.openTxn e.part = none → ∃ t, exec (.txnBegin dt j) s = .next t ∧ t.began j ∧ t.ended j Rc.OK 0
        ∧ t.chip.openTxn e.part = some { gen := s.chip.txn.gen } ∧ s.chip.regsBut t.chip txn
        ∧ t.chip.flag (Fld.TXN_STATE_OPEN e.part) = true ∧ t.chip.reg (Reg.TXN_BEGIN_GEN e.part) = BitVec.ofNat 32 s.chip.txn.gen)
      ∧ (∀ o, s.chip.openTxn e.part = some o → ∃ t, exec (.txnBegin dt j) s = .next t ∧ t.ended j Rc.ERR_TXN_OPEN 0
        ∧ t.chip.openTxn e.part = some o ∧ s.chip.regsBut t.chip []))
    ∧ (s.offers dt j 0x11 e → e.param 0x10 1 = 0 → e.param 0x14 4 % 4 = 0 → e.param 0x14 4 ≤ 0x3FFFFFC →
      (s.chip.openTxn e.part = none → ∃ t, exec (.txnWrite dt j) s = .next t ∧ t.ended j Rc.ERR_NO_TXN 0 ∧ s.chip.regsBut t.chip [])
      ∧ (∀ o, s.chip.openTxn e.part = some o → o.entries.length < 512 →
        (s.chip.stageReg e.part (e.param 0x14 4) (e.param 0x18 4) = true →
          ∃ t, exec (.txnWrite dt j) s = .next t ∧ t.began j ∧ t.ended j Rc.OK 0
            ∧ t.chip.openTxn e.part = some { o with entries := o.entries ++
              [.reg (e.param 0x14 4) (BitVec.ofNat 32 (e.param 0x18 4)) (BitVec.ofNat 32 (e.param 0x1C 4))] }
            ∧ s.chip.regsBut t.chip txn)
        ∧ (s.chip.stageReg e.part (e.param 0x14 4) (e.param 0x18 4) = false →
          ∃ t, exec (.txnWrite dt j) s = .next t ∧ t.ended j Rc.ERR_TXN_TARGET 0 ∧ t.chip.openTxn e.part = some o ∧ s.chip.regsBut t.chip [])))
    ∧ (s.offers dt j 0x13 e →
      (∀ o, s.chip.openTxn e.part = some o → ∃ t, exec (.txnRollback dt j) s = .next t ∧ t.began j ∧ t.ended j Rc.OK 0
        ∧ t.chip.openTxn e.part = none ∧ t.chip.flag (Fld.TXN_STATE_OPEN e.part) = false ∧ s.chip.regsBut t.chip txn)
      ∧ (s.chip.openTxn e.part = none → ∃ t, exec (.txnRollback dt j) s = .next t ∧ t.ended j Rc.ERR_NO_TXN 0 ∧ s.chip.regsBut t.chip []))

/-- A SAFE commit switches at once, a timed one at its instant, each under a new generation (R62, R63, R64, R65, R67, R68, R73, R416).

For a quiet chip with an open transaction of one entry, a write of THERMAL.THETA that no later commit conflicts with: TXN_COMMIT under SAFE answers a next state in which the register has the bits of the entry under its mask, no transaction and no commit is left, TXN.GEN has gone on by one, the unit's SWITCH_TIME is this instant and the command completed with OK at this instant with one unit in its DETAIL; every other register but those of TXN stays. Under AT_TIME with a time ahead by at most 60 s it completes with TXN_SCHEDULED, the commit waits, and the register keeps its word. TXN_AT_TIME_TRIGGER of an unhurried chip at or after that instant applies the entry and raises one TXN_SWITCHED record for the partition with this instant. (Where a clause goes beyond the words of the cited rules it is the model's choice: log entries 26, 27.) -/
def Obligations.CommitsSwitch : Prop :=
  ∀ (dt : Nat) (e : JEntry) (mask data : Word) (s : State), e.part < 8 →
    let entry : Staged := .reg Reg.THERMAL_THETA mask data
    let written (t : State) : Prop := t.chip.reg Reg.THERMAL_THETA = (s.chip.reg Reg.THERMAL_THETA &&& ~~~mask) ||| (data &&& mask)
    let txn := [Reg.TXN_STATE e.part, Reg.TXN_BEGIN_GEN e.part, Reg.TXN_RESULT e.part, Reg.TXN_TRIGGER_LO e.part, Reg.TXN_TRIGGER_HI e.part,
      Reg.TXN_GEN, Reg.TXN_LOG_OLDEST] ++ (List.range 128).map (Reg.TXN_SWITCH_TIME e.part)
    (∀ (j : Fin 4096) (o : OpenTxn), s.chip.quiet = true → s.offers dt j 0x12 e → s.chip.openTxn e.part = some o → o.entries = [entry] →
      s.chip.conflict o.gen [entry] = none →
      (e.param 0x10 1 = 0 → ∃ t, exec (.txnCommit dt j) s = .next t ∧ written t ∧ t.began j
        ∧ Emit.resultAt j Rc.OK (2 ^ 24) (s.at_ dt) ∈ t.chip.emits ∧ t.chip.openTxn e.part = none ∧ t.chip.txn.commits = []
        ∧ t.chip.txn.gen = s.chip.txn.gen + 1 ∧ t.chip.reg (Reg.TXN_SWITCH_TIME e.part 1) = BitVec.ofNat 32 (s.at_ dt)
        ∧ s.chip.regsBut t.chip (Reg.THERMAL_THETA :: txn))
      ∧ (e.param 0x10 1 = 2 → s.at_ dt < e.param 0x18 8 → e.param 0x18 8 ≤ s.at_ dt + 60000000000 →
        ∃ t c, exec (.txnCommit dt j) s = .next t ∧ t.ended j Rc.TXN_SCHEDULED 0 ∧ t.chip.openTxn e.part = none ∧ t.chip.txn.commits = [c]
          ∧ c.part = e.part ∧ c.trig = .time (e.param 0x18 8) ∧ c.entries = [entry] ∧ c.left = [1] ∧ c.fired = false ∧ c.begun = false
          ∧ s.chip.regsBut t.chip txn))
    ∧ (∀ (p : Fin 8) (c : Commit) (u : Nat), s.chip.unhurried = true → s.chip.eng.calJobs = [] → s.chip.eng.prime = none →
      s.chip.txn.touched = [] → s.chip.txn.switched = [] → s.chip.txn.commits = [c] → c.part = e.part → c.trig = .time u → u ≤ s.at_ dt →
      c.entries = [entry] → c.left = [1] → c.slot = none → c.fired = false → c.begun = false → c.units = 0 → c.last = 0 → c.slotsLeft = [] →
      ∃ t, exec (.txnAtTimeTrigger dt p) s = .next t ∧ written t ∧ t.chip.txn.commits = []
        ∧ t.raised { status := Rc.TXN_SWITCHED, opcode := c.opcode, tag := c.tag, detail := 2 ^ 24, dest := .part e.part, time := some (s.at_ dt) }
        ∧ s.chip.regsBut t.chip (Reg.THERMAL_THETA :: txn))

/-- PAGE_ARM arms a page whose tree passes every check; CHAIN_START places the first armed page and leads to PRINTING (R139, R141, R146, R148, R149, R150, R417).

For a working chip and a command of the journal that may start: PAGE_ARM with fewer than 8 pages armed, no chain, its port up and a root aligned to 64, whose tree can be read and passes the checks of R139, adds exactly that page and completes with OK, the numbers of its locked translations and of its descriptors in DETAIL. CHAIN_START with one page of its partition armed, no page-critical axis in FAULT and no belt or drum channel in fault begins, leads to PRINTING with one STATE_CHANGE and completes with OK; the chain is that of the command, and the page's origin lies one lead ahead of the belt at its first station, by the offsets latched when it was armed. With no page armed it completes with NO_ARMED_PAGE. (Where a clause goes beyond the words of the cited rules it is the model's choice: log entries 37, 51, 53.) -/
def Obligations.PagesArmAndChainsStart : Prop :=
  ∀ (dt : Nat) (j : Fin 4096) (e : JEntry) (s : State), s.chip.working = true → s.chip.flag Fld.POWER_STATUS_HOLDUP = false →
    (∀ k < 8, (s.chip.img k).page = none) →
    (∀ (mem : HostImg) (x : Tree × List (Nat × Nat) × Chip) (y : Page × Chip), s.offers dt j 0x20 e → e.param 0x10 8 % 64 = 0 → s.chip.pages = [] → s.chip.chain = none →
      s.chip.portDown (s.chip.owner e.part) = false → (s.chip.fresh.started j).armTree mem e.part (e.param 0x10 8) = .ok x →
      x.2.2.armChecks mem e x.1 x.2.1 = .ok y →
      ∃ t, exec (.pageArm dt j mem) s = .next t ∧ t.began j ∧ t.chip.pages = [y.1] ∧ t.chip.state = s.chip.state
        ∧ t.ended j Rc.OK (y.1.locks.length % 4096 + y.1.descs * 65536))
    ∧ (s.offers dt j 0x21 e →
      (∀ p : Page, s.chip.pages = [p] → p.part = e.part → p.running = false → p.joined = false → p.cut = none →
        s.chip.critFault = none → s.chip.faultedChannel = none →
        let q : Page := { p with offsets := p.own }
        let lead := max (coverSub 20000 p.leadNs) (rdivI (s.chip.beltRate * p.leadNs) 65536000000000).toNat
        ∃ t g, exec (.chainStart dt j) s = .next t ∧ t.began j ∧ t.ended j Rc.OK 0 ∧ t.chip.state = St.printing
          ∧ t.chip.chain = some { tag := e.tag.toNat, part := e.part, offsets := p.own } ∧ t.chip.pages = [g] ∧ g.joined = true ∧ g.running = false
          ∧ g.offsets = p.own ∧ g.origin = some (beltAdd (s.chip.beltPos + lead) (-(q.firstOffset : Nat)))
          ∧ t.raised { status := 0x80, detail := s.chip.state + St.printing * 16 + Why.chainStart * 256 })
      ∧ (s.chip.pages = [] → ∃ t, exec (.chainStart dt j) s = .next t ∧ t.ended j Rc.NO_ARMED_PAGE 0 ∧ s.chip.regsBut t.chip []))

/-- CHAIN_END and the closing position close a chain; a cancelled, an aborted, a started and an ended page each leave their records (R141, R147, R150, R151, R153, R154, R155, R156).

For a working chip: CHAIN_END of the chain of its partition begins, closes the chain with cause 1 unless it was closed before, and waits with it; CHAIN_CLOSE at the closing position of the chain's last page closes it with cause 2. PAGE_CANCEL of an armed page outside a chain, with no measurement waiting, takes exactly that page away with one CANCELLED record and completes with OK. PAGE_ABORT of a running page with no cut, whose cut does not lie past it, begins, cuts it with cause 1 at the send horizon rounded up to a line, closes the chain with cause 3 and completes with ABORTED and the line. PAGE_START of the one joined page at its start position, all of whose tiles write and have good banks, makes it run, with one PAGE_START record that carries bits 31 to 0 of its origin. PAGE_END of the only page of a chain, at its end and uncut, writes its record with OK, or DEFECT, then CHAIN_DONE with the cause of the close or 2, completes the CHAIN_END commands that wait, and leads back to PRIMED. (Where a clause goes beyond the words of the cited rules it is the model's choice: log entries 53, 54, 55, 56, 57.) -/
def Obligations.ChainsAndPagesEnd : Prop :=
  ∀ (dt : Nat) (s : State), s.chip.working = true → s.chip.flag Fld.POWER_STATUS_HOLDUP = false →
    (∀ (j : Fin 4096) (e : JEntry) (h : Chain), (∀ p ∈ s.chip.pages, p.running = false ∧ p.cut = none) → s.offers dt j 0x22 e → s.chip.chain = some h → h.part = e.part →
      (∀ k < 8, (s.chip.img k).page = none) →
      ∃ t, exec (.chainEnd dt j) s = .next t ∧ t.began j ∧ s.chip.regsBut t.chip []
        ∧ t.chip.chain = some { h with closed := some (h.closed.getD 1), enders := h.enders ++ [j.val] })
    ∧ (∀ (h : Chain) (k : Page), s.chip.chain = some h → h.closed = none → s.chip.pages = [k] → k.joined = true → k.running = false → k.cut = none →
      (∀ i < 8, (s.chip.img i).page = none) → beltAtOrAfter s.chip.beltPos k.closing = true →
      ∃ t, exec (.chainClose dt) s = .next t ∧ t.chip.chain = some { h with closed := some 2 } ∧ s.chip.regsBut t.chip [])
    ∧ (∀ (j : Fin 4096) (e : JEntry) (p : Page), s.offers dt j 0x23 e → s.chip.pages = [p] → p.part = e.part → p.tag = e.param 0x10 8 →
      p.running = false → p.joined = false → (∀ i < 8, (s.chip.img i).page = none) → s.chip.seam.meas = [] →
      ∃ t, exec (.pageCancel dt j) s = .next t ∧ t.began j ∧ t.ended j Rc.OK 0 ∧ t.chip.pages = []
        ∧ t.raised { status := Rc.CANCELLED, opcode := 0x20, tag := p.tag, dest := .part p.part } ∧ t.chip.state = s.chip.state)
    ∧ (∀ (j : Fin 4096) (e : JEntry) (p : Page) (h : Chain), s.offers dt j 0x24 e → s.chip.pages = [p] → p.part = e.part → p.tag = e.param 0x10 8 →
      p.running = true → p.joined = true → p.cut = none → p.cutLogged = false → s.chip.chain = some h → p.cutPast (p.roundUp p.horizon) = false →
      ∃ t g, exec (.pageAbort dt j) s = .next t ∧ t.began j ∧ t.chip.pages = [g] ∧ g.cut = some (p.roundUp p.horizon) ∧ g.cutCause = 1
        ∧ t.ended j Rc.ABORTED (g.endDetail (g.lineFrom (p.roundUp p.horizon))) ∧ t.chip.chain = some { h with closed := some 3 })
    ∧ (∀ p : Page, s.chip.pages = [p] → p.joined = true → p.running = false → p.cut = none → beltAtOrAfter s.chip.beltPos p.startAt = true →
      (∀ k ∈ p.tiles, bit (s.chip.tile k).kill 2 = false ∧ s.chip.banksGood k = true) →
      ∃ t g, exec (.pageStart dt) s = .next t ∧ t.chip.pages = [g] ∧ g.running = true ∧ g.horizon = p.start ∧ g.cut = none
        ∧ t.raised { status := Rc.PAGE_START, opcode := 0x20, tag := p.tag, detail := p.origin.getD 0 % 2 ^ 32, dest := .part p.part })
    ∧ (∀ (p : Page) (h : Chain), s.chip.pages = [p] → p.joined = true → p.running = true → p.cut = none → s.chip.chain = some h →
      s.chip.eng.thermalPending = false → s.chip.state = St.printing → beltAtOrAfter s.chip.beltPos p.endAt = true →
      (∀ k ∈ p.tiles, (s.chip.tile k).limit = none) → (∀ i < 8, (s.chip.img i).page = none ∨ (s.chip.img i).page = some p.seq) →
      ∃ t, exec (.pageEnd dt) s = .next t ∧ t.chip.pages = [] ∧ t.chip.chain = none ∧ t.chip.state = St.primed
        ∧ t.raised { status := if p.defect then Rc.DEFECT else Rc.OK, opcode := 0x20, tag := p.tag, dest := .part p.part }
        ∧ t.raised { status := Rc.CHAIN_DONE, opcode := 0x21, tag := h.tag, detail := h.closed.getD 2, dest := .part h.part }
        ∧ ∀ k ∈ h.enders, t.ended k Rc.OK 0)

/-- A lane decodes the next band of its page once the band's bytes have arrived (R141, R160, R177, R178, R186).

For a working chip whose one page runs uncut and is carried by a station's lane, not stopped and with no line of the band before waiting, with the bytes of its next band in the lane's input: SIPHON_BAND_DECODE of a band that is not the last and whose bytes decode without an error takes those bytes, puts as many of its lines into the 32-line band buffers as these have room for, after those that a tile still has to plan, keeps the others waiting, counts the lines put there as decoded for the station, and shows state and line in the lane's registers, no other register changing; the lane stays at this band while lines wait, and goes on to the next when none does. Before the bytes are there it changes no register and no page. (Where a clause goes beyond the words of the cited rules it is the model's choice: log entry 58.) -/
def Obligations.BandsDecode : Prop :=
  ∀ (dt : Nat) (k : Fin 8) (p : Page) (x : PageStn) (got : List Byte) (s : State), s.chip.working = true →
    s.chip.flag Fld.POWER_STATUS_HOLDUP = false → s.chip.pages = [p] → p.running = true → p.cut = none →
    p.stns = [x] → x.station = k.val → p.decoded.length = 1 →
    (∀ i < 8, (s.chip.img i).page = some p.seq) →
    let l := s.chip.lane k
    let start := x.bandStart l.band
    let size := x.bands.getD l.band 0
    l.page = some p.seq → l.stopped = false → l.pend = [] → l.pendErr = none → l.band < cdiv p.lines 256 → l.input = [(p.seq, got)] →
    (l.taken + got.length < start + size → ∃ t, exec (.siphonBandDecode dt k) s = .next t ∧ t.chip.pages = [p] ∧ s.chip.regsBut t.chip [])
    ∧ (∀ d : BandDec, start + size ≤ l.taken + got.length → l.band + 1 < cdiv p.lines 256 →
      decodeBand p.width 256 l.band (l.band == 0) l.prev1 l.prev2 l.kRun ((got.drop (start - l.taken)).take size) = .ok d →
      let kept := s.chip.keptLines k
      let came := (d.waiting l.band).take (32 - kept.length)
      let left := (d.waiting l.band).drop (32 - kept.length)
      ∃ t g, exec (.siphonBandDecode dt k) s = .next t ∧ (t.chip.lane k).taken = start + size
        ∧ (t.chip.lane k).prev1 = d.up ∧ (t.chip.lane k).kRun = d.k ∧ (t.chip.lane k).pend = left
        ∧ (t.chip.lane k).buffer = kept ++ came.map (fun y => (p.seq, y.1, y.2.1))
        ∧ (t.chip.lane k).band = (if left.isEmpty then l.band + 1 else l.band) ∧ t.chip.pages = [g]
        ∧ (came = [] → g = p)
        ∧ (∀ y, came.getLast? = some y → g.decoded = [y.1 + 1] ∧ t.chip.fld (Fld.CODEC_LANE_STATUS_STATE k) = 1
          ∧ (left ≠ [] → t.chip.fld (Fld.CODEC_LANE_LINE_LINE k) = (y.1 + 1) % 256))
        ∧ s.chip.regsBut t.chip [Reg.CODEC_LANE_STATUS k, Reg.CODEC_LANE_LINE k])

/-- The recorder closes segments in time, takes snapshots, freezes, and streams payload first and header last (R85, R475, R476, R477, R478, R479, R480).

For a sound, still, serving chip whose fast clocks run and whose service channels are free: SEGMENT_CLOSE with an open record at least 1 ms old closes exactly one segment that holds every open record, its base the least time among them, and leaves none open; with a younger one, fewer than 65,536 bytes and no gap it changes nothing. SNAPSHOT_TIMER SNAP_S seconds after the last snapshot, when it fits, adds one snapshot segment of this instant (its bytes are a free function of what R479 names, log entry 127). POST_TRIGGER_END with nothing open or waiting, POST_MS after the trigger, freezes the recorder: STATE 3 with its event, no register but SUMP.STATUS and SUMP.EVENT changed. SEGMENT_STREAM of a recorder with nothing to stream that waits for nothing changes no register. For such a chip whose recorder's port is up with nothing else ready on it and no record of an attach owed, with one closed segment of no more than 4,032 payload bytes that fits before the end of the host ring, the write position at a page boundary, nothing suspended, RETAIN clear, no gap and nothing that waits for the stream: SEGMENT_STREAM through a cached, writable translation writes the payload from 64 bytes past the write position on and then the header at it, takes the segment out of the Sump ring, counts it as streamed and moves SUMP.WR on by its size. (Where a clause goes beyond the words of the cited rules it is the model's choice: log entries 127, 128.) -/
def Obligations.SegmentsActAndStream : Prop :=
  (∀ (dt : Nat) (s : State), s.chip.sound = true → s.chip.still = true → s.chip.fast = true → s.chip.serving = true → s.chip.noService = true →
    (s.chip.sump.gap = none →
      (∀ r rs, s.chip.sump.open_ = r :: rs → r.time + 1000000 ≤ s.at_ dt →
        ∃ t g, exec (.segmentClose dt) s = .next t ∧ t.chip.sump.open_ = [] ∧ t.chip.sump.openBytes = 0
          ∧ t.chip.sump.closed = s.chip.sump.closed ++ [g] ∧ g.kind = 0 ∧ g.nrec = rs.length + 1 ∧ g.seq = s.chip.sump.nextSeq
          ∧ (∀ x ∈ r :: rs, g.base ≤ x.time) ∧ (∃ x ∈ r :: rs, g.base = x.time) ∧ t.chip.sump.nextSeq = s.chip.sump.nextSeq + 1
          ∧ s.chip.regsBut t.chip [])
      ∧ ((∀ r ∈ s.chip.sump.open_, s.at_ dt < r.time + 1000000) → s.chip.sump.openBytes < 65536 →
        ∃ t, exec (.segmentClose dt) s = .next t ∧ t.chip.sump = s.chip.sump ∧ s.chip.regsBut t.chip []))
    ∧ (s.chip.sump.gap = none → s.chip.fld Fld.SUMP_STATUS_STATE = 1 → s.chip.sump.freezing = false → 0 < s.chip.fld Fld.SUMP_CFG_SNAP_S →
      s.chip.sump.lastSnap + s.chip.fld Fld.SUMP_CFG_SNAP_S * 1000000000 ≤ s.at_ dt →
      let b := (s.chip.snapshot (s.at_ dt)).1
      b.size ≤ s.chip.sump.size / 4 → s.chip.sump.openBytes + s.chip.sump.closedBytes + b.size ≤ sumpRing →
      ∃ t g, exec (.snapshotTimer dt) s = .next t ∧ t.chip.sump.closed = s.chip.sump.closed ++ [g] ∧ g.kind = 1 ∧ g.base = s.at_ dt
        ∧ g.end_ = s.at_ dt ∧ g.payload = b.payload ∧ g.seq = s.chip.sump.nextSeq ∧ t.chip.sump.lastSnap = s.at_ dt ∧ s.chip.regsBut t.chip [])
    ∧ (∀ u, s.chip.sump.trigAt = some u → s.chip.fld Fld.SUMP_STATUS_STATE = 2 → s.chip.sump.freezing = false → s.chip.sump.open_ = [] →
      s.chip.sump.closed = [] → s.chip.sump.waiters = [] → u + s.chip.fld Fld.SUMP_CFG_POST_MS * 1000000 ≤ s.at_ dt →
      ∃ t, exec (.postTriggerEnd dt) s = .next t ∧ t.chip.fld Fld.SUMP_STATUS_STATE = 3 ∧ t.chip.sump.freezing = false
        ∧ bit (t.chip.reg Reg.SUMP_EVENT).toNat Ev.SUMP_EVENT_FROZEN.2 = true ∧ s.chip.regsBut t.chip [Reg.SUMP_STATUS, Reg.SUMP_EVENT])
    ∧ (∀ mem : HostImg, s.chip.sump.closed = [] → s.chip.sump.waiters = [] → s.chip.sump.freezing = false →
      ∃ t, exec (.segmentStream dt mem) s = .next t ∧ t.chip.sump = s.chip.sump ∧ s.chip.regsBut t.chip []))
  ∧ (∀ (dt : Nat) (mem : HostImg) (g : Segment) (l : Leaf) (s : State), s.chip.sound = true → s.chip.still = true → s.chip.fast = true → s.chip.serving = true →
    s.chip.noService = true →
    let part := s.chip.fld Fld.SUMP_STATUS_PART
    let q := s.chip.owner part
    let wr := s.chip.pair Reg.SUMP_WR_LO Reg.SUMP_WR_HI
    let a := s.chip.sump.base + wr % s.chip.sump.size
    s.chip.portDown q = false → 0 < (s.chip.port q.num).cfg.mps → (s.merge.part part).resuming = false → (∀ ch < 39, s.chip.ready s.merge q ch = false) → s.chip.xlat.susp = [] →
    s.chip.sump.closed = [g] → s.chip.sump.size ≠ 0 → s.chip.sump.sent = 0 →
    s.chip.flag Fld.SUMP_CFG_RETAIN = false → s.chip.sump.gap = none → s.chip.sump.waiters = [] → s.chip.sump.freezing = false →
    0 < g.payload.length → g.payload.length ≤ 4032 → g.size ≤ s.chip.sump.size - wr % s.chip.sump.size → a % 4096 = 0 → a + g.size ≤ 2 ^ 39 →
    s.chip.cached part a = some l → s.chip.cached part (a + 64) = some l → l.wr = true → s.chip.xlat.cache.length < 4096 → wr + g.size < 2 ^ 64 →
    let host := l.host + a % pageSize l.level
    ∃ t, exec (.segmentStream dt mem) s = .next t ∧ t.chip.sump.closed = [] ∧ t.chip.sump.streamed = s.chip.sump.streamed + 1
      ∧ t.chip.pair Reg.SUMP_WR_LO Reg.SUMP_WR_HI = wr + g.size
      ∧ t.chip.outs.flatMap Out.wrote = Out.wrote (.hostWrite q (host + 64) g.payload)
        ++ Out.wrote (.hostWrite q host (g.header (s.chip.reg Reg.GLOBAL_ID).toNat)))

/-- Service commands take a channel or act in order, and a service job at its end completes its command (R120, R121, R123, R127, R129, R423, R426, R431, R435).

For a quiet chip with no service channel or context slot taken and a command of the journal that may start: TABLE_LOAD of 1 to 1,024 descriptors and legal fields, and CAPTURE of a line-scan capture with a legal list, begin on channel 24 with a job of that list, the register of that channel alone changing. FENCE that may start completes with OK and changes no register; held back, it changes nothing. LOOP_CONFIG that disables a slot, of a listed destination other than a drive axis and no trigger, which does not belong to belt or drum, stops the slot and completes with OK. For a resting chip in whose DMA engine nothing is ready on a port: DMA_BURST_GRANT that finds the only job, of a TABLE_LOAD under mode 3 or of a CAPTURE, on the channel that its command holds, after its last STATUS word, frees the channel and completes the command with OK, or with DESC_BAD and the number of bad descriptors. (Where a clause goes beyond the words of the cited rules it is the model's choice: log entries 122, 123.) -/
def Obligations.ServiceTransfers : Prop :=
  (∀ (dt : Nat) (j : Fin 4096) (e : JEntry) (s : State), s.chip.quiet = true → s.chip.serviceFree →
    let job (region : Nat) (list count : Nat) : SvcJob :=
      { slot := j, part := e.part, opcode := e.opcode, list := list, count := count, region := region, gen := s.chip.txn.gen }
    (s.offers dt j 0x40 e → e.param 0x10 8 % 32 = 0 → 0 < e.param 0x18 2 → e.param 0x18 2 ≤ 1024 → e.param 0x1A 1 ≤ 3 → e.param 0x1B 1 ≤ 8 →
      (∀ i ∈ loadInstances e, (tableRanges i).isEmpty = false) →
      ∃ t, exec (.tableLoad dt j) s = .next t ∧ t.began j ∧ t.chip.dma.jobs = [(24, job 0 (e.param 0x10 8) (e.param 0x18 2))]
        ∧ s.chip.regsBut t.chip [Reg.DMA_CHAN_STATUS 24])
    ∧ (s.offers dt j 0x44 e → e.param 0x10 1 = 2 → e.param 0x18 8 % 32 = 0 → 0 < e.param 0x20 2 → e.param 0x20 2 ≤ 1024 →
      ∃ t, exec (.capture dt j) s = .next t ∧ t.began j ∧ t.chip.dma.jobs = [(24, job 2 (e.param 0x18 8) (e.param 0x20 2))]
        ∧ s.chip.regsBut t.chip [Reg.DMA_CHAN_STATUS 24])
    ∧ (s.offers dt j 0xF0 e → ∃ t, exec (.fence dt j) s = .next t ∧ t.ended j Rc.OK 0 ∧ s.chip.regsBut t.chip [])
    ∧ (s.merge.startable j 0xF0 = none → ∃ t, exec (.fence dt j) s = .next t ∧ t.chip = s.chip.fresh ∧ t.merge = s.merge)
    ∧ (s.offers dt j 0x33 e → e.param 0x11 1 = 0 → e.param 0x18 8 = 0 → ∀ n : Fin 96, e.param 0x10 1 = n.val → 12 ≤ s.chip.fld (Fld.WINDLASS_SLOT_CFG_DEST n) →
      destListed (s.chip.fld (Fld.WINDLASS_SLOT_CFG_DEST n)) = true → s.chip.fld (Fld.WINDLASS_SLOT_CFG_TRIG n) = 0 →
      s.chip.beltOrDrum n = false → s.chip.slotRuns n = true → ∀ mem : HostImg,
      ∃ t, exec (.loopConfig dt j mem) s = .next t ∧ t.began j ∧ t.ended j Rc.OK 0 ∧ t.chip.slotRuns n = false))
  ∧ (∀ (dt : Nat) (q : Port) (mem : HostImg) (ch : Fin 40) (job : SvcJob) (e : JEntry) (s : State), s.chip.resting = true → 24 ≤ ch.val →
    s.chip.dma.xfers = [] → s.chip.dma.parked = [] →
    s.chip.dma.owner = ((List.range 15).map fun i => if i + 24 = ch.val then some (job.slot, job.part) else none) →
    s.chip.dma.jobs = [(ch.val, job)] → job.phase = 3 → s.chip.arbiter s.merge q = none → s.merge.entry job.slot = some e → e.slot = job.slot →
    e.opcode = 0x44 ∨ (e.opcode = 0x40 ∧ e.param 0x1A 1 = 3) →
    ∃ t, exec (.dmaBurstGrant dt q mem) s = .next t ∧ t.chip.dma.jobs = [] ∧ t.chip.dma.owner.getD (ch.val - 24) none = none
      ∧ (job.bad = 0 → t.ended job.slot Rc.OK 0) ∧ (0 < job.bad → t.ended job.slot Rc.DESC_BAD job.bad)
      ∧ s.chip.regsBut t.chip [Reg.DMA_CHAN_STATUS ch])

/-- QUERY and MARK_STRIP write their results to host memory; SEAM_MEASURE takes its map (R256, R406, R428, R429, R436, R437).

For a working chip with no hold-up supply on, no image channel at work and no service channel or context slot taken, whose partition's first GiB is cached as one page, with its port up and nothing else ready on it: QUERY of kind 0 with an aligned result address below 1 GiB begins, writes 64 bytes there that hold the ID, the engine state, engine time and the last sequence number, and completes with OK. MARK_STRIP of a source whose reports hold 1 to 256 marks, with room for them at a page boundary, writes them and completes with OK and their number. SEAM_MEASURE with line scan enabled, of one map entry that is valid, for an armed page that does not run and that no other SEAM_MEASURE names, begins and adds the measurement of exactly that mark under the command's own tag. (Where a clause goes beyond the words of the cited rules it is the model's choice: log entries 37, 82.) -/
def Obligations.QueriesAndMarksWrite : Prop :=
  ∀ (dt : Nat) (j : Fin 4096) (e : JEntry) (mem : HostImg) (host : Nat) (s : State), s.chip.working = true → s.chip.serviceFree →
    s.chip.mapsFlat e.part host → s.chip.flag Fld.POWER_STATUS_HOLDUP = false → (∀ i < 8, (s.chip.img i).page = none) →
    let q := s.chip.owner e.part
    let started (opcode : Nat) : Prop := s.offers dt j opcode e ∧ s.moves q e
    (started 0xF1 → s.chip.pages = [] → e.param 0x10 1 = 0 → e.param 0x20 8 % 64 = 0 → e.param 0x20 8 + 64 ≤ 2 ^ 30 →
      ∃ t bs, exec (.query dt j mem) s = .next t ∧ t.began j ∧ t.ended j Rc.OK 0 ∧ t.wrote q (host + e.param 0x20 8) bs
        ∧ bs.length = 64 ∧ leNat (bs.take 4) = (s.chip.reg Reg.GLOBAL_ID).toNat ∧ (bs.getD 4 0).toNat = s.chip.state
        ∧ leNat ((bs.drop 8).take 8) = s.at_ dt % 2 ^ 64 ∧ leNat ((bs.drop 16).take 8) = (s.merge.nextSeq - 1) % 2 ^ 64)
    ∧ (∀ k n : Nat, started 0x43 → s.chip.pages = [] → e.param 0x10 1 = k + 1 → k < 3 → (s.chip.seam.reports.getD k []).length = 4 * n → 0 < n → n ≤ 256 →
      e.param 0x18 8 % 4096 = 0 → e.param 0x18 8 + 4096 ≤ 2 ^ 30 → 16 * n ≤ e.param 0x20 4 → e.param 0x20 4 ≤ 16777216 →
      ∃ t, exec (.markStrip dt j mem) s = .next t ∧ t.began j ∧ t.ended j Rc.OK n
        ∧ t.wrote q (host + e.param 0x18 8) ((s.chip.seam.reports.getD k []).flatMap fun w => leBytes 4 w.toNat))
    ∧ (∀ (p : Page) (bs : List Byte) (m : Mark), started 0x42 → s.chip.pages = [p] → p.part = e.part → p.tag = e.param 0x20 8 → p.running = false →
      p.cut = none → s.chip.flag Fld.SEAM_CTL_LSCAN_EN = true → s.chip.seam.meas = [] → s.chip.measuring s.merge e p = false → e.param 0x10 8 % 16 = 0 → e.param 0x10 8 + 16 ≤ 2 ^ 30 →
      e.param 0x18 2 = 1 → hostBytes mem (host + e.param 0x10 8) 16 = some bs → mapMark bs = some m →
      ∃ t, exec (.seamMeasure dt j mem) s = .next t ∧ t.began j
        ∧ t.chip.seam.meas = [{ source := 2, page := p.seq, tag := e.tag.toNat, part := p.part, slot := some j.val, marks := [m] }])

/-- COMPRESS writes the coded stream that fits its buffers, DECOMPRESS_CHECK finds whether a stream decodes (R175, R179, R181, R182, R183, R430, R432, R433, R434).

For a quiet chip with no service channel or context slot taken, whose partition's first GiB is cached as one page, its port up with nothing else ready on it, and one input buffer within a page: COMPRESS with legal fields, whose lines the encoder codes within the one output buffer, begins, writes exactly the coded bytes there and completes with OK and their number. DECOMPRESS_CHECK with legal fields and no output begins, writes nothing and completes with OK and the number of bands where the stream decodes, else with SIPHON_BAD, the error's code and its band. Each gives its context slot back. (Where a clause goes beyond the words of the cited rules it is the model's choice: log entry 60.) -/
def Obligations.CodecCommandsRun : Prop :=
  ∀ (dt : Nat) (j : Fin 4096) (e : JEntry) (mem : HostImg) (host a n : Nat) (data : List Byte) (s : State), s.chip.quiet = true → s.chip.serviceFree →
    s.chip.mapsFlat e.part host →
    let q := s.chip.owner e.part
    let started (opcode : Nat) : Prop := s.offers dt j opcode e ∧ s.moves q e
    let width := e.param 0x24 4
    let lines := e.param 0x28 4
    a % 4096 = 0 → 0 < n → n ≤ 4096 → a + 4096 ≤ 2 ^ 30 → e.param 0x10 8 + 16 ≤ 2 ^ 30 → e.param 0x20 2 = 1 → bit (e.param 0x2E 1) 1 = false →
    hostBytes mem (host + e.param 0x10 8) 16 = some (leBytes 8 a ++ leBytes 4 n ++ leBytes 4 0) → hostBytes mem (host + a) n = some data →
    (∀ (b k : Nat) (items : List Item) (out : List Bool) (last : Item), started 0x45 → codecRange e false = none →
      e.param 0x22 2 = 1 → e.param 0x18 8 + 16 ≤ 2 ^ 30 → lines * cdiv width 2 = n → b % 4096 = 0 → b + 4096 ≤ 2 ^ 30 → 0 < k → k ≤ 4096 →
      hostBytes mem (host + e.param 0x18 8) 16 = some (leBytes 8 b ++ leBytes 4 k ++ leBytes 4 0) →
      let ctl : BlockCtl := { mode := 0, run := bit (e.param 0x2E 1) 0, setK := false, pred := bits (e.param 0x2C 1) 3 0, tset := bits (e.param 0x2C 1) 6 4, period := e.param 0x2D 1, runK := 0, lines := 0 }
      encodeBands ctl width (cdiv lines 256) 0 (inputLines width lines 0 data) [] [] 2 0 = (items, none) →
      fillBits items (8 * k) [] { bits := [], taken := 0, k := 2, band := 0 } = (out, [], last, false) → out ≠ [] →
      ∃ t, exec (.compress dt j mem) s = .next t ∧ t.began j ∧ t.ended j Rc.OK (bytesOfBits (out.length + 1) out).length
        ∧ t.wrote q (host + b) (bytesOfBits (out.length + 1) out) ∧ (t.chip.slot 0).held = false)
    ∧ (started 0x46 → codecRange e true = none → e.param 0x22 2 = 0 → e.param 0x18 8 = 0 →
      let d := decodeStream width lines (cdiv lines 256) 0 { up := [], up2 := [], k := 2, cu := { bytes := data } } []
      ∃ t, exec (.decompressCheck dt j mem) s = .next t ∧ t.began j ∧ t.chip.outs.flatMap Out.wrote = [] ∧ (t.chip.slot 0).held = false
        ∧ (d.2 = none → t.ended j Rc.OK (cdiv lines 256))
        ∧ (∀ code band, d.2 = some (code, band) → t.ended j Rc.SIPHON_BAD (code + band % 2 ^ 24 * 256)))

/-- RECORDER starts with a snapshot for its partition, and a stop completes once everything is streamed (R434, R477, R479, R480).

For a still, sound, serving chip whose fast clocks run and whose service channels are free, and a RECORDER command that may start: start, with a page-aligned base, a ring of 1 GiB and legal options, of a stopped recorder, begins and leads to STATE 1 for its partition with an empty host ring, no gap counted, exactly one waiting segment, a snapshot of this instant, and the command waiting for it. Stop, with nothing open and everything streamed, begins, leads to STATE 0 and completes with OK. An action of a recorder that is not recording, other than start, completes with ERR_STATE. (Where a clause goes beyond the words of the cited rules it is the model's choice: log entries 127, 128.) -/
def Obligations.RecorderActs : Prop :=
  ∀ (dt : Nat) (j : Fin 4096) (e : JEntry) (s : State), s.chip.sound = true → s.chip.still = true → s.chip.fast = true → s.chip.serving = true →
    s.chip.noService = true → s.offers dt j 0x47 e →
    (s.chip.fld Fld.SUMP_STATUS_STATE = 0 → e.param 0x10 1 = 1 → e.param 0x18 8 % 4096 = 0 → e.param 0x20 4 = 2 ^ 30 → e.param 0x24 4 ≤ 255 →
      e.param 0x28 1 ≤ 15 → e.part < 8 →
      ∃ t g, exec (.recorder dt j) s = .next t ∧ t.began j ∧ t.chip.fld Fld.SUMP_STATUS_STATE = 1 ∧ t.chip.fld Fld.SUMP_STATUS_PART = e.part
        ∧ t.chip.sump.base = e.param 0x18 8 ∧ t.chip.sump.size = 2 ^ 30 ∧ t.chip.sump.closed = [g] ∧ g.kind = 1 ∧ g.base = s.at_ dt
        ∧ t.chip.sump.waiters = [(j.val, 1)] ∧ t.chip.pair Reg.SUMP_WR_LO Reg.SUMP_WR_HI = 0 ∧ t.chip.fld Fld.SUMP_GAPS_COUNT = 0)
    ∧ (s.chip.fld Fld.SUMP_STATUS_STATE = 0 → e.param 0x10 1 = 0 ∨ e.param 0x10 1 = 2 →
      ∃ t, exec (.recorder dt j) s = .next t ∧ t.ended j Rc.ERR_STATE s.chip.state ∧ s.chip.regsBut t.chip [])
    ∧ (s.chip.fld Fld.SUMP_STATUS_STATE ≠ 0 → e.param 0x10 1 = 0 → s.chip.sump.open_ = [] → s.chip.sump.waiters = [] →
      s.chip.sump.nextSeq ≤ s.chip.sump.streamed →
      ∃ t, exec (.recorder dt j) s = .next t ∧ t.began j ∧ t.ended j Rc.OK 0 ∧ t.chip.fld Fld.SUMP_STATUS_STATE = 0
        ∧ s.chip.regsBut t.chip [Reg.SUMP_STATUS])

end
end

