-- ==== Sys2Proof/Laws/Sparse.lean ====
section
/-! SUPPORT. Laws of the sparse store: reading after writing, and the canonical form kept by every operation, so that stores that read alike are equal.
-/
namespace Sys2Proof.Machine

@[simp] theorem Sparse.get_nil {α : Type} {d : Nat → α} (a : Nat) : Sparse.get d a [] = d a := rfl

variable {α : Type} [DecidableEq α] {d : Nat → α}

@[simp] theorem Sparse.wf_nil : Sparse.wf d ([] : List (Nat × α)) = true := rfl

/-- A key below every key of the list reads as its default. -/
theorem Sparse.get_of_le {a b : Nat} {l : List (Nat × α)} (h : Sparse.wfFrom d (some b) l = true) (hab : a ≤ b) :
    Sparse.get d a l = d a := by
  induction l generalizing b with
  | nil => rfl
  | cons e l ih =>
    obtain ⟨k, v⟩ := e
    simp only [Sparse.wfFrom, Bool.and_eq_true, decide_eq_true_eq] at h
    have hk : a ≠ k := by omega
    simp only [Sparse.get, hk, if_false]
    exact ih h.2 (by omega)

/-- The bound of a canonical list may be lowered. -/
theorem Sparse.wfFrom_mono {lo lo' : Option Nat} {l : List (Nat × α)} (h : Sparse.wfFrom d lo l = true)
    (hl : ∀ b, lo' = some b → ∃ b', lo = some b' ∧ b ≤ b') : Sparse.wfFrom d lo' l = true := by
  cases l with
  | nil => rfl
  | cons e l =>
    obtain ⟨k, v⟩ := e
    cases lo' with
    | none =>
      simp only [Sparse.wfFrom, Bool.and_eq_true, decide_eq_true_eq] at h ⊢
      exact ⟨⟨trivial, h.1.2⟩, h.2⟩
    | some b =>
      obtain ⟨b', rfl, hb⟩ := hl b rfl
      simp only [Sparse.wfFrom, Bool.and_eq_true, decide_eq_true_eq] at h ⊢
      exact ⟨⟨by omega, h.1.2⟩, h.2⟩

/-- Writing at a key above the bound keeps the canonical form. -/
theorem Sparse.wfFrom_put {lo : Option Nat} {a : Nat} {v : α} {l : List (Nat × α)} (h : Sparse.wfFrom d lo l = true)
    (ha : ∀ b, lo = some b → b < a) : Sparse.wfFrom d lo (Sparse.put d a v l) = true := by
  induction l generalizing lo with
  | nil =>
    unfold Sparse.put
    split
    · rfl
    · cases lo <;> simp_all [Sparse.wfFrom]
  | cons e l ih =>
    obtain ⟨k, w⟩ := e
    have hc := h
    simp only [Sparse.wfFrom, Bool.and_eq_true, decide_eq_true_eq] at h
    unfold Sparse.put
    split
    · rename_i hak
      split
      · exact hc
      · rename_i hv
        simp only [Sparse.wfFrom, Bool.and_eq_true, decide_eq_true_eq]
        refine ⟨⟨?_, hv⟩, ⟨hak, h.1.2⟩, h.2⟩
        cases lo with
        | none => trivial
        | some b => exact decide_eq_true (ha b rfl)
    · split
      · rename_i hak
        subst hak
        split
        · refine Sparse.wfFrom_mono h.2 ?_
          rintro b rfl
          exact ⟨a, rfl, le_of_lt (ha b rfl)⟩
        · rename_i hv
          simp only [Sparse.wfFrom, Bool.and_eq_true, decide_eq_true_eq]
          exact ⟨⟨h.1.1, hv⟩, h.2⟩
      · rename_i h1 h2
        simp only [Sparse.wfFrom, Bool.and_eq_true, decide_eq_true_eq]
        refine ⟨h.1, ih h.2 ?_⟩
        rintro b hb
        cases hb
        omega

/-- Writing keeps the canonical form. -/
theorem Sparse.wf_put {a : Nat} {v : α} {l : List (Nat × α)} (h : Sparse.wf d l = true) :
    Sparse.wf d (Sparse.put d a v l) = true :=
  Sparse.wfFrom_put h (by rintro b hb; cases hb)

/-- Writing entry after entry keeps the canonical form. -/
theorem Sparse.wf_puts {es : List (Nat × α)} {l : List (Nat × α)} (h : Sparse.wf d l = true) :
    Sparse.wf d (es.foldl (fun l e => Sparse.put d e.1 e.2 l) l) = true := by
  induction es generalizing l with
  | nil => exact h
  | cons e es ih => exact ih (Sparse.wf_put h)

/-- Dropping entries keeps the canonical form. -/
theorem Sparse.wfFrom_filter {lo : Option Nat} {p : Nat × α → Bool} {l : List (Nat × α)} (h : Sparse.wfFrom d lo l = true) :
    Sparse.wfFrom d lo (l.filter p) = true := by
  induction l generalizing lo with
  | nil => rfl
  | cons e l ih =>
    obtain ⟨k, w⟩ := e
    simp only [Sparse.wfFrom, Bool.and_eq_true, decide_eq_true_eq] at h
    rw [List.filter_cons]
    split
    · simp only [Sparse.wfFrom, Bool.and_eq_true, decide_eq_true_eq]
      exact ⟨h.1, ih h.2⟩
    · refine Sparse.wfFrom_mono (ih h.2) ?_
      rintro b rfl
      exact ⟨k, rfl, by simpa using le_of_lt (of_decide_eq_true h.1.1)⟩

/-- Dropping entries keeps the canonical form. -/
theorem Sparse.wf_filter {p : Nat × α → Bool} {l : List (Nat × α)} (h : Sparse.wf d l = true) :
    Sparse.wf d (l.filter p) = true := Sparse.wfFrom_filter h

/-- Keeping the entries of some keys keeps the canonical form. -/
theorem Sparse.wf_keep {p : Nat → Bool} {l : List (Nat × α)} (h : Sparse.wf d l = true) :
    Sparse.wf d (Sparse.keep p l) = true := Sparse.wf_filter h

/-- A read after a write to the same key gives what was written. -/
theorem Sparse.get_put_same {lo : Option Nat} {a : Nat} {v : α} {l : List (Nat × α)} (h : Sparse.wfFrom d lo l = true) :
    Sparse.get d a (Sparse.put d a v l) = v := by
  induction l generalizing lo with
  | nil =>
    unfold Sparse.put
    split
    · rename_i hv; simp [hv]
    · simp [Sparse.get]
  | cons e l ih =>
    obtain ⟨k, w⟩ := e
    simp only [Sparse.wfFrom, Bool.and_eq_true, decide_eq_true_eq] at h
    unfold Sparse.put
    split
    · rename_i hak
      split
      · rename_i hv
        have hne : a ≠ k := by omega
        simp only [Sparse.get, hne, if_false]
        rw [Sparse.get_of_le h.2 (le_of_lt hak), hv]
      · simp [Sparse.get]
    · split
      · rename_i hak
        split
        · rename_i hv
          rw [Sparse.get_of_le h.2 (le_of_eq hak), hv]
        · simp [Sparse.get]
      · rename_i h1 h2
        simp only [Sparse.get, h2, if_false]
        exact ih h.2

/-- A write leaves every other key as it reads. -/
theorem Sparse.get_put_other {a b : Nat} {v : α} {l : List (Nat × α)} (hab : b ≠ a) :
    Sparse.get d b (Sparse.put d a v l) = Sparse.get d b l := by
  induction l with
  | nil =>
    unfold Sparse.put
    split
    · rfl
    · simp [Sparse.get, hab]
  | cons e l ih =>
    obtain ⟨k, w⟩ := e
    unfold Sparse.put
    split
    · split
      · rfl
      · simp [Sparse.get, hab]
    · split
      · rename_i hak
        subst hak
        split <;> simp [Sparse.get, hab]
      · simp only [Sparse.get, ih]

/-- Canonical stores that read alike at every key are equal. -/
theorem Sparse.ext_of_wf {lo : Option Nat} {l l' : List (Nat × α)} (h : Sparse.wfFrom d lo l = true) (h' : Sparse.wfFrom d lo l' = true)
    (hg : ∀ a, Sparse.get d a l = Sparse.get d a l') : l = l' := by
  induction l generalizing lo l' with
  | nil =>
    cases l' with
    | nil => rfl
    | cons e l' =>
      obtain ⟨k, w⟩ := e
      simp only [Sparse.wfFrom, Bool.and_eq_true, decide_eq_true_eq] at h'
      exact absurd (by simpa [Sparse.get] using (hg k).symm) h'.1.2
  | cons e l ih =>
    obtain ⟨k, w⟩ := e
    simp only [Sparse.wfFrom, Bool.and_eq_true, decide_eq_true_eq] at h
    cases l' with
    | nil => exact absurd (by simpa [Sparse.get] using hg k) h.1.2
    | cons e' l' =>
      obtain ⟨k', w'⟩ := e'
      simp only [Sparse.wfFrom, Bool.and_eq_true, decide_eq_true_eq] at h'
      have hk : k = k' := by
        rcases Nat.lt_trichotomy k k' with hlt | heq | hgt
        · have hne : k ≠ k' := by omega
          have := hg k
          simp only [Sparse.get, if_true, hne, if_false, Sparse.get_of_le h'.2 (le_of_lt hlt)] at this
          exact absurd this h.1.2
        · exact heq
        · have hne : k' ≠ k := by omega
          have := hg k'
          simp only [Sparse.get, if_true, hne, if_false, Sparse.get_of_le h.2 (le_of_lt hgt)] at this
          exact absurd this.symm h'.1.2
      subst hk
      have hw : w = w' := by simpa [Sparse.get] using hg k
      subst hw
      congr 1
      refine ih h.2 h'.2 fun a => ?_
      by_cases ha : a = k
      · subst ha
        rw [Sparse.get_of_le h.2 le_rfl, Sparse.get_of_le h'.2 le_rfl]
      · simpa [Sparse.get, ha] using hg a

end Sys2Proof.Machine
end

