-- ==== Sys2Proof/Laws/State.lean ====
section
/-! SUPPORT. One lemma for each field of the chip and of the state under each update: true by definition, and used by simp, so that no proof unfolds a record update.
-/
namespace Sys2Proof.Machine

@[simp] theorem Chip.setReg_regs (c : Chip) (off : Nat) (v : Word) : (c.setReg off v).regs = Sparse.put RegMap.resetOf off v c.regs := rfl
@[simp] theorem Chip.setReg_shadow (c : Chip) (off : Nat) (v : Word) : (c.setReg off v).shadow = c.shadow := rfl
@[simp] theorem Chip.setReg_active (c : Chip) (off : Nat) (v : Word) : (c.setReg off v).active = c.active := rfl
@[simp] theorem Chip.setReg_nominal (c : Chip) (off : Nat) (v : Word) : (c.setReg off v).nominal = c.nominal := rfl
@[simp] theorem Chip.setReg_zeros (c : Chip) (off : Nat) (v : Word) : (c.setReg off v).zeros = c.zeros := rfl
@[simp] theorem Chip.setReg_latch (c : Chip) (off : Nat) (v : Word) : (c.setReg off v).latch = c.latch := rfl
@[simp] theorem Chip.setReg_guards (c : Chip) (off : Nat) (v : Word) : (c.setReg off v).guards = c.guards := rfl
@[simp] theorem Chip.setReg_sqCount (c : Chip) (off : Nat) (v : Word) : (c.setReg off v).sqCount = c.sqCount := rfl
@[simp] theorem Chip.setReg_ports (c : Chip) (off : Nat) (v : Word) : (c.setReg off v).ports = c.ports := rfl
@[simp] theorem Chip.setReg_xlat (c : Chip) (off : Nat) (v : Word) : (c.setReg off v).xlat = c.xlat := rfl
@[simp] theorem Chip.setReg_dma (c : Chip) (off : Nat) (v : Word) : (c.setReg off v).dma = c.dma := rfl
@[simp] theorem Chip.setReg_txn (c : Chip) (off : Nat) (v : Word) : (c.setReg off v).txn = c.txn := rfl
@[simp] theorem Chip.setReg_pages (c : Chip) (off : Nat) (v : Word) : (c.setReg off v).pages = c.pages := rfl
@[simp] theorem Chip.setReg_chain (c : Chip) (off : Nat) (v : Word) : (c.setReg off v).chain = c.chain := rfl
@[simp] theorem Chip.setReg_lanes (c : Chip) (off : Nat) (v : Word) : (c.setReg off v).lanes = c.lanes := rfl
@[simp] theorem Chip.setReg_slots (c : Chip) (off : Nat) (v : Word) : (c.setReg off v).slots = c.slots := rfl
@[simp] theorem Chip.setReg_eng (c : Chip) (off : Nat) (v : Word) : (c.setReg off v).eng = c.eng := rfl
@[simp] theorem Chip.setReg_safety (c : Chip) (off : Nat) (v : Word) : (c.setReg off v).safety = c.safety := rfl
@[simp] theorem Chip.setReg_sump (c : Chip) (off : Nat) (v : Word) : (c.setReg off v).sump = c.sump := rfl
@[simp] theorem Chip.setReg_tiles (c : Chip) (off : Nat) (v : Word) : (c.setReg off v).tiles = c.tiles := rfl
@[simp] theorem Chip.setReg_stns (c : Chip) (off : Nat) (v : Word) : (c.setReg off v).stns = c.stns := rfl
@[simp] theorem Chip.setReg_belt (c : Chip) (off : Nat) (v : Word) : (c.setReg off v).belt = c.belt := rfl
@[simp] theorem Chip.setReg_seam (c : Chip) (off : Nat) (v : Word) : (c.setReg off v).seam = c.seam := rfl
@[simp] theorem Chip.setReg_drives (c : Chip) (off : Nat) (v : Word) : (c.setReg off v).drives = c.drives := rfl
@[simp] theorem Chip.setReg_encs (c : Chip) (off : Nat) (v : Word) : (c.setReg off v).encs = c.encs := rfl
@[simp] theorem Chip.setReg_fbCopy (c : Chip) (off : Nat) (v : Word) : (c.setReg off v).fbCopy = c.fbCopy := rfl
@[simp] theorem Chip.setReg_halls (c : Chip) (off : Nat) (v : Word) : (c.setReg off v).halls = c.halls := rfl
@[simp] theorem Chip.setReg_biss (c : Chip) (off : Nat) (v : Word) : (c.setReg off v).biss = c.biss := rfl
@[simp] theorem Chip.setReg_mules (c : Chip) (off : Nat) (v : Word) : (c.setReg off v).mules = c.mules := rfl
@[simp] theorem Chip.setReg_wl (c : Chip) (off : Nat) (v : Word) : (c.setReg off v).wl = c.wl := rfl
@[simp] theorem Chip.setReg_free (c : Chip) (off : Nat) (v : Word) : (c.setReg off v).free = c.free := rfl
@[simp] theorem Chip.setReg_emits (c : Chip) (off : Nat) (v : Word) : (c.setReg off v).emits = c.emits := rfl
@[simp] theorem Chip.setReg_outs (c : Chip) (off : Nat) (v : Word) : (c.setReg off v).outs = c.outs := rfl

@[simp] theorem Chip.emit_regs (c : Chip) (e : Emit) : (c.emit e).regs = c.regs := rfl
@[simp] theorem Chip.emit_shadow (c : Chip) (e : Emit) : (c.emit e).shadow = c.shadow := rfl
@[simp] theorem Chip.emit_active (c : Chip) (e : Emit) : (c.emit e).active = c.active := rfl
@[simp] theorem Chip.emit_nominal (c : Chip) (e : Emit) : (c.emit e).nominal = c.nominal := rfl
@[simp] theorem Chip.emit_zeros (c : Chip) (e : Emit) : (c.emit e).zeros = c.zeros := rfl
@[simp] theorem Chip.emit_latch (c : Chip) (e : Emit) : (c.emit e).latch = c.latch := rfl
@[simp] theorem Chip.emit_guards (c : Chip) (e : Emit) : (c.emit e).guards = c.guards := rfl
@[simp] theorem Chip.emit_sqCount (c : Chip) (e : Emit) : (c.emit e).sqCount = c.sqCount := rfl
@[simp] theorem Chip.emit_ports (c : Chip) (e : Emit) : (c.emit e).ports = c.ports := rfl
@[simp] theorem Chip.emit_xlat (c : Chip) (e : Emit) : (c.emit e).xlat = c.xlat := rfl
@[simp] theorem Chip.emit_dma (c : Chip) (e : Emit) : (c.emit e).dma = c.dma := rfl
@[simp] theorem Chip.emit_txn (c : Chip) (e : Emit) : (c.emit e).txn = c.txn := rfl
@[simp] theorem Chip.emit_pages (c : Chip) (e : Emit) : (c.emit e).pages = c.pages := rfl
@[simp] theorem Chip.emit_chain (c : Chip) (e : Emit) : (c.emit e).chain = c.chain := rfl
@[simp] theorem Chip.emit_lanes (c : Chip) (e : Emit) : (c.emit e).lanes = c.lanes := rfl
@[simp] theorem Chip.emit_slots (c : Chip) (e : Emit) : (c.emit e).slots = c.slots := rfl
@[simp] theorem Chip.emit_eng (c : Chip) (e : Emit) : (c.emit e).eng = c.eng := rfl
@[simp] theorem Chip.emit_safety (c : Chip) (e : Emit) : (c.emit e).safety = c.safety := rfl
@[simp] theorem Chip.emit_sump (c : Chip) (e : Emit) : (c.emit e).sump = c.sump := rfl
@[simp] theorem Chip.emit_tiles (c : Chip) (e : Emit) : (c.emit e).tiles = c.tiles := rfl
@[simp] theorem Chip.emit_stns (c : Chip) (e : Emit) : (c.emit e).stns = c.stns := rfl
@[simp] theorem Chip.emit_belt (c : Chip) (e : Emit) : (c.emit e).belt = c.belt := rfl
@[simp] theorem Chip.emit_seam (c : Chip) (e : Emit) : (c.emit e).seam = c.seam := rfl
@[simp] theorem Chip.emit_drives (c : Chip) (e : Emit) : (c.emit e).drives = c.drives := rfl
@[simp] theorem Chip.emit_encs (c : Chip) (e : Emit) : (c.emit e).encs = c.encs := rfl
@[simp] theorem Chip.emit_fbCopy (c : Chip) (e : Emit) : (c.emit e).fbCopy = c.fbCopy := rfl
@[simp] theorem Chip.emit_halls (c : Chip) (e : Emit) : (c.emit e).halls = c.halls := rfl
@[simp] theorem Chip.emit_biss (c : Chip) (e : Emit) : (c.emit e).biss = c.biss := rfl
@[simp] theorem Chip.emit_mules (c : Chip) (e : Emit) : (c.emit e).mules = c.mules := rfl
@[simp] theorem Chip.emit_wl (c : Chip) (e : Emit) : (c.emit e).wl = c.wl := rfl
@[simp] theorem Chip.emit_free (c : Chip) (e : Emit) : (c.emit e).free = c.free := rfl
@[simp] theorem Chip.emit_emits (c : Chip) (e : Emit) : (c.emit e).emits = c.emits ++ [e] := rfl
@[simp] theorem Chip.emit_outs (c : Chip) (e : Emit) : (c.emit e).outs = c.outs := rfl

@[simp] theorem Chip.send_regs (c : Chip) (o : Out) : (c.send o).regs = c.regs := rfl
@[simp] theorem Chip.send_shadow (c : Chip) (o : Out) : (c.send o).shadow = c.shadow := rfl
@[simp] theorem Chip.send_active (c : Chip) (o : Out) : (c.send o).active = c.active := rfl
@[simp] theorem Chip.send_nominal (c : Chip) (o : Out) : (c.send o).nominal = c.nominal := rfl
@[simp] theorem Chip.send_zeros (c : Chip) (o : Out) : (c.send o).zeros = c.zeros := rfl
@[simp] theorem Chip.send_latch (c : Chip) (o : Out) : (c.send o).latch = c.latch := rfl
@[simp] theorem Chip.send_guards (c : Chip) (o : Out) : (c.send o).guards = c.guards := rfl
@[simp] theorem Chip.send_sqCount (c : Chip) (o : Out) : (c.send o).sqCount = c.sqCount := rfl
@[simp] theorem Chip.send_ports (c : Chip) (o : Out) : (c.send o).ports = c.ports := rfl
@[simp] theorem Chip.send_xlat (c : Chip) (o : Out) : (c.send o).xlat = c.xlat := rfl
@[simp] theorem Chip.send_dma (c : Chip) (o : Out) : (c.send o).dma = c.dma := rfl
@[simp] theorem Chip.send_txn (c : Chip) (o : Out) : (c.send o).txn = c.txn := rfl
@[simp] theorem Chip.send_pages (c : Chip) (o : Out) : (c.send o).pages = c.pages := rfl
@[simp] theorem Chip.send_chain (c : Chip) (o : Out) : (c.send o).chain = c.chain := rfl
@[simp] theorem Chip.send_lanes (c : Chip) (o : Out) : (c.send o).lanes = c.lanes := rfl
@[simp] theorem Chip.send_slots (c : Chip) (o : Out) : (c.send o).slots = c.slots := rfl
@[simp] theorem Chip.send_eng (c : Chip) (o : Out) : (c.send o).eng = c.eng := rfl
@[simp] theorem Chip.send_safety (c : Chip) (o : Out) : (c.send o).safety = c.safety := rfl
@[simp] theorem Chip.send_sump (c : Chip) (o : Out) : (c.send o).sump = c.sump := rfl
@[simp] theorem Chip.send_tiles (c : Chip) (o : Out) : (c.send o).tiles = c.tiles := rfl
@[simp] theorem Chip.send_stns (c : Chip) (o : Out) : (c.send o).stns = c.stns := rfl
@[simp] theorem Chip.send_belt (c : Chip) (o : Out) : (c.send o).belt = c.belt := rfl
@[simp] theorem Chip.send_seam (c : Chip) (o : Out) : (c.send o).seam = c.seam := rfl
@[simp] theorem Chip.send_drives (c : Chip) (o : Out) : (c.send o).drives = c.drives := rfl
@[simp] theorem Chip.send_encs (c : Chip) (o : Out) : (c.send o).encs = c.encs := rfl
@[simp] theorem Chip.send_fbCopy (c : Chip) (o : Out) : (c.send o).fbCopy = c.fbCopy := rfl
@[simp] theorem Chip.send_halls (c : Chip) (o : Out) : (c.send o).halls = c.halls := rfl
@[simp] theorem Chip.send_biss (c : Chip) (o : Out) : (c.send o).biss = c.biss := rfl
@[simp] theorem Chip.send_mules (c : Chip) (o : Out) : (c.send o).mules = c.mules := rfl
@[simp] theorem Chip.send_wl (c : Chip) (o : Out) : (c.send o).wl = c.wl := rfl
@[simp] theorem Chip.send_free (c : Chip) (o : Out) : (c.send o).free = c.free := rfl
@[simp] theorem Chip.send_emits (c : Chip) (o : Out) : (c.send o).emits = c.emits := rfl
@[simp] theorem Chip.send_outs (c : Chip) (o : Out) : (c.send o).outs = c.outs ++ [o] := rfl

@[simp] theorem Chip.setSqSeen_regs (c : Chip) (off n : Nat) : (c.setSqSeen off n).regs = c.regs := rfl
@[simp] theorem Chip.setSqSeen_shadow (c : Chip) (off n : Nat) : (c.setSqSeen off n).shadow = c.shadow := rfl
@[simp] theorem Chip.setSqSeen_active (c : Chip) (off n : Nat) : (c.setSqSeen off n).active = c.active := rfl
@[simp] theorem Chip.setSqSeen_nominal (c : Chip) (off n : Nat) : (c.setSqSeen off n).nominal = c.nominal := rfl
@[simp] theorem Chip.setSqSeen_zeros (c : Chip) (off n : Nat) : (c.setSqSeen off n).zeros = c.zeros := rfl
@[simp] theorem Chip.setSqSeen_latch (c : Chip) (off n : Nat) : (c.setSqSeen off n).latch = c.latch := rfl
@[simp] theorem Chip.setSqSeen_guards (c : Chip) (off n : Nat) : (c.setSqSeen off n).guards = c.guards := rfl
@[simp] theorem Chip.setSqSeen_ports (c : Chip) (off n : Nat) : (c.setSqSeen off n).ports = c.ports := rfl
@[simp] theorem Chip.setSqSeen_xlat (c : Chip) (off n : Nat) : (c.setSqSeen off n).xlat = c.xlat := rfl
@[simp] theorem Chip.setSqSeen_dma (c : Chip) (off n : Nat) : (c.setSqSeen off n).dma = c.dma := rfl
@[simp] theorem Chip.setSqSeen_txn (c : Chip) (off n : Nat) : (c.setSqSeen off n).txn = c.txn := rfl
@[simp] theorem Chip.setSqSeen_pages (c : Chip) (off n : Nat) : (c.setSqSeen off n).pages = c.pages := rfl
@[simp] theorem Chip.setSqSeen_chain (c : Chip) (off n : Nat) : (c.setSqSeen off n).chain = c.chain := rfl
@[simp] theorem Chip.setSqSeen_lanes (c : Chip) (off n : Nat) : (c.setSqSeen off n).lanes = c.lanes := rfl
@[simp] theorem Chip.setSqSeen_slots (c : Chip) (off n : Nat) : (c.setSqSeen off n).slots = c.slots := rfl
@[simp] theorem Chip.setSqSeen_eng (c : Chip) (off n : Nat) : (c.setSqSeen off n).eng = c.eng := rfl
@[simp] theorem Chip.setSqSeen_safety (c : Chip) (off n : Nat) : (c.setSqSeen off n).safety = c.safety := rfl
@[simp] theorem Chip.setSqSeen_sump (c : Chip) (off n : Nat) : (c.setSqSeen off n).sump = c.sump := rfl
@[simp] theorem Chip.setSqSeen_tiles (c : Chip) (off n : Nat) : (c.setSqSeen off n).tiles = c.tiles := rfl
@[simp] theorem Chip.setSqSeen_stns (c : Chip) (off n : Nat) : (c.setSqSeen off n).stns = c.stns := rfl
@[simp] theorem Chip.setSqSeen_belt (c : Chip) (off n : Nat) : (c.setSqSeen off n).belt = c.belt := rfl
@[simp] theorem Chip.setSqSeen_seam (c : Chip) (off n : Nat) : (c.setSqSeen off n).seam = c.seam := rfl
@[simp] theorem Chip.setSqSeen_drives (c : Chip) (off n : Nat) : (c.setSqSeen off n).drives = c.drives := rfl
@[simp] theorem Chip.setSqSeen_encs (c : Chip) (off n : Nat) : (c.setSqSeen off n).encs = c.encs := rfl
@[simp] theorem Chip.setSqSeen_fbCopy (c : Chip) (off n : Nat) : (c.setSqSeen off n).fbCopy = c.fbCopy := rfl
@[simp] theorem Chip.setSqSeen_halls (c : Chip) (off n : Nat) : (c.setSqSeen off n).halls = c.halls := rfl
@[simp] theorem Chip.setSqSeen_biss (c : Chip) (off n : Nat) : (c.setSqSeen off n).biss = c.biss := rfl
@[simp] theorem Chip.setSqSeen_mules (c : Chip) (off n : Nat) : (c.setSqSeen off n).mules = c.mules := rfl
@[simp] theorem Chip.setSqSeen_wl (c : Chip) (off n : Nat) : (c.setSqSeen off n).wl = c.wl := rfl
@[simp] theorem Chip.setSqSeen_free (c : Chip) (off n : Nat) : (c.setSqSeen off n).free = c.free := rfl
@[simp] theorem Chip.setSqSeen_emits (c : Chip) (off n : Nat) : (c.setSqSeen off n).emits = c.emits := rfl
@[simp] theorem Chip.setSqSeen_outs (c : Chip) (off n : Nat) : (c.setSqSeen off n).outs = c.outs := rfl

@[simp] theorem Chip.updXlat_regs (c : Chip) (f : Xlat → Xlat) : (c.updXlat f).regs = c.regs := rfl
@[simp] theorem Chip.updXlat_shadow (c : Chip) (f : Xlat → Xlat) : (c.updXlat f).shadow = c.shadow := rfl
@[simp] theorem Chip.updXlat_active (c : Chip) (f : Xlat → Xlat) : (c.updXlat f).active = c.active := rfl
@[simp] theorem Chip.updXlat_nominal (c : Chip) (f : Xlat → Xlat) : (c.updXlat f).nominal = c.nominal := rfl
@[simp] theorem Chip.updXlat_zeros (c : Chip) (f : Xlat → Xlat) : (c.updXlat f).zeros = c.zeros := rfl
@[simp] theorem Chip.updXlat_latch (c : Chip) (f : Xlat → Xlat) : (c.updXlat f).latch = c.latch := rfl
@[simp] theorem Chip.updXlat_guards (c : Chip) (f : Xlat → Xlat) : (c.updXlat f).guards = c.guards := rfl
@[simp] theorem Chip.updXlat_sqCount (c : Chip) (f : Xlat → Xlat) : (c.updXlat f).sqCount = c.sqCount := rfl
@[simp] theorem Chip.updXlat_ports (c : Chip) (f : Xlat → Xlat) : (c.updXlat f).ports = c.ports := rfl
@[simp] theorem Chip.updXlat_xlat (c : Chip) (f : Xlat → Xlat) : (c.updXlat f).xlat = f c.xlat := rfl
@[simp] theorem Chip.updXlat_dma (c : Chip) (f : Xlat → Xlat) : (c.updXlat f).dma = c.dma := rfl
@[simp] theorem Chip.updXlat_txn (c : Chip) (f : Xlat → Xlat) : (c.updXlat f).txn = c.txn := rfl
@[simp] theorem Chip.updXlat_pages (c : Chip) (f : Xlat → Xlat) : (c.updXlat f).pages = c.pages := rfl
@[simp] theorem Chip.updXlat_chain (c : Chip) (f : Xlat → Xlat) : (c.updXlat f).chain = c.chain := rfl
@[simp] theorem Chip.updXlat_lanes (c : Chip) (f : Xlat → Xlat) : (c.updXlat f).lanes = c.lanes := rfl
@[simp] theorem Chip.updXlat_slots (c : Chip) (f : Xlat → Xlat) : (c.updXlat f).slots = c.slots := rfl
@[simp] theorem Chip.updXlat_eng (c : Chip) (f : Xlat → Xlat) : (c.updXlat f).eng = c.eng := rfl
@[simp] theorem Chip.updXlat_safety (c : Chip) (f : Xlat → Xlat) : (c.updXlat f).safety = c.safety := rfl
@[simp] theorem Chip.updXlat_sump (c : Chip) (f : Xlat → Xlat) : (c.updXlat f).sump = c.sump := rfl
@[simp] theorem Chip.updXlat_tiles (c : Chip) (f : Xlat → Xlat) : (c.updXlat f).tiles = c.tiles := rfl
@[simp] theorem Chip.updXlat_stns (c : Chip) (f : Xlat → Xlat) : (c.updXlat f).stns = c.stns := rfl
@[simp] theorem Chip.updXlat_belt (c : Chip) (f : Xlat → Xlat) : (c.updXlat f).belt = c.belt := rfl
@[simp] theorem Chip.updXlat_seam (c : Chip) (f : Xlat → Xlat) : (c.updXlat f).seam = c.seam := rfl
@[simp] theorem Chip.updXlat_drives (c : Chip) (f : Xlat → Xlat) : (c.updXlat f).drives = c.drives := rfl
@[simp] theorem Chip.updXlat_encs (c : Chip) (f : Xlat → Xlat) : (c.updXlat f).encs = c.encs := rfl
@[simp] theorem Chip.updXlat_fbCopy (c : Chip) (f : Xlat → Xlat) : (c.updXlat f).fbCopy = c.fbCopy := rfl
@[simp] theorem Chip.updXlat_halls (c : Chip) (f : Xlat → Xlat) : (c.updXlat f).halls = c.halls := rfl
@[simp] theorem Chip.updXlat_biss (c : Chip) (f : Xlat → Xlat) : (c.updXlat f).biss = c.biss := rfl
@[simp] theorem Chip.updXlat_mules (c : Chip) (f : Xlat → Xlat) : (c.updXlat f).mules = c.mules := rfl
@[simp] theorem Chip.updXlat_wl (c : Chip) (f : Xlat → Xlat) : (c.updXlat f).wl = c.wl := rfl
@[simp] theorem Chip.updXlat_free (c : Chip) (f : Xlat → Xlat) : (c.updXlat f).free = c.free := rfl
@[simp] theorem Chip.updXlat_emits (c : Chip) (f : Xlat → Xlat) : (c.updXlat f).emits = c.emits := rfl
@[simp] theorem Chip.updXlat_outs (c : Chip) (f : Xlat → Xlat) : (c.updXlat f).outs = c.outs := rfl

@[simp] theorem Chip.updDma_regs (c : Chip) (f : Dma → Dma) : (c.updDma f).regs = c.regs := rfl
@[simp] theorem Chip.updDma_shadow (c : Chip) (f : Dma → Dma) : (c.updDma f).shadow = c.shadow := rfl
@[simp] theorem Chip.updDma_active (c : Chip) (f : Dma → Dma) : (c.updDma f).active = c.active := rfl
@[simp] theorem Chip.updDma_nominal (c : Chip) (f : Dma → Dma) : (c.updDma f).nominal = c.nominal := rfl
@[simp] theorem Chip.updDma_zeros (c : Chip) (f : Dma → Dma) : (c.updDma f).zeros = c.zeros := rfl
@[simp] theorem Chip.updDma_latch (c : Chip) (f : Dma → Dma) : (c.updDma f).latch = c.latch := rfl
@[simp] theorem Chip.updDma_guards (c : Chip) (f : Dma → Dma) : (c.updDma f).guards = c.guards := rfl
@[simp] theorem Chip.updDma_sqCount (c : Chip) (f : Dma → Dma) : (c.updDma f).sqCount = c.sqCount := rfl
@[simp] theorem Chip.updDma_ports (c : Chip) (f : Dma → Dma) : (c.updDma f).ports = c.ports := rfl
@[simp] theorem Chip.updDma_xlat (c : Chip) (f : Dma → Dma) : (c.updDma f).xlat = c.xlat := rfl
@[simp] theorem Chip.updDma_dma (c : Chip) (f : Dma → Dma) : (c.updDma f).dma = f c.dma := rfl
@[simp] theorem Chip.updDma_txn (c : Chip) (f : Dma → Dma) : (c.updDma f).txn = c.txn := rfl
@[simp] theorem Chip.updDma_pages (c : Chip) (f : Dma → Dma) : (c.updDma f).pages = c.pages := rfl
@[simp] theorem Chip.updDma_chain (c : Chip) (f : Dma → Dma) : (c.updDma f).chain = c.chain := rfl
@[simp] theorem Chip.updDma_lanes (c : Chip) (f : Dma → Dma) : (c.updDma f).lanes = c.lanes := rfl
@[simp] theorem Chip.updDma_slots (c : Chip) (f : Dma → Dma) : (c.updDma f).slots = c.slots := rfl
@[simp] theorem Chip.updDma_eng (c : Chip) (f : Dma → Dma) : (c.updDma f).eng = c.eng := rfl
@[simp] theorem Chip.updDma_safety (c : Chip) (f : Dma → Dma) : (c.updDma f).safety = c.safety := rfl
@[simp] theorem Chip.updDma_sump (c : Chip) (f : Dma → Dma) : (c.updDma f).sump = c.sump := rfl
@[simp] theorem Chip.updDma_tiles (c : Chip) (f : Dma → Dma) : (c.updDma f).tiles = c.tiles := rfl
@[simp] theorem Chip.updDma_stns (c : Chip) (f : Dma → Dma) : (c.updDma f).stns = c.stns := rfl
@[simp] theorem Chip.updDma_belt (c : Chip) (f : Dma → Dma) : (c.updDma f).belt = c.belt := rfl
@[simp] theorem Chip.updDma_seam (c : Chip) (f : Dma → Dma) : (c.updDma f).seam = c.seam := rfl
@[simp] theorem Chip.updDma_drives (c : Chip) (f : Dma → Dma) : (c.updDma f).drives = c.drives := rfl
@[simp] theorem Chip.updDma_encs (c : Chip) (f : Dma → Dma) : (c.updDma f).encs = c.encs := rfl
@[simp] theorem Chip.updDma_fbCopy (c : Chip) (f : Dma → Dma) : (c.updDma f).fbCopy = c.fbCopy := rfl
@[simp] theorem Chip.updDma_halls (c : Chip) (f : Dma → Dma) : (c.updDma f).halls = c.halls := rfl
@[simp] theorem Chip.updDma_biss (c : Chip) (f : Dma → Dma) : (c.updDma f).biss = c.biss := rfl
@[simp] theorem Chip.updDma_mules (c : Chip) (f : Dma → Dma) : (c.updDma f).mules = c.mules := rfl
@[simp] theorem Chip.updDma_wl (c : Chip) (f : Dma → Dma) : (c.updDma f).wl = c.wl := rfl
@[simp] theorem Chip.updDma_free (c : Chip) (f : Dma → Dma) : (c.updDma f).free = c.free := rfl
@[simp] theorem Chip.updDma_emits (c : Chip) (f : Dma → Dma) : (c.updDma f).emits = c.emits := rfl
@[simp] theorem Chip.updDma_outs (c : Chip) (f : Dma → Dma) : (c.updDma f).outs = c.outs := rfl

@[simp] theorem Chip.updTxn_regs (c : Chip) (f : TxnUnit → TxnUnit) : (c.updTxn f).regs = c.regs := rfl
@[simp] theorem Chip.updTxn_shadow (c : Chip) (f : TxnUnit → TxnUnit) : (c.updTxn f).shadow = c.shadow := rfl
@[simp] theorem Chip.updTxn_active (c : Chip) (f : TxnUnit → TxnUnit) : (c.updTxn f).active = c.active := rfl
@[simp] theorem Chip.updTxn_nominal (c : Chip) (f : TxnUnit → TxnUnit) : (c.updTxn f).nominal = c.nominal := rfl
@[simp] theorem Chip.updTxn_zeros (c : Chip) (f : TxnUnit → TxnUnit) : (c.updTxn f).zeros = c.zeros := rfl
@[simp] theorem Chip.updTxn_latch (c : Chip) (f : TxnUnit → TxnUnit) : (c.updTxn f).latch = c.latch := rfl
@[simp] theorem Chip.updTxn_guards (c : Chip) (f : TxnUnit → TxnUnit) : (c.updTxn f).guards = c.guards := rfl
@[simp] theorem Chip.updTxn_sqCount (c : Chip) (f : TxnUnit → TxnUnit) : (c.updTxn f).sqCount = c.sqCount := rfl
@[simp] theorem Chip.updTxn_ports (c : Chip) (f : TxnUnit → TxnUnit) : (c.updTxn f).ports = c.ports := rfl
@[simp] theorem Chip.updTxn_xlat (c : Chip) (f : TxnUnit → TxnUnit) : (c.updTxn f).xlat = c.xlat := rfl
@[simp] theorem Chip.updTxn_dma (c : Chip) (f : TxnUnit → TxnUnit) : (c.updTxn f).dma = c.dma := rfl
@[simp] theorem Chip.updTxn_txn (c : Chip) (f : TxnUnit → TxnUnit) : (c.updTxn f).txn = f c.txn := rfl
@[simp] theorem Chip.updTxn_pages (c : Chip) (f : TxnUnit → TxnUnit) : (c.updTxn f).pages = c.pages := rfl
@[simp] theorem Chip.updTxn_chain (c : Chip) (f : TxnUnit → TxnUnit) : (c.updTxn f).chain = c.chain := rfl
@[simp] theorem Chip.updTxn_lanes (c : Chip) (f : TxnUnit → TxnUnit) : (c.updTxn f).lanes = c.lanes := rfl
@[simp] theorem Chip.updTxn_slots (c : Chip) (f : TxnUnit → TxnUnit) : (c.updTxn f).slots = c.slots := rfl
@[simp] theorem Chip.updTxn_eng (c : Chip) (f : TxnUnit → TxnUnit) : (c.updTxn f).eng = c.eng := rfl
@[simp] theorem Chip.updTxn_safety (c : Chip) (f : TxnUnit → TxnUnit) : (c.updTxn f).safety = c.safety := rfl
@[simp] theorem Chip.updTxn_sump (c : Chip) (f : TxnUnit → TxnUnit) : (c.updTxn f).sump = c.sump := rfl
@[simp] theorem Chip.updTxn_tiles (c : Chip) (f : TxnUnit → TxnUnit) : (c.updTxn f).tiles = c.tiles := rfl
@[simp] theorem Chip.updTxn_stns (c : Chip) (f : TxnUnit → TxnUnit) : (c.updTxn f).stns = c.stns := rfl
@[simp] theorem Chip.updTxn_belt (c : Chip) (f : TxnUnit → TxnUnit) : (c.updTxn f).belt = c.belt := rfl
@[simp] theorem Chip.updTxn_seam (c : Chip) (f : TxnUnit → TxnUnit) : (c.updTxn f).seam = c.seam := rfl
@[simp] theorem Chip.updTxn_drives (c : Chip) (f : TxnUnit → TxnUnit) : (c.updTxn f).drives = c.drives := rfl
@[simp] theorem Chip.updTxn_encs (c : Chip) (f : TxnUnit → TxnUnit) : (c.updTxn f).encs = c.encs := rfl
@[simp] theorem Chip.updTxn_fbCopy (c : Chip) (f : TxnUnit → TxnUnit) : (c.updTxn f).fbCopy = c.fbCopy := rfl
@[simp] theorem Chip.updTxn_halls (c : Chip) (f : TxnUnit → TxnUnit) : (c.updTxn f).halls = c.halls := rfl
@[simp] theorem Chip.updTxn_biss (c : Chip) (f : TxnUnit → TxnUnit) : (c.updTxn f).biss = c.biss := rfl
@[simp] theorem Chip.updTxn_mules (c : Chip) (f : TxnUnit → TxnUnit) : (c.updTxn f).mules = c.mules := rfl
@[simp] theorem Chip.updTxn_wl (c : Chip) (f : TxnUnit → TxnUnit) : (c.updTxn f).wl = c.wl := rfl
@[simp] theorem Chip.updTxn_free (c : Chip) (f : TxnUnit → TxnUnit) : (c.updTxn f).free = c.free := rfl
@[simp] theorem Chip.updTxn_emits (c : Chip) (f : TxnUnit → TxnUnit) : (c.updTxn f).emits = c.emits := rfl
@[simp] theorem Chip.updTxn_outs (c : Chip) (f : TxnUnit → TxnUnit) : (c.updTxn f).outs = c.outs := rfl

@[simp] theorem Chip.updEng_regs (c : Chip) (f : Eng → Eng) : (c.updEng f).regs = c.regs := rfl
@[simp] theorem Chip.updEng_shadow (c : Chip) (f : Eng → Eng) : (c.updEng f).shadow = c.shadow := rfl
@[simp] theorem Chip.updEng_active (c : Chip) (f : Eng → Eng) : (c.updEng f).active = c.active := rfl
@[simp] theorem Chip.updEng_nominal (c : Chip) (f : Eng → Eng) : (c.updEng f).nominal = c.nominal := rfl
@[simp] theorem Chip.updEng_zeros (c : Chip) (f : Eng → Eng) : (c.updEng f).zeros = c.zeros := rfl
@[simp] theorem Chip.updEng_latch (c : Chip) (f : Eng → Eng) : (c.updEng f).latch = c.latch := rfl
@[simp] theorem Chip.updEng_guards (c : Chip) (f : Eng → Eng) : (c.updEng f).guards = c.guards := rfl
@[simp] theorem Chip.updEng_sqCount (c : Chip) (f : Eng → Eng) : (c.updEng f).sqCount = c.sqCount := rfl
@[simp] theorem Chip.updEng_ports (c : Chip) (f : Eng → Eng) : (c.updEng f).ports = c.ports := rfl
@[simp] theorem Chip.updEng_xlat (c : Chip) (f : Eng → Eng) : (c.updEng f).xlat = c.xlat := rfl
@[simp] theorem Chip.updEng_dma (c : Chip) (f : Eng → Eng) : (c.updEng f).dma = c.dma := rfl
@[simp] theorem Chip.updEng_txn (c : Chip) (f : Eng → Eng) : (c.updEng f).txn = c.txn := rfl
@[simp] theorem Chip.updEng_pages (c : Chip) (f : Eng → Eng) : (c.updEng f).pages = c.pages := rfl
@[simp] theorem Chip.updEng_chain (c : Chip) (f : Eng → Eng) : (c.updEng f).chain = c.chain := rfl
@[simp] theorem Chip.updEng_lanes (c : Chip) (f : Eng → Eng) : (c.updEng f).lanes = c.lanes := rfl
@[simp] theorem Chip.updEng_slots (c : Chip) (f : Eng → Eng) : (c.updEng f).slots = c.slots := rfl
@[simp] theorem Chip.updEng_eng (c : Chip) (f : Eng → Eng) : (c.updEng f).eng = f c.eng := rfl
@[simp] theorem Chip.updEng_safety (c : Chip) (f : Eng → Eng) : (c.updEng f).safety = c.safety := rfl
@[simp] theorem Chip.updEng_sump (c : Chip) (f : Eng → Eng) : (c.updEng f).sump = c.sump := rfl
@[simp] theorem Chip.updEng_tiles (c : Chip) (f : Eng → Eng) : (c.updEng f).tiles = c.tiles := rfl
@[simp] theorem Chip.updEng_stns (c : Chip) (f : Eng → Eng) : (c.updEng f).stns = c.stns := rfl
@[simp] theorem Chip.updEng_belt (c : Chip) (f : Eng → Eng) : (c.updEng f).belt = c.belt := rfl
@[simp] theorem Chip.updEng_seam (c : Chip) (f : Eng → Eng) : (c.updEng f).seam = c.seam := rfl
@[simp] theorem Chip.updEng_drives (c : Chip) (f : Eng → Eng) : (c.updEng f).drives = c.drives := rfl
@[simp] theorem Chip.updEng_encs (c : Chip) (f : Eng → Eng) : (c.updEng f).encs = c.encs := rfl
@[simp] theorem Chip.updEng_fbCopy (c : Chip) (f : Eng → Eng) : (c.updEng f).fbCopy = c.fbCopy := rfl
@[simp] theorem Chip.updEng_halls (c : Chip) (f : Eng → Eng) : (c.updEng f).halls = c.halls := rfl
@[simp] theorem Chip.updEng_biss (c : Chip) (f : Eng → Eng) : (c.updEng f).biss = c.biss := rfl
@[simp] theorem Chip.updEng_mules (c : Chip) (f : Eng → Eng) : (c.updEng f).mules = c.mules := rfl
@[simp] theorem Chip.updEng_wl (c : Chip) (f : Eng → Eng) : (c.updEng f).wl = c.wl := rfl
@[simp] theorem Chip.updEng_free (c : Chip) (f : Eng → Eng) : (c.updEng f).free = c.free := rfl
@[simp] theorem Chip.updEng_emits (c : Chip) (f : Eng → Eng) : (c.updEng f).emits = c.emits := rfl
@[simp] theorem Chip.updEng_outs (c : Chip) (f : Eng → Eng) : (c.updEng f).outs = c.outs := rfl

@[simp] theorem Chip.updSafety_regs (c : Chip) (f : Safety → Safety) : (c.updSafety f).regs = c.regs := rfl
@[simp] theorem Chip.updSafety_shadow (c : Chip) (f : Safety → Safety) : (c.updSafety f).shadow = c.shadow := rfl
@[simp] theorem Chip.updSafety_active (c : Chip) (f : Safety → Safety) : (c.updSafety f).active = c.active := rfl
@[simp] theorem Chip.updSafety_nominal (c : Chip) (f : Safety → Safety) : (c.updSafety f).nominal = c.nominal := rfl
@[simp] theorem Chip.updSafety_zeros (c : Chip) (f : Safety → Safety) : (c.updSafety f).zeros = c.zeros := rfl
@[simp] theorem Chip.updSafety_latch (c : Chip) (f : Safety → Safety) : (c.updSafety f).latch = c.latch := rfl
@[simp] theorem Chip.updSafety_guards (c : Chip) (f : Safety → Safety) : (c.updSafety f).guards = c.guards := rfl
@[simp] theorem Chip.updSafety_sqCount (c : Chip) (f : Safety → Safety) : (c.updSafety f).sqCount = c.sqCount := rfl
@[simp] theorem Chip.updSafety_ports (c : Chip) (f : Safety → Safety) : (c.updSafety f).ports = c.ports := rfl
@[simp] theorem Chip.updSafety_xlat (c : Chip) (f : Safety → Safety) : (c.updSafety f).xlat = c.xlat := rfl
@[simp] theorem Chip.updSafety_dma (c : Chip) (f : Safety → Safety) : (c.updSafety f).dma = c.dma := rfl
@[simp] theorem Chip.updSafety_txn (c : Chip) (f : Safety → Safety) : (c.updSafety f).txn = c.txn := rfl
@[simp] theorem Chip.updSafety_pages (c : Chip) (f : Safety → Safety) : (c.updSafety f).pages = c.pages := rfl
@[simp] theorem Chip.updSafety_chain (c : Chip) (f : Safety → Safety) : (c.updSafety f).chain = c.chain := rfl
@[simp] theorem Chip.updSafety_lanes (c : Chip) (f : Safety → Safety) : (c.updSafety f).lanes = c.lanes := rfl
@[simp] theorem Chip.updSafety_slots (c : Chip) (f : Safety → Safety) : (c.updSafety f).slots = c.slots := rfl
@[simp] theorem Chip.updSafety_eng (c : Chip) (f : Safety → Safety) : (c.updSafety f).eng = c.eng := rfl
@[simp] theorem Chip.updSafety_safety (c : Chip) (f : Safety → Safety) : (c.updSafety f).safety = f c.safety := rfl
@[simp] theorem Chip.updSafety_sump (c : Chip) (f : Safety → Safety) : (c.updSafety f).sump = c.sump := rfl
@[simp] theorem Chip.updSafety_tiles (c : Chip) (f : Safety → Safety) : (c.updSafety f).tiles = c.tiles := rfl
@[simp] theorem Chip.updSafety_stns (c : Chip) (f : Safety → Safety) : (c.updSafety f).stns = c.stns := rfl
@[simp] theorem Chip.updSafety_belt (c : Chip) (f : Safety → Safety) : (c.updSafety f).belt = c.belt := rfl
@[simp] theorem Chip.updSafety_seam (c : Chip) (f : Safety → Safety) : (c.updSafety f).seam = c.seam := rfl
@[simp] theorem Chip.updSafety_drives (c : Chip) (f : Safety → Safety) : (c.updSafety f).drives = c.drives := rfl
@[simp] theorem Chip.updSafety_encs (c : Chip) (f : Safety → Safety) : (c.updSafety f).encs = c.encs := rfl
@[simp] theorem Chip.updSafety_fbCopy (c : Chip) (f : Safety → Safety) : (c.updSafety f).fbCopy = c.fbCopy := rfl
@[simp] theorem Chip.updSafety_halls (c : Chip) (f : Safety → Safety) : (c.updSafety f).halls = c.halls := rfl
@[simp] theorem Chip.updSafety_biss (c : Chip) (f : Safety → Safety) : (c.updSafety f).biss = c.biss := rfl
@[simp] theorem Chip.updSafety_mules (c : Chip) (f : Safety → Safety) : (c.updSafety f).mules = c.mules := rfl
@[simp] theorem Chip.updSafety_wl (c : Chip) (f : Safety → Safety) : (c.updSafety f).wl = c.wl := rfl
@[simp] theorem Chip.updSafety_free (c : Chip) (f : Safety → Safety) : (c.updSafety f).free = c.free := rfl
@[simp] theorem Chip.updSafety_emits (c : Chip) (f : Safety → Safety) : (c.updSafety f).emits = c.emits := rfl
@[simp] theorem Chip.updSafety_outs (c : Chip) (f : Safety → Safety) : (c.updSafety f).outs = c.outs := rfl

@[simp] theorem Chip.updSump_regs (c : Chip) (f : Sump → Sump) : (c.updSump f).regs = c.regs := rfl
@[simp] theorem Chip.updSump_shadow (c : Chip) (f : Sump → Sump) : (c.updSump f).shadow = c.shadow := rfl
@[simp] theorem Chip.updSump_active (c : Chip) (f : Sump → Sump) : (c.updSump f).active = c.active := rfl
@[simp] theorem Chip.updSump_nominal (c : Chip) (f : Sump → Sump) : (c.updSump f).nominal = c.nominal := rfl
@[simp] theorem Chip.updSump_zeros (c : Chip) (f : Sump → Sump) : (c.updSump f).zeros = c.zeros := rfl
@[simp] theorem Chip.updSump_latch (c : Chip) (f : Sump → Sump) : (c.updSump f).latch = c.latch := rfl
@[simp] theorem Chip.updSump_guards (c : Chip) (f : Sump → Sump) : (c.updSump f).guards = c.guards := rfl
@[simp] theorem Chip.updSump_sqCount (c : Chip) (f : Sump → Sump) : (c.updSump f).sqCount = c.sqCount := rfl
@[simp] theorem Chip.updSump_ports (c : Chip) (f : Sump → Sump) : (c.updSump f).ports = c.ports := rfl
@[simp] theorem Chip.updSump_xlat (c : Chip) (f : Sump → Sump) : (c.updSump f).xlat = c.xlat := rfl
@[simp] theorem Chip.updSump_dma (c : Chip) (f : Sump → Sump) : (c.updSump f).dma = c.dma := rfl
@[simp] theorem Chip.updSump_txn (c : Chip) (f : Sump → Sump) : (c.updSump f).txn = c.txn := rfl
@[simp] theorem Chip.updSump_pages (c : Chip) (f : Sump → Sump) : (c.updSump f).pages = c.pages := rfl
@[simp] theorem Chip.updSump_chain (c : Chip) (f : Sump → Sump) : (c.updSump f).chain = c.chain := rfl
@[simp] theorem Chip.updSump_lanes (c : Chip) (f : Sump → Sump) : (c.updSump f).lanes = c.lanes := rfl
@[simp] theorem Chip.updSump_slots (c : Chip) (f : Sump → Sump) : (c.updSump f).slots = c.slots := rfl
@[simp] theorem Chip.updSump_eng (c : Chip) (f : Sump → Sump) : (c.updSump f).eng = c.eng := rfl
@[simp] theorem Chip.updSump_safety (c : Chip) (f : Sump → Sump) : (c.updSump f).safety = c.safety := rfl
@[simp] theorem Chip.updSump_sump (c : Chip) (f : Sump → Sump) : (c.updSump f).sump = f c.sump := rfl
@[simp] theorem Chip.updSump_tiles (c : Chip) (f : Sump → Sump) : (c.updSump f).tiles = c.tiles := rfl
@[simp] theorem Chip.updSump_stns (c : Chip) (f : Sump → Sump) : (c.updSump f).stns = c.stns := rfl
@[simp] theorem Chip.updSump_belt (c : Chip) (f : Sump → Sump) : (c.updSump f).belt = c.belt := rfl
@[simp] theorem Chip.updSump_seam (c : Chip) (f : Sump → Sump) : (c.updSump f).seam = c.seam := rfl
@[simp] theorem Chip.updSump_drives (c : Chip) (f : Sump → Sump) : (c.updSump f).drives = c.drives := rfl
@[simp] theorem Chip.updSump_encs (c : Chip) (f : Sump → Sump) : (c.updSump f).encs = c.encs := rfl
@[simp] theorem Chip.updSump_fbCopy (c : Chip) (f : Sump → Sump) : (c.updSump f).fbCopy = c.fbCopy := rfl
@[simp] theorem Chip.updSump_halls (c : Chip) (f : Sump → Sump) : (c.updSump f).halls = c.halls := rfl
@[simp] theorem Chip.updSump_biss (c : Chip) (f : Sump → Sump) : (c.updSump f).biss = c.biss := rfl
@[simp] theorem Chip.updSump_mules (c : Chip) (f : Sump → Sump) : (c.updSump f).mules = c.mules := rfl
@[simp] theorem Chip.updSump_wl (c : Chip) (f : Sump → Sump) : (c.updSump f).wl = c.wl := rfl
@[simp] theorem Chip.updSump_free (c : Chip) (f : Sump → Sump) : (c.updSump f).free = c.free := rfl
@[simp] theorem Chip.updSump_emits (c : Chip) (f : Sump → Sump) : (c.updSump f).emits = c.emits := rfl
@[simp] theorem Chip.updSump_outs (c : Chip) (f : Sump → Sump) : (c.updSump f).outs = c.outs := rfl

@[simp] theorem Chip.updSeam_regs (c : Chip) (f : Seam → Seam) : (c.updSeam f).regs = c.regs := rfl
@[simp] theorem Chip.updSeam_shadow (c : Chip) (f : Seam → Seam) : (c.updSeam f).shadow = c.shadow := rfl
@[simp] theorem Chip.updSeam_active (c : Chip) (f : Seam → Seam) : (c.updSeam f).active = c.active := rfl
@[simp] theorem Chip.updSeam_nominal (c : Chip) (f : Seam → Seam) : (c.updSeam f).nominal = c.nominal := rfl
@[simp] theorem Chip.updSeam_zeros (c : Chip) (f : Seam → Seam) : (c.updSeam f).zeros = c.zeros := rfl
@[simp] theorem Chip.updSeam_latch (c : Chip) (f : Seam → Seam) : (c.updSeam f).latch = c.latch := rfl
@[simp] theorem Chip.updSeam_guards (c : Chip) (f : Seam → Seam) : (c.updSeam f).guards = c.guards := rfl
@[simp] theorem Chip.updSeam_sqCount (c : Chip) (f : Seam → Seam) : (c.updSeam f).sqCount = c.sqCount := rfl
@[simp] theorem Chip.updSeam_ports (c : Chip) (f : Seam → Seam) : (c.updSeam f).ports = c.ports := rfl
@[simp] theorem Chip.updSeam_xlat (c : Chip) (f : Seam → Seam) : (c.updSeam f).xlat = c.xlat := rfl
@[simp] theorem Chip.updSeam_dma (c : Chip) (f : Seam → Seam) : (c.updSeam f).dma = c.dma := rfl
@[simp] theorem Chip.updSeam_txn (c : Chip) (f : Seam → Seam) : (c.updSeam f).txn = c.txn := rfl
@[simp] theorem Chip.updSeam_pages (c : Chip) (f : Seam → Seam) : (c.updSeam f).pages = c.pages := rfl
@[simp] theorem Chip.updSeam_chain (c : Chip) (f : Seam → Seam) : (c.updSeam f).chain = c.chain := rfl
@[simp] theorem Chip.updSeam_lanes (c : Chip) (f : Seam → Seam) : (c.updSeam f).lanes = c.lanes := rfl
@[simp] theorem Chip.updSeam_slots (c : Chip) (f : Seam → Seam) : (c.updSeam f).slots = c.slots := rfl
@[simp] theorem Chip.updSeam_eng (c : Chip) (f : Seam → Seam) : (c.updSeam f).eng = c.eng := rfl
@[simp] theorem Chip.updSeam_safety (c : Chip) (f : Seam → Seam) : (c.updSeam f).safety = c.safety := rfl
@[simp] theorem Chip.updSeam_sump (c : Chip) (f : Seam → Seam) : (c.updSeam f).sump = c.sump := rfl
@[simp] theorem Chip.updSeam_tiles (c : Chip) (f : Seam → Seam) : (c.updSeam f).tiles = c.tiles := rfl
@[simp] theorem Chip.updSeam_stns (c : Chip) (f : Seam → Seam) : (c.updSeam f).stns = c.stns := rfl
@[simp] theorem Chip.updSeam_belt (c : Chip) (f : Seam → Seam) : (c.updSeam f).belt = c.belt := rfl
@[simp] theorem Chip.updSeam_seam (c : Chip) (f : Seam → Seam) : (c.updSeam f).seam = f c.seam := rfl
@[simp] theorem Chip.updSeam_drives (c : Chip) (f : Seam → Seam) : (c.updSeam f).drives = c.drives := rfl
@[simp] theorem Chip.updSeam_encs (c : Chip) (f : Seam → Seam) : (c.updSeam f).encs = c.encs := rfl
@[simp] theorem Chip.updSeam_fbCopy (c : Chip) (f : Seam → Seam) : (c.updSeam f).fbCopy = c.fbCopy := rfl
@[simp] theorem Chip.updSeam_halls (c : Chip) (f : Seam → Seam) : (c.updSeam f).halls = c.halls := rfl
@[simp] theorem Chip.updSeam_biss (c : Chip) (f : Seam → Seam) : (c.updSeam f).biss = c.biss := rfl
@[simp] theorem Chip.updSeam_mules (c : Chip) (f : Seam → Seam) : (c.updSeam f).mules = c.mules := rfl
@[simp] theorem Chip.updSeam_wl (c : Chip) (f : Seam → Seam) : (c.updSeam f).wl = c.wl := rfl
@[simp] theorem Chip.updSeam_free (c : Chip) (f : Seam → Seam) : (c.updSeam f).free = c.free := rfl
@[simp] theorem Chip.updSeam_emits (c : Chip) (f : Seam → Seam) : (c.updSeam f).emits = c.emits := rfl
@[simp] theorem Chip.updSeam_outs (c : Chip) (f : Seam → Seam) : (c.updSeam f).outs = c.outs := rfl

@[simp] theorem Chip.updWl_regs (c : Chip) (f : Windlass → Windlass) : (c.updWl f).regs = c.regs := rfl
@[simp] theorem Chip.updWl_shadow (c : Chip) (f : Windlass → Windlass) : (c.updWl f).shadow = c.shadow := rfl
@[simp] theorem Chip.updWl_active (c : Chip) (f : Windlass → Windlass) : (c.updWl f).active = c.active := rfl
@[simp] theorem Chip.updWl_nominal (c : Chip) (f : Windlass → Windlass) : (c.updWl f).nominal = c.nominal := rfl
@[simp] theorem Chip.updWl_zeros (c : Chip) (f : Windlass → Windlass) : (c.updWl f).zeros = c.zeros := rfl
@[simp] theorem Chip.updWl_latch (c : Chip) (f : Windlass → Windlass) : (c.updWl f).latch = c.latch := rfl
@[simp] theorem Chip.updWl_guards (c : Chip) (f : Windlass → Windlass) : (c.updWl f).guards = c.guards := rfl
@[simp] theorem Chip.updWl_sqCount (c : Chip) (f : Windlass → Windlass) : (c.updWl f).sqCount = c.sqCount := rfl
@[simp] theorem Chip.updWl_ports (c : Chip) (f : Windlass → Windlass) : (c.updWl f).ports = c.ports := rfl
@[simp] theorem Chip.updWl_xlat (c : Chip) (f : Windlass → Windlass) : (c.updWl f).xlat = c.xlat := rfl
@[simp] theorem Chip.updWl_dma (c : Chip) (f : Windlass → Windlass) : (c.updWl f).dma = c.dma := rfl
@[simp] theorem Chip.updWl_txn (c : Chip) (f : Windlass → Windlass) : (c.updWl f).txn = c.txn := rfl
@[simp] theorem Chip.updWl_pages (c : Chip) (f : Windlass → Windlass) : (c.updWl f).pages = c.pages := rfl
@[simp] theorem Chip.updWl_chain (c : Chip) (f : Windlass → Windlass) : (c.updWl f).chain = c.chain := rfl
@[simp] theorem Chip.updWl_lanes (c : Chip) (f : Windlass → Windlass) : (c.updWl f).lanes = c.lanes := rfl
@[simp] theorem Chip.updWl_slots (c : Chip) (f : Windlass → Windlass) : (c.updWl f).slots = c.slots := rfl
@[simp] theorem Chip.updWl_eng (c : Chip) (f : Windlass → Windlass) : (c.updWl f).eng = c.eng := rfl
@[simp] theorem Chip.updWl_safety (c : Chip) (f : Windlass → Windlass) : (c.updWl f).safety = c.safety := rfl
@[simp] theorem Chip.updWl_sump (c : Chip) (f : Windlass → Windlass) : (c.updWl f).sump = c.sump := rfl
@[simp] theorem Chip.updWl_tiles (c : Chip) (f : Windlass → Windlass) : (c.updWl f).tiles = c.tiles := rfl
@[simp] theorem Chip.updWl_stns (c : Chip) (f : Windlass → Windlass) : (c.updWl f).stns = c.stns := rfl
@[simp] theorem Chip.updWl_belt (c : Chip) (f : Windlass → Windlass) : (c.updWl f).belt = c.belt := rfl
@[simp] theorem Chip.updWl_seam (c : Chip) (f : Windlass → Windlass) : (c.updWl f).seam = c.seam := rfl
@[simp] theorem Chip.updWl_drives (c : Chip) (f : Windlass → Windlass) : (c.updWl f).drives = c.drives := rfl
@[simp] theorem Chip.updWl_encs (c : Chip) (f : Windlass → Windlass) : (c.updWl f).encs = c.encs := rfl
@[simp] theorem Chip.updWl_fbCopy (c : Chip) (f : Windlass → Windlass) : (c.updWl f).fbCopy = c.fbCopy := rfl
@[simp] theorem Chip.updWl_halls (c : Chip) (f : Windlass → Windlass) : (c.updWl f).halls = c.halls := rfl
@[simp] theorem Chip.updWl_biss (c : Chip) (f : Windlass → Windlass) : (c.updWl f).biss = c.biss := rfl
@[simp] theorem Chip.updWl_mules (c : Chip) (f : Windlass → Windlass) : (c.updWl f).mules = c.mules := rfl
@[simp] theorem Chip.updWl_wl (c : Chip) (f : Windlass → Windlass) : (c.updWl f).wl = f c.wl := rfl
@[simp] theorem Chip.updWl_free (c : Chip) (f : Windlass → Windlass) : (c.updWl f).free = c.free := rfl
@[simp] theorem Chip.updWl_emits (c : Chip) (f : Windlass → Windlass) : (c.updWl f).emits = c.emits := rfl
@[simp] theorem Chip.updWl_outs (c : Chip) (f : Windlass → Windlass) : (c.updWl f).outs = c.outs := rfl

@[simp] theorem Chip.updTile_regs (c : Chip) (i : Nat) (f : Tile → Tile) : (c.updTile i f).regs = c.regs := rfl
@[simp] theorem Chip.updTile_shadow (c : Chip) (i : Nat) (f : Tile → Tile) : (c.updTile i f).shadow = c.shadow := rfl
@[simp] theorem Chip.updTile_active (c : Chip) (i : Nat) (f : Tile → Tile) : (c.updTile i f).active = c.active := rfl
@[simp] theorem Chip.updTile_nominal (c : Chip) (i : Nat) (f : Tile → Tile) : (c.updTile i f).nominal = c.nominal := rfl
@[simp] theorem Chip.updTile_zeros (c : Chip) (i : Nat) (f : Tile → Tile) : (c.updTile i f).zeros = c.zeros := rfl
@[simp] theorem Chip.updTile_latch (c : Chip) (i : Nat) (f : Tile → Tile) : (c.updTile i f).latch = c.latch := rfl
@[simp] theorem Chip.updTile_guards (c : Chip) (i : Nat) (f : Tile → Tile) : (c.updTile i f).guards = c.guards := rfl
@[simp] theorem Chip.updTile_sqCount (c : Chip) (i : Nat) (f : Tile → Tile) : (c.updTile i f).sqCount = c.sqCount := rfl
@[simp] theorem Chip.updTile_ports (c : Chip) (i : Nat) (f : Tile → Tile) : (c.updTile i f).ports = c.ports := rfl
@[simp] theorem Chip.updTile_xlat (c : Chip) (i : Nat) (f : Tile → Tile) : (c.updTile i f).xlat = c.xlat := rfl
@[simp] theorem Chip.updTile_dma (c : Chip) (i : Nat) (f : Tile → Tile) : (c.updTile i f).dma = c.dma := rfl
@[simp] theorem Chip.updTile_txn (c : Chip) (i : Nat) (f : Tile → Tile) : (c.updTile i f).txn = c.txn := rfl
@[simp] theorem Chip.updTile_pages (c : Chip) (i : Nat) (f : Tile → Tile) : (c.updTile i f).pages = c.pages := rfl
@[simp] theorem Chip.updTile_chain (c : Chip) (i : Nat) (f : Tile → Tile) : (c.updTile i f).chain = c.chain := rfl
@[simp] theorem Chip.updTile_lanes (c : Chip) (i : Nat) (f : Tile → Tile) : (c.updTile i f).lanes = c.lanes := rfl
@[simp] theorem Chip.updTile_slots (c : Chip) (i : Nat) (f : Tile → Tile) : (c.updTile i f).slots = c.slots := rfl
@[simp] theorem Chip.updTile_eng (c : Chip) (i : Nat) (f : Tile → Tile) : (c.updTile i f).eng = c.eng := rfl
@[simp] theorem Chip.updTile_safety (c : Chip) (i : Nat) (f : Tile → Tile) : (c.updTile i f).safety = c.safety := rfl
@[simp] theorem Chip.updTile_sump (c : Chip) (i : Nat) (f : Tile → Tile) : (c.updTile i f).sump = c.sump := rfl
@[simp] theorem Chip.updTile_tiles (c : Chip) (i : Nat) (f : Tile → Tile) : (c.updTile i f).tiles = updAt c.tiles i f := rfl
@[simp] theorem Chip.updTile_stns (c : Chip) (i : Nat) (f : Tile → Tile) : (c.updTile i f).stns = c.stns := rfl
@[simp] theorem Chip.updTile_belt (c : Chip) (i : Nat) (f : Tile → Tile) : (c.updTile i f).belt = c.belt := rfl
@[simp] theorem Chip.updTile_seam (c : Chip) (i : Nat) (f : Tile → Tile) : (c.updTile i f).seam = c.seam := rfl
@[simp] theorem Chip.updTile_drives (c : Chip) (i : Nat) (f : Tile → Tile) : (c.updTile i f).drives = c.drives := rfl
@[simp] theorem Chip.updTile_encs (c : Chip) (i : Nat) (f : Tile → Tile) : (c.updTile i f).encs = c.encs := rfl
@[simp] theorem Chip.updTile_fbCopy (c : Chip) (i : Nat) (f : Tile → Tile) : (c.updTile i f).fbCopy = c.fbCopy := rfl
@[simp] theorem Chip.updTile_halls (c : Chip) (i : Nat) (f : Tile → Tile) : (c.updTile i f).halls = c.halls := rfl
@[simp] theorem Chip.updTile_biss (c : Chip) (i : Nat) (f : Tile → Tile) : (c.updTile i f).biss = c.biss := rfl
@[simp] theorem Chip.updTile_mules (c : Chip) (i : Nat) (f : Tile → Tile) : (c.updTile i f).mules = c.mules := rfl
@[simp] theorem Chip.updTile_wl (c : Chip) (i : Nat) (f : Tile → Tile) : (c.updTile i f).wl = c.wl := rfl
@[simp] theorem Chip.updTile_free (c : Chip) (i : Nat) (f : Tile → Tile) : (c.updTile i f).free = c.free := rfl
@[simp] theorem Chip.updTile_emits (c : Chip) (i : Nat) (f : Tile → Tile) : (c.updTile i f).emits = c.emits := rfl
@[simp] theorem Chip.updTile_outs (c : Chip) (i : Nat) (f : Tile → Tile) : (c.updTile i f).outs = c.outs := rfl

@[simp] theorem Chip.updStn_regs (c : Chip) (i : Nat) (f : Stn → Stn) : (c.updStn i f).regs = c.regs := rfl
@[simp] theorem Chip.updStn_shadow (c : Chip) (i : Nat) (f : Stn → Stn) : (c.updStn i f).shadow = c.shadow := rfl
@[simp] theorem Chip.updStn_active (c : Chip) (i : Nat) (f : Stn → Stn) : (c.updStn i f).active = c.active := rfl
@[simp] theorem Chip.updStn_nominal (c : Chip) (i : Nat) (f : Stn → Stn) : (c.updStn i f).nominal = c.nominal := rfl
@[simp] theorem Chip.updStn_zeros (c : Chip) (i : Nat) (f : Stn → Stn) : (c.updStn i f).zeros = c.zeros := rfl
@[simp] theorem Chip.updStn_latch (c : Chip) (i : Nat) (f : Stn → Stn) : (c.updStn i f).latch = c.latch := rfl
@[simp] theorem Chip.updStn_guards (c : Chip) (i : Nat) (f : Stn → Stn) : (c.updStn i f).guards = c.guards := rfl
@[simp] theorem Chip.updStn_sqCount (c : Chip) (i : Nat) (f : Stn → Stn) : (c.updStn i f).sqCount = c.sqCount := rfl
@[simp] theorem Chip.updStn_ports (c : Chip) (i : Nat) (f : Stn → Stn) : (c.updStn i f).ports = c.ports := rfl
@[simp] theorem Chip.updStn_xlat (c : Chip) (i : Nat) (f : Stn → Stn) : (c.updStn i f).xlat = c.xlat := rfl
@[simp] theorem Chip.updStn_dma (c : Chip) (i : Nat) (f : Stn → Stn) : (c.updStn i f).dma = c.dma := rfl
@[simp] theorem Chip.updStn_txn (c : Chip) (i : Nat) (f : Stn → Stn) : (c.updStn i f).txn = c.txn := rfl
@[simp] theorem Chip.updStn_pages (c : Chip) (i : Nat) (f : Stn → Stn) : (c.updStn i f).pages = c.pages := rfl
@[simp] theorem Chip.updStn_chain (c : Chip) (i : Nat) (f : Stn → Stn) : (c.updStn i f).chain = c.chain := rfl
@[simp] theorem Chip.updStn_lanes (c : Chip) (i : Nat) (f : Stn → Stn) : (c.updStn i f).lanes = c.lanes := rfl
@[simp] theorem Chip.updStn_slots (c : Chip) (i : Nat) (f : Stn → Stn) : (c.updStn i f).slots = c.slots := rfl
@[simp] theorem Chip.updStn_eng (c : Chip) (i : Nat) (f : Stn → Stn) : (c.updStn i f).eng = c.eng := rfl
@[simp] theorem Chip.updStn_safety (c : Chip) (i : Nat) (f : Stn → Stn) : (c.updStn i f).safety = c.safety := rfl
@[simp] theorem Chip.updStn_sump (c : Chip) (i : Nat) (f : Stn → Stn) : (c.updStn i f).sump = c.sump := rfl
@[simp] theorem Chip.updStn_tiles (c : Chip) (i : Nat) (f : Stn → Stn) : (c.updStn i f).tiles = c.tiles := rfl
@[simp] theorem Chip.updStn_stns (c : Chip) (i : Nat) (f : Stn → Stn) : (c.updStn i f).stns = updAt c.stns i f := rfl
@[simp] theorem Chip.updStn_belt (c : Chip) (i : Nat) (f : Stn → Stn) : (c.updStn i f).belt = c.belt := rfl
@[simp] theorem Chip.updStn_seam (c : Chip) (i : Nat) (f : Stn → Stn) : (c.updStn i f).seam = c.seam := rfl
@[simp] theorem Chip.updStn_drives (c : Chip) (i : Nat) (f : Stn → Stn) : (c.updStn i f).drives = c.drives := rfl
@[simp] theorem Chip.updStn_encs (c : Chip) (i : Nat) (f : Stn → Stn) : (c.updStn i f).encs = c.encs := rfl
@[simp] theorem Chip.updStn_fbCopy (c : Chip) (i : Nat) (f : Stn → Stn) : (c.updStn i f).fbCopy = c.fbCopy := rfl
@[simp] theorem Chip.updStn_halls (c : Chip) (i : Nat) (f : Stn → Stn) : (c.updStn i f).halls = c.halls := rfl
@[simp] theorem Chip.updStn_biss (c : Chip) (i : Nat) (f : Stn → Stn) : (c.updStn i f).biss = c.biss := rfl
@[simp] theorem Chip.updStn_mules (c : Chip) (i : Nat) (f : Stn → Stn) : (c.updStn i f).mules = c.mules := rfl
@[simp] theorem Chip.updStn_wl (c : Chip) (i : Nat) (f : Stn → Stn) : (c.updStn i f).wl = c.wl := rfl
@[simp] theorem Chip.updStn_free (c : Chip) (i : Nat) (f : Stn → Stn) : (c.updStn i f).free = c.free := rfl
@[simp] theorem Chip.updStn_emits (c : Chip) (i : Nat) (f : Stn → Stn) : (c.updStn i f).emits = c.emits := rfl
@[simp] theorem Chip.updStn_outs (c : Chip) (i : Nat) (f : Stn → Stn) : (c.updStn i f).outs = c.outs := rfl

@[simp] theorem Chip.updDrive_regs (c : Chip) (i : Nat) (f : Drive → Drive) : (c.updDrive i f).regs = c.regs := rfl
@[simp] theorem Chip.updDrive_shadow (c : Chip) (i : Nat) (f : Drive → Drive) : (c.updDrive i f).shadow = c.shadow := rfl
@[simp] theorem Chip.updDrive_active (c : Chip) (i : Nat) (f : Drive → Drive) : (c.updDrive i f).active = c.active := rfl
@[simp] theorem Chip.updDrive_nominal (c : Chip) (i : Nat) (f : Drive → Drive) : (c.updDrive i f).nominal = c.nominal := rfl
@[simp] theorem Chip.updDrive_zeros (c : Chip) (i : Nat) (f : Drive → Drive) : (c.updDrive i f).zeros = c.zeros := rfl
@[simp] theorem Chip.updDrive_latch (c : Chip) (i : Nat) (f : Drive → Drive) : (c.updDrive i f).latch = c.latch := rfl
@[simp] theorem Chip.updDrive_guards (c : Chip) (i : Nat) (f : Drive → Drive) : (c.updDrive i f).guards = c.guards := rfl
@[simp] theorem Chip.updDrive_sqCount (c : Chip) (i : Nat) (f : Drive → Drive) : (c.updDrive i f).sqCount = c.sqCount := rfl
@[simp] theorem Chip.updDrive_ports (c : Chip) (i : Nat) (f : Drive → Drive) : (c.updDrive i f).ports = c.ports := rfl
@[simp] theorem Chip.updDrive_xlat (c : Chip) (i : Nat) (f : Drive → Drive) : (c.updDrive i f).xlat = c.xlat := rfl
@[simp] theorem Chip.updDrive_dma (c : Chip) (i : Nat) (f : Drive → Drive) : (c.updDrive i f).dma = c.dma := rfl
@[simp] theorem Chip.updDrive_txn (c : Chip) (i : Nat) (f : Drive → Drive) : (c.updDrive i f).txn = c.txn := rfl
@[simp] theorem Chip.updDrive_pages (c : Chip) (i : Nat) (f : Drive → Drive) : (c.updDrive i f).pages = c.pages := rfl
@[simp] theorem Chip.updDrive_chain (c : Chip) (i : Nat) (f : Drive → Drive) : (c.updDrive i f).chain = c.chain := rfl
@[simp] theorem Chip.updDrive_lanes (c : Chip) (i : Nat) (f : Drive → Drive) : (c.updDrive i f).lanes = c.lanes := rfl
@[simp] theorem Chip.updDrive_slots (c : Chip) (i : Nat) (f : Drive → Drive) : (c.updDrive i f).slots = c.slots := rfl
@[simp] theorem Chip.updDrive_eng (c : Chip) (i : Nat) (f : Drive → Drive) : (c.updDrive i f).eng = c.eng := rfl
@[simp] theorem Chip.updDrive_safety (c : Chip) (i : Nat) (f : Drive → Drive) : (c.updDrive i f).safety = c.safety := rfl
@[simp] theorem Chip.updDrive_sump (c : Chip) (i : Nat) (f : Drive → Drive) : (c.updDrive i f).sump = c.sump := rfl
@[simp] theorem Chip.updDrive_tiles (c : Chip) (i : Nat) (f : Drive → Drive) : (c.updDrive i f).tiles = c.tiles := rfl
@[simp] theorem Chip.updDrive_stns (c : Chip) (i : Nat) (f : Drive → Drive) : (c.updDrive i f).stns = c.stns := rfl
@[simp] theorem Chip.updDrive_belt (c : Chip) (i : Nat) (f : Drive → Drive) : (c.updDrive i f).belt = c.belt := rfl
@[simp] theorem Chip.updDrive_seam (c : Chip) (i : Nat) (f : Drive → Drive) : (c.updDrive i f).seam = c.seam := rfl
@[simp] theorem Chip.updDrive_drives (c : Chip) (i : Nat) (f : Drive → Drive) : (c.updDrive i f).drives = updAt c.drives i f := rfl
@[simp] theorem Chip.updDrive_encs (c : Chip) (i : Nat) (f : Drive → Drive) : (c.updDrive i f).encs = c.encs := rfl
@[simp] theorem Chip.updDrive_fbCopy (c : Chip) (i : Nat) (f : Drive → Drive) : (c.updDrive i f).fbCopy = c.fbCopy := rfl
@[simp] theorem Chip.updDrive_halls (c : Chip) (i : Nat) (f : Drive → Drive) : (c.updDrive i f).halls = c.halls := rfl
@[simp] theorem Chip.updDrive_biss (c : Chip) (i : Nat) (f : Drive → Drive) : (c.updDrive i f).biss = c.biss := rfl
@[simp] theorem Chip.updDrive_mules (c : Chip) (i : Nat) (f : Drive → Drive) : (c.updDrive i f).mules = c.mules := rfl
@[simp] theorem Chip.updDrive_wl (c : Chip) (i : Nat) (f : Drive → Drive) : (c.updDrive i f).wl = c.wl := rfl
@[simp] theorem Chip.updDrive_free (c : Chip) (i : Nat) (f : Drive → Drive) : (c.updDrive i f).free = c.free := rfl
@[simp] theorem Chip.updDrive_emits (c : Chip) (i : Nat) (f : Drive → Drive) : (c.updDrive i f).emits = c.emits := rfl
@[simp] theorem Chip.updDrive_outs (c : Chip) (i : Nat) (f : Drive → Drive) : (c.updDrive i f).outs = c.outs := rfl

@[simp] theorem Chip.updEnc_regs (c : Chip) (i : Nat) (f : Enc → Enc) : (c.updEnc i f).regs = c.regs := rfl
@[simp] theorem Chip.updEnc_shadow (c : Chip) (i : Nat) (f : Enc → Enc) : (c.updEnc i f).shadow = c.shadow := rfl
@[simp] theorem Chip.updEnc_active (c : Chip) (i : Nat) (f : Enc → Enc) : (c.updEnc i f).active = c.active := rfl
@[simp] theorem Chip.updEnc_nominal (c : Chip) (i : Nat) (f : Enc → Enc) : (c.updEnc i f).nominal = c.nominal := rfl
@[simp] theorem Chip.updEnc_zeros (c : Chip) (i : Nat) (f : Enc → Enc) : (c.updEnc i f).zeros = c.zeros := rfl
@[simp] theorem Chip.updEnc_latch (c : Chip) (i : Nat) (f : Enc → Enc) : (c.updEnc i f).latch = c.latch := rfl
@[simp] theorem Chip.updEnc_guards (c : Chip) (i : Nat) (f : Enc → Enc) : (c.updEnc i f).guards = c.guards := rfl
@[simp] theorem Chip.updEnc_sqCount (c : Chip) (i : Nat) (f : Enc → Enc) : (c.updEnc i f).sqCount = c.sqCount := rfl
@[simp] theorem Chip.updEnc_ports (c : Chip) (i : Nat) (f : Enc → Enc) : (c.updEnc i f).ports = c.ports := rfl
@[simp] theorem Chip.updEnc_xlat (c : Chip) (i : Nat) (f : Enc → Enc) : (c.updEnc i f).xlat = c.xlat := rfl
@[simp] theorem Chip.updEnc_dma (c : Chip) (i : Nat) (f : Enc → Enc) : (c.updEnc i f).dma = c.dma := rfl
@[simp] theorem Chip.updEnc_txn (c : Chip) (i : Nat) (f : Enc → Enc) : (c.updEnc i f).txn = c.txn := rfl
@[simp] theorem Chip.updEnc_pages (c : Chip) (i : Nat) (f : Enc → Enc) : (c.updEnc i f).pages = c.pages := rfl
@[simp] theorem Chip.updEnc_chain (c : Chip) (i : Nat) (f : Enc → Enc) : (c.updEnc i f).chain = c.chain := rfl
@[simp] theorem Chip.updEnc_lanes (c : Chip) (i : Nat) (f : Enc → Enc) : (c.updEnc i f).lanes = c.lanes := rfl
@[simp] theorem Chip.updEnc_slots (c : Chip) (i : Nat) (f : Enc → Enc) : (c.updEnc i f).slots = c.slots := rfl
@[simp] theorem Chip.updEnc_eng (c : Chip) (i : Nat) (f : Enc → Enc) : (c.updEnc i f).eng = c.eng := rfl
@[simp] theorem Chip.updEnc_safety (c : Chip) (i : Nat) (f : Enc → Enc) : (c.updEnc i f).safety = c.safety := rfl
@[simp] theorem Chip.updEnc_sump (c : Chip) (i : Nat) (f : Enc → Enc) : (c.updEnc i f).sump = c.sump := rfl
@[simp] theorem Chip.updEnc_tiles (c : Chip) (i : Nat) (f : Enc → Enc) : (c.updEnc i f).tiles = c.tiles := rfl
@[simp] theorem Chip.updEnc_stns (c : Chip) (i : Nat) (f : Enc → Enc) : (c.updEnc i f).stns = c.stns := rfl
@[simp] theorem Chip.updEnc_belt (c : Chip) (i : Nat) (f : Enc → Enc) : (c.updEnc i f).belt = c.belt := rfl
@[simp] theorem Chip.updEnc_seam (c : Chip) (i : Nat) (f : Enc → Enc) : (c.updEnc i f).seam = c.seam := rfl
@[simp] theorem Chip.updEnc_drives (c : Chip) (i : Nat) (f : Enc → Enc) : (c.updEnc i f).drives = c.drives := rfl
@[simp] theorem Chip.updEnc_encs (c : Chip) (i : Nat) (f : Enc → Enc) : (c.updEnc i f).encs = updAt c.encs i f := rfl
@[simp] theorem Chip.updEnc_fbCopy (c : Chip) (i : Nat) (f : Enc → Enc) : (c.updEnc i f).fbCopy = c.fbCopy := rfl
@[simp] theorem Chip.updEnc_halls (c : Chip) (i : Nat) (f : Enc → Enc) : (c.updEnc i f).halls = c.halls := rfl
@[simp] theorem Chip.updEnc_biss (c : Chip) (i : Nat) (f : Enc → Enc) : (c.updEnc i f).biss = c.biss := rfl
@[simp] theorem Chip.updEnc_mules (c : Chip) (i : Nat) (f : Enc → Enc) : (c.updEnc i f).mules = c.mules := rfl
@[simp] theorem Chip.updEnc_wl (c : Chip) (i : Nat) (f : Enc → Enc) : (c.updEnc i f).wl = c.wl := rfl
@[simp] theorem Chip.updEnc_free (c : Chip) (i : Nat) (f : Enc → Enc) : (c.updEnc i f).free = c.free := rfl
@[simp] theorem Chip.updEnc_emits (c : Chip) (i : Nat) (f : Enc → Enc) : (c.updEnc i f).emits = c.emits := rfl
@[simp] theorem Chip.updEnc_outs (c : Chip) (i : Nat) (f : Enc → Enc) : (c.updEnc i f).outs = c.outs := rfl

@[simp] theorem Chip.updHall_regs (c : Chip) (i : Nat) (f : Hall → Hall) : (c.updHall i f).regs = c.regs := rfl
@[simp] theorem Chip.updHall_shadow (c : Chip) (i : Nat) (f : Hall → Hall) : (c.updHall i f).shadow = c.shadow := rfl
@[simp] theorem Chip.updHall_active (c : Chip) (i : Nat) (f : Hall → Hall) : (c.updHall i f).active = c.active := rfl
@[simp] theorem Chip.updHall_nominal (c : Chip) (i : Nat) (f : Hall → Hall) : (c.updHall i f).nominal = c.nominal := rfl
@[simp] theorem Chip.updHall_zeros (c : Chip) (i : Nat) (f : Hall → Hall) : (c.updHall i f).zeros = c.zeros := rfl
@[simp] theorem Chip.updHall_latch (c : Chip) (i : Nat) (f : Hall → Hall) : (c.updHall i f).latch = c.latch := rfl
@[simp] theorem Chip.updHall_guards (c : Chip) (i : Nat) (f : Hall → Hall) : (c.updHall i f).guards = c.guards := rfl
@[simp] theorem Chip.updHall_sqCount (c : Chip) (i : Nat) (f : Hall → Hall) : (c.updHall i f).sqCount = c.sqCount := rfl
@[simp] theorem Chip.updHall_ports (c : Chip) (i : Nat) (f : Hall → Hall) : (c.updHall i f).ports = c.ports := rfl
@[simp] theorem Chip.updHall_xlat (c : Chip) (i : Nat) (f : Hall → Hall) : (c.updHall i f).xlat = c.xlat := rfl
@[simp] theorem Chip.updHall_dma (c : Chip) (i : Nat) (f : Hall → Hall) : (c.updHall i f).dma = c.dma := rfl
@[simp] theorem Chip.updHall_txn (c : Chip) (i : Nat) (f : Hall → Hall) : (c.updHall i f).txn = c.txn := rfl
@[simp] theorem Chip.updHall_pages (c : Chip) (i : Nat) (f : Hall → Hall) : (c.updHall i f).pages = c.pages := rfl
@[simp] theorem Chip.updHall_chain (c : Chip) (i : Nat) (f : Hall → Hall) : (c.updHall i f).chain = c.chain := rfl
@[simp] theorem Chip.updHall_lanes (c : Chip) (i : Nat) (f : Hall → Hall) : (c.updHall i f).lanes = c.lanes := rfl
@[simp] theorem Chip.updHall_slots (c : Chip) (i : Nat) (f : Hall → Hall) : (c.updHall i f).slots = c.slots := rfl
@[simp] theorem Chip.updHall_eng (c : Chip) (i : Nat) (f : Hall → Hall) : (c.updHall i f).eng = c.eng := rfl
@[simp] theorem Chip.updHall_safety (c : Chip) (i : Nat) (f : Hall → Hall) : (c.updHall i f).safety = c.safety := rfl
@[simp] theorem Chip.updHall_sump (c : Chip) (i : Nat) (f : Hall → Hall) : (c.updHall i f).sump = c.sump := rfl
@[simp] theorem Chip.updHall_tiles (c : Chip) (i : Nat) (f : Hall → Hall) : (c.updHall i f).tiles = c.tiles := rfl
@[simp] theorem Chip.updHall_stns (c : Chip) (i : Nat) (f : Hall → Hall) : (c.updHall i f).stns = c.stns := rfl
@[simp] theorem Chip.updHall_belt (c : Chip) (i : Nat) (f : Hall → Hall) : (c.updHall i f).belt = c.belt := rfl
@[simp] theorem Chip.updHall_seam (c : Chip) (i : Nat) (f : Hall → Hall) : (c.updHall i f).seam = c.seam := rfl
@[simp] theorem Chip.updHall_drives (c : Chip) (i : Nat) (f : Hall → Hall) : (c.updHall i f).drives = c.drives := rfl
@[simp] theorem Chip.updHall_encs (c : Chip) (i : Nat) (f : Hall → Hall) : (c.updHall i f).encs = c.encs := rfl
@[simp] theorem Chip.updHall_fbCopy (c : Chip) (i : Nat) (f : Hall → Hall) : (c.updHall i f).fbCopy = c.fbCopy := rfl
@[simp] theorem Chip.updHall_halls (c : Chip) (i : Nat) (f : Hall → Hall) : (c.updHall i f).halls = updAt c.halls i f := rfl
@[simp] theorem Chip.updHall_biss (c : Chip) (i : Nat) (f : Hall → Hall) : (c.updHall i f).biss = c.biss := rfl
@[simp] theorem Chip.updHall_mules (c : Chip) (i : Nat) (f : Hall → Hall) : (c.updHall i f).mules = c.mules := rfl
@[simp] theorem Chip.updHall_wl (c : Chip) (i : Nat) (f : Hall → Hall) : (c.updHall i f).wl = c.wl := rfl
@[simp] theorem Chip.updHall_free (c : Chip) (i : Nat) (f : Hall → Hall) : (c.updHall i f).free = c.free := rfl
@[simp] theorem Chip.updHall_emits (c : Chip) (i : Nat) (f : Hall → Hall) : (c.updHall i f).emits = c.emits := rfl
@[simp] theorem Chip.updHall_outs (c : Chip) (i : Nat) (f : Hall → Hall) : (c.updHall i f).outs = c.outs := rfl

@[simp] theorem Chip.updBiss_regs (c : Chip) (i : Nat) (f : Biss → Biss) : (c.updBiss i f).regs = c.regs := rfl
@[simp] theorem Chip.updBiss_shadow (c : Chip) (i : Nat) (f : Biss → Biss) : (c.updBiss i f).shadow = c.shadow := rfl
@[simp] theorem Chip.updBiss_active (c : Chip) (i : Nat) (f : Biss → Biss) : (c.updBiss i f).active = c.active := rfl
@[simp] theorem Chip.updBiss_nominal (c : Chip) (i : Nat) (f : Biss → Biss) : (c.updBiss i f).nominal = c.nominal := rfl
@[simp] theorem Chip.updBiss_zeros (c : Chip) (i : Nat) (f : Biss → Biss) : (c.updBiss i f).zeros = c.zeros := rfl
@[simp] theorem Chip.updBiss_latch (c : Chip) (i : Nat) (f : Biss → Biss) : (c.updBiss i f).latch = c.latch := rfl
@[simp] theorem Chip.updBiss_guards (c : Chip) (i : Nat) (f : Biss → Biss) : (c.updBiss i f).guards = c.guards := rfl
@[simp] theorem Chip.updBiss_sqCount (c : Chip) (i : Nat) (f : Biss → Biss) : (c.updBiss i f).sqCount = c.sqCount := rfl
@[simp] theorem Chip.updBiss_ports (c : Chip) (i : Nat) (f : Biss → Biss) : (c.updBiss i f).ports = c.ports := rfl
@[simp] theorem Chip.updBiss_xlat (c : Chip) (i : Nat) (f : Biss → Biss) : (c.updBiss i f).xlat = c.xlat := rfl
@[simp] theorem Chip.updBiss_dma (c : Chip) (i : Nat) (f : Biss → Biss) : (c.updBiss i f).dma = c.dma := rfl
@[simp] theorem Chip.updBiss_txn (c : Chip) (i : Nat) (f : Biss → Biss) : (c.updBiss i f).txn = c.txn := rfl
@[simp] theorem Chip.updBiss_pages (c : Chip) (i : Nat) (f : Biss → Biss) : (c.updBiss i f).pages = c.pages := rfl
@[simp] theorem Chip.updBiss_chain (c : Chip) (i : Nat) (f : Biss → Biss) : (c.updBiss i f).chain = c.chain := rfl
@[simp] theorem Chip.updBiss_lanes (c : Chip) (i : Nat) (f : Biss → Biss) : (c.updBiss i f).lanes = c.lanes := rfl
@[simp] theorem Chip.updBiss_slots (c : Chip) (i : Nat) (f : Biss → Biss) : (c.updBiss i f).slots = c.slots := rfl
@[simp] theorem Chip.updBiss_eng (c : Chip) (i : Nat) (f : Biss → Biss) : (c.updBiss i f).eng = c.eng := rfl
@[simp] theorem Chip.updBiss_safety (c : Chip) (i : Nat) (f : Biss → Biss) : (c.updBiss i f).safety = c.safety := rfl
@[simp] theorem Chip.updBiss_sump (c : Chip) (i : Nat) (f : Biss → Biss) : (c.updBiss i f).sump = c.sump := rfl
@[simp] theorem Chip.updBiss_tiles (c : Chip) (i : Nat) (f : Biss → Biss) : (c.updBiss i f).tiles = c.tiles := rfl
@[simp] theorem Chip.updBiss_stns (c : Chip) (i : Nat) (f : Biss → Biss) : (c.updBiss i f).stns = c.stns := rfl
@[simp] theorem Chip.updBiss_belt (c : Chip) (i : Nat) (f : Biss → Biss) : (c.updBiss i f).belt = c.belt := rfl
@[simp] theorem Chip.updBiss_seam (c : Chip) (i : Nat) (f : Biss → Biss) : (c.updBiss i f).seam = c.seam := rfl
@[simp] theorem Chip.updBiss_drives (c : Chip) (i : Nat) (f : Biss → Biss) : (c.updBiss i f).drives = c.drives := rfl
@[simp] theorem Chip.updBiss_encs (c : Chip) (i : Nat) (f : Biss → Biss) : (c.updBiss i f).encs = c.encs := rfl
@[simp] theorem Chip.updBiss_fbCopy (c : Chip) (i : Nat) (f : Biss → Biss) : (c.updBiss i f).fbCopy = c.fbCopy := rfl
@[simp] theorem Chip.updBiss_halls (c : Chip) (i : Nat) (f : Biss → Biss) : (c.updBiss i f).halls = c.halls := rfl
@[simp] theorem Chip.updBiss_biss (c : Chip) (i : Nat) (f : Biss → Biss) : (c.updBiss i f).biss = updAt c.biss i f := rfl
@[simp] theorem Chip.updBiss_mules (c : Chip) (i : Nat) (f : Biss → Biss) : (c.updBiss i f).mules = c.mules := rfl
@[simp] theorem Chip.updBiss_wl (c : Chip) (i : Nat) (f : Biss → Biss) : (c.updBiss i f).wl = c.wl := rfl
@[simp] theorem Chip.updBiss_free (c : Chip) (i : Nat) (f : Biss → Biss) : (c.updBiss i f).free = c.free := rfl
@[simp] theorem Chip.updBiss_emits (c : Chip) (i : Nat) (f : Biss → Biss) : (c.updBiss i f).emits = c.emits := rfl
@[simp] theorem Chip.updBiss_outs (c : Chip) (i : Nat) (f : Biss → Biss) : (c.updBiss i f).outs = c.outs := rfl

@[simp] theorem Chip.updMule_regs (c : Chip) (i : Nat) (f : Mule → Mule) : (c.updMule i f).regs = c.regs := rfl
@[simp] theorem Chip.updMule_shadow (c : Chip) (i : Nat) (f : Mule → Mule) : (c.updMule i f).shadow = c.shadow := rfl
@[simp] theorem Chip.updMule_active (c : Chip) (i : Nat) (f : Mule → Mule) : (c.updMule i f).active = c.active := rfl
@[simp] theorem Chip.updMule_nominal (c : Chip) (i : Nat) (f : Mule → Mule) : (c.updMule i f).nominal = c.nominal := rfl
@[simp] theorem Chip.updMule_zeros (c : Chip) (i : Nat) (f : Mule → Mule) : (c.updMule i f).zeros = c.zeros := rfl
@[simp] theorem Chip.updMule_latch (c : Chip) (i : Nat) (f : Mule → Mule) : (c.updMule i f).latch = c.latch := rfl
@[simp] theorem Chip.updMule_guards (c : Chip) (i : Nat) (f : Mule → Mule) : (c.updMule i f).guards = c.guards := rfl
@[simp] theorem Chip.updMule_sqCount (c : Chip) (i : Nat) (f : Mule → Mule) : (c.updMule i f).sqCount = c.sqCount := rfl
@[simp] theorem Chip.updMule_ports (c : Chip) (i : Nat) (f : Mule → Mule) : (c.updMule i f).ports = c.ports := rfl
@[simp] theorem Chip.updMule_xlat (c : Chip) (i : Nat) (f : Mule → Mule) : (c.updMule i f).xlat = c.xlat := rfl
@[simp] theorem Chip.updMule_dma (c : Chip) (i : Nat) (f : Mule → Mule) : (c.updMule i f).dma = c.dma := rfl
@[simp] theorem Chip.updMule_txn (c : Chip) (i : Nat) (f : Mule → Mule) : (c.updMule i f).txn = c.txn := rfl
@[simp] theorem Chip.updMule_pages (c : Chip) (i : Nat) (f : Mule → Mule) : (c.updMule i f).pages = c.pages := rfl
@[simp] theorem Chip.updMule_chain (c : Chip) (i : Nat) (f : Mule → Mule) : (c.updMule i f).chain = c.chain := rfl
@[simp] theorem Chip.updMule_lanes (c : Chip) (i : Nat) (f : Mule → Mule) : (c.updMule i f).lanes = c.lanes := rfl
@[simp] theorem Chip.updMule_slots (c : Chip) (i : Nat) (f : Mule → Mule) : (c.updMule i f).slots = c.slots := rfl
@[simp] theorem Chip.updMule_eng (c : Chip) (i : Nat) (f : Mule → Mule) : (c.updMule i f).eng = c.eng := rfl
@[simp] theorem Chip.updMule_safety (c : Chip) (i : Nat) (f : Mule → Mule) : (c.updMule i f).safety = c.safety := rfl
@[simp] theorem Chip.updMule_sump (c : Chip) (i : Nat) (f : Mule → Mule) : (c.updMule i f).sump = c.sump := rfl
@[simp] theorem Chip.updMule_tiles (c : Chip) (i : Nat) (f : Mule → Mule) : (c.updMule i f).tiles = c.tiles := rfl
@[simp] theorem Chip.updMule_stns (c : Chip) (i : Nat) (f : Mule → Mule) : (c.updMule i f).stns = c.stns := rfl
@[simp] theorem Chip.updMule_belt (c : Chip) (i : Nat) (f : Mule → Mule) : (c.updMule i f).belt = c.belt := rfl
@[simp] theorem Chip.updMule_seam (c : Chip) (i : Nat) (f : Mule → Mule) : (c.updMule i f).seam = c.seam := rfl
@[simp] theorem Chip.updMule_drives (c : Chip) (i : Nat) (f : Mule → Mule) : (c.updMule i f).drives = c.drives := rfl
@[simp] theorem Chip.updMule_encs (c : Chip) (i : Nat) (f : Mule → Mule) : (c.updMule i f).encs = c.encs := rfl
@[simp] theorem Chip.updMule_fbCopy (c : Chip) (i : Nat) (f : Mule → Mule) : (c.updMule i f).fbCopy = c.fbCopy := rfl
@[simp] theorem Chip.updMule_halls (c : Chip) (i : Nat) (f : Mule → Mule) : (c.updMule i f).halls = c.halls := rfl
@[simp] theorem Chip.updMule_biss (c : Chip) (i : Nat) (f : Mule → Mule) : (c.updMule i f).biss = c.biss := rfl
@[simp] theorem Chip.updMule_mules (c : Chip) (i : Nat) (f : Mule → Mule) : (c.updMule i f).mules = updAt c.mules i f := rfl
@[simp] theorem Chip.updMule_wl (c : Chip) (i : Nat) (f : Mule → Mule) : (c.updMule i f).wl = c.wl := rfl
@[simp] theorem Chip.updMule_free (c : Chip) (i : Nat) (f : Mule → Mule) : (c.updMule i f).free = c.free := rfl
@[simp] theorem Chip.updMule_emits (c : Chip) (i : Nat) (f : Mule → Mule) : (c.updMule i f).emits = c.emits := rfl
@[simp] theorem Chip.updMule_outs (c : Chip) (i : Nat) (f : Mule → Mule) : (c.updMule i f).outs = c.outs := rfl

@[simp] theorem Chip.updLane_regs (c : Chip) (i : Nat) (f : Lane → Lane) : (c.updLane i f).regs = c.regs := rfl
@[simp] theorem Chip.updLane_shadow (c : Chip) (i : Nat) (f : Lane → Lane) : (c.updLane i f).shadow = c.shadow := rfl
@[simp] theorem Chip.updLane_active (c : Chip) (i : Nat) (f : Lane → Lane) : (c.updLane i f).active = c.active := rfl
@[simp] theorem Chip.updLane_nominal (c : Chip) (i : Nat) (f : Lane → Lane) : (c.updLane i f).nominal = c.nominal := rfl
@[simp] theorem Chip.updLane_zeros (c : Chip) (i : Nat) (f : Lane → Lane) : (c.updLane i f).zeros = c.zeros := rfl
@[simp] theorem Chip.updLane_latch (c : Chip) (i : Nat) (f : Lane → Lane) : (c.updLane i f).latch = c.latch := rfl
@[simp] theorem Chip.updLane_guards (c : Chip) (i : Nat) (f : Lane → Lane) : (c.updLane i f).guards = c.guards := rfl
@[simp] theorem Chip.updLane_sqCount (c : Chip) (i : Nat) (f : Lane → Lane) : (c.updLane i f).sqCount = c.sqCount := rfl
@[simp] theorem Chip.updLane_ports (c : Chip) (i : Nat) (f : Lane → Lane) : (c.updLane i f).ports = c.ports := rfl
@[simp] theorem Chip.updLane_xlat (c : Chip) (i : Nat) (f : Lane → Lane) : (c.updLane i f).xlat = c.xlat := rfl
@[simp] theorem Chip.updLane_dma (c : Chip) (i : Nat) (f : Lane → Lane) : (c.updLane i f).dma = c.dma := rfl
@[simp] theorem Chip.updLane_txn (c : Chip) (i : Nat) (f : Lane → Lane) : (c.updLane i f).txn = c.txn := rfl
@[simp] theorem Chip.updLane_pages (c : Chip) (i : Nat) (f : Lane → Lane) : (c.updLane i f).pages = c.pages := rfl
@[simp] theorem Chip.updLane_chain (c : Chip) (i : Nat) (f : Lane → Lane) : (c.updLane i f).chain = c.chain := rfl
@[simp] theorem Chip.updLane_lanes (c : Chip) (i : Nat) (f : Lane → Lane) : (c.updLane i f).lanes = updAt c.lanes i f := rfl
@[simp] theorem Chip.updLane_slots (c : Chip) (i : Nat) (f : Lane → Lane) : (c.updLane i f).slots = c.slots := rfl
@[simp] theorem Chip.updLane_eng (c : Chip) (i : Nat) (f : Lane → Lane) : (c.updLane i f).eng = c.eng := rfl
@[simp] theorem Chip.updLane_safety (c : Chip) (i : Nat) (f : Lane → Lane) : (c.updLane i f).safety = c.safety := rfl
@[simp] theorem Chip.updLane_sump (c : Chip) (i : Nat) (f : Lane → Lane) : (c.updLane i f).sump = c.sump := rfl
@[simp] theorem Chip.updLane_tiles (c : Chip) (i : Nat) (f : Lane → Lane) : (c.updLane i f).tiles = c.tiles := rfl
@[simp] theorem Chip.updLane_stns (c : Chip) (i : Nat) (f : Lane → Lane) : (c.updLane i f).stns = c.stns := rfl
@[simp] theorem Chip.updLane_belt (c : Chip) (i : Nat) (f : Lane → Lane) : (c.updLane i f).belt = c.belt := rfl
@[simp] theorem Chip.updLane_seam (c : Chip) (i : Nat) (f : Lane → Lane) : (c.updLane i f).seam = c.seam := rfl
@[simp] theorem Chip.updLane_drives (c : Chip) (i : Nat) (f : Lane → Lane) : (c.updLane i f).drives = c.drives := rfl
@[simp] theorem Chip.updLane_encs (c : Chip) (i : Nat) (f : Lane → Lane) : (c.updLane i f).encs = c.encs := rfl
@[simp] theorem Chip.updLane_fbCopy (c : Chip) (i : Nat) (f : Lane → Lane) : (c.updLane i f).fbCopy = c.fbCopy := rfl
@[simp] theorem Chip.updLane_halls (c : Chip) (i : Nat) (f : Lane → Lane) : (c.updLane i f).halls = c.halls := rfl
@[simp] theorem Chip.updLane_biss (c : Chip) (i : Nat) (f : Lane → Lane) : (c.updLane i f).biss = c.biss := rfl
@[simp] theorem Chip.updLane_mules (c : Chip) (i : Nat) (f : Lane → Lane) : (c.updLane i f).mules = c.mules := rfl
@[simp] theorem Chip.updLane_wl (c : Chip) (i : Nat) (f : Lane → Lane) : (c.updLane i f).wl = c.wl := rfl
@[simp] theorem Chip.updLane_free (c : Chip) (i : Nat) (f : Lane → Lane) : (c.updLane i f).free = c.free := rfl
@[simp] theorem Chip.updLane_emits (c : Chip) (i : Nat) (f : Lane → Lane) : (c.updLane i f).emits = c.emits := rfl
@[simp] theorem Chip.updLane_outs (c : Chip) (i : Nat) (f : Lane → Lane) : (c.updLane i f).outs = c.outs := rfl

@[simp] theorem Chip.updSlot_regs (c : Chip) (i : Nat) (f : CtxSlot → CtxSlot) : (c.updSlot i f).regs = c.regs := rfl
@[simp] theorem Chip.updSlot_shadow (c : Chip) (i : Nat) (f : CtxSlot → CtxSlot) : (c.updSlot i f).shadow = c.shadow := rfl
@[simp] theorem Chip.updSlot_active (c : Chip) (i : Nat) (f : CtxSlot → CtxSlot) : (c.updSlot i f).active = c.active := rfl
@[simp] theorem Chip.updSlot_nominal (c : Chip) (i : Nat) (f : CtxSlot → CtxSlot) : (c.updSlot i f).nominal = c.nominal := rfl
@[simp] theorem Chip.updSlot_zeros (c : Chip) (i : Nat) (f : CtxSlot → CtxSlot) : (c.updSlot i f).zeros = c.zeros := rfl
@[simp] theorem Chip.updSlot_latch (c : Chip) (i : Nat) (f : CtxSlot → CtxSlot) : (c.updSlot i f).latch = c.latch := rfl
@[simp] theorem Chip.updSlot_guards (c : Chip) (i : Nat) (f : CtxSlot → CtxSlot) : (c.updSlot i f).guards = c.guards := rfl
@[simp] theorem Chip.updSlot_sqCount (c : Chip) (i : Nat) (f : CtxSlot → CtxSlot) : (c.updSlot i f).sqCount = c.sqCount := rfl
@[simp] theorem Chip.updSlot_ports (c : Chip) (i : Nat) (f : CtxSlot → CtxSlot) : (c.updSlot i f).ports = c.ports := rfl
@[simp] theorem Chip.updSlot_xlat (c : Chip) (i : Nat) (f : CtxSlot → CtxSlot) : (c.updSlot i f).xlat = c.xlat := rfl
@[simp] theorem Chip.updSlot_dma (c : Chip) (i : Nat) (f : CtxSlot → CtxSlot) : (c.updSlot i f).dma = c.dma := rfl
@[simp] theorem Chip.updSlot_txn (c : Chip) (i : Nat) (f : CtxSlot → CtxSlot) : (c.updSlot i f).txn = c.txn := rfl
@[simp] theorem Chip.updSlot_pages (c : Chip) (i : Nat) (f : CtxSlot → CtxSlot) : (c.updSlot i f).pages = c.pages := rfl
@[simp] theorem Chip.updSlot_chain (c : Chip) (i : Nat) (f : CtxSlot → CtxSlot) : (c.updSlot i f).chain = c.chain := rfl
@[simp] theorem Chip.updSlot_lanes (c : Chip) (i : Nat) (f : CtxSlot → CtxSlot) : (c.updSlot i f).lanes = c.lanes := rfl
@[simp] theorem Chip.updSlot_slots (c : Chip) (i : Nat) (f : CtxSlot → CtxSlot) : (c.updSlot i f).slots = updAt c.slots i f := rfl
@[simp] theorem Chip.updSlot_eng (c : Chip) (i : Nat) (f : CtxSlot → CtxSlot) : (c.updSlot i f).eng = c.eng := rfl
@[simp] theorem Chip.updSlot_safety (c : Chip) (i : Nat) (f : CtxSlot → CtxSlot) : (c.updSlot i f).safety = c.safety := rfl
@[simp] theorem Chip.updSlot_sump (c : Chip) (i : Nat) (f : CtxSlot → CtxSlot) : (c.updSlot i f).sump = c.sump := rfl
@[simp] theorem Chip.updSlot_tiles (c : Chip) (i : Nat) (f : CtxSlot → CtxSlot) : (c.updSlot i f).tiles = c.tiles := rfl
@[simp] theorem Chip.updSlot_stns (c : Chip) (i : Nat) (f : CtxSlot → CtxSlot) : (c.updSlot i f).stns = c.stns := rfl
@[simp] theorem Chip.updSlot_belt (c : Chip) (i : Nat) (f : CtxSlot → CtxSlot) : (c.updSlot i f).belt = c.belt := rfl
@[simp] theorem Chip.updSlot_seam (c : Chip) (i : Nat) (f : CtxSlot → CtxSlot) : (c.updSlot i f).seam = c.seam := rfl
@[simp] theorem Chip.updSlot_drives (c : Chip) (i : Nat) (f : CtxSlot → CtxSlot) : (c.updSlot i f).drives = c.drives := rfl
@[simp] theorem Chip.updSlot_encs (c : Chip) (i : Nat) (f : CtxSlot → CtxSlot) : (c.updSlot i f).encs = c.encs := rfl
@[simp] theorem Chip.updSlot_fbCopy (c : Chip) (i : Nat) (f : CtxSlot → CtxSlot) : (c.updSlot i f).fbCopy = c.fbCopy := rfl
@[simp] theorem Chip.updSlot_halls (c : Chip) (i : Nat) (f : CtxSlot → CtxSlot) : (c.updSlot i f).halls = c.halls := rfl
@[simp] theorem Chip.updSlot_biss (c : Chip) (i : Nat) (f : CtxSlot → CtxSlot) : (c.updSlot i f).biss = c.biss := rfl
@[simp] theorem Chip.updSlot_mules (c : Chip) (i : Nat) (f : CtxSlot → CtxSlot) : (c.updSlot i f).mules = c.mules := rfl
@[simp] theorem Chip.updSlot_wl (c : Chip) (i : Nat) (f : CtxSlot → CtxSlot) : (c.updSlot i f).wl = c.wl := rfl
@[simp] theorem Chip.updSlot_free (c : Chip) (i : Nat) (f : CtxSlot → CtxSlot) : (c.updSlot i f).free = c.free := rfl
@[simp] theorem Chip.updSlot_emits (c : Chip) (i : Nat) (f : CtxSlot → CtxSlot) : (c.updSlot i f).emits = c.emits := rfl
@[simp] theorem Chip.updSlot_outs (c : Chip) (i : Nat) (f : CtxSlot → CtxSlot) : (c.updSlot i f).outs = c.outs := rfl

@[simp] theorem Chip.updPort_regs (c : Chip) (i : Nat) (f : PortSt → PortSt) : (c.updPort i f).regs = c.regs := rfl
@[simp] theorem Chip.updPort_shadow (c : Chip) (i : Nat) (f : PortSt → PortSt) : (c.updPort i f).shadow = c.shadow := rfl
@[simp] theorem Chip.updPort_active (c : Chip) (i : Nat) (f : PortSt → PortSt) : (c.updPort i f).active = c.active := rfl
@[simp] theorem Chip.updPort_nominal (c : Chip) (i : Nat) (f : PortSt → PortSt) : (c.updPort i f).nominal = c.nominal := rfl
@[simp] theorem Chip.updPort_zeros (c : Chip) (i : Nat) (f : PortSt → PortSt) : (c.updPort i f).zeros = c.zeros := rfl
@[simp] theorem Chip.updPort_latch (c : Chip) (i : Nat) (f : PortSt → PortSt) : (c.updPort i f).latch = c.latch := rfl
@[simp] theorem Chip.updPort_guards (c : Chip) (i : Nat) (f : PortSt → PortSt) : (c.updPort i f).guards = c.guards := rfl
@[simp] theorem Chip.updPort_sqCount (c : Chip) (i : Nat) (f : PortSt → PortSt) : (c.updPort i f).sqCount = c.sqCount := rfl
@[simp] theorem Chip.updPort_ports (c : Chip) (i : Nat) (f : PortSt → PortSt) : (c.updPort i f).ports = updAt c.ports i f := rfl
@[simp] theorem Chip.updPort_xlat (c : Chip) (i : Nat) (f : PortSt → PortSt) : (c.updPort i f).xlat = c.xlat := rfl
@[simp] theorem Chip.updPort_dma (c : Chip) (i : Nat) (f : PortSt → PortSt) : (c.updPort i f).dma = c.dma := rfl
@[simp] theorem Chip.updPort_txn (c : Chip) (i : Nat) (f : PortSt → PortSt) : (c.updPort i f).txn = c.txn := rfl
@[simp] theorem Chip.updPort_pages (c : Chip) (i : Nat) (f : PortSt → PortSt) : (c.updPort i f).pages = c.pages := rfl
@[simp] theorem Chip.updPort_chain (c : Chip) (i : Nat) (f : PortSt → PortSt) : (c.updPort i f).chain = c.chain := rfl
@[simp] theorem Chip.updPort_lanes (c : Chip) (i : Nat) (f : PortSt → PortSt) : (c.updPort i f).lanes = c.lanes := rfl
@[simp] theorem Chip.updPort_slots (c : Chip) (i : Nat) (f : PortSt → PortSt) : (c.updPort i f).slots = c.slots := rfl
@[simp] theorem Chip.updPort_eng (c : Chip) (i : Nat) (f : PortSt → PortSt) : (c.updPort i f).eng = c.eng := rfl
@[simp] theorem Chip.updPort_safety (c : Chip) (i : Nat) (f : PortSt → PortSt) : (c.updPort i f).safety = c.safety := rfl
@[simp] theorem Chip.updPort_sump (c : Chip) (i : Nat) (f : PortSt → PortSt) : (c.updPort i f).sump = c.sump := rfl
@[simp] theorem Chip.updPort_tiles (c : Chip) (i : Nat) (f : PortSt → PortSt) : (c.updPort i f).tiles = c.tiles := rfl
@[simp] theorem Chip.updPort_stns (c : Chip) (i : Nat) (f : PortSt → PortSt) : (c.updPort i f).stns = c.stns := rfl
@[simp] theorem Chip.updPort_belt (c : Chip) (i : Nat) (f : PortSt → PortSt) : (c.updPort i f).belt = c.belt := rfl
@[simp] theorem Chip.updPort_seam (c : Chip) (i : Nat) (f : PortSt → PortSt) : (c.updPort i f).seam = c.seam := rfl
@[simp] theorem Chip.updPort_drives (c : Chip) (i : Nat) (f : PortSt → PortSt) : (c.updPort i f).drives = c.drives := rfl
@[simp] theorem Chip.updPort_encs (c : Chip) (i : Nat) (f : PortSt → PortSt) : (c.updPort i f).encs = c.encs := rfl
@[simp] theorem Chip.updPort_fbCopy (c : Chip) (i : Nat) (f : PortSt → PortSt) : (c.updPort i f).fbCopy = c.fbCopy := rfl
@[simp] theorem Chip.updPort_halls (c : Chip) (i : Nat) (f : PortSt → PortSt) : (c.updPort i f).halls = c.halls := rfl
@[simp] theorem Chip.updPort_biss (c : Chip) (i : Nat) (f : PortSt → PortSt) : (c.updPort i f).biss = c.biss := rfl
@[simp] theorem Chip.updPort_mules (c : Chip) (i : Nat) (f : PortSt → PortSt) : (c.updPort i f).mules = c.mules := rfl
@[simp] theorem Chip.updPort_wl (c : Chip) (i : Nat) (f : PortSt → PortSt) : (c.updPort i f).wl = c.wl := rfl
@[simp] theorem Chip.updPort_free (c : Chip) (i : Nat) (f : PortSt → PortSt) : (c.updPort i f).free = c.free := rfl
@[simp] theorem Chip.updPort_emits (c : Chip) (i : Nat) (f : PortSt → PortSt) : (c.updPort i f).emits = c.emits := rfl
@[simp] theorem Chip.updPort_outs (c : Chip) (i : Nat) (f : PortSt → PortSt) : (c.updPort i f).outs = c.outs := rfl

@[simp] theorem Chip.setFld_shadow (c : Chip) (b : BitField) (v : Nat) : (c.setFld b v).shadow = c.shadow := rfl
@[simp] theorem Chip.setFld_active (c : Chip) (b : BitField) (v : Nat) : (c.setFld b v).active = c.active := rfl
@[simp] theorem Chip.setFld_nominal (c : Chip) (b : BitField) (v : Nat) : (c.setFld b v).nominal = c.nominal := rfl
@[simp] theorem Chip.setFld_zeros (c : Chip) (b : BitField) (v : Nat) : (c.setFld b v).zeros = c.zeros := rfl
@[simp] theorem Chip.setFld_latch (c : Chip) (b : BitField) (v : Nat) : (c.setFld b v).latch = c.latch := rfl
@[simp] theorem Chip.setFld_guards (c : Chip) (b : BitField) (v : Nat) : (c.setFld b v).guards = c.guards := rfl
@[simp] theorem Chip.setFld_sqCount (c : Chip) (b : BitField) (v : Nat) : (c.setFld b v).sqCount = c.sqCount := rfl
@[simp] theorem Chip.setFld_ports (c : Chip) (b : BitField) (v : Nat) : (c.setFld b v).ports = c.ports := rfl
@[simp] theorem Chip.setFld_xlat (c : Chip) (b : BitField) (v : Nat) : (c.setFld b v).xlat = c.xlat := rfl
@[simp] theorem Chip.setFld_dma (c : Chip) (b : BitField) (v : Nat) : (c.setFld b v).dma = c.dma := rfl
@[simp] theorem Chip.setFld_txn (c : Chip) (b : BitField) (v : Nat) : (c.setFld b v).txn = c.txn := rfl
@[simp] theorem Chip.setFld_pages (c : Chip) (b : BitField) (v : Nat) : (c.setFld b v).pages = c.pages := rfl
@[simp] theorem Chip.setFld_chain (c : Chip) (b : BitField) (v : Nat) : (c.setFld b v).chain = c.chain := rfl
@[simp] theorem Chip.setFld_lanes (c : Chip) (b : BitField) (v : Nat) : (c.setFld b v).lanes = c.lanes := rfl
@[simp] theorem Chip.setFld_slots (c : Chip) (b : BitField) (v : Nat) : (c.setFld b v).slots = c.slots := rfl
@[simp] theorem Chip.setFld_eng (c : Chip) (b : BitField) (v : Nat) : (c.setFld b v).eng = c.eng := rfl
@[simp] theorem Chip.setFld_safety (c : Chip) (b : BitField) (v : Nat) : (c.setFld b v).safety = c.safety := rfl
@[simp] theorem Chip.setFld_sump (c : Chip) (b : BitField) (v : Nat) : (c.setFld b v).sump = c.sump := rfl
@[simp] theorem Chip.setFld_tiles (c : Chip) (b : BitField) (v : Nat) : (c.setFld b v).tiles = c.tiles := rfl
@[simp] theorem Chip.setFld_stns (c : Chip) (b : BitField) (v : Nat) : (c.setFld b v).stns = c.stns := rfl
@[simp] theorem Chip.setFld_belt (c : Chip) (b : BitField) (v : Nat) : (c.setFld b v).belt = c.belt := rfl
@[simp] theorem Chip.setFld_seam (c : Chip) (b : BitField) (v : Nat) : (c.setFld b v).seam = c.seam := rfl
@[simp] theorem Chip.setFld_drives (c : Chip) (b : BitField) (v : Nat) : (c.setFld b v).drives = c.drives := rfl
@[simp] theorem Chip.setFld_encs (c : Chip) (b : BitField) (v : Nat) : (c.setFld b v).encs = c.encs := rfl
@[simp] theorem Chip.setFld_fbCopy (c : Chip) (b : BitField) (v : Nat) : (c.setFld b v).fbCopy = c.fbCopy := rfl
@[simp] theorem Chip.setFld_halls (c : Chip) (b : BitField) (v : Nat) : (c.setFld b v).halls = c.halls := rfl
@[simp] theorem Chip.setFld_biss (c : Chip) (b : BitField) (v : Nat) : (c.setFld b v).biss = c.biss := rfl
@[simp] theorem Chip.setFld_mules (c : Chip) (b : BitField) (v : Nat) : (c.setFld b v).mules = c.mules := rfl
@[simp] theorem Chip.setFld_wl (c : Chip) (b : BitField) (v : Nat) : (c.setFld b v).wl = c.wl := rfl
@[simp] theorem Chip.setFld_free (c : Chip) (b : BitField) (v : Nat) : (c.setFld b v).free = c.free := rfl
@[simp] theorem Chip.setFld_emits (c : Chip) (b : BitField) (v : Nat) : (c.setFld b v).emits = c.emits := rfl
@[simp] theorem Chip.setFld_outs (c : Chip) (b : BitField) (v : Nat) : (c.setFld b v).outs = c.outs := rfl

@[simp] theorem Chip.setFlag_shadow (c : Chip) (b : BitField) (v : Bool) : (c.setFlag b v).shadow = c.shadow := rfl
@[simp] theorem Chip.setFlag_active (c : Chip) (b : BitField) (v : Bool) : (c.setFlag b v).active = c.active := rfl
@[simp] theorem Chip.setFlag_nominal (c : Chip) (b : BitField) (v : Bool) : (c.setFlag b v).nominal = c.nominal := rfl
@[simp] theorem Chip.setFlag_zeros (c : Chip) (b : BitField) (v : Bool) : (c.setFlag b v).zeros = c.zeros := rfl
@[simp] theorem Chip.setFlag_latch (c : Chip) (b : BitField) (v : Bool) : (c.setFlag b v).latch = c.latch := rfl
@[simp] theorem Chip.setFlag_guards (c : Chip) (b : BitField) (v : Bool) : (c.setFlag b v).guards = c.guards := rfl
@[simp] theorem Chip.setFlag_sqCount (c : Chip) (b : BitField) (v : Bool) : (c.setFlag b v).sqCount = c.sqCount := rfl
@[simp] theorem Chip.setFlag_ports (c : Chip) (b : BitField) (v : Bool) : (c.setFlag b v).ports = c.ports := rfl
@[simp] theorem Chip.setFlag_xlat (c : Chip) (b : BitField) (v : Bool) : (c.setFlag b v).xlat = c.xlat := rfl
@[simp] theorem Chip.setFlag_dma (c : Chip) (b : BitField) (v : Bool) : (c.setFlag b v).dma = c.dma := rfl
@[simp] theorem Chip.setFlag_txn (c : Chip) (b : BitField) (v : Bool) : (c.setFlag b v).txn = c.txn := rfl
@[simp] theorem Chip.setFlag_pages (c : Chip) (b : BitField) (v : Bool) : (c.setFlag b v).pages = c.pages := rfl
@[simp] theorem Chip.setFlag_chain (c : Chip) (b : BitField) (v : Bool) : (c.setFlag b v).chain = c.chain := rfl
@[simp] theorem Chip.setFlag_lanes (c : Chip) (b : BitField) (v : Bool) : (c.setFlag b v).lanes = c.lanes := rfl
@[simp] theorem Chip.setFlag_slots (c : Chip) (b : BitField) (v : Bool) : (c.setFlag b v).slots = c.slots := rfl
@[simp] theorem Chip.setFlag_eng (c : Chip) (b : BitField) (v : Bool) : (c.setFlag b v).eng = c.eng := rfl
@[simp] theorem Chip.setFlag_safety (c : Chip) (b : BitField) (v : Bool) : (c.setFlag b v).safety = c.safety := rfl
@[simp] theorem Chip.setFlag_sump (c : Chip) (b : BitField) (v : Bool) : (c.setFlag b v).sump = c.sump := rfl
@[simp] theorem Chip.setFlag_tiles (c : Chip) (b : BitField) (v : Bool) : (c.setFlag b v).tiles = c.tiles := rfl
@[simp] theorem Chip.setFlag_stns (c : Chip) (b : BitField) (v : Bool) : (c.setFlag b v).stns = c.stns := rfl
@[simp] theorem Chip.setFlag_belt (c : Chip) (b : BitField) (v : Bool) : (c.setFlag b v).belt = c.belt := rfl
@[simp] theorem Chip.setFlag_seam (c : Chip) (b : BitField) (v : Bool) : (c.setFlag b v).seam = c.seam := rfl
@[simp] theorem Chip.setFlag_drives (c : Chip) (b : BitField) (v : Bool) : (c.setFlag b v).drives = c.drives := rfl
@[simp] theorem Chip.setFlag_encs (c : Chip) (b : BitField) (v : Bool) : (c.setFlag b v).encs = c.encs := rfl
@[simp] theorem Chip.setFlag_fbCopy (c : Chip) (b : BitField) (v : Bool) : (c.setFlag b v).fbCopy = c.fbCopy := rfl
@[simp] theorem Chip.setFlag_halls (c : Chip) (b : BitField) (v : Bool) : (c.setFlag b v).halls = c.halls := rfl
@[simp] theorem Chip.setFlag_biss (c : Chip) (b : BitField) (v : Bool) : (c.setFlag b v).biss = c.biss := rfl
@[simp] theorem Chip.setFlag_mules (c : Chip) (b : BitField) (v : Bool) : (c.setFlag b v).mules = c.mules := rfl
@[simp] theorem Chip.setFlag_wl (c : Chip) (b : BitField) (v : Bool) : (c.setFlag b v).wl = c.wl := rfl
@[simp] theorem Chip.setFlag_free (c : Chip) (b : BitField) (v : Bool) : (c.setFlag b v).free = c.free := rfl
@[simp] theorem Chip.setFlag_emits (c : Chip) (b : BitField) (v : Bool) : (c.setFlag b v).emits = c.emits := rfl
@[simp] theorem Chip.setFlag_outs (c : Chip) (b : BitField) (v : Bool) : (c.setFlag b v).outs = c.outs := rfl

@[simp] theorem Chip.setFldS_shadow (c : Chip) (b : BitField) (v : Int) : (c.setFldS b v).shadow = c.shadow := rfl
@[simp] theorem Chip.setFldS_active (c : Chip) (b : BitField) (v : Int) : (c.setFldS b v).active = c.active := rfl
@[simp] theorem Chip.setFldS_nominal (c : Chip) (b : BitField) (v : Int) : (c.setFldS b v).nominal = c.nominal := rfl
@[simp] theorem Chip.setFldS_zeros (c : Chip) (b : BitField) (v : Int) : (c.setFldS b v).zeros = c.zeros := rfl
@[simp] theorem Chip.setFldS_latch (c : Chip) (b : BitField) (v : Int) : (c.setFldS b v).latch = c.latch := rfl
@[simp] theorem Chip.setFldS_guards (c : Chip) (b : BitField) (v : Int) : (c.setFldS b v).guards = c.guards := rfl
@[simp] theorem Chip.setFldS_sqCount (c : Chip) (b : BitField) (v : Int) : (c.setFldS b v).sqCount = c.sqCount := rfl
@[simp] theorem Chip.setFldS_ports (c : Chip) (b : BitField) (v : Int) : (c.setFldS b v).ports = c.ports := rfl
@[simp] theorem Chip.setFldS_xlat (c : Chip) (b : BitField) (v : Int) : (c.setFldS b v).xlat = c.xlat := rfl
@[simp] theorem Chip.setFldS_dma (c : Chip) (b : BitField) (v : Int) : (c.setFldS b v).dma = c.dma := rfl
@[simp] theorem Chip.setFldS_txn (c : Chip) (b : BitField) (v : Int) : (c.setFldS b v).txn = c.txn := rfl
@[simp] theorem Chip.setFldS_pages (c : Chip) (b : BitField) (v : Int) : (c.setFldS b v).pages = c.pages := rfl
@[simp] theorem Chip.setFldS_chain (c : Chip) (b : BitField) (v : Int) : (c.setFldS b v).chain = c.chain := rfl
@[simp] theorem Chip.setFldS_lanes (c : Chip) (b : BitField) (v : Int) : (c.setFldS b v).lanes = c.lanes := rfl
@[simp] theorem Chip.setFldS_slots (c : Chip) (b : BitField) (v : Int) : (c.setFldS b v).slots = c.slots := rfl
@[simp] theorem Chip.setFldS_eng (c : Chip) (b : BitField) (v : Int) : (c.setFldS b v).eng = c.eng := rfl
@[simp] theorem Chip.setFldS_safety (c : Chip) (b : BitField) (v : Int) : (c.setFldS b v).safety = c.safety := rfl
@[simp] theorem Chip.setFldS_sump (c : Chip) (b : BitField) (v : Int) : (c.setFldS b v).sump = c.sump := rfl
@[simp] theorem Chip.setFldS_tiles (c : Chip) (b : BitField) (v : Int) : (c.setFldS b v).tiles = c.tiles := rfl
@[simp] theorem Chip.setFldS_stns (c : Chip) (b : BitField) (v : Int) : (c.setFldS b v).stns = c.stns := rfl
@[simp] theorem Chip.setFldS_belt (c : Chip) (b : BitField) (v : Int) : (c.setFldS b v).belt = c.belt := rfl
@[simp] theorem Chip.setFldS_seam (c : Chip) (b : BitField) (v : Int) : (c.setFldS b v).seam = c.seam := rfl
@[simp] theorem Chip.setFldS_drives (c : Chip) (b : BitField) (v : Int) : (c.setFldS b v).drives = c.drives := rfl
@[simp] theorem Chip.setFldS_encs (c : Chip) (b : BitField) (v : Int) : (c.setFldS b v).encs = c.encs := rfl
@[simp] theorem Chip.setFldS_fbCopy (c : Chip) (b : BitField) (v : Int) : (c.setFldS b v).fbCopy = c.fbCopy := rfl
@[simp] theorem Chip.setFldS_halls (c : Chip) (b : BitField) (v : Int) : (c.setFldS b v).halls = c.halls := rfl
@[simp] theorem Chip.setFldS_biss (c : Chip) (b : BitField) (v : Int) : (c.setFldS b v).biss = c.biss := rfl
@[simp] theorem Chip.setFldS_mules (c : Chip) (b : BitField) (v : Int) : (c.setFldS b v).mules = c.mules := rfl
@[simp] theorem Chip.setFldS_wl (c : Chip) (b : BitField) (v : Int) : (c.setFldS b v).wl = c.wl := rfl
@[simp] theorem Chip.setFldS_free (c : Chip) (b : BitField) (v : Int) : (c.setFldS b v).free = c.free := rfl
@[simp] theorem Chip.setFldS_emits (c : Chip) (b : BitField) (v : Int) : (c.setFldS b v).emits = c.emits := rfl
@[simp] theorem Chip.setFldS_outs (c : Chip) (b : BitField) (v : Int) : (c.setFldS b v).outs = c.outs := rfl

@[simp] theorem Chip.setPair_shadow (c : Chip) (lo hi v : Nat) : (c.setPair lo hi v).shadow = c.shadow := rfl
@[simp] theorem Chip.setPair_active (c : Chip) (lo hi v : Nat) : (c.setPair lo hi v).active = c.active := rfl
@[simp] theorem Chip.setPair_nominal (c : Chip) (lo hi v : Nat) : (c.setPair lo hi v).nominal = c.nominal := rfl
@[simp] theorem Chip.setPair_zeros (c : Chip) (lo hi v : Nat) : (c.setPair lo hi v).zeros = c.zeros := rfl
@[simp] theorem Chip.setPair_latch (c : Chip) (lo hi v : Nat) : (c.setPair lo hi v).latch = c.latch := rfl
@[simp] theorem Chip.setPair_guards (c : Chip) (lo hi v : Nat) : (c.setPair lo hi v).guards = c.guards := rfl
@[simp] theorem Chip.setPair_sqCount (c : Chip) (lo hi v : Nat) : (c.setPair lo hi v).sqCount = c.sqCount := rfl
@[simp] theorem Chip.setPair_ports (c : Chip) (lo hi v : Nat) : (c.setPair lo hi v).ports = c.ports := rfl
@[simp] theorem Chip.setPair_xlat (c : Chip) (lo hi v : Nat) : (c.setPair lo hi v).xlat = c.xlat := rfl
@[simp] theorem Chip.setPair_dma (c : Chip) (lo hi v : Nat) : (c.setPair lo hi v).dma = c.dma := rfl
@[simp] theorem Chip.setPair_txn (c : Chip) (lo hi v : Nat) : (c.setPair lo hi v).txn = c.txn := rfl
@[simp] theorem Chip.setPair_pages (c : Chip) (lo hi v : Nat) : (c.setPair lo hi v).pages = c.pages := rfl
@[simp] theorem Chip.setPair_chain (c : Chip) (lo hi v : Nat) : (c.setPair lo hi v).chain = c.chain := rfl
@[simp] theorem Chip.setPair_lanes (c : Chip) (lo hi v : Nat) : (c.setPair lo hi v).lanes = c.lanes := rfl
@[simp] theorem Chip.setPair_slots (c : Chip) (lo hi v : Nat) : (c.setPair lo hi v).slots = c.slots := rfl
@[simp] theorem Chip.setPair_eng (c : Chip) (lo hi v : Nat) : (c.setPair lo hi v).eng = c.eng := rfl
@[simp] theorem Chip.setPair_safety (c : Chip) (lo hi v : Nat) : (c.setPair lo hi v).safety = c.safety := rfl
@[simp] theorem Chip.setPair_sump (c : Chip) (lo hi v : Nat) : (c.setPair lo hi v).sump = c.sump := rfl
@[simp] theorem Chip.setPair_tiles (c : Chip) (lo hi v : Nat) : (c.setPair lo hi v).tiles = c.tiles := rfl
@[simp] theorem Chip.setPair_stns (c : Chip) (lo hi v : Nat) : (c.setPair lo hi v).stns = c.stns := rfl
@[simp] theorem Chip.setPair_belt (c : Chip) (lo hi v : Nat) : (c.setPair lo hi v).belt = c.belt := rfl
@[simp] theorem Chip.setPair_seam (c : Chip) (lo hi v : Nat) : (c.setPair lo hi v).seam = c.seam := rfl
@[simp] theorem Chip.setPair_drives (c : Chip) (lo hi v : Nat) : (c.setPair lo hi v).drives = c.drives := rfl
@[simp] theorem Chip.setPair_encs (c : Chip) (lo hi v : Nat) : (c.setPair lo hi v).encs = c.encs := rfl
@[simp] theorem Chip.setPair_fbCopy (c : Chip) (lo hi v : Nat) : (c.setPair lo hi v).fbCopy = c.fbCopy := rfl
@[simp] theorem Chip.setPair_halls (c : Chip) (lo hi v : Nat) : (c.setPair lo hi v).halls = c.halls := rfl
@[simp] theorem Chip.setPair_biss (c : Chip) (lo hi v : Nat) : (c.setPair lo hi v).biss = c.biss := rfl
@[simp] theorem Chip.setPair_mules (c : Chip) (lo hi v : Nat) : (c.setPair lo hi v).mules = c.mules := rfl
@[simp] theorem Chip.setPair_wl (c : Chip) (lo hi v : Nat) : (c.setPair lo hi v).wl = c.wl := rfl
@[simp] theorem Chip.setPair_free (c : Chip) (lo hi v : Nat) : (c.setPair lo hi v).free = c.free := rfl
@[simp] theorem Chip.setPair_emits (c : Chip) (lo hi v : Nat) : (c.setPair lo hi v).emits = c.emits := rfl
@[simp] theorem Chip.setPair_outs (c : Chip) (lo hi v : Nat) : (c.setPair lo hi v).outs = c.outs := rfl

@[simp] theorem Chip.bump_shadow (c : Chip) (b : BitField) (n : Nat) : (c.bump b n).shadow = c.shadow := rfl
@[simp] theorem Chip.bump_active (c : Chip) (b : BitField) (n : Nat) : (c.bump b n).active = c.active := rfl
@[simp] theorem Chip.bump_nominal (c : Chip) (b : BitField) (n : Nat) : (c.bump b n).nominal = c.nominal := rfl
@[simp] theorem Chip.bump_zeros (c : Chip) (b : BitField) (n : Nat) : (c.bump b n).zeros = c.zeros := rfl
@[simp] theorem Chip.bump_latch (c : Chip) (b : BitField) (n : Nat) : (c.bump b n).latch = c.latch := rfl
@[simp] theorem Chip.bump_guards (c : Chip) (b : BitField) (n : Nat) : (c.bump b n).guards = c.guards := rfl
@[simp] theorem Chip.bump_sqCount (c : Chip) (b : BitField) (n : Nat) : (c.bump b n).sqCount = c.sqCount := rfl
@[simp] theorem Chip.bump_ports (c : Chip) (b : BitField) (n : Nat) : (c.bump b n).ports = c.ports := rfl
@[simp] theorem Chip.bump_xlat (c : Chip) (b : BitField) (n : Nat) : (c.bump b n).xlat = c.xlat := rfl
@[simp] theorem Chip.bump_dma (c : Chip) (b : BitField) (n : Nat) : (c.bump b n).dma = c.dma := rfl
@[simp] theorem Chip.bump_txn (c : Chip) (b : BitField) (n : Nat) : (c.bump b n).txn = c.txn := rfl
@[simp] theorem Chip.bump_pages (c : Chip) (b : BitField) (n : Nat) : (c.bump b n).pages = c.pages := rfl
@[simp] theorem Chip.bump_chain (c : Chip) (b : BitField) (n : Nat) : (c.bump b n).chain = c.chain := rfl
@[simp] theorem Chip.bump_lanes (c : Chip) (b : BitField) (n : Nat) : (c.bump b n).lanes = c.lanes := rfl
@[simp] theorem Chip.bump_slots (c : Chip) (b : BitField) (n : Nat) : (c.bump b n).slots = c.slots := rfl
@[simp] theorem Chip.bump_eng (c : Chip) (b : BitField) (n : Nat) : (c.bump b n).eng = c.eng := rfl
@[simp] theorem Chip.bump_safety (c : Chip) (b : BitField) (n : Nat) : (c.bump b n).safety = c.safety := rfl
@[simp] theorem Chip.bump_sump (c : Chip) (b : BitField) (n : Nat) : (c.bump b n).sump = c.sump := rfl
@[simp] theorem Chip.bump_tiles (c : Chip) (b : BitField) (n : Nat) : (c.bump b n).tiles = c.tiles := rfl
@[simp] theorem Chip.bump_stns (c : Chip) (b : BitField) (n : Nat) : (c.bump b n).stns = c.stns := rfl
@[simp] theorem Chip.bump_belt (c : Chip) (b : BitField) (n : Nat) : (c.bump b n).belt = c.belt := rfl
@[simp] theorem Chip.bump_seam (c : Chip) (b : BitField) (n : Nat) : (c.bump b n).seam = c.seam := rfl
@[simp] theorem Chip.bump_drives (c : Chip) (b : BitField) (n : Nat) : (c.bump b n).drives = c.drives := rfl
@[simp] theorem Chip.bump_encs (c : Chip) (b : BitField) (n : Nat) : (c.bump b n).encs = c.encs := rfl
@[simp] theorem Chip.bump_fbCopy (c : Chip) (b : BitField) (n : Nat) : (c.bump b n).fbCopy = c.fbCopy := rfl
@[simp] theorem Chip.bump_halls (c : Chip) (b : BitField) (n : Nat) : (c.bump b n).halls = c.halls := rfl
@[simp] theorem Chip.bump_biss (c : Chip) (b : BitField) (n : Nat) : (c.bump b n).biss = c.biss := rfl
@[simp] theorem Chip.bump_mules (c : Chip) (b : BitField) (n : Nat) : (c.bump b n).mules = c.mules := rfl
@[simp] theorem Chip.bump_wl (c : Chip) (b : BitField) (n : Nat) : (c.bump b n).wl = c.wl := rfl
@[simp] theorem Chip.bump_free (c : Chip) (b : BitField) (n : Nat) : (c.bump b n).free = c.free := rfl
@[simp] theorem Chip.bump_emits (c : Chip) (b : BitField) (n : Nat) : (c.bump b n).emits = c.emits := rfl
@[simp] theorem Chip.bump_outs (c : Chip) (b : BitField) (n : Nat) : (c.bump b n).outs = c.outs := rfl

@[simp] theorem Chip.event_regs (c : Chip) (st tag d : Nat) : (c.event st tag d).regs = c.regs := rfl
@[simp] theorem Chip.event_shadow (c : Chip) (st tag d : Nat) : (c.event st tag d).shadow = c.shadow := rfl
@[simp] theorem Chip.event_active (c : Chip) (st tag d : Nat) : (c.event st tag d).active = c.active := rfl
@[simp] theorem Chip.event_nominal (c : Chip) (st tag d : Nat) : (c.event st tag d).nominal = c.nominal := rfl
@[simp] theorem Chip.event_zeros (c : Chip) (st tag d : Nat) : (c.event st tag d).zeros = c.zeros := rfl
@[simp] theorem Chip.event_latch (c : Chip) (st tag d : Nat) : (c.event st tag d).latch = c.latch := rfl
@[simp] theorem Chip.event_guards (c : Chip) (st tag d : Nat) : (c.event st tag d).guards = c.guards := rfl
@[simp] theorem Chip.event_sqCount (c : Chip) (st tag d : Nat) : (c.event st tag d).sqCount = c.sqCount := rfl
@[simp] theorem Chip.event_ports (c : Chip) (st tag d : Nat) : (c.event st tag d).ports = c.ports := rfl
@[simp] theorem Chip.event_xlat (c : Chip) (st tag d : Nat) : (c.event st tag d).xlat = c.xlat := rfl
@[simp] theorem Chip.event_dma (c : Chip) (st tag d : Nat) : (c.event st tag d).dma = c.dma := rfl
@[simp] theorem Chip.event_txn (c : Chip) (st tag d : Nat) : (c.event st tag d).txn = c.txn := rfl
@[simp] theorem Chip.event_pages (c : Chip) (st tag d : Nat) : (c.event st tag d).pages = c.pages := rfl
@[simp] theorem Chip.event_chain (c : Chip) (st tag d : Nat) : (c.event st tag d).chain = c.chain := rfl
@[simp] theorem Chip.event_lanes (c : Chip) (st tag d : Nat) : (c.event st tag d).lanes = c.lanes := rfl
@[simp] theorem Chip.event_slots (c : Chip) (st tag d : Nat) : (c.event st tag d).slots = c.slots := rfl
@[simp] theorem Chip.event_eng (c : Chip) (st tag d : Nat) : (c.event st tag d).eng = c.eng := rfl
@[simp] theorem Chip.event_safety (c : Chip) (st tag d : Nat) : (c.event st tag d).safety = c.safety := rfl
@[simp] theorem Chip.event_sump (c : Chip) (st tag d : Nat) : (c.event st tag d).sump = c.sump := rfl
@[simp] theorem Chip.event_tiles (c : Chip) (st tag d : Nat) : (c.event st tag d).tiles = c.tiles := rfl
@[simp] theorem Chip.event_stns (c : Chip) (st tag d : Nat) : (c.event st tag d).stns = c.stns := rfl
@[simp] theorem Chip.event_belt (c : Chip) (st tag d : Nat) : (c.event st tag d).belt = c.belt := rfl
@[simp] theorem Chip.event_seam (c : Chip) (st tag d : Nat) : (c.event st tag d).seam = c.seam := rfl
@[simp] theorem Chip.event_drives (c : Chip) (st tag d : Nat) : (c.event st tag d).drives = c.drives := rfl
@[simp] theorem Chip.event_encs (c : Chip) (st tag d : Nat) : (c.event st tag d).encs = c.encs := rfl
@[simp] theorem Chip.event_fbCopy (c : Chip) (st tag d : Nat) : (c.event st tag d).fbCopy = c.fbCopy := rfl
@[simp] theorem Chip.event_halls (c : Chip) (st tag d : Nat) : (c.event st tag d).halls = c.halls := rfl
@[simp] theorem Chip.event_biss (c : Chip) (st tag d : Nat) : (c.event st tag d).biss = c.biss := rfl
@[simp] theorem Chip.event_mules (c : Chip) (st tag d : Nat) : (c.event st tag d).mules = c.mules := rfl
@[simp] theorem Chip.event_wl (c : Chip) (st tag d : Nat) : (c.event st tag d).wl = c.wl := rfl
@[simp] theorem Chip.event_free (c : Chip) (st tag d : Nat) : (c.event st tag d).free = c.free := rfl
@[simp] theorem Chip.event_outs (c : Chip) (st tag d : Nat) : (c.event st tag d).outs = c.outs := rfl

@[simp] theorem Chip.eventTo_regs (c : Chip) (p st op tag d : Nat) : (c.eventTo p st op tag d).regs = c.regs := rfl
@[simp] theorem Chip.eventTo_shadow (c : Chip) (p st op tag d : Nat) : (c.eventTo p st op tag d).shadow = c.shadow := rfl
@[simp] theorem Chip.eventTo_active (c : Chip) (p st op tag d : Nat) : (c.eventTo p st op tag d).active = c.active := rfl
@[simp] theorem Chip.eventTo_nominal (c : Chip) (p st op tag d : Nat) : (c.eventTo p st op tag d).nominal = c.nominal := rfl
@[simp] theorem Chip.eventTo_zeros (c : Chip) (p st op tag d : Nat) : (c.eventTo p st op tag d).zeros = c.zeros := rfl
@[simp] theorem Chip.eventTo_latch (c : Chip) (p st op tag d : Nat) : (c.eventTo p st op tag d).latch = c.latch := rfl
@[simp] theorem Chip.eventTo_guards (c : Chip) (p st op tag d : Nat) : (c.eventTo p st op tag d).guards = c.guards := rfl
@[simp] theorem Chip.eventTo_sqCount (c : Chip) (p st op tag d : Nat) : (c.eventTo p st op tag d).sqCount = c.sqCount := rfl
@[simp] theorem Chip.eventTo_ports (c : Chip) (p st op tag d : Nat) : (c.eventTo p st op tag d).ports = c.ports := rfl
@[simp] theorem Chip.eventTo_xlat (c : Chip) (p st op tag d : Nat) : (c.eventTo p st op tag d).xlat = c.xlat := rfl
@[simp] theorem Chip.eventTo_dma (c : Chip) (p st op tag d : Nat) : (c.eventTo p st op tag d).dma = c.dma := rfl
@[simp] theorem Chip.eventTo_txn (c : Chip) (p st op tag d : Nat) : (c.eventTo p st op tag d).txn = c.txn := rfl
@[simp] theorem Chip.eventTo_pages (c : Chip) (p st op tag d : Nat) : (c.eventTo p st op tag d).pages = c.pages := rfl
@[simp] theorem Chip.eventTo_chain (c : Chip) (p st op tag d : Nat) : (c.eventTo p st op tag d).chain = c.chain := rfl
@[simp] theorem Chip.eventTo_lanes (c : Chip) (p st op tag d : Nat) : (c.eventTo p st op tag d).lanes = c.lanes := rfl
@[simp] theorem Chip.eventTo_slots (c : Chip) (p st op tag d : Nat) : (c.eventTo p st op tag d).slots = c.slots := rfl
@[simp] theorem Chip.eventTo_eng (c : Chip) (p st op tag d : Nat) : (c.eventTo p st op tag d).eng = c.eng := rfl
@[simp] theorem Chip.eventTo_safety (c : Chip) (p st op tag d : Nat) : (c.eventTo p st op tag d).safety = c.safety := rfl
@[simp] theorem Chip.eventTo_sump (c : Chip) (p st op tag d : Nat) : (c.eventTo p st op tag d).sump = c.sump := rfl
@[simp] theorem Chip.eventTo_tiles (c : Chip) (p st op tag d : Nat) : (c.eventTo p st op tag d).tiles = c.tiles := rfl
@[simp] theorem Chip.eventTo_stns (c : Chip) (p st op tag d : Nat) : (c.eventTo p st op tag d).stns = c.stns := rfl
@[simp] theorem Chip.eventTo_belt (c : Chip) (p st op tag d : Nat) : (c.eventTo p st op tag d).belt = c.belt := rfl
@[simp] theorem Chip.eventTo_seam (c : Chip) (p st op tag d : Nat) : (c.eventTo p st op tag d).seam = c.seam := rfl
@[simp] theorem Chip.eventTo_drives (c : Chip) (p st op tag d : Nat) : (c.eventTo p st op tag d).drives = c.drives := rfl
@[simp] theorem Chip.eventTo_encs (c : Chip) (p st op tag d : Nat) : (c.eventTo p st op tag d).encs = c.encs := rfl
@[simp] theorem Chip.eventTo_fbCopy (c : Chip) (p st op tag d : Nat) : (c.eventTo p st op tag d).fbCopy = c.fbCopy := rfl
@[simp] theorem Chip.eventTo_halls (c : Chip) (p st op tag d : Nat) : (c.eventTo p st op tag d).halls = c.halls := rfl
@[simp] theorem Chip.eventTo_biss (c : Chip) (p st op tag d : Nat) : (c.eventTo p st op tag d).biss = c.biss := rfl
@[simp] theorem Chip.eventTo_mules (c : Chip) (p st op tag d : Nat) : (c.eventTo p st op tag d).mules = c.mules := rfl
@[simp] theorem Chip.eventTo_wl (c : Chip) (p st op tag d : Nat) : (c.eventTo p st op tag d).wl = c.wl := rfl
@[simp] theorem Chip.eventTo_free (c : Chip) (p st op tag d : Nat) : (c.eventTo p st op tag d).free = c.free := rfl
@[simp] theorem Chip.eventTo_outs (c : Chip) (p st op tag d : Nat) : (c.eventTo p st op tag d).outs = c.outs := rfl

@[simp] theorem Chip.result_regs (c : Chip) (j st d : Nat) : (c.result j st d).regs = c.regs := rfl
@[simp] theorem Chip.result_shadow (c : Chip) (j st d : Nat) : (c.result j st d).shadow = c.shadow := rfl
@[simp] theorem Chip.result_active (c : Chip) (j st d : Nat) : (c.result j st d).active = c.active := rfl
@[simp] theorem Chip.result_nominal (c : Chip) (j st d : Nat) : (c.result j st d).nominal = c.nominal := rfl
@[simp] theorem Chip.result_zeros (c : Chip) (j st d : Nat) : (c.result j st d).zeros = c.zeros := rfl
@[simp] theorem Chip.result_latch (c : Chip) (j st d : Nat) : (c.result j st d).latch = c.latch := rfl
@[simp] theorem Chip.result_guards (c : Chip) (j st d : Nat) : (c.result j st d).guards = c.guards := rfl
@[simp] theorem Chip.result_sqCount (c : Chip) (j st d : Nat) : (c.result j st d).sqCount = c.sqCount := rfl
@[simp] theorem Chip.result_ports (c : Chip) (j st d : Nat) : (c.result j st d).ports = c.ports := rfl
@[simp] theorem Chip.result_xlat (c : Chip) (j st d : Nat) : (c.result j st d).xlat = c.xlat := rfl
@[simp] theorem Chip.result_dma (c : Chip) (j st d : Nat) : (c.result j st d).dma = c.dma := rfl
@[simp] theorem Chip.result_txn (c : Chip) (j st d : Nat) : (c.result j st d).txn = c.txn := rfl
@[simp] theorem Chip.result_pages (c : Chip) (j st d : Nat) : (c.result j st d).pages = c.pages := rfl
@[simp] theorem Chip.result_chain (c : Chip) (j st d : Nat) : (c.result j st d).chain = c.chain := rfl
@[simp] theorem Chip.result_lanes (c : Chip) (j st d : Nat) : (c.result j st d).lanes = c.lanes := rfl
@[simp] theorem Chip.result_slots (c : Chip) (j st d : Nat) : (c.result j st d).slots = c.slots := rfl
@[simp] theorem Chip.result_eng (c : Chip) (j st d : Nat) : (c.result j st d).eng = c.eng := rfl
@[simp] theorem Chip.result_safety (c : Chip) (j st d : Nat) : (c.result j st d).safety = c.safety := rfl
@[simp] theorem Chip.result_sump (c : Chip) (j st d : Nat) : (c.result j st d).sump = c.sump := rfl
@[simp] theorem Chip.result_tiles (c : Chip) (j st d : Nat) : (c.result j st d).tiles = c.tiles := rfl
@[simp] theorem Chip.result_stns (c : Chip) (j st d : Nat) : (c.result j st d).stns = c.stns := rfl
@[simp] theorem Chip.result_belt (c : Chip) (j st d : Nat) : (c.result j st d).belt = c.belt := rfl
@[simp] theorem Chip.result_seam (c : Chip) (j st d : Nat) : (c.result j st d).seam = c.seam := rfl
@[simp] theorem Chip.result_drives (c : Chip) (j st d : Nat) : (c.result j st d).drives = c.drives := rfl
@[simp] theorem Chip.result_encs (c : Chip) (j st d : Nat) : (c.result j st d).encs = c.encs := rfl
@[simp] theorem Chip.result_fbCopy (c : Chip) (j st d : Nat) : (c.result j st d).fbCopy = c.fbCopy := rfl
@[simp] theorem Chip.result_halls (c : Chip) (j st d : Nat) : (c.result j st d).halls = c.halls := rfl
@[simp] theorem Chip.result_biss (c : Chip) (j st d : Nat) : (c.result j st d).biss = c.biss := rfl
@[simp] theorem Chip.result_mules (c : Chip) (j st d : Nat) : (c.result j st d).mules = c.mules := rfl
@[simp] theorem Chip.result_wl (c : Chip) (j st d : Nat) : (c.result j st d).wl = c.wl := rfl
@[simp] theorem Chip.result_free (c : Chip) (j st d : Nat) : (c.result j st d).free = c.free := rfl
@[simp] theorem Chip.result_outs (c : Chip) (j st d : Nat) : (c.result j st d).outs = c.outs := rfl

@[simp] theorem Chip.started_regs (c : Chip) (j : Nat) : (c.started j).regs = c.regs := rfl
@[simp] theorem Chip.started_shadow (c : Chip) (j : Nat) : (c.started j).shadow = c.shadow := rfl
@[simp] theorem Chip.started_active (c : Chip) (j : Nat) : (c.started j).active = c.active := rfl
@[simp] theorem Chip.started_nominal (c : Chip) (j : Nat) : (c.started j).nominal = c.nominal := rfl
@[simp] theorem Chip.started_zeros (c : Chip) (j : Nat) : (c.started j).zeros = c.zeros := rfl
@[simp] theorem Chip.started_latch (c : Chip) (j : Nat) : (c.started j).latch = c.latch := rfl
@[simp] theorem Chip.started_guards (c : Chip) (j : Nat) : (c.started j).guards = c.guards := rfl
@[simp] theorem Chip.started_sqCount (c : Chip) (j : Nat) : (c.started j).sqCount = c.sqCount := rfl
@[simp] theorem Chip.started_ports (c : Chip) (j : Nat) : (c.started j).ports = c.ports := rfl
@[simp] theorem Chip.started_xlat (c : Chip) (j : Nat) : (c.started j).xlat = c.xlat := rfl
@[simp] theorem Chip.started_dma (c : Chip) (j : Nat) : (c.started j).dma = c.dma := rfl
@[simp] theorem Chip.started_txn (c : Chip) (j : Nat) : (c.started j).txn = c.txn := rfl
@[simp] theorem Chip.started_pages (c : Chip) (j : Nat) : (c.started j).pages = c.pages := rfl
@[simp] theorem Chip.started_chain (c : Chip) (j : Nat) : (c.started j).chain = c.chain := rfl
@[simp] theorem Chip.started_lanes (c : Chip) (j : Nat) : (c.started j).lanes = c.lanes := rfl
@[simp] theorem Chip.started_slots (c : Chip) (j : Nat) : (c.started j).slots = c.slots := rfl
@[simp] theorem Chip.started_eng (c : Chip) (j : Nat) : (c.started j).eng = c.eng := rfl
@[simp] theorem Chip.started_safety (c : Chip) (j : Nat) : (c.started j).safety = c.safety := rfl
@[simp] theorem Chip.started_sump (c : Chip) (j : Nat) : (c.started j).sump = c.sump := rfl
@[simp] theorem Chip.started_tiles (c : Chip) (j : Nat) : (c.started j).tiles = c.tiles := rfl
@[simp] theorem Chip.started_stns (c : Chip) (j : Nat) : (c.started j).stns = c.stns := rfl
@[simp] theorem Chip.started_belt (c : Chip) (j : Nat) : (c.started j).belt = c.belt := rfl
@[simp] theorem Chip.started_seam (c : Chip) (j : Nat) : (c.started j).seam = c.seam := rfl
@[simp] theorem Chip.started_drives (c : Chip) (j : Nat) : (c.started j).drives = c.drives := rfl
@[simp] theorem Chip.started_encs (c : Chip) (j : Nat) : (c.started j).encs = c.encs := rfl
@[simp] theorem Chip.started_fbCopy (c : Chip) (j : Nat) : (c.started j).fbCopy = c.fbCopy := rfl
@[simp] theorem Chip.started_halls (c : Chip) (j : Nat) : (c.started j).halls = c.halls := rfl
@[simp] theorem Chip.started_biss (c : Chip) (j : Nat) : (c.started j).biss = c.biss := rfl
@[simp] theorem Chip.started_mules (c : Chip) (j : Nat) : (c.started j).mules = c.mules := rfl
@[simp] theorem Chip.started_wl (c : Chip) (j : Nat) : (c.started j).wl = c.wl := rfl
@[simp] theorem Chip.started_free (c : Chip) (j : Nat) : (c.started j).free = c.free := rfl
@[simp] theorem Chip.started_outs (c : Chip) (j : Nat) : (c.started j).outs = c.outs := rfl

@[simp] theorem Chip.pin_regs (c : Chip) (name : String) (i v : Nat) : (c.pin name i v).regs = c.regs := rfl
@[simp] theorem Chip.pin_shadow (c : Chip) (name : String) (i v : Nat) : (c.pin name i v).shadow = c.shadow := rfl
@[simp] theorem Chip.pin_active (c : Chip) (name : String) (i v : Nat) : (c.pin name i v).active = c.active := rfl
@[simp] theorem Chip.pin_nominal (c : Chip) (name : String) (i v : Nat) : (c.pin name i v).nominal = c.nominal := rfl
@[simp] theorem Chip.pin_zeros (c : Chip) (name : String) (i v : Nat) : (c.pin name i v).zeros = c.zeros := rfl
@[simp] theorem Chip.pin_latch (c : Chip) (name : String) (i v : Nat) : (c.pin name i v).latch = c.latch := rfl
@[simp] theorem Chip.pin_guards (c : Chip) (name : String) (i v : Nat) : (c.pin name i v).guards = c.guards := rfl
@[simp] theorem Chip.pin_sqCount (c : Chip) (name : String) (i v : Nat) : (c.pin name i v).sqCount = c.sqCount := rfl
@[simp] theorem Chip.pin_ports (c : Chip) (name : String) (i v : Nat) : (c.pin name i v).ports = c.ports := rfl
@[simp] theorem Chip.pin_xlat (c : Chip) (name : String) (i v : Nat) : (c.pin name i v).xlat = c.xlat := rfl
@[simp] theorem Chip.pin_dma (c : Chip) (name : String) (i v : Nat) : (c.pin name i v).dma = c.dma := rfl
@[simp] theorem Chip.pin_txn (c : Chip) (name : String) (i v : Nat) : (c.pin name i v).txn = c.txn := rfl
@[simp] theorem Chip.pin_pages (c : Chip) (name : String) (i v : Nat) : (c.pin name i v).pages = c.pages := rfl
@[simp] theorem Chip.pin_chain (c : Chip) (name : String) (i v : Nat) : (c.pin name i v).chain = c.chain := rfl
@[simp] theorem Chip.pin_lanes (c : Chip) (name : String) (i v : Nat) : (c.pin name i v).lanes = c.lanes := rfl
@[simp] theorem Chip.pin_slots (c : Chip) (name : String) (i v : Nat) : (c.pin name i v).slots = c.slots := rfl
@[simp] theorem Chip.pin_eng (c : Chip) (name : String) (i v : Nat) : (c.pin name i v).eng = c.eng := rfl
@[simp] theorem Chip.pin_safety (c : Chip) (name : String) (i v : Nat) : (c.pin name i v).safety = c.safety := rfl
@[simp] theorem Chip.pin_sump (c : Chip) (name : String) (i v : Nat) : (c.pin name i v).sump = c.sump := rfl
@[simp] theorem Chip.pin_tiles (c : Chip) (name : String) (i v : Nat) : (c.pin name i v).tiles = c.tiles := rfl
@[simp] theorem Chip.pin_stns (c : Chip) (name : String) (i v : Nat) : (c.pin name i v).stns = c.stns := rfl
@[simp] theorem Chip.pin_belt (c : Chip) (name : String) (i v : Nat) : (c.pin name i v).belt = c.belt := rfl
@[simp] theorem Chip.pin_seam (c : Chip) (name : String) (i v : Nat) : (c.pin name i v).seam = c.seam := rfl
@[simp] theorem Chip.pin_drives (c : Chip) (name : String) (i v : Nat) : (c.pin name i v).drives = c.drives := rfl
@[simp] theorem Chip.pin_encs (c : Chip) (name : String) (i v : Nat) : (c.pin name i v).encs = c.encs := rfl
@[simp] theorem Chip.pin_fbCopy (c : Chip) (name : String) (i v : Nat) : (c.pin name i v).fbCopy = c.fbCopy := rfl
@[simp] theorem Chip.pin_halls (c : Chip) (name : String) (i v : Nat) : (c.pin name i v).halls = c.halls := rfl
@[simp] theorem Chip.pin_biss (c : Chip) (name : String) (i v : Nat) : (c.pin name i v).biss = c.biss := rfl
@[simp] theorem Chip.pin_mules (c : Chip) (name : String) (i v : Nat) : (c.pin name i v).mules = c.mules := rfl
@[simp] theorem Chip.pin_wl (c : Chip) (name : String) (i v : Nat) : (c.pin name i v).wl = c.wl := rfl
@[simp] theorem Chip.pin_free (c : Chip) (name : String) (i v : Nat) : (c.pin name i v).free = c.free := rfl
@[simp] theorem Chip.pin_emits (c : Chip) (name : String) (i v : Nat) : (c.pin name i v).emits = c.emits := rfl

@[simp] theorem Chip.event_emits (c : Chip) (st tag d : Nat) :
    (c.event st tag d).emits = c.emits ++ [.event { status := st, tag := tag, detail := d }] := rfl
@[simp] theorem Chip.eventTo_emits (c : Chip) (p st op tag d : Nat) :
    (c.eventTo p st op tag d).emits = c.emits ++ [.event { status := st, opcode := op, tag := tag, detail := d, dest := .part p }] := rfl
@[simp] theorem Chip.result_emits (c : Chip) (j st d : Nat) : (c.result j st d).emits = c.emits ++ [.result j st d] := rfl
@[simp] theorem Chip.started_emits (c : Chip) (j : Nat) : (c.started j).emits = c.emits ++ [.started j] := rfl
@[simp] theorem Chip.pin_outs (c : Chip) (name : String) (i v : Nat) : (c.pin name i v).outs = c.outs ++ [.pin name i v] := rfl

@[simp] theorem Chip.fresh_regs (c : Chip) : c.fresh.regs = c.regs := rfl
@[simp] theorem Chip.fresh_shadow (c : Chip) : c.fresh.shadow = c.shadow := rfl
@[simp] theorem Chip.fresh_active (c : Chip) : c.fresh.active = c.active := rfl
@[simp] theorem Chip.fresh_nominal (c : Chip) : c.fresh.nominal = c.nominal := rfl
@[simp] theorem Chip.fresh_zeros (c : Chip) : c.fresh.zeros = c.zeros := rfl
@[simp] theorem Chip.fresh_latch (c : Chip) : c.fresh.latch = c.latch := rfl
@[simp] theorem Chip.fresh_guards (c : Chip) : c.fresh.guards = c.guards := rfl
@[simp] theorem Chip.fresh_sqCount (c : Chip) : c.fresh.sqCount = c.sqCount := rfl
@[simp] theorem Chip.fresh_ports (c : Chip) : c.fresh.ports = c.ports := rfl
@[simp] theorem Chip.fresh_xlat (c : Chip) : c.fresh.xlat = c.xlat := rfl
@[simp] theorem Chip.fresh_dma (c : Chip) : c.fresh.dma = c.dma := rfl
@[simp] theorem Chip.fresh_txn (c : Chip) : c.fresh.txn = c.txn := rfl
@[simp] theorem Chip.fresh_pages (c : Chip) : c.fresh.pages = c.pages := rfl
@[simp] theorem Chip.fresh_chain (c : Chip) : c.fresh.chain = c.chain := rfl
@[simp] theorem Chip.fresh_lanes (c : Chip) : c.fresh.lanes = c.lanes := rfl
@[simp] theorem Chip.fresh_slots (c : Chip) : c.fresh.slots = c.slots := rfl
@[simp] theorem Chip.fresh_eng (c : Chip) : c.fresh.eng = c.eng := rfl
@[simp] theorem Chip.fresh_safety (c : Chip) : c.fresh.safety = c.safety := rfl
@[simp] theorem Chip.fresh_sump (c : Chip) : c.fresh.sump = c.sump := rfl
@[simp] theorem Chip.fresh_tiles (c : Chip) : c.fresh.tiles = c.tiles := rfl
@[simp] theorem Chip.fresh_stns (c : Chip) : c.fresh.stns = c.stns := rfl
@[simp] theorem Chip.fresh_belt (c : Chip) : c.fresh.belt = c.belt := rfl
@[simp] theorem Chip.fresh_seam (c : Chip) : c.fresh.seam = c.seam := rfl
@[simp] theorem Chip.fresh_drives (c : Chip) : c.fresh.drives = c.drives := rfl
@[simp] theorem Chip.fresh_encs (c : Chip) : c.fresh.encs = c.encs := rfl
@[simp] theorem Chip.fresh_fbCopy (c : Chip) : c.fresh.fbCopy = c.fbCopy := rfl
@[simp] theorem Chip.fresh_halls (c : Chip) : c.fresh.halls = c.halls := rfl
@[simp] theorem Chip.fresh_biss (c : Chip) : c.fresh.biss = c.biss := rfl
@[simp] theorem Chip.fresh_mules (c : Chip) : c.fresh.mules = c.mules := rfl
@[simp] theorem Chip.fresh_wl (c : Chip) : c.fresh.wl = c.wl := rfl
@[simp] theorem Chip.fresh_free (c : Chip) : c.fresh.free = c.free := rfl
@[simp] theorem Chip.fresh_emits (c : Chip) : c.fresh.emits = [] := rfl
@[simp] theorem Chip.fresh_outs (c : Chip) : c.fresh.outs = [] := rfl

@[simp] theorem State.timed_clock (dt : Nat) (f : Ctx → Chip → Chip) (s : State) : (s.timed dt f).clock = s.elapsed dt := rfl
@[simp] theorem State.timed_pending (dt : Nat) (f : Ctx → Chip → Chip) (s : State) : (s.timed dt f).pending = s.pending := rfl
@[simp] theorem State.timedMerge_clock (dt : Nat) (f : Nat → Merge × Chip → Merge × Chip) (s : State) :
    (s.timedMerge dt f).clock = s.elapsed dt := rfl
@[simp] theorem State.timedMerge_pending (dt : Nat) (f : Nat → Merge × Chip → Merge × Chip) (s : State) :
    (s.timedMerge dt f).pending = s.pending := rfl
@[simp] theorem State.restarted_pending (dt : Nat) (go : Chip → Bool) (f : Nat → Merge × Chip → Merge × Chip) (s : State) :
    (s.restarted dt go f).pending = s.pending := rfl

end Sys2Proof.Machine
end

