-- ==== Sys2Proof/Laws/Ops.lean ====
section
/-! SUPPORT. Laws of the shared operations on registers and fields: what a register or a field reads as after a write.
-/
namespace Sys2Proof.Machine

/-- A replaced field reads as its new value. -/
theorem bits_putBits_same {n hi lo v : Nat} (h : lo ≤ hi) : bits (putBits n hi lo v) hi lo = v % 2 ^ (hi + 1 - lo) := by
  have hp : 2 ^ (hi + 1) = 2 ^ lo * 2 ^ (hi + 1 - lo) := by rw [← pow_add]; congr 1; omega
  have hlo : 0 < 2 ^ lo := by positivity
  simp only [bits, putBits]
  rw [show n % 2 ^ lo + v % 2 ^ (hi + 1 - lo) * 2 ^ lo + n / 2 ^ (hi + 1) * 2 ^ (hi + 1)
      = n % 2 ^ lo + 2 ^ lo * (v % 2 ^ (hi + 1 - lo) + 2 ^ (hi + 1 - lo) * (n / 2 ^ (hi + 1))) by rw [hp]; ring]
  rw [Nat.add_mul_div_left _ _ hlo, Nat.div_eq_of_lt (Nat.mod_lt _ hlo), Nat.zero_add, Nat.add_mul_mod_self_left,
    Nat.mod_mod]

/-- A field replaced in a word stays in the word. -/
theorem putBits_lt {n hi lo v : Nat} (h : lo ≤ hi) (hh : hi < 32) (hn : n < 2 ^ 32) : putBits n hi lo v < 2 ^ 32 := by
  have hp : 2 ^ (hi + 1) = 2 ^ lo * 2 ^ (hi + 1 - lo) := by rw [← pow_add]; congr 1; omega
  have hq : 2 ^ 32 = 2 ^ (hi + 1) * 2 ^ (31 - hi) := by rw [← pow_add]; congr 1; omega
  have h1 : n % 2 ^ lo < 2 ^ lo := Nat.mod_lt _ (by positivity)
  have h2 : v % 2 ^ (hi + 1 - lo) < 2 ^ (hi + 1 - lo) := Nat.mod_lt _ (by positivity)
  have h3 : n / 2 ^ (hi + 1) < 2 ^ (31 - hi) := by
    rw [Nat.div_lt_iff_lt_mul (by positivity)]
    rw [hq] at hn
    linarith [mul_comm (2 ^ (hi + 1)) (2 ^ (31 - hi))]
  simp only [putBits]
  have h4 : n % 2 ^ lo + v % 2 ^ (hi + 1 - lo) * 2 ^ lo < 2 ^ (hi + 1) := by
    rw [hp]
    calc n % 2 ^ lo + v % 2 ^ (hi + 1 - lo) * 2 ^ lo < 2 ^ lo + v % 2 ^ (hi + 1 - lo) * 2 ^ lo := by omega
      _ = (v % 2 ^ (hi + 1 - lo) + 1) * 2 ^ lo := by ring
      _ ≤ 2 ^ (hi + 1 - lo) * 2 ^ lo := Nat.mul_le_mul_right _ h2
      _ = 2 ^ lo * 2 ^ (hi + 1 - lo) := by ring
  calc _ < 2 ^ (hi + 1) + n / 2 ^ (hi + 1) * 2 ^ (hi + 1) := by omega
    _ = (n / 2 ^ (hi + 1) + 1) * 2 ^ (hi + 1) := by ring
    _ ≤ 2 ^ (31 - hi) * 2 ^ (hi + 1) := Nat.mul_le_mul_right _ h3
    _ = 2 ^ 32 := by rw [hq]; ring

/-- A field above the replaced one is as it was. -/
theorem bits_putBits_above {n hi lo v hi' lo' : Nat} (h : lo ≤ hi) (ha : hi < lo') :
    bits (putBits n hi lo v) hi' lo' = bits n hi' lo' := by
  have hp : 2 ^ (hi + 1) = 2 ^ lo * 2 ^ (hi + 1 - lo) := by rw [← pow_add]; congr 1; omega
  have h1 : n % 2 ^ lo < 2 ^ lo := Nat.mod_lt _ (by positivity)
  have h2 : v % 2 ^ (hi + 1 - lo) < 2 ^ (hi + 1 - lo) := Nat.mod_lt _ (by positivity)
  have h4 : n % 2 ^ lo + v % 2 ^ (hi + 1 - lo) * 2 ^ lo < 2 ^ (hi + 1) := by
    rw [hp]
    calc n % 2 ^ lo + v % 2 ^ (hi + 1 - lo) * 2 ^ lo < 2 ^ lo + v % 2 ^ (hi + 1 - lo) * 2 ^ lo := by omega
      _ = (v % 2 ^ (hi + 1 - lo) + 1) * 2 ^ lo := by ring
      _ ≤ 2 ^ (hi + 1 - lo) * 2 ^ lo := Nat.mul_le_mul_right _ h2
      _ = 2 ^ lo * 2 ^ (hi + 1 - lo) := by ring
  have hq : 2 ^ lo' = 2 ^ (hi + 1) * 2 ^ (lo' - (hi + 1)) := by rw [← pow_add]; congr 1; omega
  simp only [bits, putBits, hq, ← Nat.div_div_eq_div_mul]
  rw [Nat.add_mul_div_right _ _ (by positivity : 0 < 2 ^ (hi + 1)), Nat.div_eq_of_lt h4, Nat.zero_add]

/-- A field below the replaced one is as it was. -/
theorem bits_putBits_below {n hi lo v hi' lo' : Nat} (h : lo ≤ hi) (ha : hi' < lo) (hl : lo' ≤ hi') :
    bits (putBits n hi lo v) hi' lo' = bits n hi' lo' := by
  have hp : 2 ^ (hi + 1) = 2 ^ lo * 2 ^ (hi + 1 - lo) := by rw [← pow_add]; congr 1; omega
  have hq : 2 ^ lo = 2 ^ (hi' + 1) * 2 ^ (lo - (hi' + 1)) := by rw [← pow_add]; congr 1; omega
  have hr : 2 ^ (hi' + 1) = 2 ^ lo' * 2 ^ (hi' + 1 - lo') := by rw [← pow_add]; congr 1; omega
  have key : ∀ x : Nat, x / 2 ^ lo' % 2 ^ (hi' + 1 - lo') = x % 2 ^ (hi' + 1) / 2 ^ lo' := by
    intro x; rw [hr, Nat.mod_mul_right_div_self]
  simp only [bits, putBits]
  rw [key, key]
  congr 1
  rw [hp, hq]
  rw [show n % (2 ^ (hi' + 1) * 2 ^ (lo - (hi' + 1))) + v % 2 ^ (hi + 1 - lo) * (2 ^ (hi' + 1) * 2 ^ (lo - (hi' + 1)))
      + n / (2 ^ (hi' + 1) * 2 ^ (lo - (hi' + 1)) * 2 ^ (hi + 1 - lo)) * (2 ^ (hi' + 1) * 2 ^ (lo - (hi' + 1)) * 2 ^ (hi + 1 - lo))
      = n % (2 ^ (hi' + 1) * 2 ^ (lo - (hi' + 1))) + 2 ^ (hi' + 1) * (v % 2 ^ (hi + 1 - lo) * 2 ^ (lo - (hi' + 1))
      + n / (2 ^ (hi' + 1) * 2 ^ (lo - (hi' + 1)) * 2 ^ (hi + 1 - lo)) * (2 ^ (lo - (hi' + 1)) * 2 ^ (hi + 1 - lo))) by ring]
  rw [Nat.add_mul_mod_self_left, Nat.mod_mul_right_mod]

/-- A register reads as the word it was given. -/
theorem Chip.reg_setReg_same {c : Chip} {off : Nat} {v : Word} (h : Sparse.wf RegMap.resetOf c.regs = true) :
    (c.setReg off v).reg off = v := Sparse.get_put_same h

/-- Another register reads as before. -/
theorem Chip.reg_setReg_other {c : Chip} {off off' : Nat} {v : Word} (h : off' ≠ off) :
    (c.setReg off v).reg off' = c.reg off' := Sparse.get_put_other h

/-- The register file keeps its canonical form. -/
theorem Chip.wf_setReg {c : Chip} {off : Nat} {v : Word} (h : Sparse.wf RegMap.resetOf c.regs = true) :
    Sparse.wf RegMap.resetOf (c.setReg off v).regs = true := Sparse.wf_put h

/-- A field reads as the value it was given. -/
theorem Chip.fld_setFld_same {c : Chip} {f : BitField} {v : Nat} (h : Sparse.wf RegMap.resetOf c.regs = true)
    (hb : f.lo ≤ f.hi) (hh : f.hi < 32) : (c.setFld f v).fld f = v % 2 ^ (f.hi + 1 - f.lo) := by
  unfold Chip.fld Chip.setFld
  rw [Chip.reg_setReg_same h, BitVec.toNat_ofNat, Nat.mod_eq_of_lt (putBits_lt hb hh (c.reg f.off).isLt), bits_putBits_same hb]

/-- A field of another register reads as before. -/
theorem Chip.fld_setFld_off {c : Chip} {f g : BitField} {v : Nat} (h : g.off ≠ f.off) : (c.setFld f v).fld g = c.fld g := by
  unfold Chip.fld Chip.setFld
  rw [Chip.reg_setReg_other h]

/-- Another field of the same register reads as before. -/
theorem Chip.fld_setFld_apart {c : Chip} {f g : BitField} {v : Nat} (h : Sparse.wf RegMap.resetOf c.regs = true)
    (ho : g.off = f.off) (hf : f.lo ≤ f.hi) (hg : g.lo ≤ g.hi) (hh : f.hi < 32) (ha : f.hi < g.lo ∨ g.hi < f.lo) :
    (c.setFld f v).fld g = c.fld g := by
  unfold Chip.fld Chip.setFld
  rw [ho, Chip.reg_setReg_same h, BitVec.toNat_ofNat, Nat.mod_eq_of_lt (putBits_lt hf hh (c.reg f.off).isLt)]
  rcases ha with ha | ha
  · exact bits_putBits_above hf ha
  · exact bits_putBits_below hf ha hg

/-- A field of a register that stays the same list of words reads as before. -/
theorem Chip.fld_of_regs {c c' : Chip} (h : c'.regs = c.regs) (f : BitField) : c'.fld f = c.fld f := by
  unfold Chip.fld Chip.reg; rw [h]

/-- A register of a chip with the same register file reads as before. -/
theorem Chip.reg_of_regs {c c' : Chip} (h : c'.regs = c.regs) (off : Nat) : c'.reg off = c.reg off := by
  unfold Chip.reg; rw [h]

end Sys2Proof.Machine
end

