-- ==== Sys2Proof/Laws/Settle.lean ====
section
/-! SUPPORT. What a command leaves to be done in a calm chip: only cuts to record, image channels to feed and the hold-up supply to turn off; in a still chip nothing at all.
-/
namespace Sys2Proof.Machine

/-- The conditions of a calm chip, one by one. -/
theorem Chip.calm_iff {c : Chip} : c.calm = true ↔ c.txn.commits = [] ∧ c.txn.touched = [] ∧ c.txn.switched = []
    ∧ c.eng.calJobs = [] ∧ c.eng.prime = none ∧ c.eng.starting = false ∧ c.eng.sleepFor = none ∧ c.safety.blanking = none := by
  simp [Chip.calm, Chip.noCommit, List.isEmpty_iff, Option.isNone_iff_eq_none, and_assoc]

/-- In a calm chip nothing switches, is calibrated, primed, started or put to sleep. -/
theorem settle_calm {now : Nat} {m : Merge} {c : Chip} (h : c.calm = true) :
    ∃ c', settle now (m, c) = (m, c') ∧ c' = ((((c.logCuts now).feedChannels.holdOff now).freeDecided.reseat.blankedStop now).passM0 now).trySleep now m := by
  obtain ⟨h1, h2, h3, h4, h5, -, -, -⟩ := Chip.calm_iff.1 h
  have hc : c.catchUp now = c := by simp [Chip.catchUp, Chip.commits, h1]
  have he : ({ c with txn := { c.txn with touched := [], switched := [] } } : Chip) = c := by
    conv_rhs => rw [show c = { c with txn := { c.txn with touched := c.txn.touched, switched := c.txn.switched } } from rfl]
    rw [h2, h3]
  have hd : c.dropDown now = c := by simp [Chip.dropDown, h4]
  have hp : c.primeStep now = c := by simp [Chip.primeStep, h5]
  refine ⟨_, ?_, rfl⟩
  simp only [settle, hc, h2, h3, he, List.foldl_nil, hd, hp]

/-- A still chip is calm. -/
theorem Chip.calm_of_still {c : Chip} (h : c.still = true) : c.calm = true := by
  simp only [Chip.still, Bool.and_eq_true] at h
  exact h.1.1.1

/-- Without a service command, none ends and none takes a channel. -/
theorem Chip.service_of_none {c : Chip} (h : c.noService = true) : c.freeDecided = c ∧ c.reseat = c := by
  simp only [Chip.noService, Bool.and_eq_true, List.isEmpty_iff, List.all_eq_true, Option.isNone_iff_eq_none] at h
  obtain ⟨⟨hx, hp⟩, ho⟩ := h
  have hn : c.dma.owner.filterMap (fun x => x) = [] := by
    rw [List.filterMap_eq_nil_iff]
    intro o hm
    exact ho o hm
  exact ⟨by simp [Chip.freeDecided, Chip.each, hn, hx, id_def], by simp [Chip.reseat, Chip.each, hp, hx]⟩

/-- In a still chip a command leaves nothing to be done but what its service channels need. -/
theorem settle_still {now : Nat} {m : Merge} {c : Chip} (h : c.still = true) (he : c.freeDecided = c) (hr : c.reseat = c) :
    settle now (m, c) = (m, c) := by
  obtain ⟨c', hs, rfl⟩ := settle_calm (now := now) (m := m) (Chip.calm_of_still h)
  obtain ⟨-, -, -, -, -, h6, h7, h8⟩ := Chip.calm_iff.1 (Chip.calm_of_still h)
  simp only [Chip.still, Bool.and_eq_true, List.isEmpty_iff, Bool.not_eq_true', List.all_eq_true] at h
  have hl : c.logCuts now = c := by simp [Chip.logCuts, h.1.1.2]
  have hf : ∀ s, s < 8 → c.feedChannel s = c := by
    intro s hs
    have hk : (c.img s).page = none := by simpa using h.1.2 s (by simpa using hs)
    simp [Chip.feedChannel, hk, Chip.running, h.1.1.2]
  have hg : c.feedChannels = c := by
    have : ∀ l : List Nat, (∀ s ∈ l, s < 8) → c.each l (fun s c => c.feedChannel s) = c := by
      intro l
      induction l with
      | nil => intro _; rfl
      | cons a l ih =>
        intro hl
        have ha := hf a (hl a (by simp))
        have hi := ih fun s hs => hl s (by simp [hs])
        unfold Chip.each at hi ⊢
        simp only [List.foldl_cons, ha]
        exact hi
    exact this _ (by simp)
  have hh : c.holdOff now = c := by simp [Chip.holdOff, h.2]
  have hb : c.blankedStop now = c := by simp [Chip.blankedStop, h8]
  have hm : c.passM0 now = c := by
    have : c.checkM0 now = c := by simp [Chip.checkM0, h6]
    cases hw : c.eng.m0 <;> simp [Chip.passM0, this, hw]
  have ht : c.trySleep now m = c := by simp [Chip.trySleep, h7]
  rw [hs, hl, hg, hh, he, hr, hb, hm, ht]

/-- A chip that serves has no acceptance to number: a command finds the state as it stands. -/
theorem State.opened_of_serving {dt : Nat} {s : State} (h : s.chip.serving = true) : s.opened dt = (s.merge, s.chip.fresh) := by
  have : s.chip.eng.accepting = [] := by
    simp only [Chip.serving, Bool.and_eq_true, List.isEmpty_iff] at h; exact h.1
  simp [State.opened, this]

/-- The next state of a command whose effect leaves the chip still. -/
theorem runAll_still {dt : Nat} {f : Ctx → Chip → Chip} {s : State} (hv : s.chip.serving = true)
    (h : (f (s.ctx dt) s.chip.fresh).still = true)
    (hn : (f (s.ctx dt) s.chip.fresh).noService = true) : runAll dt f s = .next (s.timed dt f) := by
  unfold State.ctx State.at_ at *
  unfold runAll State.timedMerge State.timed
  obtain ⟨he, hr⟩ := Chip.service_of_none hn
  simp only [State.opened_of_serving hv, settle_still h he hr]

end Sys2Proof.Machine
end

