-- ==== Sys2Proof/Laws/Merge.lean ====
section
/-! SUPPORT. Laws of the record merge unit: a fixed outcome stays fixed, and what a command handed over fixes the outcome it names.
-/
namespace Sys2Proof.Machine

@[simp] theorem Merge.entry_updPart (m : Merge) (p k : Nat) (f : PartQ → PartQ) : (m.updPart p f).entry k = m.entry k := rfl

@[simp] theorem Merge.entry_setOrder (m : Merge) (p r k : Nat) (l : List OrdItem) : (m.setOrder p r l).entry k = m.entry k := rfl

@[simp] theorem Merge.entry_nextSeq (m : Merge) (n k : Nat) : ({ m with nextSeq := n } : Merge).entry k = m.entry k := rfl

/-- The entry in a slot after entries of a slot were changed, the change keeping the slot. -/
theorem Merge.entry_updEntry (m : Merge) (j k : Nat) (f : JEntry → JEntry) (hf : ∀ e, e.slot = j → (f e).slot = e.slot) :
    (m.updEntry j f).entry k = if k = j then (m.entry k).map f else m.entry k := by
  unfold Merge.entry Merge.updEntry
  simp only
  induction m.journal with
  | nil => simp
  | cons e l ih =>
    simp only [List.map_cons, List.find?_cons]
    by_cases hj : e.slot = j
    · have hs := hf e hj
      by_cases hk : k = j
      · subst hk
        simp [hj, hs]
      · have h1 : (j == k) = false := by simpa using fun h => hk h.symm
        simp only [hj, hs, beq_self_eq_true, if_true, h1, ih, hk, if_false]
    · have h2 : (e.slot == j) = false := by simpa using hj
      by_cases hk : e.slot = k
      · have : k ≠ j := fun h => hj (hk.trans h)
        simp [h2, hk, this]
      · have h3 : (e.slot == k) = false := by simpa using hk
        simp only [h2, Bool.false_eq_true, if_false, h3]
        exact ih

/-- The slot of the entry found in a slot. -/
theorem Merge.slot_of_entry {m : Merge} {j : Nat} {e : JEntry} (h : m.entry j = some e) : e.slot = j := by
  simpa using List.find?_some h

/-- A change that keeps slot, status and DETAIL, and a fixed phase fixed, keeps a fixed outcome. -/
theorem Merge.fixed_updEntry {m : Merge} {j k st d : Nat} {f : JEntry → JEntry} (h : m.fixed k st d)
    (hs : ∀ e, e.slot = j → (f e).slot = e.slot)
    (hf : ∀ e, e.slot = j → (e.phase = .result ∨ e.phase = .completed) →
      ((f e).phase = .result ∨ (f e).phase = .completed) ∧ (f e).status = e.status ∧ (f e).detail = e.detail) :
    (m.updEntry j f).fixed k st d := by
  obtain ⟨e, he, hp, hst, hd⟩ := h
  unfold Merge.fixed
  rw [Merge.entry_updEntry _ _ _ _ hs]
  by_cases hk : k = j
  · obtain ⟨h1, h2, h3⟩ := hf e (by rw [← hk]; exact Merge.slot_of_entry he) hp
    exact ⟨f e, by rw [if_pos hk, he]; rfl, h1, h2.trans hst, h3.trans hd⟩
  · exact ⟨e, by rw [if_neg hk, he], hp, hst, hd⟩

theorem Merge.fixed_hold {m : Merge} {p k st d : Nat} {r : Rec} (h : m.fixed k st d) : (m.hold p r).fixed k st d := by
  unfold Merge.hold
  repeat' split
  all_goals exact h

theorem Merge.fixed_postEvent {c : Chip} {m : Merge} {p k st d : Nat} {r : Rec} (h : m.fixed k st d) :
    (m.postEvent c p r).fixed k st d := by
  unfold Merge.postEvent
  simp only
  repeat' split
  · exact Merge.fixed_hold h
  · exact h
  · exact Merge.fixed_hold h

theorem Merge.fixed_event {c : Chip} {now : Nat} {m : Merge} {e : Ev} {k st d : Nat} (h : m.fixed k st d) :
    (m.event c now e).2.fixed k st d := by
  unfold Merge.event
  simp only
  have : ∀ (ps : List Nat) (r : Rec) (m : Merge), m.fixed k st d → (ps.foldl (fun m p => m.postEvent c p r) m).fixed k st d := by
    intro ps r
    induction ps with
    | nil => intro m hm; exact hm
    | cons p ps ih => intro m hm; exact ih _ (Merge.fixed_postEvent hm)
  exact this _ _ _ h

theorem Merge.fixed_postCompletion {c : Chip} {m : Merge} {e : JEntry} {k st d : Nat} (h : m.fixed k st d) :
    (m.postCompletion c e).fixed k st d := by
  unfold Merge.postCompletion
  repeat' split
  · exact h
  · exact Merge.fixed_updEntry h (fun _ _ => rfl) fun _ _ hp => ⟨hp, rfl, rfl⟩
  · exact h

theorem Merge.fixed_postCopy {c : Chip} {m : Merge} {p : Nat} {r : Rec} {k st d : Nat} (h : m.fixed k st d) :
    (m.postCopy c p r).fixed k st d := by
  unfold Merge.postCopy
  simp only
  split <;> exact h

theorem Merge.fixed_flushList {c : Chip} {now p k st d : Nat} (l : List OrdItem) {m : Merge} (h : m.fixed k st d) :
    (Merge.flushList c now p l m).2.fixed k st d := by
  induction l generalizing m now with
  | nil => exact h
  | cons i l ih =>
    cases i with
    | dupRec r => exact ih (Merge.fixed_postCopy h)
    | dup slot =>
      simp only [Merge.flushList]
      split
      · exact ih h
      · split
        · exact ih (Merge.fixed_postCopy h)
        · exact h
    | cmd slot =>
      simp only [Merge.flushList]
      split
      · exact ih h
      · rename_i e he
        split
        · exact h
        · rename_i hr
          have hr : e.phase = .result := by
            have : e.phase = .result ∧ slot ∉ c.eng.accepting := by simpa using hr
            exact this.1
          split
          · split
            · exact Merge.fixed_updEntry h (fun _ _ => rfl) fun _ _ hp => ⟨hp, rfl, rfl⟩
            · exact h
          · refine ih (Merge.fixed_postCompletion ?_)
            have hslot := Merge.slot_of_entry he
            obtain ⟨x, hx, hp, hst, hd⟩ := h
            unfold Merge.fixed
            rw [Merge.entry_updEntry _ _ _ _ (fun a ha => by simp [hslot, ha])]
            by_cases hk : k = slot
            · subst hk
              rw [he] at hx
              cases hx
              exact ⟨{ e with phase := .completed, cseq := m.nextSeq, ctime := e.stamp.getD now },
                by rw [if_pos rfl, Merge.entry_nextSeq, he]; rfl, Or.inr rfl, hst, hd⟩
            · exact ⟨x, by rw [if_neg hk, Merge.entry_nextSeq, hx], hp, hst, hd⟩

theorem Merge.fixed_flush {c : Chip} {now p r k st d : Nat} {m : Merge} (h : m.fixed k st d) :
    (m.flush c now p r).fixed k st d := by
  unfold Merge.flush
  split
  · exact h
  · exact Merge.fixed_flushList _ h

/-- Fixing an outcome leaves the outcomes fixed before as they are. -/
theorem Merge.fixed_fixResult {c : Chip} {now j s' d' k st d : Nat} {t : Option Nat} {m : Merge} (h : m.fixed k st d) :
    (m.fixResult c now j s' d' t).fixed k st d := by
  unfold Merge.fixResult
  split
  · exact h
  · rename_i e he
    split
    · exact h
    · rename_i hne
      refine Merge.fixed_updEntry (Merge.fixed_flush ?_) (fun _ _ => rfl) fun _ _ hp => ⟨hp, rfl, rfl⟩
      obtain ⟨x, hx, hp, hst, hd⟩ := h
      unfold Merge.fixed
      rw [Merge.entry_updEntry (hf := by intro _ _; rfl)]
      by_cases hk : k = j
      · subst hk
        rw [he] at hx
        cases hx
        exact absurd hp.symm hne
      · exact ⟨x, by simp [hk, hx], hp, hst, hd⟩

/-- An open command takes the outcome it is given. -/
theorem Merge.fixed_of_fixResult {c : Chip} {now j st d : Nat} {t : Option Nat} {m : Merge} {e : JEntry} (he : m.entry j = some e)
    (hp : e.phase = .accepted ∨ e.phase = .started) : (m.fixResult c now j st d t).fixed j st (d % 2 ^ 32) := by
  unfold Merge.fixResult
  rw [he]
  have hn : ¬(e.phase = .completed ∨ e.phase = .result) := by rcases hp with hp | hp <;> simp [hp]
  simp only [hn, if_false]
  refine Merge.fixed_updEntry (Merge.fixed_flush ?_) (fun _ _ => rfl) fun _ _ hp => ⟨hp, rfl, rfl⟩
  unfold Merge.fixed
  rw [Merge.entry_updEntry (hf := by intro _ _; rfl)]
  exact ⟨_, by rw [if_pos rfl, he]; rfl, Or.inl rfl, rfl, rfl⟩

theorem Merge.fixed_loseHeld {m : Merge} {k st d : Nat} (h : m.fixed k st d) : m.loseHeld.fixed k st d := by
  unfold Merge.loseHeld
  have : ∀ (l : List (Nat × Rec)) (m : Merge), m.fixed k st d →
      (l.foldl (fun m h => m.updPart h.1 (·.drop h.2.seq.toNat)) m).fixed k st d := by
    intro l
    induction l with
    | nil => intro m hm; exact hm
    | cons a l ih => intro m hm; exact ih _ hm
  exact this _ _ h

/-- The items that give the command in a slot another status. -/
def Emit.amends (slot : Nat) : Emit → Bool
  | .amend s _ => s == slot
  | _ => false

/-- Taking one item a command handed over leaves a fixed outcome fixed, unless it amends it. -/
theorem Merge.fixed_absorbOne {c : Chip} {now k st d : Nat} {x : List Rec × Merge} {e : Emit} (h : x.2.fixed k st d)
    (ha : e.amends k = false) : (Merge.absorbOne c now x e).2.fixed k st d := by
  cases e with
  | event e => exact Merge.fixed_event h
  | tileEvent tile stamp e =>
    simp only [Merge.absorbOne]
    split
    · exact Merge.fixed_event h
    · exact h
  | amend slot status =>
    obtain ⟨y, hy, hp, hst, hd⟩ := h
    have hk : k ≠ slot := by intro hk; simp [Emit.amends, hk] at ha
    unfold Merge.fixed
    simp only [Merge.absorbOne]
    rw [Merge.entry_updEntry (hf := by intro _ _; split <;> rfl)]
    exact ⟨y, by rw [if_neg hk, hy], hp, hst, hd⟩
  | started slot =>
    simp only [Merge.absorbOne]
    split
    · exact h
    · refine Merge.fixed_updEntry h (fun e _ => by split <;> rfl) fun e _ hp => ?_
      have : ¬e.phase = .accepted := by rcases hp with hp | hp <;> simp [hp]
      simp [this, hp]
  | result slot status detail =>
    simp only [Merge.absorbOne]
    split
    · exact h
    · exact Merge.fixed_fixResult h
  | resultAt slot status detail t =>
    simp only [Merge.absorbOne]
    split
    · exact h
    · exact Merge.fixed_fixResult h
  | loseHeld => exact Merge.fixed_loseHeld h
  | stopArea on => exact h
  | sealed => exact h

theorem Merge.fixed_absorbs {c : Chip} {now k st d : Nat} (l : List Emit) {x : List Rec × Merge} (h : x.2.fixed k st d)
    (ha : ∀ e ∈ l, e.amends k = false) : (l.foldl (Merge.absorbOne c now) x).2.fixed k st d := by
  induction l generalizing x with
  | nil => exact h
  | cons e l ih => exact ih (Merge.fixed_absorbOne h (ha e (by simp))) fun a hm => ha a (by simp [hm])

/-- The items that fix the outcome of a slot. -/
def Emit.fixes (slot : Nat) : Emit → Bool
  | .result s _ _ => s == slot
  | .resultAt s _ _ _ => s == slot
  | _ => false

/-- The command in a slot is open: accepted or started. -/
def Merge.open_ (m : Merge) (slot : Nat) : Prop := ∃ e, m.entry slot = some e ∧ (e.phase = .accepted ∨ e.phase = .started)

theorem Merge.open_hold {m : Merge} {p k : Nat} {r : Rec} (h : m.open_ k) : (m.hold p r).open_ k := by
  unfold Merge.hold
  repeat' split
  all_goals exact h

theorem Merge.open_postEvent {c : Chip} {m : Merge} {p k : Nat} {r : Rec} (h : m.open_ k) : (m.postEvent c p r).open_ k := by
  unfold Merge.postEvent
  simp only
  repeat' split
  · exact Merge.open_hold h
  · exact h
  · exact Merge.open_hold h

theorem Merge.open_event {c : Chip} {now : Nat} {m : Merge} {e : Ev} {k : Nat} (h : m.open_ k) : (m.event c now e).2.open_ k := by
  unfold Merge.event
  simp only
  have : ∀ (ps : List Nat) (r : Rec) (m : Merge), m.open_ k → (ps.foldl (fun m p => m.postEvent c p r) m).open_ k := by
    intro ps r
    induction ps with
    | nil => intro m hm; exact hm
    | cons p ps ih => intro m hm; exact ih _ (Merge.open_postEvent hm)
  exact this _ _ _ h

/-- A change of the entries of another slot, or one that keeps an open phase open, keeps a command open. -/
theorem Merge.open_updEntry {m : Merge} {j k : Nat} {f : JEntry → JEntry} (h : m.open_ k) (hs : ∀ e, e.slot = j → (f e).slot = e.slot)
    (hf : k = j → ∀ e, m.entry k = some e → (e.phase = .accepted ∨ e.phase = .started) → ((f e).phase = .accepted ∨ (f e).phase = .started)) :
    (m.updEntry j f).open_ k := by
  obtain ⟨e, he, hp⟩ := h
  unfold Merge.open_
  rw [Merge.entry_updEntry _ _ _ _ hs]
  by_cases hk : k = j
  · exact ⟨f e, by rw [if_pos hk, he]; rfl, hf hk e he hp⟩
  · exact ⟨e, by rw [if_neg hk, he], hp⟩

theorem Merge.open_postCompletion {c : Chip} {m : Merge} {e : JEntry} {k : Nat} (h : m.open_ k) : (m.postCompletion c e).open_ k := by
  unfold Merge.postCompletion
  repeat' split
  · exact h
  · exact Merge.open_updEntry h (fun _ _ => rfl) fun _ _ _ hp => hp
  · exact h

theorem Merge.open_postCopy {c : Chip} {m : Merge} {p : Nat} {r : Rec} {k : Nat} (h : m.open_ k) : (m.postCopy c p r).open_ k := by
  unfold Merge.postCopy
  simp only
  split <;> exact h

theorem Merge.open_flushList {c : Chip} {now p k : Nat} (l : List OrdItem) {m : Merge} (h : m.open_ k) :
    (Merge.flushList c now p l m).2.open_ k := by
  induction l generalizing m now with
  | nil => exact h
  | cons i l ih =>
    cases i with
    | dupRec r => exact ih (Merge.open_postCopy h)
    | dup slot =>
      simp only [Merge.flushList]
      split
      · exact ih h
      · split
        · exact ih (Merge.open_postCopy h)
        · exact h
    | cmd slot =>
      simp only [Merge.flushList]
      split
      · exact ih h
      · rename_i e he
        split
        · exact h
        · rename_i hr
          have hph : e.phase = .result := by
            have : e.phase = .result ∧ slot ∉ c.eng.accepting := by simpa using hr
            exact this.1
          split
          · split
            · exact Merge.open_updEntry h (fun _ _ => rfl) fun _ _ _ hp => hp
            · exact h
          · refine ih (Merge.open_postCompletion ?_)
            have hslot := Merge.slot_of_entry he
            refine Merge.open_updEntry h (fun a ha => by simp [hslot, ha]) ?_
            intro hk x hx hp
            subst hk
            simp only [Merge.entry_nextSeq] at hx
            rw [he] at hx
            cases hx
            rcases hp with hp | hp <;> rw [hph] at hp <;> cases hp

theorem Merge.open_flush {c : Chip} {now p r k : Nat} {m : Merge} (h : m.open_ k) : (m.flush c now p r).open_ k := by
  unfold Merge.flush
  split
  · exact h
  · exact Merge.open_flushList _ h

theorem Merge.open_fixResult {c : Chip} {now j st d k : Nat} {t : Option Nat} {m : Merge} (h : m.open_ k) (hk : j ≠ k) :
    (m.fixResult c now j st d t).open_ k := by
  unfold Merge.fixResult
  split
  · exact h
  · split
    · exact h
    · refine Merge.open_updEntry (Merge.open_flush ?_) (fun _ _ => rfl) fun e => absurd e.symm hk
      exact Merge.open_updEntry h (fun _ _ => rfl) fun e => absurd e.symm hk

theorem Merge.open_loseHeld {m : Merge} {k : Nat} (h : m.open_ k) : m.loseHeld.open_ k := by
  unfold Merge.loseHeld
  have : ∀ (l : List (Nat × Rec)) (m : Merge), m.open_ k → (l.foldl (fun m h => m.updPart h.1 (·.drop h.2.seq.toNat)) m).open_ k := by
    intro l
    induction l with
    | nil => intro m hm; exact hm
    | cons a l ih => intro m hm; exact ih _ hm
  exact this _ _ h

theorem Merge.open_absorbs {c : Chip} {now k : Nat} (l : List Emit) {x : List Rec × Merge} (h : x.2.open_ k)
    (hl : ∀ e ∈ l, e.fixes k = false) : (l.foldl (Merge.absorbOne c now) x).2.open_ k := by
  induction l generalizing x with
  | nil => exact h
  | cons e l ih =>
    refine ih ?_ fun a ha => hl a (by simp [ha])
    have he := hl e (by simp)
    cases e with
    | event e => exact Merge.open_event h
    | tileEvent tile stamp e =>
      simp only [Merge.absorbOne]
      split
      · exact Merge.open_event h
      · exact h
    | started slot =>
      simp only [Merge.absorbOne]
      split
      · exact h
      · refine Merge.open_updEntry h (fun e _ => by split <;> rfl) fun _ e _ hp => ?_
        rcases hp with hp | hp <;> simp [hp]
    | result slot status detail =>
      simp only [Merge.absorbOne]
      split
      · exact h
      · exact Merge.open_fixResult h (by simpa [Emit.fixes] using he)
    | resultAt slot status detail t =>
      simp only [Merge.absorbOne]
      split
      · exact h
      · exact Merge.open_fixResult h (by simpa [Emit.fixes] using he)
    | loseHeld => exact Merge.open_loseHeld h
    | stopArea on => exact h
    | sealed => exact h
    | amend slot status =>
      refine Merge.open_updEntry h (fun e _ => by split <;> rfl) fun _ e _ hp => ?_
      split <;> exact hp

/-- While a core pair runs the firmware, the first outcome a command hands over for an open slot is the one that is fixed, if nothing after it amends it (R36, R444, R453). -/
theorem Merge.fixed_absorb {c : Chip} {now j st d : Nat} {m : Merge} {l l' : List Emit} (hc : c.eng.coresFailed = false) (h : m.open_ j)
    (hl : ∀ e ∈ l, e.fixes j = false) (hl' : ∀ e ∈ l', e.amends j = false) :
    (m.absorb c now (l ++ .result j st d :: l')).2.fixed j st (d % 2 ^ 32) := by
  unfold Merge.absorb
  rw [List.foldl_append, List.foldl_cons]
  refine Merge.fixed_absorbs _ ?_ hl'
  obtain ⟨e, he, hp⟩ := Merge.open_absorbs (c := c) (now := now) l (x := ([], m)) h hl
  simp only [Merge.absorbOne, hc, Bool.false_eq_true, if_false]
  exact Merge.fixed_of_fixResult he hp

/-- A command that may start is open. -/
theorem Merge.open_of_startable {m : Merge} {j op : Nat} {e : JEntry} (h : m.startable j op = some e) : m.open_ j := by
  unfold Merge.startable at h
  split at h
  · rename_i x hx
    split at h
    · rename_i hm
      cases h
      refine ⟨e, hx, Or.inl ?_⟩
      have := hm.2
      simp only [Merge.mayStart, Bool.and_eq_true, beq_iff_eq] at this
      exact this.1.1.1.1
    · cases h
  · cases h

/-- The slot of a command that may start. -/
theorem Merge.slot_of_startable {m : Merge} {j op : Nat} {e : JEntry} (h : m.startable j op = some e) : e.slot = j := by
  unfold Merge.startable at h
  split at h
  · rename_i x hx
    split at h
    · cases h; exact Merge.slot_of_entry hx
    · cases h
  · cases h

/-- A command of the journal runs its own section when it may start. -/
theorem command_of_offers {opcode slot : Nat} {body : JEntry → Ctx → Chip → Chip} {x : Ctx} {c : Chip} {e : JEntry}
    (hs : c.eng.sleepFor = none) (hc : c.eng.coresFailed = false) (hr : x.outranked opcode = false) (h : x.merge.startable slot opcode = some e)
    (ha : (acceptedIn opcode).contains c.state = true) : command opcode slot body x c = body e x c := by
  unfold command
  rw [hs, hc, hr, h]
  simp only [ha, if_true]
  rfl

/-- Only the Sump, its registers and its event count differ between two chips. -/
def Chip.sumpOnly (c c' : Chip) : Prop := ∃ r q s, c' = { c with regs := r, sqCount := q, sump := s }

theorem Chip.sumpOnly_refl (c : Chip) : c.sumpOnly c := ⟨c.regs, c.sqCount, c.sump, rfl⟩

theorem Chip.sumpOnly_trans {a b c : Chip} (h : a.sumpOnly b) (h' : b.sumpOnly c) : a.sumpOnly c := by
  obtain ⟨r, q, s, rfl⟩ := h
  obtain ⟨r', q', s', rfl⟩ := h'
  exact ⟨r', q', s', rfl⟩

theorem Chip.sumpOnly_sumpRec (c : Chip) (a : Option Nat) (t s tm : Nat) (w : List Word) : c.sumpOnly (c.sumpRec a t s tm w) := by
  unfold Chip.sumpRec
  simp only
  repeat' split
  all_goals exact ⟨_, _, _, rfl⟩

theorem Chip.sumpOnly_raise (c : Chip) (ev : Nat × Nat) : c.sumpOnly (c.raise ev) := by
  unfold Chip.raise
  simp only
  split
  · exact ⟨_, _, _, rfl⟩
  · exact ⟨_, _, _, rfl⟩

theorem Chip.sumpOnly_addSegment (c : Chip) (g : Segment) : c.sumpOnly (c.addSegment g) := ⟨_, _, _, rfl⟩

theorem Chip.sumpOnly_closeSegment (c : Chip) : c.sumpOnly c.closeSegment := by
  unfold Chip.closeSegment
  simp only
  split
  · exact Chip.sumpOnly_refl c
  · exact Chip.sumpOnly_trans ⟨_, _, _, rfl⟩ (Chip.sumpOnly_addSegment _ _)

theorem Chip.sumpOnly_sumpTrigger (c : Chip) (now k : Nat) : c.sumpOnly (c.sumpTrigger now k) := by
  unfold Chip.sumpTrigger
  simp only
  split
  · refine Chip.sumpOnly_trans (Chip.sumpOnly_sumpRec c none 0x16 0 now [BitVec.ofNat 32 k]) ?_
    refine Chip.sumpOnly_trans ?_ (Chip.sumpOnly_raise _ _)
    refine Chip.sumpOnly_trans ?_ ⟨_, _, _, rfl⟩
    refine Chip.sumpOnly_trans ?_ (Chip.sumpOnly_closeSegment _)
    exact ⟨_, _, _, rfl⟩
  · exact Chip.sumpOnly_refl c

/-- Numbering the event records of a command changes nothing of the chip but the recorder. -/
theorem Chip.sumpOnly_logRecords (c : Chip) (now : Nat) (l : List Rec) : c.sumpOnly (c.logRecords now l) := by
  unfold Chip.logRecords Chip.each
  induction l generalizing c with
  | nil => exact Chip.sumpOnly_refl c
  | cons r l ih =>
    rw [List.foldl_cons]
    refine Chip.sumpOnly_trans ?_ (ih _)
    simp only
    split
    · split
      · exact Chip.sumpOnly_trans (Chip.sumpOnly_sumpRec _ _ _ _ _ _) (Chip.sumpOnly_sumpTrigger _ _ _)
      · exact Chip.sumpOnly_sumpRec _ _ _ _ _ _
    · exact Chip.sumpOnly_sumpRec _ _ _ _ _ _

/-- An idle recorder takes nothing. -/
theorem Chip.sumpRec_idle {c : Chip} (h : c.fld Fld.SUMP_STATUS_STATE = 0) (a : Option Nat) (t s tm : Nat) (w : List Word) :
    c.sumpRec a t s tm w = c := by
  unfold Chip.sumpRec
  simp [h]

/-- With an idle recorder the event records of a command change nothing of the chip. -/
theorem Chip.logRecords_idle {c : Chip} (h : c.fld Fld.SUMP_STATUS_STATE = 0) (now : Nat) (l : List Rec) : c.logRecords now l = c := by
  unfold Chip.logRecords Chip.each
  induction l with
  | nil => rfl
  | cons r l ih =>
    rw [List.foldl_cons]
    have : ∀ k, c.sumpTrigger now k = c := by intro k; unfold Chip.sumpTrigger; simp [h]
    simp only [Chip.sumpRec_idle h, this, ite_self]
    split <;> exact ih

/-- The chip of a next state as the merge unit leaves it: the command's own effect, the recorder apart. -/
theorem publish_chip (now : Nat) (m : Merge) (c : Chip) : c.sumpOnly (publish now m c).2 := Chip.sumpOnly_logRecords c _ _

@[simp] theorem publish_emits (now : Nat) (m : Merge) (c : Chip) : (publish now m c).2.emits = c.emits := by
  obtain ⟨r, q, s, h⟩ := publish_chip now m c
  rw [h]

@[simp] theorem publish_outs (now : Nat) (m : Merge) (c : Chip) : (publish now m c).2.outs = c.outs := by
  obtain ⟨r, q, s, h⟩ := publish_chip now m c
  rw [h]

/-- With an idle recorder the chip of the next state is the command's own effect. -/
theorem publish_idle {now : Nat} {m : Merge} {c : Chip} (h : c.fld Fld.SUMP_STATUS_STATE = 0) : (publish now m c).2 = c :=
  Chip.logRecords_idle h _ _

end Sys2Proof.Machine
end

