-- ==== Sys2Proof/Laws/PerInstr.lean ====
section
/-! SUPPORT. Per command: when it is well formed. Its time step fits the engine time, and its operands meet their check. -/
namespace Sys2Proof.Laws.Timed
open Sys2Proof

/-- A command that is well formed takes a time step that fits the 64-bit engine time, and its operands meet their own check (R5). -/
def Statement (i : Instr) : Prop := i.wf = true → i.elapsed < 2 ^ 64 ∧ i.operandsOk = true

/-- The two halves of a well-formed command. -/
theorem wf_parts (i : Instr) (h : i.wf = true) : i.elapsed < 2 ^ 64 ∧ i.operandsOk = true := by
  simpa [Instr.wf] using h

theorem coldStart (dt : Nat) (msel mainOk : Bool) (vback : BitVec 16) (i2cA : BitVec 2) : Statement (.coldStart dt msel mainOk vback i2cA) := wf_parts _
theorem powerOnReset (dt : Nat) (msel mainOk : Bool) (vback : BitVec 16) : Statement (.powerOnReset dt msel mainOk vback) := wf_parts _
theorem brownOut (dt : Nat) : Statement (.brownOut dt) := wf_parts _
theorem engineReset (dt : Nat) (q : Machine.Port) (v : Word) : Statement (.engineReset dt q v) := wf_parts _
theorem partitionReset (dt : Nat) (q : Machine.Port) (v : Word) : Statement (.partitionReset dt q v) := wf_parts _
theorem portReset (dt : Nat) (q : Machine.Port) (v : Word) : Statement (.portReset dt q v) := wf_parts _
theorem hostPortReset (dt : Nat) (q : Machine.Port) (kind : PortResetKind) : Statement (.hostPortReset dt q kind) := wf_parts _
theorem portDown (dt : Nat) (q : Machine.Port) (linkUp busMaster : Bool) : Statement (.portDown dt q linkUp busMaster) := wf_parts _
theorem portReturn (dt : Nat) (q : Machine.Port) (rate : BitVec 3) (width : BitVec 3) (setup : Option Machine.PortSetup) : Statement (.portReturn dt q rate width setup) := wf_parts _
theorem registerWrite (dt : Nat) (q : Machine.Port) (off : BitVec 28) (v : Word) (be : BitVec 4) (upper : Option (Word × BitVec 4)) :
    Statement (.registerWrite dt q off v be upper) := wf_parts _
theorem bitAliasWrite (dt : Nat) (q : Machine.Port) (off : BitVec 28) (v : Word) : Statement (.bitAliasWrite dt q off v) := wf_parts _
theorem maskedWrite (dt : Nat) (q : Machine.Port) (off : BitVec 28) (v : Word) : Statement (.maskedWrite dt q off v) := wf_parts _
theorem sqClearWrite (dt : Nat) (q : Machine.Port) (off : BitVec 28) (v : Word) : Statement (.sqClearWrite dt q off v) := wf_parts _
theorem guardFirstWrite (dt : Nat) (q : Machine.Port) (off : BitVec 28) (v : Word) : Statement (.guardFirstWrite dt q off v) := wf_parts _
theorem guardedPairWrite (dt : Nat) (q : Machine.Port) (off : BitVec 28) (v : Word) : Statement (.guardedPairWrite dt q off v) := wf_parts _
theorem guardTimeout (dt : Nat) (off : BitVec 28) : Statement (.guardTimeout dt off) := wf_parts _
theorem partOwnerWrite (dt : Nat) (q : Machine.Port) (v : Word) : Statement (.partOwnerWrite dt q v) := wf_parts _
theorem wakeRegisterWrite (dt : Nat) (q : Machine.Port) (v : Word) : Statement (.wakeRegisterWrite dt q v) := wf_parts _
theorem i2cWake (dt : Nat) (byte : Byte) : Statement (.i2cWake dt byte) := wf_parts _
theorem tableWindowWrite (dt : Nat) (q : Machine.Port) (off : BitVec 24) (words : List Word) : Statement (.tableWindowWrite dt q off words) := wf_parts _
theorem tableCopyDone (dt : Nat) (inst : BitVec 16) : Statement (.tableCopyDone dt inst) := wf_parts _
theorem partitionAttach (dt : Nat) (q : Machine.Port) (p : Fin 8) (v : Word) : Statement (.partitionAttach dt q p v) := wf_parts _
theorem xlatRootApply (dt : Nat) (q : Machine.Port) (p : Fin 8) (v : Word) : Statement (.xlatRootApply dt q p v) := wf_parts _
theorem xlatInvalidate (dt : Nat) (q : Machine.Port) (p : Fin 8) (v : Word) : Statement (.xlatInvalidate dt q p v) := wf_parts _
theorem xlatInvalidateDone (dt : Nat) (p : Fin 8) : Statement (.xlatInvalidateDone dt p) := wf_parts _
theorem tileEnableWrite (dt : Nat) (q : Machine.Port) (t : Fin 64) (v : Word) : Statement (.tileEnableWrite dt q t v) := wf_parts _
theorem hvRearm (dt : Nat) (q : Machine.Port) (k : Fin 24) (v : Word) : Statement (.hvRearm dt q k v) := wf_parts _
theorem ilkClear (dt : Nat) (q : Machine.Port) (v : Word) : Statement (.ilkClear dt q v) := wf_parts _
theorem sumpTrig (dt : Nat) (q : Machine.Port) (v : Word) : Statement (.sumpTrig dt q v) := wf_parts _
theorem sumpRdWrite (dt : Nat) (q : Machine.Port) (hi : Bool) (v : Word) : Statement (.sumpRdWrite dt q hi v) := wf_parts _
theorem muleEnableWrite (dt : Nat) (q : Machine.Port) (m : Fin 16) (v : Word) : Statement (.muleEnableWrite dt q m v) := wf_parts _
theorem muleProfileWrite (dt : Nat) (q : Machine.Port) (m : Fin 16) (which : Profile) (v : Word) : Statement (.muleProfileWrite dt q m which v) := wf_parts _
theorem slotEnableWrite (dt : Nat) (q : Machine.Port) (n : Fin 96) (v : Word) : Statement (.slotEnableWrite dt q n v) := wf_parts _
theorem doorbellPoll (dt : Nat) (p : Fin 8) : Statement (.doorbellPoll dt p) := wf_parts _
theorem doorbellBlockReceived (dt : Nat) (p : Fin 8) (blk : Option Entry) : Statement (.doorbellBlockReceived dt p blk) := wf_parts _
theorem entryFetchComplete (dt : Nat) (p : Fin 8) (ring : Fin 4) (entries : List Entry) (ok : Bool) : Statement (.entryFetchComplete dt p ring entries ok) := wf_parts _
theorem heldRecordDelivery (dt : Nat) (p : Fin 8) : Statement (.heldRecordDelivery dt p) := wf_parts _
theorem modTimeExpiry (dt : Nat) (p : Fin 8) (queue : Fin 2) : Statement (.modTimeExpiry dt p queue) := wf_parts _
theorem barrierReadComplete (dt : Nat) (j : Fin 4096) (ok : Bool) : Statement (.barrierReadComplete dt j ok) := wf_parts _
theorem dmaBurstGrant (dt : Nat) (q : Machine.Port) (mem : HostImg) : Statement (.dmaBurstGrant dt q mem) := wf_parts _
theorem dmaBurstComplete (dt : Nat) (ch : Fin 40) (result : Burst) : Statement (.dmaBurstComplete dt ch result) := wf_parts _
theorem imageBurstRetry (dt : Nat) (lane : Fin 8) : Statement (.imageBurstRetry dt lane) := wf_parts _
theorem wake (dt : Nat) (j : Fin 4096) : Statement (.wake dt j) := wf_parts _
theorem sleep (dt : Nat) (j : Fin 4096) : Statement (.sleep dt j) := wf_parts _
theorem prime (dt : Nat) (j : Fin 4096) : Statement (.prime dt j) := wf_parts _
theorem primeComplete (dt : Nat) : Statement (.primeComplete dt) := wf_parts _
theorem primeTimeout (dt : Nat) : Statement (.primeTimeout dt) := wf_parts _
theorem idle (dt : Nat) (j : Fin 4096) : Statement (.idle dt j) := wf_parts _
theorem safeStop (dt : Nat) (j : Fin 4096) : Statement (.safeStop dt j) := wf_parts _
theorem replay (dt : Nat) (j : Fin 4096) (mem : HostImg) : Statement (.replay dt j mem) := wf_parts _
theorem idleAfterReplay (dt : Nat) : Statement (.idleAfterReplay dt) := wf_parts _
theorem txnBegin (dt : Nat) (j : Fin 4096) : Statement (.txnBegin dt j) := wf_parts _
theorem txnWrite (dt : Nat) (j : Fin 4096) : Statement (.txnWrite dt j) := wf_parts _
theorem txnCommit (dt : Nat) (j : Fin 4096) : Statement (.txnCommit dt j) := wf_parts _
theorem txnRollback (dt : Nat) (j : Fin 4096) : Statement (.txnRollback dt j) := wf_parts _
theorem txnAtTimeTrigger (dt : Nat) (p : Fin 8) : Statement (.txnAtTimeTrigger dt p) := wf_parts _
theorem pageArm (dt : Nat) (j : Fin 4096) (mem : HostImg) : Statement (.pageArm dt j mem) := wf_parts _
theorem chainStart (dt : Nat) (j : Fin 4096) : Statement (.chainStart dt j) := wf_parts _
theorem chainEnd (dt : Nat) (j : Fin 4096) : Statement (.chainEnd dt j) := wf_parts _
theorem pageCancel (dt : Nat) (j : Fin 4096) : Statement (.pageCancel dt j) := wf_parts _
theorem pageAbort (dt : Nat) (j : Fin 4096) : Statement (.pageAbort dt j) := wf_parts _
theorem pageStart (dt : Nat) : Statement (.pageStart dt) := wf_parts _
theorem chainClose (dt : Nat) : Statement (.chainClose dt) := wf_parts _
theorem pageEnd (dt : Nat) : Statement (.pageEnd dt) := wf_parts _
theorem siphonBandDecode (dt : Nat) (lane : Fin 8) : Statement (.siphonBandDecode dt lane) := wf_parts _
theorem sweepPlan (dt : Nat) (t : Fin 64) : Statement (.sweepPlan dt t) := wf_parts _
theorem trimRefine (dt : Nat) (t : Fin 64) : Statement (.trimRefine dt t) := wf_parts _
theorem bdStamp (dt : Nat) (t : Fin 64) (msg : BdStamp) : Statement (.bdStamp dt t msg) := wf_parts _
theorem mirrorSense (dt : Nat) (t : Fin 64) (sweep : BitVec 32) (phase ampl : BitVec 16) : Statement (.mirrorSense dt t sweep phase ampl) := wf_parts _
theorem monitorPd (dt : Nat) (t : Fin 64) (sweep : BitVec 32) (codes : List (BitVec 16)) : Statement (.monitorPd dt t sweep codes) := wf_parts _
theorem headStatus (dt : Nat) (t : Fin 64) (payload : List Byte) : Statement (.headStatus dt t payload) := wf_parts _
theorem headTemp (dt : Nat) (t : Fin 64) (temps : List (BitVec 16)) : Statement (.headTemp dt t temps) := wf_parts _
theorem ack (dt : Nat) (t : Fin 64) (seq : BitVec 16) (nak : Bool) : Statement (.ack dt t seq nak) := wf_parts _
theorem uplinkFrame (dt : Nat) (t : Fin 64) (hdr body : List Byte) : Statement (.uplinkFrame dt t hdr body) := wf_parts _
theorem retxTimeout (dt : Nat) (t : Fin 64) : Statement (.retxTimeout dt t) := wf_parts _
theorem epochMark (dt : Nat) (t : Fin 64) (sub : Fin 64) : Statement (.epochMark dt t sub) := wf_parts _
theorem echoMark (dt : Nat) (t : Fin 64) (epoch : BitVec 16) (sub : Fin 64) : Statement (.echoMark dt t epoch sub) := wf_parts _
theorem uplinkBlockLock (dt : Nat) (t : Fin 64) (blocks : List Machine.LaneBlock) : Statement (.uplinkBlockLock dt t blocks) := wf_parts _
theorem linkFail (dt : Nat) (t : Fin 64) : Statement (.linkFail dt t) := wf_parts _
theorem linkRetrain (dt : Nat) (t : Fin 64) : Statement (.linkRetrain dt t) := wf_parts _
theorem trainTimeout (dt : Nat) (t : Fin 64) : Statement (.trainTimeout dt t) := wf_parts _
theorem bankLoadTimeout (dt : Nat) (t : Fin 64) : Statement (.bankLoadTimeout dt t) := wf_parts _
theorem killRepeat (dt : Nat) (t : Fin 64) : Statement (.killRepeat dt t) := wf_parts _
theorem dllLockLost (dt : Nat) (g : Fin 8) (w : Machine.DllWindow) : Statement (.dllLockLost dt g w) := wf_parts _
theorem dllLockRestored (dt : Nat) (g : Fin 8) (ws : List Machine.DllWindow) : Statement (.dllLockRestored dt g ws) := wf_parts _
theorem refClockLost (dt : Nat) : Statement (.refClockLost dt) := wf_parts _
theorem refRestored (dt : Nat) : Statement (.refRestored dt) := wf_parts _
theorem mirrorStart (dt : Nat) (t : Fin 64) : Statement (.mirrorStart dt t) := wf_parts _
theorem mirrorAmplStep (dt : Nat) (t : Fin 64) : Statement (.mirrorAmplStep dt t) := wf_parts _
theorem bdLockTimeout (dt : Nat) (t : Fin 64) : Statement (.bdLockTimeout dt t) := wf_parts _
theorem mirrorRetry (dt : Nat) (t : Fin 64) : Statement (.mirrorRetry dt t) := wf_parts _
theorem calibrationComplete (dt : Nat) : Statement (.calibrationComplete dt) := wf_parts _
theorem lscanTrigger (dt : Nat) : Statement (.lscanTrigger dt) := wf_parts _
theorem lscanLine (dt : Nat) (words : List (BitVec 16)) : Statement (.lscanLine dt words) := wf_parts _
theorem seamHeldCommit (dt : Nat) : Statement (.seamHeldCommit dt) := wf_parts _
theorem lscanLineTimeout (dt : Nat) : Statement (.lscanLineTimeout dt) := wf_parts _
theorem lscanDllBypass (dt : Nat) (cause : Fin 4) (mhz : BitVec 8) : Statement (.lscanDllBypass dt cause mhz) := wf_parts _
theorem lscanDllLock (dt : Nat) (mhz : BitVec 8) : Statement (.lscanDllLock dt mhz) := wf_parts _
theorem carrierPeak (dt : Nat) (a : Fin 12) : Statement (.carrierPeak dt a) := wf_parts _
theorem shuntSample (dt : Nat) (a : Fin 12) (u v w : BitVec 12) : Statement (.shuntSample dt a u v w) := wf_parts _
theorem gateFault (dt : Nat) (a : Fin 12) : Statement (.gateFault dt a) := wf_parts _
theorem offsetCalEnd (dt : Nat) (a : Fin 12) : Statement (.offsetCalEnd dt a) := wf_parts _
theorem hallEdge (dt : Nat) (h : Fin 12) (st : BitVec 3) (samples : Nat) : Statement (.hallEdge dt h st samples) := wf_parts _
theorem hallLost (dt : Nat) (a : Fin 12) : Statement (.hallLost dt a) := wf_parts _
theorem lockedRotor (dt : Nat) (a : Fin 12) : Statement (.lockedRotor dt a) := wf_parts _
theorem observerFail (dt : Nat) (a : Fin 12) : Statement (.observerFail dt a) := wf_parts _
theorem catchFail (dt : Nat) (a : Fin 12) : Statement (.catchFail dt a) := wf_parts _
theorem brakeEnd (dt : Nat) (a : Fin 12) : Statement (.brakeEnd dt a) := wf_parts _
theorem encoderCount (dt : Nat) (e : Fin 12) (inp : QuadIn) (samples : Nat) : Statement (.encoderCount dt e inp samples) := wf_parts _
theorem slipRunEnd (dt : Nat) (e : Fin 12) : Statement (.slipRunEnd dt e) := wf_parts _
theorem indexEdge (dt : Nat) (e : Fin 12) : Statement (.indexEdge dt e) := wf_parts _
theorem standstill (dt : Nat) (e : Fin 12) : Statement (.standstill dt e) := wf_parts _
theorem speedUpdate (dt : Nat) : Statement (.speedUpdate dt) := wf_parts _
theorem hallInvalidRunEnd (dt : Nat) (h : Fin 12) : Statement (.hallInvalidRunEnd dt h) := wf_parts _
theorem bissFrameStart (dt : Nat) (b : Fin 4) : Statement (.bissFrameStart dt b) := wf_parts _
theorem bissFrameEnd (dt : Nat) (b : Fin 4) (frame : Option (List Bool)) (delay : BitVec 9) : Statement (.bissFrameEnd dt b frame delay) := wf_parts _
theorem coilBusFrame (dt : Nat) (chain : Fin 4) (status : List (BitVec 16)) : Statement (.coilBusFrame dt chain status) := wf_parts _
theorem muleStep (dt : Nat) (m : Fin 16) : Statement (.muleStep dt m) := wf_parts _
theorem muleSwitch (dt : Nat) (m : Fin 16) (which : MuleInput) (level : Bool) : Statement (.muleSwitch dt m which level) := wf_parts _
theorem holdDelay (dt : Nat) (m : Fin 16) : Statement (.holdDelay dt m) := wf_parts _
theorem slotSample (dt : Nat) (n : Fin 96) : Statement (.slotSample dt n) := wf_parts _
theorem overrunRunEnd (dt : Nat) (n : Fin 96) : Statement (.overrunRunEnd dt n) := wf_parts _
theorem slowAdcConversion (dt : Nat) (code : BitVec 16) : Statement (.slowAdcConversion dt code) := wf_parts _
theorem hvFeedbackConversion (dt : Nat) (k : Fin 24) (volts amps : BitVec 12) : Statement (.hvFeedbackConversion dt k volts amps) := wf_parts _
theorem hvEnergyBin (dt : Nat) : Statement (.hvEnergyBin dt) := wf_parts _
theorem mainsZeroCrossing (dt : Nat) : Statement (.mainsZeroCrossing dt) := wf_parts _
theorem zcLost (dt : Nat) : Statement (.zcLost dt) := wf_parts _
theorem followUpdate (dt : Nat) (samples : List QuadIn) : Statement (.followUpdate dt samples) := wf_parts _
theorem followRunEnd (dt : Nat) : Statement (.followRunEnd dt) := wf_parts _
theorem rcMasterCopy (dt : Nat) (r : Fin 16) : Statement (.rcMasterCopy dt r) := wf_parts _
theorem ilkOpen (dt : Nat) (chB : Bool) : Statement (.ilkOpen dt chB) := wf_parts _
theorem ilkClose (dt : Nat) (chB : Bool) : Statement (.ilkClose dt chB) := wf_parts _
theorem ilkDiscrepancy (dt : Nat) : Statement (.ilkDiscrepancy dt) := wf_parts _
theorem mainLoss (dt : Nat) (pfail aonLow : Bool) (vback : BitVec 16) : Statement (.mainLoss dt pfail aonLow vback) := wf_parts _
theorem vbackSwitchover (dt : Nat) (toVback : Bool) : Statement (.vbackSwitchover dt toVback) := wf_parts _
theorem mainReturn (dt : Nat) : Statement (.mainReturn dt) := wf_parts _
theorem holdupEnd (dt : Nat) : Statement (.holdupEnd dt) := wf_parts _
theorem dischargeCheck (dt : Nat) : Statement (.dischargeCheck dt) := wf_parts _
theorem stopSequenceFinished (dt : Nat) : Statement (.stopSequenceFinished dt) := wf_parts _
theorem vbackLow (dt : Nat) (vback : BitVec 16) : Statement (.vbackLow dt vback) := wf_parts _
theorem dieTempRead (dt : Nat) (temps : List (BitVec 16)) : Statement (.dieTempRead dt temps) := wf_parts _
theorem startUpComplete (dt : Nat) : Statement (.startUpComplete dt) := wf_parts _
theorem wakeRebuildDone (dt : Nat) : Statement (.wakeRebuildDone dt) := wf_parts _
theorem lockstepMismatch (dt : Nat) (fromSram : Bool) (resume100ns : Nat) : Statement (.lockstepMismatch dt fromSram resume100ns) := wf_parts _
theorem standbySelfTestEnd (dt : Nat) (pass : Bool) : Statement (.standbySelfTestEnd dt pass) := wf_parts _
theorem sramUncorrectable (dt : Nat) (mem : SramMem) (off : Word) (checkpoint : Bool) (owner : SramOwner) : Statement (.sramUncorrectable dt mem off checkpoint owner) := wf_parts _
theorem segmentClose (dt : Nat) : Statement (.segmentClose dt) := wf_parts _
theorem segmentStream (dt : Nat) (mem : HostImg) : Statement (.segmentStream dt mem) := wf_parts _
theorem snapshotTimer (dt : Nat) : Statement (.snapshotTimer dt) := wf_parts _
theorem postTriggerEnd (dt : Nat) : Statement (.postTriggerEnd dt) := wf_parts _
theorem axisMove (dt : Nat) (j : Fin 4096) : Statement (.axisMove dt j) := wf_parts _
theorem axisJog (dt : Nat) (j : Fin 4096) : Statement (.axisJog dt j) := wf_parts _
theorem axisHome (dt : Nat) (j : Fin 4096) : Statement (.axisHome dt j) := wf_parts _
theorem loopConfig (dt : Nat) (j : Fin 4096) (mem : HostImg) : Statement (.loopConfig dt j mem) := wf_parts _
theorem loopInject (dt : Nat) (j : Fin 4096) : Statement (.loopInject dt j) := wf_parts _
theorem tableLoad (dt : Nat) (j : Fin 4096) : Statement (.tableLoad dt j) := wf_parts _
theorem emitterCalibrate (dt : Nat) (j : Fin 4096) : Statement (.emitterCalibrate dt j) := wf_parts _
theorem seamMeasure (dt : Nat) (j : Fin 4096) (mem : HostImg) : Statement (.seamMeasure dt j mem) := wf_parts _
theorem markStrip (dt : Nat) (j : Fin 4096) (mem : HostImg) : Statement (.markStrip dt j mem) := wf_parts _
theorem capture (dt : Nat) (j : Fin 4096) : Statement (.capture dt j) := wf_parts _
theorem compress (dt : Nat) (j : Fin 4096) (mem : HostImg) : Statement (.compress dt j mem) := wf_parts _
theorem decompressCheck (dt : Nat) (j : Fin 4096) (mem : HostImg) : Statement (.decompressCheck dt j mem) := wf_parts _
theorem recorder (dt : Nat) (j : Fin 4096) : Statement (.recorder dt j) := wf_parts _
theorem fence (dt : Nat) (j : Fin 4096) : Statement (.fence dt j) := wf_parts _
theorem query (dt : Nat) (j : Fin 4096) (mem : HostImg) : Statement (.query dt j mem) := wf_parts _
theorem vbackFailed (dt : Nat) : Statement (.vbackFailed dt) := wf_parts _
theorem sramCorrectableError (dt : Nat) (mem : SramMem) : Statement (.sramCorrectableError dt mem) := wf_parts _
theorem romParity (dt : Nat) : Statement (.romParity dt) := wf_parts _
theorem reorderWindowEnd (dt : Nat) : Statement (.reorderWindowEnd dt) := wf_parts _
theorem wellheadSensorRead (dt : Nat) (temp : BitVec 16) : Statement (.wellheadSensorRead dt temp) := wf_parts _
theorem lscanSyncTimeout (dt : Nat) : Statement (.lscanSyncTimeout dt) := wf_parts _
theorem tapInstruction (dt : Nat) (tap : TapInstr) (levels tdi : List Bool) : Statement (.tapInstruction dt tap levels tdi) := wf_parts _

end Sys2Proof.Laws.Timed
end

