-- ==== Sys2Proof/Laws/Quiet.lean ====
section
/-! SUPPORT. What a command does in a quiet chip: its own effect is all of the next state but the numbering of its records.
-/
namespace Sys2Proof.Machine

/-- The conditions of a quiet chip, one by one. -/
theorem Chip.quiet_iff {c : Chip} : c.quiet = true ↔ c.serving = true ∧ c.sound = true ∧ c.still = true ∧ c.fast = true
    ∧ c.fld Fld.SUMP_STATUS_STATE = 0 ∧ c.noService = true := by
  simp [Chip.quiet, Chip.resting, and_assoc]

/-- A sound chip's register file is in canonical form. -/
theorem Chip.wf_of_sound {c : Chip} (h : c.sound = true) : Sparse.wf RegMap.resetOf c.regs = true := by
  simp only [Chip.sound, Chip.canonical, Bool.and_eq_true] at h
  exact h.1.1.1

/-- A sound chip has as many units of each kind as the block. -/
theorem Chip.shape_of_sound {c : Chip} (h : c.sound = true) : c.shape = Chip.unitCounts := by
  simp only [Chip.sound, Bool.and_eq_true, beq_iff_eq] at h
  exact h.2

/-- The register file of a quiet chip is in canonical form. -/
theorem Chip.wf_of_quiet {c : Chip} (h : c.quiet = true) : Sparse.wf RegMap.resetOf c.regs = true := Chip.wf_of_sound (Chip.quiet_iff.1 h).2.1

/-- A quiet chip is not in the middle of going to sleep. -/
theorem Chip.awake_of_quiet {c : Chip} (h : c.quiet = true) : c.eng.sleepFor = none :=
  (Chip.calm_iff.1 (Chip.calm_of_still (Chip.quiet_iff.1 h).2.2.1)).2.2.2.2.2.2.1

/-- An effect that keeps the transaction unit, the engine's supervision, pages, DMA, the hold-up flag, the thermal stop's tiles and the recorder's state keeps the chip still. -/
theorem Chip.still_of_frame {c c' : Chip} (h : c.still = true) (h1 : c'.txn = c.txn) (h2 : c'.eng = c.eng) (h3 : c'.pages = c.pages)
    (h4 : c'.dma = c.dma) (h5 : c'.fld Fld.POWER_STATUS_HOLDUP = c.fld Fld.POWER_STATUS_HOLDUP) (h6 : c'.safety.blanking = c.safety.blanking) : c'.still = true := by
  have hi : ∀ s, c'.img s = c.img s := by intro s; simp [Chip.img, h4]
  simpa only [Chip.still, Chip.calm, Chip.noCommit, Chip.flag, h1, h2, h3, h5, h6, hi] using h

/-- The next state of a command whose effect leaves the chip still and the recorder stopped: its own effect, its records numbered, and the firmware's tasks after it. -/
theorem runAll_quiet {dt : Nat} {f : Ctx → Chip → Chip} {s : State} {c : Chip} (hv : s.chip.serving = true) (hc : f (s.ctx dt) s.chip.fresh = c)
    (h1 : c.still = true) (hn : c.noService = true) (h2 : c.fld Fld.SUMP_STATUS_STATE = 0) :
    runAll dt f s = .next { s with
      clock := s.elapsed dt, merge := (s.merge.absorb c (s.at_ dt) c.emits).2, chip := c
      firm := s.firm.follow (s.at_ dt) (s.merge.absorb c (s.at_ dt) c.emits).2 c } := by
  rw [runAll_still hv (by rw [hc]; exact h1) (by rw [hc]; exact hn)]
  unfold State.ctx State.at_ at *
  unfold State.timed
  simp only [State.opened_of_serving hv, hc]
  rw [publish_idle h2]
  rfl

/-- The next state of a command in a quiet chip, for an effect with the frame of `Chip.still_of_frame`. -/
theorem runAll_frame {dt : Nat} {f : Ctx → Chip → Chip} {s : State} {c : Chip} (hq : s.chip.quiet = true)
    (hc : f (s.ctx dt) s.chip.fresh = c) (h1 : c.txn = s.chip.txn) (h2 : c.eng = s.chip.eng) (h3 : c.pages = s.chip.pages)
    (h4 : c.dma = s.chip.dma) (h5 : c.fld Fld.POWER_STATUS_HOLDUP = s.chip.fld Fld.POWER_STATUS_HOLDUP)
    (h6 : c.safety.blanking = s.chip.safety.blanking) (h7 : c.fld Fld.SUMP_STATUS_STATE = s.chip.fld Fld.SUMP_STATUS_STATE) :
    runAll dt f s = .next { s with
      clock := s.elapsed dt, merge := (s.merge.absorb c (s.at_ dt) c.emits).2, chip := c
      firm := s.firm.follow (s.at_ dt) (s.merge.absorb c (s.at_ dt) c.emits).2 c } := by
  obtain ⟨hv, -, hs, -, hr, hn⟩ := Chip.quiet_iff.1 hq
  exact runAll_quiet hv hc (Chip.still_of_frame hs h1 h2 h3 h4 h5 h6) (by simpa only [Chip.noService, h4] using hn) (by rw [h7, hr])

/-- An event that needs the fast clocks acts while they run. -/
theorem clocked_of_fast {f : Ctx → Chip → Chip} {x : Ctx} {c : Chip} (h : c.fast = true) : clocked f x c = f x c := by
  unfold clocked; rw [h]; rfl

@[simp] theorem Chip.fresh_fast (c : Chip) : c.fresh.fast = c.fast := rfl

end Sys2Proof.Machine
end

