-- ==== Sys2Proof/Laws/Send.lean ====
section
/-! SUPPORT. Laws of the requests a chip sends through a port: a write is sent byte for byte in however many pieces, and nothing but `outs` changes.
-/
namespace Sys2Proof.Machine

/-- Sending one thing for each item of a list appends these things to the outputs, and changes nothing else. -/
theorem Chip.each_send {α : Type} (l : List α) (f : α → Out) (c : Chip) : c.each l (fun a c => c.send (f a)) = { c with outs := c.outs ++ l.map f } := by
  induction l generalizing c with
  | nil => simp [Chip.each]
  | cons a l ih =>
    have h : c.each (a :: l) (fun a c => c.send (f a)) = (c.send (f a)).each l fun a c => c.send (f a) := rfl
    rw [h, ih]
    simp [Chip.send]

/-- A write through a port changes the outputs alone. -/
theorem Chip.sendWrite_eq (c : Chip) (q : Port) (h : Nat) (bs : List Byte) :
    c.sendWrite q h bs = { c with outs := (c.sendWrite q h bs).outs } := by
  simp only [Chip.sendWrite, Chip.each_send]

/-- The bytes of a write, each with its address, in pieces of k bytes. -/
theorem pieces_zipIdx (q : Port) (k : Nat) (hk : 0 < k) : ∀ (n h : Nat) (bs : List Byte), bs.length ≤ n * k →
    ((List.range n).flatMap fun i => Out.wrote (.hostWrite q (h + i * k) ((bs.drop (i * k)).take k))) = Out.wrote (.hostWrite q h bs)
  | 0, h, bs, hn => by
    have : bs = [] := List.eq_nil_of_length_eq_zero (by omega)
    simp [this, Out.wrote]
  | n + 1, h, bs, hn => by
    have hn' : (bs.drop k).length ≤ n * k := by rw [List.length_drop]; rw [Nat.add_mul] at hn; omega
    have ih := pieces_zipIdx q k hk n (h + k) (bs.drop k) hn'
    rw [List.range_succ_eq_map, List.flatMap_cons, List.flatMap_map]
    have e : ∀ i : Nat, h + (i + 1) * k = h + k + i * k := fun i => by ring
    have e2 : ∀ i : Nat, bs.drop ((i + 1) * k) = (bs.drop k).drop (i * k) := fun i => by rw [List.drop_drop]; congr 1; ring
    simp only [Nat.succ_eq_add_one, e, e2, ih]
    simp only [Out.wrote, Nat.zero_mul, Nat.add_zero, List.drop_zero]
    conv_rhs => rw [← List.take_append_drop k bs, List.zipIdx_append, List.map_append]
    congr 1
    by_cases hb : bs.length ≤ k
    · simp [List.drop_eq_nil_of_le hb]
    · have : (bs.take k).length = k := by simp; omega
      rw [this, List.zipIdx_eq_map_add (i := 0 + k), List.map_map]
      apply List.map_congr_left
      intro y _
      simp; omega

/-- What a write sends is its bytes in order, in however many pieces (R122). -/
theorem Chip.sendWrite_wrote (c : Chip) (q : Port) (h : Nat) (bs : List Byte) (hk : 0 < (c.port q.num).cfg.mps) :
    (c.sendWrite q h bs).outs.flatMap Out.wrote = c.outs.flatMap Out.wrote ++ Out.wrote (.hostWrite q h bs) := by
  simp only [Chip.sendWrite, Chip.each_send, List.flatMap_append, List.flatMap_map]
  rw [pieces_zipIdx q _ hk]
  have := Nat.lt_div_mul_add (a := bs.length + (c.port q.num).cfg.mps - 1) hk
  simp only [cdiv]
  omega

end Sys2Proof.Machine
end

