-- ==== Sys2Proof/Machine/Reads.lean ====
section
/-! DEFINITION. Reads from outside, for which the table has no row: register reads with the HI words they latch, table-window reads, configuration reads of a port and the I²C target (R40, R43, R54, R55, R57, R72 to R75, R131, R224, R332, R504, R510).
-/
namespace Sys2Proof.Machine

/-- The words that a read of an offset latches for the reading port: the HI word of a LO word, and words 1 to 3 of the descriptor behind word 0 of DMA.IMG_CUR (R72, R73, R131, R224). -/
def latchedBy (off : Nat) : List Nat :=
  match RegMap.find off with
  | none => []
  | some (r, ix) =>
    if [Reg.GLOBAL_TIME_LO, Reg.GLOBAL_SEQ_LO, Reg.TXN_TRIGGER_LO 0, Reg.STATION_DRUM_ALIGN_LO 0, Reg.STATION_FRONT_LO 0,
      Reg.FEEDBACK_BISS_POS_LO 0, Reg.FEEDBACK_BELT_POS_LO].contains r.base then [off + 4]
    else if r.base = Reg.DMA_IMG_CUR 0 0 ∧ off = Reg.DMA_IMG_CUR (ix.headD 0) 0 then [off + 4, off + 8, off + 12]
    else []

/-- Where a latched word of a port is kept: the key of `Chip.latch`. -/
def latchKey (q : Port) (off : Nat) : Nat := q.num * 2 ^ 28 + off

/-- Latch words for a port as they read now. -/
def State.latchWords (s : State) (q : Port) (offs : List Nat) : State :=
  let new := offs.map fun o => (latchKey q o, s.regWord o)
  { s with chip := { s.chip with latch := new ++ s.chip.latch.filter fun e => !(new.any fun n => n.1 == e.1) } }

/-- A 4-byte read of the register window by a port: a word latched for the port answers with what it held then; a LO word latches its HI words. Reads in SLEEP latch nothing. [DESIGN CHOICE: log 7] -/
def State.readReg (s : State) (q : Port) (off : Nat) : Word × State :=
  let a := off / 4 * 4
  if s.chip.state = St.sleep then (s.readWord a, s)
  else
    let w := match s.chip.latch.find? fun e => e.1 == latchKey q a with
      | some e => e.2
      | none => s.readWord a
    (w, s.latchWords q (latchedBy a))

/-- An aligned 8-byte read is two 4-byte reads, the lower address first (R40). -/
def State.readReg8 (s : State) (q : Port) (off : Nat) : (Word × Word) × State :=
  let (lo, s) := s.readReg q off
  let (hi, s) := s.readReg q (off + 4)
  ((lo, hi), s)

/-- The shadow bank as a table-window read finds it: while a post-switch copy of the instance runs, the read is held and answers with what stands after the copy (R57). -/
def Chip.settledTable (c : Chip) (off : Nat) : Chip :=
  match tableAt off with
  | none => c
  | some i => c.tableCopied i

/-- A byte of the table window: the shadow half, the active image at +0x80_0000, 0 where no table lies and in SLEEP (R54, R55, R57). -/
def Chip.readTableByte (c : Chip) (off : Nat) : Byte :=
  let o := off % 0x800000
  if c.state = St.sleep ∨ (tableAt o).isNone then 0
  else if off < 0x800000 then (c.settledTable o).tabByte false o
  else c.tabByte true o

/-- A read of `n` bytes of the table window (R55). -/
def State.readTable (s : State) (off n : Nat) : List Byte := (List.range n).map fun i => s.chip.readTableByte (off + i)

/-- The identity words of a port's configuration space: vendor and device; revision and class code (R74, R510). The vendor identifier is free. [DESIGN CHOICE: log 137] -/
def Chip.identity (c : Chip) : List Nat :=
  [Config.vendorId % 2 ^ 16 + 0x7064 * 2 ^ 16, c.fld Fld.GLOBAL_ID_STEPPING + 0x120000 * 2 ^ 8]

/-- A payload or read request size as PCI Express codes it. [PRESUMED: log 137] -/
def sizeCode (n : Nat) : Nat := (n / 128).log2

/-- A word of a port's configuration space: identity, class code with the revision identifier, Bus Master Enable, the three 64-bit non-prefetchable BARs, and the capabilities that R74 lists: power management, MSI-X, PCI Express with payload and read request sizes, relaxed ordering, completion timeout, link rates and widths and Function Level Reset, Advanced Error Reporting and the L1 substates; what R74 does not list reads 0 (R74, R75, R510). The layouts are those of PCI Express. [PRESUMED: log 137] -/
def Chip.configWord (c : Chip) (q : Port) (off : Nat) : Word :=
  let x := (c.port q.num).cfg
  let bar (k : Nat) : Nat := x.bars.getD k 0
  let err (k : Nat) : Nat := (x.aer.getD k 0).toNat
  let st (f : Nat → BitField) : Nat := c.fld (f q.num)
  BitVec.ofNat 32 (match off with
    | 0x00 => c.identity.getD 0 0
    | 0x04 => b2n (c.flag (Fld.HOST_PORT_STATUS_BUS_MASTER q.num)) * 4 + 0x100000
    | 0x08 => c.identity.getD 1 0
    | 0x10 => bar 0 + 4
    | 0x14 => bar 0 / 2 ^ 32
    | 0x18 => bar 1 + 4
    | 0x1C => bar 1 / 2 ^ 32
    | 0x20 => bar 2 + 4
    | 0x24 => bar 2 / 2 ^ 32
    | 0x34 => 0x40
    | 0x40 => 0x00035001
    | 0x50 => 0x003F6011
    | 0x54 => 4
    | 0x58 => 0x8004
    | 0x60 => 0x00020010
    | 0x64 => 0x10008021
    | 0x68 => b2n x.relaxed * 0x10 + sizeCode x.mps * 0x20 + sizeCode x.mrrs * 0x1000
    | 0x6C => 0x844
    | 0x70 => st Fld.HOST_PORT_STATUS_RATE * 0x10000 + st Fld.HOST_PORT_STATUS_WIDTH * 0x100000
    | 0x84 => 0x00030003
    | 0x88 => x.timeout % 16
    | 0x8C => 0x1E
    | 0x100 => 0x14020001
    | 0x104 => err 0
    | 0x108 => err 1
    | 0x10C => 0x00462030
    | 0x110 => err 2
    | 0x114 => err 3
    | 0x140 => 0x0001001E
    | 0x144 => 0x1F
    | _ => 0)

/-- A configuration read of a port: none while the port answers with Configuration Request Retry Status (R74, R96). -/
def State.readConfig (s : State) (q : Port) (off : Nat) : Option Word :=
  let p := s.chip.port q.num
  if p.crs && !(p.crsEnd.any fun t => decide (t ≤ s.clock.time)) then none else some (s.chip.configWord q off)

/-- A word of BAR4/5: address, data and mask of a vector, and the pending bits at 0x8000 (R75). The layout of an entry is that of MSI-X. [PRESUMED: log 137] -/
def Chip.msixWord (c : Chip) (q : Port) (off : Nat) : Word :=
  let p := c.port q.num
  let v := off / 16
  let e := p.cfg.msix.getD v (0, 0)
  if off < 1024 then
    (match off % 16 / 4 with
    | 0 => BitVec.ofNat 32 e.1
    | 1 => BitVec.ofNat 32 (e.1 / 2 ^ 32)
    | 2 => e.2
    | _ => BitVec.ofNat 32 (b2n (bit p.msixMask v)))
  else if off = 0x8000 then BitVec.ofNat 32 p.msixPend
  else if off = 0x8004 then BitVec.ofNat 32 (p.msixPend / 2 ^ 32)
  else 0

/-- A byte behind a pointer of the I²C target; pointers outside the table read 0, and so does WAKE (R504). -/
def Chip.i2cByte (c : Chip) (ptr : Nat) : Byte :=
  let part (base v : Nat) : Byte := (leBytes 4 v).getD (ptr - base) 0
  if ptr < 4 then part 0 (c.reg Reg.GLOBAL_ID).toNat
  else if ptr = 4 then BitVec.ofNat 8
    (c.state % 16 + b2n (c.flag Fld.GLOBAL_STATUS_COLD_START) * 16 + b2n (c.flag Fld.GLOBAL_STATUS_VBACK_ACTIVE) * 32)
  else if 8 ≤ ptr ∧ ptr < 12 then part 8 (c.reg Reg.SAFETY_STATUS).toNat
  else if 12 ≤ ptr ∧ ptr < 14 then part 12 (c.fld Fld.POWER_STATUS_VBACK)
  else if 14 ≤ ptr ∧ ptr < 16 then part 14 (c.fld Fld.THERMAL_MAX_TEMP)
  else 0

/-- The 7-bit address that the I²C target answers: 0b10110 and the address pins as sampled when the Wellhead powered up (R504). -/
def Chip.i2cAddress (c : Chip) : Nat := 0b10110 * 4 + c.eng.i2cPins

/-- An I²C write of a byte pointer alone; one to another address is not for this target (R504). -/
def State.i2cPoint (s : State) (addr ptr : Nat) : State :=
  if addr = s.chip.i2cAddress then { s with chip := s.chip.updEng fun x => { x with i2cPtr := ptr % 256 } } else s

/-- An I²C read of `n` bytes from the pointer, which goes on after each byte; none when another address is read. It works in every state, SLEEP included (R504). -/
def State.i2cRead (s : State) (addr n : Nat) : Option (List Byte × State) :=
  if addr = s.chip.i2cAddress then
    let p := s.chip.eng.i2cPtr
    some ((List.range n).map fun i => s.chip.i2cByte ((p + i) % 256),
      { s with chip := s.chip.updEng fun x => { x with i2cPtr := (p + n) % 256 } })
  else none

end Sys2Proof.Machine
end

