-- ==== Sys2Proof/Tests/Slice0.lean ====
section
/-! SUPPORT. Tests: a term that each check of well-formedness refuses, single steps against the spec's worked examples, and for every obligation with hypotheses a state and operands that meet them. The states are small changes of a chip in a state of R32 with nothing under way.
-/
namespace Sys2Proof.Tests
open Sys2Proof Sys2Proof.Machine
set_option Elab.async false


/-- Set fields of a chip. -/
def put (c : Chip) (l : List (BitField × Nat)) : Chip := l.foldl (fun (c : Chip) (f : BitField × Nat) => c.setFld f.1 f.2) c

/-- A chip in a state, its start-up over, with nothing under way. -/
def chipIn (st : Nat) : Chip := put { eng := { starting := false } } [(Fld.GLOBAL_STATUS_ENGINE_STATE, st)]

/-- The same in IDLE, with some fields set. -/
def idle (l : List (BitField × Nat) := []) : Chip := put (chipIn St.idle) l

/-- The state of a chip, 10 s after power-on. -/
def at10 (c : Chip) (m : Merge := { nextSeq := 9 }) : State := { clock := { time := 10000000000 }, merge := m, chip := c }

/-- An entry of PART_0, ring 0, in journal slot 7, with an opcode and parameter fields (offset, bytes, value). -/
def cmd (opcode : Nat) (l : List (Nat × Nat) := []) : JEntry :=
  { slot := 7, tag := 5, seq := 3, opcode := opcode,
    entry := BitVec.ofNat 512 (l.foldl (fun (n : Nat) (f : Nat × Nat) => n + f.2 * 2 ^ (8 * f.1)) (opcode + 256)) }

/-- The merge unit with that entry accepted. -/
def journal (e : JEntry) : Merge := { nextSeq := 9, journal := [e] }

-- drive and feedback
def wLr : State := at10 (idle.updDrive 3 fun x => { x with lrFrom := some 0 })
def wOpen : State := at10 (idle.updDrive 3 fun x => { x with openAt := some 0, lostObs := true })
def wCat : State := at10 (idle [(Fld.DRIVE_STATUS_STATE 3, Ds.offsetCal)])
def hallChip (src : Nat) : Chip := ((idle [(Fld.DRIVE_STATUS_STATE 3, Ds.run), (Fld.DRIVE_STATUS_SRC_USED 3, 1), (Fld.DRIVE_CFG_HALL_CH 3, 2),
  (Fld.DRIVE_CFG_SRC 3, src)]).updHall 2 fun x => { x with invalidAt := some 0 })
def wHall1 : State := at10 (hallChip 1)
def wHall3 : State := at10 (hallChip 3)
def wOff (u : Nat) : State := at10 ((idle [(Fld.DRIVE_STATUS_STATE 3, Ds.offsetCal), (Fld.DRIVE_CFG_SRC 3, 2)]).updDrive 3 fun x =>
  { x with calN := 64, calSum := [u, 131072, 131072] })
def wShunt (st recon trip off : Nat) : State := at10 ((idle [(Fld.DRIVE_STATUS_STATE 3, st), (Fld.DRIVE_ILIM_I_TRIP 3, trip), (Fld.DRIVE_I_OFFSET_UV_OFF_U 3, off),
  (Fld.DRIVE_I_OFFSET_UV_OFF_V 3, 2048), (Fld.DRIVE_I_OFFSET_W_OFF_W 3, 2048)]).updDrive 3 fun x => { x with recon := recon, calN := 63 })
def wPeriod : State := at10 ((idle [(Fld.DRIVE_STATUS_STATE 3, Ds.fault)]).updDrive 3 fun x => { x with causes := [(3, 9999990000), (5, 9999995000)] })
def wPeak : State := at10 ((idle [(Fld.DRIVE_STATUS_STATE 3, Ds.run)]).updDrive 3 fun x => { x with next := some ([1, 2, 3], 1, true) })
def wBrake (after : Nat) : State := at10 ((idle [(Fld.DRIVE_STATUS_STATE 3, Ds.brake)]).updDrive 3 fun x => { x with quiet := some 0, after := after })
def encChip : Chip := idle [(Fld.FEEDBACK_ENC_CFG_EN 3, 1), (Fld.FEEDBACK_ENC_CFG_IDX_EN 3, 1), (Fld.FEEDBACK_ENC_CPR_CPR 3, 4), (Fld.FEEDBACK_ENC_COUNT_VALUE 3, 4294967295)]
def wEnc : State := at10 (encChip.updEnc 3 fun x => { x with last := some 0, lastSlip := some 0, slips := 70000 })
def wHallRun : State := at10 (idle.updHall 3 fun x => { x with validAt := some 0, bad := 2, badState := 7 })
def wHallOn : State := at10 (idle [(Fld.FEEDBACK_HALL_CFG_EN 3, 1)])
def bissChip : Chip := idle [(Fld.FEEDBACK_BISS_CFG_EN 1, 1), (Fld.FEEDBACK_BISS_CFG_MODE 1, 1), (Fld.FEEDBACK_BISS_CFG_DATA_BITS 1, 3)]
def wBiss : State := at10 bissChip
def wBissRun : State := at10 (bissChip.updBiss 1 fun x => { x with frame := some 9999990000 })




-- Mule axes
def muleChip (st : Nat) (l : List (BitField × Nat) := []) : Chip := idle ([(Fld.MULE_CFG_EN 2, 1), (Fld.MULE_STATUS_STATE 2, st)] ++ l)
def wStep (pos : Nat) : State := at10 ((muleChip 2 [(Fld.MULE_POS_VALUE 2, pos), (Fld.MULE_TARGET_VALUE 2, 5)]).updMule 2 fun x =>
  { x with kind := 1, cmd := some 7, v2 := 100 })
def wSwitch (dir : Nat) : State := at10 ((muleChip 2 [(Fld.MULE_STATUS_DIR 2, dir)]).updMule 2 fun x => { x with kind := 2, v2 := 100 })
def wHold : State := at10 (muleChip 1)
def wMuleCmd (e : JEntry) (l : List (BitField × Nat) := []) : State := at10 (muleChip 1 l) (journal e)
def driveCmdChip : Chip := idle [(Fld.DRIVE_PWM_PERIOD 3, 5000), (Fld.WINDLASS_SLOT_CFG_LAW 9, 2), (Fld.WINDLASS_SLOT_CFG_DEST 9, 3),
  (Fld.WINDLASS_SLOT_CFG_LAW 8, 1), (Fld.WINDLASS_SLOT_IO_REF_SRC 9, 0x98), (Fld.DRIVE_CFG_ENC_CH 3, 15), (Fld.DRIVE_CFG_SRC 3, 2)]
def wDriveJog : State := at10 driveCmdChip (journal (cmd 0x31 [(0x10, 3), (0x11, 8), (0x14, 0x3F800000)]))

-- Trough
def linkChip (st : Nat) (l : List (BitField × Nat) := []) : Chip := idle ([(Fld.TILE_CFG_ENABLE 9, 1), (Fld.TILE_LINK_STATUS_STATE 9, st)] ++ l)
def tileSt (st : Nat) (f : Tile → Tile) (l : List (BitField × Nat) := []) : State := at10 ((linkChip st l).updTile 9 f)
def wFlight : State := tileSt Lk.ident fun x => { x with lastUp := 9999999000, flight := [{ seq := 65535, msg := [1], copies := 7 }, { seq := 0, msg := [2], copies := 8 }] }
def wKill (k : Nat) : State := tileSt Lk.up fun x => { x with kill := k }
def wMark : State := tileSt Lk.up fun x => { x with marks := [(4, 12, 0)], lastUp := 9999999000 }
def wFailing : State := tileSt Lk.up fun x => { x with lastUp := 9999800000 }
def wAlive : State := tileSt Lk.up fun x => { x with lastUp := 9999999000 }
def wLocked : State := tileSt Lk.up (fun x => { x with lastUp := 9999999000 }) [(Fld.TILE_LINK_STATUS_UP_LOCK 9, 1)]
def upHdr (seq : Nat) : List Byte := leBytes 2 seq ++ [0, 0, 0, 1, 1]
def upBody (seq : Nat) : List Byte := frameBody (upHdr seq) [] 1
def goodBlocks : List LaneBlock := List.replicate 64 { sync := 1, data := 0 }
def badBlocks : List LaneBlock := List.replicate 16 { sync := 3, data := 0 }
def idBody (good : Bool) : List Byte := [132, 40, 0, 0, 1, if good then 1 else 0, 4, 0, 0, 0, 0, 0, 0, 0, 16, 0] ++ List.replicate 8 0 ++ leBytes 2 544 ++ List.replicate 14 0
def wIdent (good : Bool) : State := tileSt Lk.ident fun x => { x with lastUp := 9999999000, ident := some (idBody good) }
def wTraining : State := tileSt Lk.train (fun x => { x with lastUp := 9999999000 }) [(Fld.TILE_LINK_STATUS_UP_LOCK 9, 1)]
def edges (delayed offset : Int) (off : Nat) : DllWindow := { delayed := delayed.toNat, reference := 65536, offset := offset, offCycles := off }
def wFailed : State := tileSt Lk.failed fun x => { x with failedAt := some 9999000000 }
def wTrain : State := tileSt Lk.train fun x => { x with trainAt := [9900000000, 9950000000] }
def wLoad : State := tileSt Lk.ident fun x => { x with loads := [{ bank := 1, words := [1, 2], crc := 3, sentAt := some 9999000000 }] }
def wDll (byp lock : Nat) : State := at10 (idle ((List.range 8).flatMap fun i => [(Fld.TILE_LINK_STATUS_DLL_BYPASS (8 + i), byp), (Fld.TILE_LINK_STATUS_DLL_LOCK (8 + i), lock)]))
def wMirror (retry : Option Nat) : State := tileSt Lk.up fun x => { x with wantStart := true, mirrorNom := 2000, retryAt := retry }
def wDriven (a : Nat) : State := tileSt Lk.up fun x => { x with driven := true, mirrorNom := 8000, startAt := some 7600000000, ampl := a, wantStart := true }
def sweepTile (x : Tile) : Tile := { x with
  driven := true, locked := true, primed := true, stamped := true, halves := [12800000], bankCrc := List.replicate 4 (some 0), stamps := [some (99, 1280000000000), some (100, 1280012800000)]
  lastMid := some (100, 1280012800000), planPage := 0 }
def sweepFlds : List (BitField × Nat) := [(Fld.TILE_SCHED_STATUS_STATE 9, 1), (Fld.SAFETY_STATUS_LEN_ARM, 1)]
def wSweep : State := { tileSt Lk.up sweepTile sweepFlds with clock := { time := 10000100000 } }
def wRefine : State := { tileSt Lk.up (fun x => { sweepTile x with plans := [{ sweep := 101, dir := 0, bank := 0, cross := 0, e0 := 0 }] }) sweepFlds with
  clock := { time := 10000100000 } }
def wMissed : State := tileSt Lk.up fun x => { x with driven := true }
def wCalib (ilk : Nat) : State := at10 ((put (chipIn St.primed) [(Fld.SAFETY_STATUS_ILK_A, 1), (Fld.SAFETY_STATUS_ILK_B, ilk), (Fld.STATION_CEIL_LOCK_LOCK 0, 1),
  (Fld.TILE_CFG_ENABLE 9, 1), (Fld.TILE_LINK_STATUS_STATE 9, Lk.up), (Fld.SAFETY_STATUS_LEN_ARM, 1)]).updTile 9 fun x => { x with locked := true, primed := true })
  (journal (cmd 0x41 [(0x10, 512)]))
def wCalEnd (fails : Nat) : State := at10 { chipIn St.primed with eng := { starting := false, calJobs := [{ slot := 7, tiles := [9], fails := fails }] } }

-- line scan
def scanChip (f : Seam → Seam) (l : List (BitField × Nat) := []) : State :=
  at10 ((idle ([(Fld.SEAM_CTL_LSCAN_EN, 1), (Fld.GLOBAL_CLK_CTL_LSCAN_EN, 1), (Fld.SEAM_LSCAN_CFG_PIXELS, 2)] ++ l)).updSeam f)
def wTrig : State := scanChip fun x => { x with nextTrig := some 0, lineId := 1023 }
def wLine : State := scanChip fun x => { x with outstanding := some (9999000000, 1023, 0), pixels := 2 }
def wHeld : State := scanChip fun x => { x with held := [(0x100000, 1, 1)] }

-- Windlass
def slotChip (l : List (BitField × Nat) := []) : Chip :=
  idle ([(Fld.WINDLASS_SLOT_CFG_LAW 5, 1), (Fld.WINDLASS_PERIOD_PERIOD 5, 250000), (Fld.WINDLASS_SLOT_CFG_DEST 5, 255), (Fld.WINDLASS_OUT_MAX_OUT_MAX 5, 0x3F800000)] ++ l)
def wSlot : State := at10 (slotChip)
def wTurn : State := at10 (slotChip [(Fld.WINDLASS_SLOT_CFG_LAW 4, 1), (Fld.WINDLASS_PERIOD_PERIOD 4, 250000), (Fld.WINDLASS_SLOT_CFG_DEST 4, 255)])
def wHvBin (e : Word) : State := at10 { idle [(Fld.WINDLASS_HV_CFG_EN 4, 1), (Fld.WINDLASS_HV_CEIL_E_CEIL 4, 5)] with
  wl := { hv := (List.replicate 24 {}).set 4 { acc := e } } }
def wOver : State := at10 { idle [] with wl := { slots := (List.replicate 96 {}).set 95 { lastSkip := some 0, skips := 70000 } } }
def wRc : State := at10 { idle [(Fld.WINDLASS_RC_CFG_EN 3, 1), (Fld.WINDLASS_RC_CFG_LEARN 3, 1)] with wl := { unsaved := [(0xD3000, 5), (0xD4000, 6)] } }
def wZc (n : Nat) : State := at10 { idle [(Fld.WINDLASS_ZC_STATUS_PRESENT, 1), (Fld.WINDLASS_ZC_STATUS_HALF_PERIOD, 10000)] with
  wl := { zcAt := some n, zcValid := some 9970000000, zcRun := 2 } }
def wFollow : State := at10 { (idle [(Fld.WINDLASS_FOLLOW_CFG_MODE, 2), (Fld.WINDLASS_FOLLOW_CFG_FWIN, 1)]).setReg Reg.WINDLASS_FOLLOW_SCALE 0x3F800000 with
  wl := { below := some 0, runs := 3 } }
/-- One full turn of the follow encoder, each of its levels for 20 samples. -/
def aTurn : List QuadIn := (List.range 80).map fun k => ⟨decide (k < 40), decide (20 ≤ k ∧ k < 60)⟩
def anInj : Inj := { cmd := 1, tag := 1, part := 0, slot := 5, point := 0, kind := 0, order := 0, hold := 0, n := 5, amp := 0, f0 := 0, f1 := 0 }
def wInject (inj : Option Inj) (slot : Nat) : State := at10 { slotChip with wl := { inj := inj } }
  (journal (cmd 0x34 [(0x10, slot), (0x18, 16777216), (0x1C, 0x3F800000)]))

def oldFrame : DnFrame := { seq := 65535, msg := [1], copies := 7 }
def newFrame : DnFrame := { seq := 0, msg := [2], copies := 8 }
def aLoad : BankLoad := { bank := 1, words := [1, 2], crc := 3, sentAt := some 9999000000 }
def goodStamp : BdStamp := { sweep := 100, lead := 640000000000 % 2 ^ 48, trail := 640000000000 % 2 ^ 48 + 16777215, flags := 1 }
def missedStamp : BdStamp := { sweep := 100, lead := 0, trail := 0, flags := 8 }
def aJob (fails : Nat) : CalJob := { slot := 7, tiles := [9], fails := fails }




-- safety and power
def ilkChip (st : Nat) : Chip := put (chipIn st) [(Fld.HOST_PORT_STATUS_DOWN 0, 0), (Fld.SAFETY_STATUS_ILK_A, 1), (Fld.SAFETY_STATUS_ILK_B, 1), (Fld.SAFETY_STATUS_LEN_ARM, 1),
  (Fld.SAFETY_STATUS_HV_ARM, 1), (Fld.SAFETY_STATUS_HV_EN, 1), (Fld.SAFETY_STATUS_LEN_OUT, 1), (Fld.SAFETY_STATUS_DCHG_OK, 1)]
def wIlk (st : Nat) : State := at10 (ilkChip st)
def wDiffer : State := at10 { idle with safety := { differSince := some 9900000000 } }
def wLost : State := at10 { idle with safety := { mainLost := true, lossAt := 9400000000 } }
def wHoldup : State := at10 { idle [(Fld.POWER_STATUS_HOLDUP, 1)] with safety := { mainLost := true, lossAt := 9400000000 } }
def wStopped : State := at10 { put (chipIn St.safeStop) [(Fld.SAFETY_STATUS_DCHG_OK, 1)] with eng := { starting := false, stopping := true } }
def wDischarge (v : Word) : State := at10 { idle [(Fld.WINDLASS_HV_CFG_EN 4, 1), (Fld.SAFETY_DCHG_LIMIT_LIMIT, 0x40000000)] with
  safety := { dischargeFrom := some 9900000000 }, wl := { hv := (List.replicate 24 {}).set 4 { v := v } } }
def wVlow : State := at10 (put (chipIn St.primed) [(Fld.POWER_VBACK_MIN_MIN_RUN, 10)])
def wStartUp : State := at10 { chipIn St.awake with eng := { starting := true, m0 := some 9000000000 } }
def wRebuild : State := at10 { chipIn St.awake with eng := { starting := true, rebuilding := true } }
def wNoStandby : State := at10 { idle with eng := { starting := false, standby := false } }
def wTesting : State := at10 { idle with eng := { starting := false, standby := false, testing := true } }

-- engine
def inState (st opcode : Nat) (l : List (BitField × Nat) := []) : State := at10 (put (chipIn st) l) (journal (cmd opcode))
def wSleepOpen : State := { inState St.idle 0x02 with chip := { idle with txn := { opens := some {} :: List.replicate 7 none } } }
def stopOk : List (BitField × Nat) := [(Fld.SAFETY_STATUS_ILK_A, 1), (Fld.SAFETY_STATUS_ILK_B, 1), (Fld.SAFETY_STATUS_DCHG_OK, 1), (Fld.SAFETY_STATUS_TRIP, 1)]
def primeFlds : List (BitField × Nat) := [(Fld.SAFETY_STATUS_ILK_A, 1), (Fld.SAFETY_STATUS_ILK_B, 1), (Fld.TILE_CFG_ENABLE 9, 1),
  (Fld.STATION_CEIL_LOCK_LOCK 0, 1), (Fld.STATION_CEIL_DUTY_EMIT_CAP 0, 1), (Fld.STATION_CEIL_DUTY_TILE_CAP 0, 1), (Fld.STATION_CEIL_BIAS_BIAS_MAX 0, 1),
  (Fld.FEEDBACK_BELT_SCALE_SCALE, 1), (Fld.FEEDBACK_ENC_CFG_EN 0, 1), (Fld.STATION_DRUM_SCALE_SCALE 0, 1), (Fld.WINDLASS_STN_SLOT_EN 0, 1),
  (Fld.WINDLASS_STN_SLOT_SLOT 0, 5), (Fld.WINDLASS_SLOT_CFG_LAW 5, 1), (Fld.WINDLASS_BELT_SLOT_SLOT, 6), (Fld.WINDLASS_SLOT_CFG_LAW 6, 1), (Fld.POWER_STATUS_VBACK, 0xFFFF),
  (Fld.WINDLASS_SLOT_CFG_DEST 5, 255), (Fld.WINDLASS_SLOT_CFG_DEST 6, 255)]
def wPrime : State := at10 (idle primeFlds) (journal (cmd 0x03))
def priming (done : Bool) (fails : Nat) : State := { at10 { idle primeFlds with eng := { starting := false, prime := some (7, 1000), calDone := done, primeFails := fails } } with
  clock := { time := 30000001000 } }
def replayOf (ended : Bool) : Replay := { slot := 7, part := 0, host := 4096, tape := {}, ended := ended }
def wReplaying (down : Nat) : State := at10 { put (chipIn St.replay) [(Fld.HOST_PORT_STATUS_DOWN 0, down)] with eng := { starting := false, replay := some (replayOf false) } } (journal { cmd 0x06 with phase := .started })
def wReplayed : State := at10 { chipIn St.replay with eng := { starting := false, replay := some (replayOf true), idleCmds := [7, 8] } }
def wReorder : State := { at10 idle with merge := { nextSeq := 9, reorder := [(1, 9999984000, 2, ⟨1, 0, 0, 0, .enabled, none⟩), (1, 9999984001, 2, ⟨1, 0, 0, 0, .enabled, none⟩)] } }

-- registers
def drumScale : RegSpec := ⟨"STATION.DRUM_SCALE", 0x100400, [(8, 0x10000)], (.cls 2), [⟨31, 0, .rw, 0⟩]⟩
def schedCtl : RegSpec := ⟨"STATION.SCHED_CTL", 0x100404, [(8, 0x10000)], (.cls 2), [⟨0, 0, .rw, 0⟩]⟩
def wlEvent : RegSpec := ⟨"WINDLASS.EVENT", 0x380004, [], (.cls 1), [⟨0, 0, .sq, 0⟩, ⟨1, 1, .sq, 0⟩, ⟨2, 2, .sq, 0⟩, ⟨3, 3, .sq, 0⟩, ⟨4, 4, .sq, 0⟩, ⟨5, 5, .sq, 0⟩, ⟨6, 6, .sq, 0⟩, ⟨7, 7, .sq, 0⟩, ⟨8, 8, .sq, 0⟩, ⟨23, 23, .sq, 0⟩, ⟨31, 24, .sq, 0⟩]⟩
def hvCeil : RegSpec := ⟨"WINDLASS.HV_CEIL", 0x3b000c, [(24, 0x20)], .master, [⟨23, 0, .g, 0⟩]⟩
def wMaster : State := at10 (idle [(Fld.HOST_PORT_STATUS_DOWN 0, 0)])
def wGuard (a : Nat) (v : Word) : State := at10 { idle [(Fld.HOST_PORT_STATUS_DOWN 0, 0)] with guards := [⟨unitOf a, a, v, .a, 9999936000⟩] }
def wSleep : State := at10 (chipIn St.sleep)
def wTile0 : State := at10 (idle [(Fld.HOST_PORT_STATUS_DOWN 0, 0), (Fld.TILE_CFG_ENABLE 9, 1), (Fld.TILE_LINK_STATUS_STATE 9, Lk.up)])
def wBreach : State := at10 (idle [(Fld.WINDLASS_HV_STATUS_STATE 23, 2), (Fld.WINDLASS_HV_CFG_EN 23, 1)])
def wSump (st : Nat) : State := at10 { idle [(Fld.SUMP_STATUS_STATE, st), (Fld.SUMP_WR_LO_VALUE, 0), (Fld.SUMP_WR_HI_VALUE, 2)] with sump := { rd := 4294967296 } }
def wCopy : State := at10 { idle with txn := { copying := [(0x5000, [])] }, active := [(0xB0001, 7)] }
def wCache : State := at10 { idle with xlat := { cache := [⟨1, 0, 5, 4096, true, true, false, 0⟩, ⟨1, 0, 6, 4096, true, true, false, 1⟩, ⟨0, 0, 6, 4096, true, true, false, 0⟩] } }
def wFlying : State := at10 { wCache.chip with
  xlat := { wCache.chip.xlat with invals := (List.replicate 8 none).set 1 (some { size := 3, addr := 0, flying := [(3, 0)] }) }, dma := { img := (List.replicate 8 {}).set 3 { inFlight := some 64 } } }
def wPart : State := at10 (idle ([(Fld.GLOBAL_PART_OWNER_ENABLE, 3), (Fld.GLOBAL_PART_OWNER_OWNER_PORT, 0)] ++
  (List.range 4).map (fun r => (Fld.HOST_PART_RING_SIZE_LOG2 1 r, 4)) ++ [(Fld.HOST_PART_Q_CTL_LOG2_SIZE 1 0, 16), (Fld.HOST_PART_Q_CTL_LOG2_SIZE 1 1, 4), (Fld.HOST_PORT_STATUS_DOWN 0, 0)]))

def aPair : GuardPend := ⟨unitOf (Reg.WINDLASS_HV_CEIL 23), Reg.WINDLASS_HV_CEIL 23, 5, .a, 9999936000⟩




-- resets and rings
def parts (q : PartQ) (p : Nat := 0) : List PartQ := (List.replicate 8 ({} : PartQ)).set p q
def upFlds : List (BitField × Nat) := [(Fld.GLOBAL_PART_OWNER_ENABLE, 3), (Fld.HOST_PART_CTL_ATTACH 0, 1), (Fld.HOST_PART_CTL_ATTACH 1, 1), (Fld.HOST_PORT_STATUS_DOWN 0, 0)]
def wAttached : State := at10 (idle upFlds) { nextSeq := 9, journal := [cmd 0xF1], parts := parts { heads := [1, 2, 3, 4], geom := some {} } }
def wPrimedReset : State := at10 (put (chipIn St.primed) upFlds)
def wPortUp : State := at10 (idle [(Fld.HOST_PORT_STATUS_DOWN 0, 0), (Fld.HOST_PORT_STATUS_DOWN 1, 0), (Fld.HOST_PORT_STATUS_DOWN_COUNT 1, 255)])
def wPoll (f : List FItem) : State := at10 (idle (upFlds ++ [(Fld.HOST_PART_POLL_INTERVAL 0, 1)]))
  { nextSeq := 9, parts := parts { geom := some {}, fetches := f, heads := [4294967295, 1, 2, 3] } }
def wEarly : State := { wPoll [] with merge := { (wPoll []).merge with parts := parts { geom := some {}, lastPoll := 9999999001, wait := 1 } } }
def doorbellBlock : Entry := BitVec.ofNat 512 (1 * 2 ^ 32 + 2 * 2 ^ 64 + 3 * 2 ^ 96 + (2 ^ 32 - 1) * 2 ^ 128)
def newEntry (own : Nat) : Entry := BitVec.ofNat 512 (0x01 + own * 256 + 77 * 2 ^ 64)
def wHeldRec : State := at10 (idle upFlds) { nextSeq := 9, held := [(0, coldRecord)] }
def wModerate (mask : Nat) : State := at10 { idle (upFlds ++ [(Fld.HOST_PART_Q_CTL_MOD_COUNT 0 1, 1), (Fld.HOST_PART_Q_CTL_MOD_TIME 0 1, 4095)]) with
  ports := [{ msixMask := mask }, {}] } { nextSeq := 9, parts := parts { geom := some {}, eq := { uncovered := 1, firstAt := some 0 } } }
def aBarrier (n : Nat) : JEntry := { cmd 0x01 with phase := .result, barrier := true, barriers := n }
def wBarrier (n : Nat) : State := at10 (idle upFlds) { nextSeq := 9, journal := [aBarrier n], order := (List.replicate 32 []).set 0 [.cmd 7], parts := parts { geom := some {}, fetches := [.barrier 7] } }
def flatLeaf (p host : Nat) (locks : Nat := 0) : Leaf := { part := p, level := 1, page := 0, host := host, rd := true, wr := true, ns := false, locks := locks }
def wGrant : State := { wPoll [.doorbell] with chip := { (wPoll []).chip with xlat := { cache := [flatLeaf 0 4096] } } }
def blk : ImgDesc := { addr := 256, len := 128, band := 0, lastBand := true, lastPage := true }
def aPage : Page := { tag := 77, part := 0, seq := 2, lines := 512, width := 16, speed := 20000, gap := 0, follow := false, strip := false, feather := 0, stns := [{ station := 0, descs := [blk], bands := [65, 63] }], tiles := [9], leadNs := 100000000 }
def run1 : Page := { aPage with running := true, joined := true, origin := some 0, decoded := [0] }
def imgs (f : ImgChan → ImgChan) : List ImgChan := (List.replicate 8 { page := some 2 }).set 0 (f { page := some 2, descs := [blk] })
def wImg : State := at10 { put (chipIn St.printing) [(Fld.DMA_IMG_RETRY_COUNT, 1)] with
  pages := [run1], chain := some { tag := 5, part := 0 }, dma := { img := imgs fun x => { x with inFlight := some 64 } } }
def wRetry : State := at10 { idle with dma := { img := (List.replicate 8 {}).set 7 { retryAt := some 10000000000 } } }
def svc (ph : Nat) (bad : Nat := 0) : SvcJob := { slot := 7, part := 0, opcode := 0x44, list := 0, count := 1, region := 2, phase := ph, bad := bad, inFlight := if ph = 3 then none else some 32 }
def wSvc (ph bad : Nat) : State := at10 { idle with dma := { jobs := [(24, svc ph bad)], owner := (List.replicate 15 none).set 0 (some (7, 0)) } }
  (journal { cmd 0x44 with phase := .started })

-- transactions
def noEntries : OpenTxn := {}
def txnChip (o : OpenTxn) : Chip := { idle with txn := { opens := some o :: List.replicate 7 none, gen := 4 } }
def theta (m d : Word) : Staged := .reg Reg.THERMAL_THETA m d
def wTxn (o : Option OpenTxn) (e : JEntry) : State := at10 { idle with txn := { opens := o :: List.replicate 7 none, gen := 4 } } (journal e)
def aCommit : Commit := { part := 0, seq := 3, tag := 5, opcode := 0x12, trig := .time 10000000000, entries := [theta 0xFF 0x12], left := [1] }
def wTimed : State := at10 { idle with txn := { commits := [aCommit] } }

-- pages
def hostAt (a : Nat) (l : List Byte) : HostImg := l.zipIdx.map fun e => (a + e.2, e.1)
def pageTree (crc : Nat) : List Byte :=
  leBytes 4 0x45474150 ++ [1, 1, 0, 0] ++ leBytes 4 1 ++ leBytes 4 1 ++ leBytes 4 20000 ++ leBytes 4 0 ++ leBytes 4 crc ++ leBytes 36 0
  ++ [0, 0, 0, 0] ++ leBytes 4 1 ++ leBytes 8 128 ++ leBytes 8 192 ++ leBytes 8 0 ++ List.replicate 32 0
  ++ leBytes 4 1 ++ leBytes 3 0 ++ leBytes 1 1 ++ List.replicate 56 0
  ++ leBytes 8 256 ++ leBytes 4 64 ++ leBytes 4 0
def armFlds : List (BitField × Nat) := upFlds ++ [(Fld.TILE_CFG_ENABLE 9, 1), (Fld.TILE_LINK_STATUS_STATE 9, Lk.up), (Fld.TILE_HALF_PERIOD_T_H 9, 6400000),
  (Fld.HOST_PORT_STATUS_RATE 0, 4), (Fld.HOST_PORT_STATUS_WIDTH 0, 4), (Fld.THERMAL_THETA_THETA, 0)]
def armChip (st : Nat) : Chip := { (put (chipIn st) armFlds).updTile 9 fun x => { x with locked := true, primed := true } with xlat := { cache := [flatLeaf 0 0 1] } }
def armTreeBytes : HostImg := hostAt 0 (pageTree 3958125333)
def wArm : State := at10 (armChip St.idle) (journal (cmd 0x20))
def wChain (pages : List Page) : State := at10 { armChip St.primed with pages := pages } (journal (cmd 0x21))
def printing (e : JEntry) (pages : List Page) (h : Chain) (acc : Nat := 0) : State :=
  at10 { armChip St.printing with pages := pages, chain := some h, belt := { acc := acc * 65536 } } (journal e)
def joined1 : Page := { aPage with joined := true, origin := some 64000, startAt := 100 }
def h1 : Chain := { tag := 5, part := 0 }
def wBand (taken : Nat) (got : List Byte) : State := at10 { put (chipIn St.printing) [] with pages := [{ run1 with lines := 257, width := 4 }], chain := some h1, dma := { img := List.replicate 8 { page := some 2 } }, lanes := (List.replicate 8 ({} : Lane)).set 0 { page := some 2, input := [(2, got)], taken := taken } }

-- recorder and service
def sumpChip (st : Nat) (f : Sump → Sump) (l : List (BitField × Nat) := []) : Chip := { idle ([(Fld.SUMP_STATUS_STATE, st), (Fld.HOST_PORT_STATUS_DOWN 0, 0)] ++ l) with
  sump := f { size := 2 ^ 30, sources := 255 } }
def aRec (t : Nat) : SumpRec := ⟨1, 0, t, [5]⟩
def wSeg (t : Nat) : State := at10 (sumpChip 1 fun x => { x with open_ := [aRec t, ⟨1, 0, 10000000000, [6]⟩], openBytes := 40, lastSnap := 0 })
def wSnap : State := at10 (sumpChip 1 (fun x => { x with size := 2 ^ 32 }) [(Fld.SUMP_CFG_SNAP_S, 10)])
def wPost : State := at10 (sumpChip 2 (fun x => { x with trigAt := some 0 }) [(Fld.SUMP_CFG_POST_MS, 10000)])
def aSeg : Segment := { kind := 0, flags := 0, seq := 0, base := 0, end_ := 5, rawLen := 3, payload := [1, 2, 3], nrec := 1, sources := 1 }
def wStream : State := at10 { (sumpChip 1 fun x => { x with closed := [aSeg], closedBytes := 128, nextSeq := 1 }) with xlat := { cache := [flatLeaf 0 4096] } }
def flat (e : JEntry) (st : Nat := St.idle) (f : Chip → Chip := id) : State :=
  at10 (f { put (chipIn st) [(Fld.HOST_PORT_STATUS_DOWN 0, 0)] with xlat := { cache := [flatLeaf 0 4096] } }) (journal e)
def codecList (a n : Nat) : List Byte := leBytes 8 a ++ leBytes 4 n ++ leBytes 4 0

def tloadCmd : JEntry := cmd 0x40 [(0x10,32),(0x18,1024),(0x1A,3),(0x1B,1),(0x28,0x7000)]
def captCmd : JEntry := cmd 0x44 [(0x10,2),(0x18,32),(0x20,1024)]
def wLoop : State := flat (cmd 0x33 [(0x10,5)]) St.idle fun c => put c [(Fld.WINDLASS_SLOT_CFG_LAW 5, 1), (Fld.WINDLASS_SLOT_CFG_DEST 5, 255)]
def stripCmd : JEntry := cmd 0x43 [(0x10,3),(0x18,4096),(0x20,16)]
def wStrip : State := flat stripCmd St.idle fun c => c.updSeam fun x => { x with reports := [[], [], [1, 2, 3, 4]] }
def measCmd : JEntry := cmd 0x42 [(0x10,16),(0x18,1),(0x20,77)]
def mapEntry : List Byte := leBytes 8 0 ++ [7, 15, 2, 9, 8, 0, 0, 0]
def mapMem : HostImg := hostAt 4112 mapEntry
def wMeasure : State := flat measCmd St.primed fun c => { put c [(Fld.SEAM_CTL_LSCAN_EN, 1)] with pages := [aPage] }
def mapMark1 : Mark := (mapMark mapEntry).getD { station := 0, pos := 0, role := 0, seam := 0, x := 0, y := 0, m := 0, my := 0, line := 0 }
def recCmd : JEntry := cmd 0x47 [(0x10,1),(0x18,4096),(0x20,2^30),(0x24,255),(0x28,15)]
def wRecFrozen : State := flat (cmd 0x47) St.idle fun c => put c [(Fld.SUMP_STATUS_STATE, 3)]
def chain2 : Chain := { h1 with closed := some 1, enders := [7] }
def wLastPage : State := printing (cmd 0x24) [run1] chain2 run1.endAt
def capStarted : JEntry := { cmd 0x44 with phase := .started }
def commitAt : JEntry := cmd 0x12 [(0x10,2),(0x18,70000000000)]
def one : OpenTxn := { entries := [theta 0xFF 0x12], gen := 4 }
def wrCmd : JEntry := cmd 0x11 [(0x14, Reg.THERMAL_THETA), (0x18, 1), (0x1C,1)]



-- calibration with its drum at speed
def wCalOk : State := at10 ({ ((put (chipIn St.primed) [(Fld.SAFETY_STATUS_ILK_A, 1), (Fld.SAFETY_STATUS_ILK_B, 1), (Fld.STATION_CEIL_LOCK_LOCK 0, 1),
  (Fld.TILE_CFG_ENABLE 9, 1), (Fld.TILE_LINK_STATUS_STATE 9, Lk.up), (Fld.SAFETY_STATUS_LEN_ARM, 1), (Fld.WINDLASS_STN_SLOT_EN 0, 1),
  (Fld.WINDLASS_SLOT_STATUS_LOCK 0, 1)]).updTile 9 fun x => { x with locked := true, primed := true }).updStn 0 fun x =>
  { x with scale := 2 ^ 31 } with fbCopy := (List.replicate 16 ({} : FbCopy)).set 0 { speed := 4000000000 } }) (journal (cmd 0x41 [(0x10, 512)]))

-- a band of 256 lines of 4 white dots, coded
def whiteBand : List Byte := [0xB5, 1, 0, 0, 0, 0, 1, 0, 0, 0, 0, 0, 0, 0, 0, 0, 4, 0, 0, 0, 0, 1, 0, 0] ++ List.replicate 128 136
def bandPage : Page := { run1 with lines := 257, width := 4, stns := [{ station := 0, descs := [{ blk with len := 320 }], bands := [152, 65] }] }
def wBands (got : List Byte) : State := at10 { put (chipIn St.printing) [] with pages := [{ bandPage with decoded := [0] }], chain := some h1, dma := { img := List.replicate 8 { page := some 2 } }, lanes := (List.replicate 8 ({} : Lane)).set 0 { page := some 2, input := [(2, got)] } }

-- two white lines of 64 dots, and their code
def whiteCode : List Byte := [0xB5, 1, 0, 0, 0, 0, 1, 0, 0, 0, 0, 0, 0, 0, 0, 0, 4, 0, 0, 0, 2, 0, 0, 0, 255, 255, 31, 224]
def codecCmd (op nout out : Nat) : JEntry := cmd op [(0x10, 8192), (0x18, out), (0x20, 1), (0x22, nout), (0x24, 64), (0x28, 2), (0x2E, 1)]
def codecMem (data : List Byte) : HostImg := hostAt 4096 data ++ hostAt 12288 (codecList 0 data.length) ++ hostAt 12304 (codecList 4096 64)
def bandPage0 : Page := { bandPage with decoded := [0] }
def bandStn : PageStn := { station := 0, descs := [{ blk with len := 320 }], bands := [152, 65] }
def white : BlockCtl := { mode := 0, run := true, setK := false, pred := 0, tset := 0, period := 0, runK := 0, lines := 0 }
def whiteItems : List Item := (encodeBands white 64 1 0 (inputLines 64 2 0 (List.replicate 64 0)) [] [] 2 0).1
def noItem : Item := { bits := [], taken := 0, k := 2, band := 0 }
def whiteLast : Item := whiteItems.getLast?.getD noItem
def whiteBits : List Bool := whiteCode.flatMap byteBits
def bandBack : BandDec := { up := [0, 0, 0, 0], up2 := [0, 0, 0, 0], k := 9, cu := { bytes := [] } }
def bandDec : BandDec := match decodeBand 4 256 0 true [] [] 2 whiteBand with
  | .ok d => d
  | .error _ => bandBack

-- ill-formed terms: each check refuses one

theorem test_wf_refuses_time : Instr.wf (.brownOut (2 ^ 64)) = false := by decide
theorem test_wf_refuses_resets : Instr.wf (.engineReset 0 .a 0x100) = false ∧ Instr.wf (.engineReset 0 .a 3) = false ∧
    Instr.wf (.partitionReset 0 .a 1) = false ∧ Instr.wf (.partitionReset 0 .a 0x10000) = false ∧ Instr.wf (.portReset 0 .a 0x100) = false := by decide
theorem test_wf_refuses_registers : Instr.wf (.registerWrite 0 .a 2 0 15 none) = false ∧ Instr.wf (.registerWrite 0 .a 4 0 15 (some (0, 15))) = false ∧ Instr.wf (.bitAliasWrite 0 .a 0 0) = false ∧
    Instr.wf (.bitAliasWrite 0 .a 0x8000001 0) = false ∧ Instr.wf (.maskedWrite 0 .a 1 0) = false ∧ Instr.wf (.sqClearWrite 0 .a 3 0) = false ∧
    Instr.wf (.guardFirstWrite 0 .a 2 0) = false ∧ Instr.wf (.guardedPairWrite 0 .a 2 0) = false ∧ Instr.wf (.guardTimeout 0 2) = false := by decide
theorem test_wf_refuses_tables : Instr.wf (.tableWindowWrite 0 .a 1 [0]) = false ∧ Instr.wf (.tableWindowWrite 0 .a 0 []) = false ∧
    Instr.wf (.tableWindowWrite 0 .a 0 (List.replicate 65 0)) = false ∧ Instr.wf (.tableWindowWrite 0 .a 0xFFFFFC [0, 0]) = false ∧
    Instr.wf (.tableCopyDone 0 0xFFFF) = false := by decide +kernel
theorem test_wf_refuses_fetches : Instr.wf (.entryFetchComplete 0 0 0 (List.replicate 5 0) true) = false ∧
    Instr.wf (.entryFetchComplete 0 0 0 [0] false) = false ∧ Instr.wf (.dmaBurstComplete 0 0 (.ok (List.replicate 257 0))) = false := by decide +kernel
theorem test_wf_refuses_images : ([.dmaBurstGrant 0 .a [(1, 0), (1, 0)], .replay 0 0 [(2, 0), (1, 0)], .pageArm 0 0 [(1, 0), (1, 1)],
    .segmentStream 0 [(1, 0), (0, 0)], .loopConfig 0 0 [(1, 0), (1, 0)], .seamMeasure 0 0 [(1, 0), (1, 0)], .markStrip 0 0 [(1, 0), (1, 0)],
    .compress 0 0 [(1, 0), (1, 0)], .decompressCheck 0 0 [(1, 0), (1, 0)], .query 0 0 [(1, 0), (1, 0)]] : List Instr).all (fun i => !i.wf) = true := by decide
theorem test_wf_refuses_messages : ([.monitorPd 0 0 0 [], .headStatus 0 0 [], .headTemp 0 0 [0, 0, 0], .uplinkFrame 0 0 [0] [0], .lscanLine 0 [1024],
    .bissFrameEnd 0 0 (some (List.replicate 65 true)) 0, .coilBusFrame 0 0 [], .followUpdate 0 [],
    .dieTempRead 0 []] : List Instr).all (fun i => !i.wf) = true := by decide
theorem test_wf_accepts : Instr.wf (.engineReset 5 .a 0x101) = true ∧ Instr.wf (.tableWindowWrite 0 .a 0xFFFFFC [0]) = true ∧
    Instr.wf (.bitAliasWrite 0 .a 0xC600194 1) = true ∧ Instr.wf (.query (2 ^ 64 - 1) 4095 [(1, 0), (2, 0)]) = true := by decide

-- the spec's worked examples, one step or one function each

/-- What a command leads to. -/
def after (i : Instr) (s : State) : State := match exec i s with
  | .next t => t
  | _ => State.reset

/-- The worked example of R42: bit 5 of the register at 0x0C in TILE_12. -/
theorem test_alias_word : targetOf 0xC600194 = 0x23000C ∧ (0xC600194 - aliasBase) % 128 / 4 = 5 := by decide
/-- The example of R44: PART_3 to port B, enabled, by one masked write. -/
theorem test_part_owner : (after (.partOwnerWrite 0 .a 0x08080808) wMaster).chip.owner 3 = .b ∧
    (after (.partOwnerWrite 0 .a 0x08080808) wMaster).chip.enabled 3 = true := by decide +kernel
/-- The example of R48: SEQ 7 as read clears bits 1 and 2; SEQ 8 by then clears nothing. -/
theorem test_sq_clear : (after (.sqClearWrite 0 .a (BitVec.ofNat 28 Reg.WINDLASS_EVENT) 0x07000000) (at10 ((idle).setReg Reg.WINDLASS_EVENT 0x07000006))).chip.reg
      Reg.WINDLASS_EVENT = 0x07000000 ∧
    (after (.sqClearWrite 0 .a (BitVec.ofNat 28 Reg.WINDLASS_EVENT) 0x07000000) (at10 ((idle).setReg Reg.WINDLASS_EVENT 0x08000006))).chip.reg
      Reg.WINDLASS_EVENT = 0x08000006 := by decide +kernel
/-- The worked example after R84: a walk through two levels. -/
theorem test_walk : walkFrom (hostAt 0x800000008 (leBytes 8 0x800001001) ++ hostAt 0x800001018 (leBytes 8 0x123440000F)) 0 0x40601A40 [1, 2, 3] 0x800000000 =
    .ok { part := 0, level := 2, page := 0x40601A40 / 2 ^ 21, host := 0x1234400000, rd := true, wr := true, ns := false } := by decide +kernel
/-- The worked example of 06_siphon_codec.md: three lines of eight dots. -/
theorem test_siphon : (match decodeBand 8 3 0 true [] [] 2 ([0xB5, 1, 0, 0, 0, 0, 1, 0, 0, 0, 0, 0, 0, 0, 0, 0, 4, 0x32, 0, 0, 3, 0, 0, 0,
      0x8F, 0xAC, 1, 0xCD, 0x84, 0xA6, 0xC3]) with
    | .ok d => (d.lines.reverse.map (·.1), d.k)
    | .error _ => ([], 0)) = ([[0, 0, 0, 0, 3, 7, 7, 7], [0, 0, 0, 3, 7, 7, 7, 7], [0, 0, 3, 7, 7, 7, 7, 7]], 2) := by decide +kernel
/-- The example of R275: four tokens in six bytes. -/
theorem test_tokens : packTokens [0x11C, 0x11C, 0xF80, 0x008] = [0x1C, 0xC1, 0x11, 0x80, 0x8F, 0] := by decide
/-- The worked example of 08_dot_exposure.md: the edge shifts of EMIT[6] at dots 5,000 to 5,003. -/
theorem test_edge_shift : (List.range 4).map (fun i => edgeShift 0 6 28 (320043 + 64 * i)) = [-2, 0, 3, -6] := by decide
/-- The example of R148: 125 ms at 0.60 m/s. -/
theorem test_lead : coverSub 600000 125000000 = 226772 := by decide
/-- The worked example of R154: the cut of a page with origin 262,144. -/
theorem test_cut : ({ aPage with origin := some 262144 } : Page).roundUp 3000030 = 3000064 := by decide +kernel
/-- The worked example of R324: 500 µs after a count a forward count gives 2,000 counts/s. -/
theorem test_speed : ((after (.encoderCount 500000 3 ⟨true, false⟩ 64)
      { at10 ((idle [(Fld.FEEDBACK_ENC_CFG_EN 3, 1), (Fld.FEEDBACK_ENC_CPR_CPR 3, 4)]).updEnc 3 fun x => { x with seen := true, fresh := false, stamps := [10000000000], last := some 10000000000, lastFast := some 10000000000 }) with
        clock := { time := 10000000000 } }).chip.enc 3).speed = 2000 * 65536 := by decide +kernel
/-- R46: a first write of a guarded pair waits for its second one. -/
theorem test_guard_waits : (after (.guardFirstWrite 0 .a (BitVec.ofNat 28 Reg.GLOBAL_RESET_CTL) 0x400) wMaster).chip.guards.length = 1 := by decide +kernel
/-- The worked example of R46: the pair 0x400 resets PART_2. -/
theorem test_partition_reset : ((after (.partitionReset 0 .a 0x400) { wMaster with
    merge := { nextSeq := 9, parts := (List.replicate 8 ({} : PartQ)).set 2 { heads := [1, 2, 3, 4] } } }).merge.part 2).heads = [0, 0, 0, 0] := by decide +kernel

-- witnesses

/-- A chip that has a command waiting, for Obligations.SoundKept, NumbersGoUp and EveryCommandCompletes. -/
def wWaiting : State := { at10 idle (journal (cmd 1)) with pending := [.tapInstruction 5 .extest [] []] }

theorem witness_StepTakesFront : State.reset.pending = [] := rfl
theorem witness_EveryCommandCompletes : (∀ dt m o v a, Instr.tapInstruction 5 .extest [] [] ≠ .coldStart dt m o v a) ∧
    (∀ dt m o v, Instr.tapInstruction 5 .extest [] [] ≠ .powerOnReset dt m o v) ∧ wWaiting.chip.fast = true ∧ wWaiting.chip.safety.refCorr = 0 ∧ wWaiting.clock.rest < 65536000000 :=
  ⟨fun _ _ _ _ _ h => (nomatch h), fun _ _ _ _ h => (nomatch h), by decide +kernel, by decide +kernel, by decide +kernel⟩
theorem witness_SoundKept : wWaiting.chip.sound = true ∧ ∃ t, step wWaiting = .next t := ⟨by decide +kernel, _, rfl⟩
theorem witness_NumbersGoUp : (∀ e, e ∈ wWaiting.merge.journal ∧ e.slot ∉ wWaiting.chip.eng.accepting → e.seq < wWaiting.merge.nextSeq) ∧ wWaiting.merge.slotsApart ∧
    (∀ e ∈ wWaiting.merge.journal, e.slot < 4096) ∧ (∀ c rest, wWaiting.pending = c :: rest → (∀ dt m o v a, c ≠ .coldStart dt m o v a) ∧
      ∀ dt m o v, c ≠ .powerOnReset dt m o v) ∧ ∃ t, step wWaiting = .next t := by
  have low : ∀ e ∈ wWaiting.merge.journal, e.seq < wWaiting.merge.nextSeq ∧ e.slot < 4096 := by decide +kernel
  refine ⟨fun e h => (low e h.1).1, by unfold Merge.slotsApart; decide +kernel, fun e h => (low e h).2, fun c rest h => ?_, _, rfl⟩
  obtain ⟨rfl, -⟩ := List.cons.inj h
  exact ⟨fun _ _ _ _ _ h => (nomatch h), fun _ _ _ _ h => (nomatch h)⟩
/-- The clause of Obligations.PagesArmAndChainsStart on PAGE_ARM: a tree that can be read and passes the checks. -/
theorem witness_PageArm : wArm.chip.working = true ∧ wArm.chip.flag Fld.POWER_STATUS_HOLDUP = false ∧ (∀ k < 8, (wArm.chip.img k).page = none) ∧
    wArm.offers 0 7 0x20 (cmd 0x20) ∧ (cmd 0x20).param 0x10 8 % 64 = 0 ∧
    wArm.chip.pages = [] ∧ wArm.chip.chain = none ∧ wArm.chip.portDown (wArm.chip.owner (cmd 0x20).part) = false ∧
    (match (wArm.chip.fresh.started 7).armTree armTreeBytes 0 0 with
      | .ok x => match x.2.2.armChecks armTreeBytes (cmd 0x20) x.1 x.2.1 with
        | .ok _ => true
        | .error _ => false
      | .error _ => false) = true := by unfold State.offers; decide +kernel
/-- The clause of Obligations.SegmentsActAndStream on SNAPSHOT_TIMER: its snapshot fits whatever the free bytes are. -/
theorem witness_Snapshot : (wSnap.chip.sound = true ∧ wSnap.chip.still = true ∧ wSnap.chip.fast = true ∧ wSnap.chip.serving = true ∧
    wSnap.chip.noService = true ∧ wSnap.chip.sump.gap = none ∧ wSnap.chip.fld Fld.SUMP_STATUS_STATE = 1 ∧ wSnap.chip.sump.freezing = false ∧
    0 < wSnap.chip.fld Fld.SUMP_CFG_SNAP_S ∧ wSnap.chip.sump.lastSnap + wSnap.chip.fld Fld.SUMP_CFG_SNAP_S * 1000000000 ≤ wSnap.at_ 0) ∧
    (wSnap.chip.snapshot (wSnap.at_ 0)).1.size ≤ wSnap.chip.sump.size / 4 ∧
    wSnap.chip.sump.openBytes + wSnap.chip.sump.closedBytes + (wSnap.chip.snapshot (wSnap.at_ 0)).1.size ≤ sumpRing := by
  have fits (l : List Byte) : 64 + (padTo 64 (l.take (sumpRing - 64))).length ≤ 2 ^ 21 := by
    simp only [padTo, List.length_append, List.length_replicate, List.length_take, show sumpRing = 2 ^ 21 from rfl]
    omega
  have empty : wSnap.chip.sump.openBytes + wSnap.chip.sump.closedBytes = 0 := by decide +kernel
  refine ⟨by decide +kernel, Nat.le_trans (fits _) (by decide +kernel), ?_⟩
  rw [empty, Nat.zero_add]
  exact fits _

/-- States and operands that meet the hypotheses of Obligations.LockedLeavesStay, clause by clause. -/
theorem witness_LockedLeavesStay :
    (wCache.chip.sound = true ∧ wCache.chip.flag (Fld.HOST_PART_INVAL_STATUS_BUSY 1) = false ∧ bit (2147483649#32).toNat 31 = true ∧ ∃ l ∈
    wCache.chip.xlat.cache, l.part = 1 ∧ l.locks ≠ 0 ∧ l.overlaps (if bits (2147483649#32).toNat 1 0 = 3 then 0 else (wCache.chip.pair
    (Reg.HOST_PART_INVAL_ADDR_LO 1) (Reg.HOST_PART_INVAL_ADDR_HI 1) / 2 ^ if bits (2147483649#32).toNat 1 0 = 0 then 12 else if bits
    (2147483649#32).toNat 1 0 = 1 then 21 else if bits (2147483649#32).toNat 1 0 = 2 then 30 else 39) * 2 ^ if bits (2147483649#32).toNat 1 0 = 0
    then 12 else if bits (2147483649#32).toNat 1 0 = 1 then 21 else if bits (2147483649#32).toNat 1 0 = 2 then 30 else 39) (2 ^ if bits
    (2147483649#32).toNat 1 0 = 0 then 12 else if bits (2147483649#32).toNat 1 0 = 1 then 21 else if bits (2147483649#32).toNat 1 0 = 2 then 30 else
    39) = true) ∧ (wCache.chip.sound = true ∧ wCache.chip.flag (Fld.HOST_PART_INVAL_STATUS_BUSY 1) = false ∧ bit (2147483648#32).toNat 31 = true ∧ ∀
    l ∈ wCache.chip.xlat.cache, l.part = 1 → l.locks ≠ 0 → l.overlaps (if bits (2147483648#32).toNat 1 0 = 3 then 0 else (wCache.chip.pair
    (Reg.HOST_PART_INVAL_ADDR_LO 1) (Reg.HOST_PART_INVAL_ADDR_HI 1) / 2 ^ if bits (2147483648#32).toNat 1 0 = 0 then 12 else if bits
    (2147483648#32).toNat 1 0 = 1 then 21 else if bits (2147483648#32).toNat 1 0 = 2 then 30 else 39) * 2 ^ if bits (2147483648#32).toNat 1 0 = 0
    then 12 else if bits (2147483648#32).toNat 1 0 = 1 then 21 else if bits (2147483648#32).toNat 1 0 = 2 then 30 else 39) (2 ^ if bits
    (2147483648#32).toNat 1 0 = 0 then 12 else if bits (2147483648#32).toNat 1 0 = 1 then 21 else if bits (2147483648#32).toNat 1 0 = 2 then 30 else
    39) = false) :=
  by refine ⟨?_, ?_⟩ <;> decide +kernel

/-- States and operands that meet the hypotheses of Obligations.DriveTripsFault, clause by clause. -/
theorem witness_DriveTripsFault :
    ((at10 idle).chip.quiet = true ∧ (at10 idle).chip.driveState 3 ≠ Ds.fault) ∧ (wLr.chip.quiet = true ∧ wLr.chip.driveState 3 ≠ Ds.fault ∧
    (wLr.chip.drive 3).lrFrom = some 0 ∧ 0 + wLr.chip.fld (Fld.DRIVE_LIMITS_LR_TIMEOUT 3) * 10000000 ≤ wLr.at_ 5) ∧ (wOpen.chip.quiet = true ∧
    wOpen.chip.driveState 3 ≠ Ds.fault ∧ (wOpen.chip.drive 3).openAt = some 0 ∧ (wOpen.chip.drive 3).lostObs = true ∧ 0 + 20000000 ≤ wOpen.at_ 5 ∧
    wOpen.chip.flag (Fld.DRIVE_CFG_PAGE_CRIT 3) = false) ∧ (wCat.chip.quiet = true ∧ wCat.chip.driveState 3 ≠ Ds.fault ∧ wCat.chip.driveState 3 =
    Ds.offsetCal ∧ (wCat.chip.drive 3).startedAt + wCat.chip.fld (Fld.DRIVE_CATCH_CATCH_TIMEOUT 3) * 100000000 ≤ wCat.at_ 0) :=
  by refine ⟨?_, ?_, ?_, ?_⟩ <;> decide +kernel

/-- States and operands that meet the hypotheses of Obligations.HallsLost, clause by clause. -/
theorem witness_HallsLost :
    (wHall1.chip.quiet = true ∧ wHall1.chip.driveState 3 = Ds.run ∧ wHall1.chip.srcUsed 3 = 1 ∧ (wHall1.chip.drive 3).hallLost = false ∧
    wHall1.chip.hallOf 3 = some 2 ∧ (wHall1.chip.hall 2).invalidAt = some 0 ∧ 0 + max 10000000 (elecPeriod (wHall1.chip.hallLast 3)) ≤ wHall1.at_ 0 ∧
    wHall1.chip.fld (Fld.DRIVE_CFG_SRC 3) = 1) ∧ wHall3.chip.quiet = true ∧ wHall3.chip.driveState 3 = Ds.run ∧ wHall3.chip.srcUsed 3 = 1 ∧
    (wHall3.chip.drive 3).hallLost = false ∧ wHall3.chip.hallOf 3 = some 2 ∧ (wHall3.chip.hall 2).invalidAt = some 0 ∧ 0 + max 10000000 (elecPeriod
    (wHall3.chip.hallLast 3)) ≤ wHall3.at_ 0 ∧ wHall3.chip.fld (Fld.DRIVE_CFG_SRC 3) = 3 :=
  by refine ⟨?_, ?_⟩ <;> decide +kernel

/-- A corrected shunt code is a 12-bit code whatever the free gain. -/
theorem corrected_le (c : Chip) (conv code : Nat) : c.corrected conv 12 code ≤ 4095 := by
  unfold Chip.corrected clampI
  split
  · decide
  · split <;> omega

/-- The clauses of Obligations.ShuntsAndOffsets on OFFSET_CAL_END, and those of SHUNT_SAMPLE that ask nothing of the codes. -/
theorem witness_ShuntsAndOffsets :
    ((wOff 131072).chip.quiet = true ∧ (wOff 131072).chip.driveState 3 = Ds.offsetCal ∧ (wOff 131072).chip.fld (Fld.DRIVE_CFG_SRC 3) = 2 ∧
      ((wOff 131072).chip.drive 3).calN = 64 ∧ ((wOff 131072).chip.drive 3).calSum = [131072, 131072, 131072] ∧
      ∀ x ∈ [131072, 131072, 131072], 1792 ≤ (x + 32) / 64 ∧ (x + 32) / 64 ≤ 2304) ∧
    ((wOff 0).chip.quiet = true ∧ (wOff 0).chip.driveState 3 = Ds.offsetCal ∧ (wOff 0).chip.fld (Fld.DRIVE_CFG_SRC 3) = 2 ∧
      ((wOff 0).chip.drive 3).calN = 64 ∧ ((wOff 0).chip.drive 3).calSum = [0, 131072, 131072] ∧
      ∃ x ∈ [0, 131072, 131072], (x + 32) / 64 < 1792 ∨ 2304 < (x + 32) / 64) ∧
    ((wShunt Ds.fault 0 0 0).chip.quiet = true ∧ (wShunt Ds.fault 0 0 0).chip.driveState 3 = Ds.fault ∧
      ((wShunt Ds.fault 0 0 0).chip.drive 3).causes = []) := by decide +kernel

/-- The phase currents of the witnesses below: every phase has code 9. -/
def wCurrents (s : State) : List Int :=
  let code : Int := (s.chip.corrected (3 + 3 / 2) 12 (9#12).toNat : Nat)
  [code - s.chip.fld (Fld.DRIVE_I_OFFSET_UV_OFF_U 3), code - s.chip.fld (Fld.DRIVE_I_OFFSET_UV_OFF_V 3),
    code - s.chip.fld (Fld.DRIVE_I_OFFSET_W_OFF_W 3)]

theorem currents_within (s : State) (trip : s.chip.fld (Fld.DRIVE_ILIM_I_TRIP 3) = 4095) (u : s.chip.fld (Fld.DRIVE_I_OFFSET_UV_OFF_U 3) = 2048)
    (v : s.chip.fld (Fld.DRIVE_I_OFFSET_UV_OFF_V 3) = 2048) (w : s.chip.fld (Fld.DRIVE_I_OFFSET_W_OFF_W 3) = 2048) :
    ∀ i ∈ wCurrents s, i.natAbs ≤ s.chip.fld (Fld.DRIVE_ILIM_I_TRIP 3) := by
  have le := corrected_le s.chip (3 + 3 / 2) (9#12).toNat
  simp only [wCurrents, u, v, w, trip, List.mem_cons, List.not_mem_nil, or_false]
  omega

/-- The clauses of SHUNT_SAMPLE without a trip, with all phases measured, with phase U reconstructed, in OFFSET_CAL and in DISABLED. -/
theorem witness_ShuntsWithin :
    (((wShunt Ds.run 0 4095 2048).chip.quiet = true ∧ (wShunt Ds.run 0 4095 2048).chip.driveState 3 = Ds.run ∧
      (wShunt Ds.run 0 4095 2048).chip.fld (Fld.DRIVE_CFG_SRC 3) < 2 ∧ ((wShunt Ds.run 0 4095 2048).chip.drive 3).recon = 0) ∧
      ∀ i ∈ wCurrents (wShunt Ds.run 0 4095 2048), i.natAbs ≤ (wShunt Ds.run 0 4095 2048).chip.fld (Fld.DRIVE_ILIM_I_TRIP 3)) ∧
    (((wShunt Ds.run 1 4095 2048).chip.quiet = true ∧ (wShunt Ds.run 1 4095 2048).chip.driveState 3 = Ds.run ∧
      (wShunt Ds.run 1 4095 2048).chip.fld (Fld.DRIVE_CFG_SRC 3) < 2 ∧ ((wShunt Ds.run 1 4095 2048).chip.drive 3).recon = 1) ∧
      ∀ i ∈ wCurrents (wShunt Ds.run 1 4095 2048), i.natAbs ≤ (wShunt Ds.run 1 4095 2048).chip.fld (Fld.DRIVE_ILIM_I_TRIP 3)) ∧
    (((wShunt Ds.offsetCal 0 4095 2048).chip.quiet = true ∧ (wShunt Ds.offsetCal 0 4095 2048).chip.driveState 3 = Ds.offsetCal ∧
      ((wShunt Ds.offsetCal 0 4095 2048).chip.drive 3).calN < 64) ∧
      ∀ i ∈ wCurrents (wShunt Ds.offsetCal 0 4095 2048), i.natAbs ≤ (wShunt Ds.offsetCal 0 4095 2048).chip.fld (Fld.DRIVE_ILIM_I_TRIP 3)) ∧
    (((wShunt Ds.disabled 0 4095 2048).chip.quiet = true ∧ (wShunt Ds.disabled 0 4095 2048).chip.driveState 3 = Ds.disabled) ∧
      ∀ i ∈ wCurrents (wShunt Ds.disabled 0 4095 2048), i.natAbs ≤ (wShunt Ds.disabled 0 4095 2048).chip.fld (Fld.DRIVE_ILIM_I_TRIP 3)) := by
  refine ⟨⟨?_, currents_within _ ?_ ?_ ?_ ?_⟩, ⟨?_, currents_within _ ?_ ?_ ?_ ?_⟩, ⟨?_, currents_within _ ?_ ?_ ?_ ?_⟩, ?_, currents_within _ ?_ ?_ ?_ ?_⟩ <;>
    decide +kernel

/-- The clause of SHUNT_SAMPLE with a trip, in RUN and in DISABLED: one offset is 2047 and two are 2048, and no code lies within 0 of both. -/
theorem witness_ShuntsTrip : ∀ st ∈ [Ds.run, Ds.disabled], ((wShunt st 0 0 2047).chip.quiet = true ∧ (wShunt st 0 0 2047).chip.driveState 3 ≠ Ds.fault) ∧
    ∃ i ∈ wCurrents (wShunt st 0 0 2047), (wShunt st 0 0 2047).chip.fld (Fld.DRIVE_ILIM_I_TRIP 3) < i.natAbs := by
  have all : ∀ st ∈ [Ds.run, Ds.disabled], ((wShunt st 0 0 2047).chip.quiet = true ∧ (wShunt st 0 0 2047).chip.driveState 3 ≠ Ds.fault) ∧
      (wShunt st 0 0 2047).chip.fld (Fld.DRIVE_I_OFFSET_UV_OFF_U 3) = 2047 ∧ (wShunt st 0 0 2047).chip.fld (Fld.DRIVE_I_OFFSET_UV_OFF_V 3) = 2048 ∧
      (wShunt st 0 0 2047).chip.fld (Fld.DRIVE_ILIM_I_TRIP 3) = 0 := by decide +kernel
  intro st h
  obtain ⟨p, u, v, trip⟩ := all st h
  refine ⟨p, ?_⟩
  simp only [wCurrents, u, v, trip, List.exists_mem_cons_iff]
  omega

/-- States and operands that meet the hypotheses of Obligations.CarrierAndBrakeEnd, clause by clause. -/
theorem witness_CarrierAndBrakeEnd :
    (wPeak.chip.quiet = true ∧ wPeak.chip.atPeak (wPeak.at_ 0) 3 = true ∧ wPeak.chip.driveState 3 = Ds.run ∧ (wPeak.chip.drive 3).ramping = false ∧
    (wPeak.chip.drive 3).next = some ([1, 2, 3], 1, true)) ∧ (wPeak.chip.quiet = true ∧ wPeak.chip.atPeak (wPeak.at_ 1) 3 = false) ∧
    (wPeriod.chip.quiet = true ∧ wPeriod.chip.atPeak (wPeriod.at_ 0) 3 = true ∧ wPeriod.chip.driveState 3 = Ds.fault ∧ (wPeriod.chip.drive 3).causes ≠
    []) ∧ ((wBrake 0).chip.quiet = true ∧ (wBrake 0).chip.driveState 3 = Ds.brake ∧ ((wBrake 0).chip.drive 3).quiet = some 0 ∧ 0 + 50000000 ≤ (wBrake
    0).at_ 0 ∧ ((wBrake 0).chip.drive 3).after = 0) ∧ (wBrake 2).chip.quiet = true ∧ (wBrake 2).chip.driveState 3 = Ds.brake ∧ ((wBrake 2).chip.drive
    3).quiet = some 0 ∧ 0 + 50000000 ≤ (wBrake 2).at_ 0 ∧ ((wBrake 2).chip.drive 3).after = 2 :=
  by refine ⟨?_, ?_, ?_, ?_, ?_⟩ <;> decide +kernel

/-- States and operands that meet the hypotheses of Obligations.CountsAndFrames, clause by clause. -/
theorem witness_CountsAndFrames :
    (wEnc.chip.quiet = true ∧ 0 ≤ wEnc.chip.fld (Fld.FEEDBACK_ENC_CFG_FILT 3)) ∧ (wEnc.chip.quiet = true ∧ wEnc.chip.fld (Fld.FEEDBACK_ENC_CFG_FILT 3)
    + 1 ≤ 64) ∧ (wEnc.chip.quiet = true ∧ wEnc.chip.fld (Fld.FEEDBACK_ENC_CFG_FILT 3) + 1 ≤ 64) ∧ (wBiss.chip.quiet = true ∧ wBiss.chip.chanOn (12 +
    1) = true ∧ (wBiss.chip.bissCh 1).frame = none ∧ ∀ (t0 : ℕ), (wBiss.chip.bissCh 1).lastEnd = some t0 → t0 + 20000 ≤ wBiss.at_ 0) ∧
    (wBissRun.chip.quiet = true ∧ (wBissRun.chip.bissCh 1).frame = some 9999990000) ∧ wBissRun.chip.quiet = true ∧ (wBissRun.chip.bissCh 1).frame =
    some 9999990000 :=
  by refine ⟨?_, ?_, ?_, ?_, ?_, ?_⟩ <;> decide +kernel

/-- States and operands that meet the hypotheses of Obligations.FeedbackRunsEnd, clause by clause. -/
theorem witness_FeedbackRunsEnd :
    (wEnc.chip.quiet = true ∧ (wEnc.chip.enc 3).lastSlip = some 0 ∧ 0 < (wEnc.chip.enc 3).slips ∧ 0 + 1000000 ≤ wEnc.at_ 0) ∧ (wHallRun.chip.quiet =
    true ∧ (wHallRun.chip.hall 3).validAt = some 0 ∧ 0 < (wHallRun.chip.hall 3).bad ∧ 0 + 10000000 ≤ wHallRun.at_ 0) ∧ (wEnc.chip.quiet = true ∧
    (wEnc.chip.enc 3).last = some 0 ∧ wEnc.chip.chanOn 3 = true ∧ 0 + wEnc.chip.fld (Fld.FEEDBACK_ENC_SPD_CFG_ZERO_TIME 3) * 1000000 ≤ wEnc.at_ 0) :=
  by refine ⟨?_, ?_, ?_⟩ <;> decide +kernel

/-- States and operands that meet the hypotheses of Obligations.IndexSpeedAndHallEdges, clause by clause. -/
theorem witness_IndexSpeedAndHallEdges :
    (wEnc.chip.quiet = true ∧ wEnc.chip.chanOn 3 = true ∧ wEnc.chip.indexOn 3 = true ∧ wEnc.chip.flag (Fld.FEEDBACK_ENC_STATUS_REF 3) = false) ∧
    wEnc.chip.quiet = true ∧ (wHallOn.chip.quiet = true ∧ 0 ≤ wHallOn.chip.fld (Fld.FEEDBACK_HALL_CFG_FILT 3)) ∧ (wHallOn.chip.quiet = true ∧
    wHallOn.chip.fld (Fld.FEEDBACK_HALL_CFG_FILT 3) + 1 ≤ 64) ∧ (wHallOn.chip.quiet = true ∧ wHallOn.chip.fld (Fld.FEEDBACK_HALL_CFG_FILT 3) + 1 ≤ 64)
    ∧ wHallOn.chip.quiet = true ∧ wHallOn.chip.fld (Fld.FEEDBACK_HALL_CFG_FILT 4) + 1 ≤ 64 :=
  by refine ⟨?_, ?_, ?_, ?_, ?_, ?_⟩ <;> decide +kernel

/-- States and operands that meet the hypotheses of Obligations.MuleStepsAndInputs, clause by clause. -/
theorem witness_MuleStepsAndInputs :
    ((wStep 4).chip.quiet = true ∧ ((wStep 4).chip.mule 2).kind = 1 ∧ ((wStep 4).chip.mule 2).group = none ∧ ((wStep 4).chip.mule 2).next = [] ∧
    ((wStep 4).chip.mule 2).fresh = 0) ∧ ((wStep 2).chip.quiet = true ∧ ((wStep 2).chip.mule 2).kind = 1 ∧ ((wStep 2).chip.mule 2).group = none ∧
    ((wStep 2).chip.mule 2).next = [] ∧ ((wStep 2).chip.mule 2).fresh = 0) ∧ ((wSwitch 0).chip.quiet = true ∧ ((wSwitch 0).chip.mule 2).levels =
    [!false, true, true]) ∧ ((wSwitch 1).chip.quiet = true ∧ ((wSwitch 1).chip.mule 2).levels = [true, !false, true] ∧ false = (wSwitch 1).chip.flag
    (Fld.MULE_CFG_LIMN_POL 2) ∧ (wSwitch 1).chip.muleState 2 = 2 ∧ ((wSwitch 1).chip.mule 2).kind ≠ 3 ∧ ((wSwitch 1).chip.mule 2).home = 0 ∧ ((wSwitch
    1).chip.mule 2).leader = none ∧ (wSwitch 1).chip.muleDir 2 = -1) ∧ ((wSwitch 0).chip.quiet = true ∧ ((wSwitch 0).chip.mule 2).levels = [true,
    true, !false] ∧ false = (wSwitch 0).chip.flag (Fld.MULE_CFG_LIMP_POL 2) ∧ (wSwitch 0).chip.muleState 2 = 2 ∧ ((wSwitch 0).chip.mule 2).kind ≠ 3 ∧
    ((wSwitch 0).chip.mule 2).home = 0 ∧ ((wSwitch 0).chip.mule 2).leader = none ∧ (wSwitch 0).chip.muleDir 2 = 1) ∧ wHold.chip.quiet = true ∧
    wHold.chip.muleState 2 = 1 ∧ (wHold.chip.mule 2).lastStep + wHold.chip.fld (Fld.MULE_CURRENT_HOLD_DELAY 2) * 1000000 ≤ wHold.at_ 0 :=
  by refine ⟨?_, ?_, ?_, ?_, ?_, ?_⟩ <;> decide +kernel

/-- States and operands that meet the hypotheses of Obligations.CoilBusExchanges. -/
theorem witness_CoilBusExchanges :
    wHold.chip.quiet = true :=
  by decide +kernel

/-- States and operands that meet the hypotheses of Obligations.AxisCommandsAct, clause by clause. -/
theorem witness_AxisCommandsAct :
    ((wMuleCmd (cmd 48 [(16, 1), (17, 18), (24, 5)])).chip.quiet = true ∧ (wMuleCmd (cmd 48 [(16, 1), (17, 18), (24, 5)])).chip.muleState 2 = 1 ∧
    ((wMuleCmd (cmd 48 [(16, 1), (17, 18), (24, 5)])).chip.mule 2).kind = 0 ∧ ((wMuleCmd (cmd 48 [(16, 1), (17, 18), (24, 5)])).chip.mule 2).leader =
    none ∧ (wMuleCmd (cmd 48 [(16, 1), (17, 18), (24, 5)])).chip.groupOf 2 = none ∧ (wMuleCmd (cmd 48 [(16, 1), (17, 18), (24, 5)])).chip.flag
    (Fld.MULE_STATUS_HOMED 2) = false ∧ (wMuleCmd (cmd 48 [(16, 1), (17, 18), (24, 5)])).chip.flag (Fld.MULE_CFG_UNIDIR 2) = false ∧ (wMuleCmd (cmd 48
    [(16, 1), (17, 18), (24, 5)])).offers 0 7 48 (cmd 48 [(16, 1), (17, 18), (24, 5)]) ∧ (cmd 48 [(16, 1), (17, 18), (24, 5)]).param 16 1 = 1 ∧ (cmd
    48 [(16, 1), (17, 18), (24, 5)]).param 17 1 = 16 + 2) ∧ ((wMuleCmd (cmd 48 [(16, 1), (17, 18), (24, 0)])).chip.quiet = true ∧ (wMuleCmd (cmd 48
    [(16, 1), (17, 18), (24, 0)])).chip.muleState 2 = 1 ∧ ((wMuleCmd (cmd 48 [(16, 1), (17, 18), (24, 0)])).chip.mule 2).kind = 0 ∧ ((wMuleCmd (cmd 48
    [(16, 1), (17, 18), (24, 0)])).chip.mule 2).leader = none ∧ (wMuleCmd (cmd 48 [(16, 1), (17, 18), (24, 0)])).chip.groupOf 2 = none ∧ (wMuleCmd
    (cmd 48 [(16, 1), (17, 18), (24, 0)])).chip.flag (Fld.MULE_STATUS_HOMED 2) = false ∧ (wMuleCmd (cmd 48 [(16, 1), (17, 18), (24, 0)])).chip.flag
    (Fld.MULE_CFG_UNIDIR 2) = false ∧ (wMuleCmd (cmd 48 [(16, 1), (17, 18), (24, 0)])).offers 0 7 48 (cmd 48 [(16, 1), (17, 18), (24, 0)]) ∧ (cmd 48
    [(16, 1), (17, 18), (24, 0)]).param 16 1 = 1 ∧ (cmd 48 [(16, 1), (17, 18), (24, 0)]).param 17 1 = 16 + 2) ∧ ((wMuleCmd (cmd 49 [(16, 18), (20,
    4294967295)]) [(Fld.MULE_VMAX_VALUE 2, 1)]).chip.quiet = true ∧ (wMuleCmd (cmd 49 [(16, 18), (20, 4294967295)]) [(Fld.MULE_VMAX_VALUE 2,
    1)]).chip.muleState 2 = 1 ∧ ((wMuleCmd (cmd 49 [(16, 18), (20, 4294967295)]) [(Fld.MULE_VMAX_VALUE 2, 1)]).chip.mule 2).kind = 0 ∧ ((wMuleCmd (cmd
    49 [(16, 18), (20, 4294967295)]) [(Fld.MULE_VMAX_VALUE 2, 1)]).chip.mule 2).leader = none ∧ (wMuleCmd (cmd 49 [(16, 18), (20, 4294967295)])
    [(Fld.MULE_VMAX_VALUE 2, 1)]).chip.groupOf 2 = none ∧ (wMuleCmd (cmd 49 [(16, 18), (20, 4294967295)]) [(Fld.MULE_VMAX_VALUE 2, 1)]).chip.flag
    (Fld.MULE_STATUS_HOMED 2) = false ∧ (wMuleCmd (cmd 49 [(16, 18), (20, 4294967295)]) [(Fld.MULE_VMAX_VALUE 2, 1)]).chip.flag (Fld.MULE_CFG_UNIDIR
    2) = false ∧ (wMuleCmd (cmd 49 [(16, 18), (20, 4294967295)]) [(Fld.MULE_VMAX_VALUE 2, 1)]).offers 0 7 49 (cmd 49 [(16, 18), (20, 4294967295)]) ∧
    (cmd 49 [(16, 18), (20, 4294967295)]).param 16 1 = 16 + 2 ∧ (cmd 49 [(16, 18), (20, 4294967295)]).param 17 1 = 0 ∧ signed 32 ((cmd 49 [(16, 18),
    (20, 4294967295)]).param 20 4) ≠ 0 ∧ (signed 32 ((cmd 49 [(16, 18), (20, 4294967295)]).param 20 4)).natAbs ≤ (wMuleCmd (cmd 49 [(16, 18), (20,
    4294967295)]) [(Fld.MULE_VMAX_VALUE 2, 1)]).chip.fld (Fld.MULE_VMAX_VALUE 2) ∧ (wMuleCmd (cmd 49 [(16, 18), (20, 4294967295)])
    [(Fld.MULE_VMAX_VALUE 2, 1)]).chip.limitActive 2 (signed 32 ((cmd 49 [(16, 18), (20, 4294967295)]).param 20 4)) = false) ∧ ((wMuleCmd (cmd 50
    [(16, 18)])).chip.quiet = true ∧ (wMuleCmd (cmd 50 [(16, 18)])).chip.muleState 2 = 1 ∧ ((wMuleCmd (cmd 50 [(16, 18)])).chip.mule 2).kind = 0 ∧
    ((wMuleCmd (cmd 50 [(16, 18)])).chip.mule 2).leader = none ∧ (wMuleCmd (cmd 50 [(16, 18)])).chip.groupOf 2 = none ∧ (wMuleCmd (cmd 50 [(16,
    18)])).chip.flag (Fld.MULE_STATUS_HOMED 2) = false ∧ (wMuleCmd (cmd 50 [(16, 18)])).chip.flag (Fld.MULE_CFG_UNIDIR 2) = false ∧ (wMuleCmd (cmd 50
    [(16, 18)])).offers 0 7 50 (cmd 50 [(16, 18)]) ∧ (cmd 50 [(16, 18)]).param 16 1 = 16 + 2 ∧ (wMuleCmd (cmd 50 [(16, 18)])).chip.limitActive 2 (if
    (wMuleCmd (cmd 50 [(16, 18)])).chip.flag (Fld.MULE_HOME_HOME_DIR 2) = true then -1 else 1) = false) ∧ ((wMuleCmd (cmd 49 [(16, 12)])).chip.quiet =
    true ∧ (wMuleCmd (cmd 49 [(16, 12)])).offers 0 7 49 (cmd 49 [(16, 12)]) ∧ (11 < (cmd 49 [(16, 12)]).param 16 1 ∧ (cmd 49 [(16, 12)]).param 16 1 <
    16 ∨ 31 < (cmd 49 [(16, 12)]).param 16 1)) ∧ ((wMuleCmd (cmd 50 [(16, 15)])).chip.quiet = true ∧ (wMuleCmd (cmd 50 [(16, 15)])).offers 0 7 50 (cmd
    50 [(16, 15)]) ∧ ((cmd 50 [(16, 15)]).param 16 1 < 16 ∨ 31 < (cmd 50 [(16, 15)]).param 16 1)) ∧ ((wMuleCmd (cmd 48 [(16, 1), (17,
    15)])).chip.quiet = true ∧ (wMuleCmd (cmd 48 [(16, 1), (17, 15)])).offers 0 7 48 (cmd 48 [(16, 1), (17, 15)]) ∧ (cmd 48 [(16, 1), (17, 15)]).param
    16 1 = 1 ∧ ((cmd 48 [(16, 1), (17, 15)]).param 17 1 < 16 ∨ 31 < (cmd 48 [(16, 1), (17, 15)]).param 17 1)) ∧ wDriveJog.chip.quiet = true ∧
    wDriveJog.offers 0 7 49 (cmd 49 [(16, 3), (17, 8), (20, 1065353216)]) ∧ (cmd 49 [(16, 3), (17, 8), (20, 1065353216)]).param 16 1 = 3 ∧ (cmd 49
    [(16, 3), (17, 8), (20, 1065353216)]).param 17 1 < 96 ∧ wDriveJog.chip.fld (Fld.WINDLASS_SLOT_CFG_LAW ((cmd 49 [(16, 3), (17, 8), (20,
    1065353216)]).param 17 1)) = 1 ∧ wDriveJog.chip.focSlot 3 = some 9 ∧ wDriveJog.chip.fld (Fld.WINDLASS_SLOT_IO_REF_SRC 9) = 144 + (cmd 49 [(16, 3),
    (17, 8), (20, 1065353216)]).param 17 1 ∧ wDriveJog.chip.flag (Fld.DRIVE_CFG_PAGE_CRIT 3) = false ∧ wDriveJog.chip.wl.owned = false ∧
    wDriveJog.chip.driveState 3 = Ds.disabled ∧ wDriveJog.chip.startRefused 3 = none ∧ (wDriveJog.chip.elecTarget 3 ((cmd 49 [(16, 3), (17, 8), (20,
    1065353216)]).param 17 1) (BitVec.ofNat 32 ((cmd 49 [(16, 3), (17, 8), (20, 1065353216)]).param 20 4))).1 ≠ 0 :=
  by unfold State.offers; refine ⟨?_, ?_, ?_, ?_, ?_, ?_, ?_, ?_⟩ <;> decide +kernel

/-- States and operands that meet the hypotheses of Obligations.RetransmissionAndAcks, clause by clause. -/
theorem witness_RetransmissionAndAcks :
    (wFlight.chip.quiet = true ∧ wFlight.chip.talks 9 = true ∧ (wFlight.chip.tile 9).flight = [oldFrame, newFrame] ∧ oldFrame.at_ + 6000 ≤
    wFlight.at_ 0) ∧ (wFlight.chip.quiet = true ∧ wFlight.chip.talks 9 = true ∧ (wFlight.chip.tile 9).waiting = [] ∧ ∃ f ∈ (wFlight.chip.tile
    9).flight, f.seq = (65535#16).toNat) ∧ ((wKill 4).chip.quiet = true ∧ (wKill 4).chip.talks 9 = true) ∧ ((wKill 0).chip.quiet = true ∧ (wKill
    0).chip.talks 9 = true) :=
  by refine ⟨?_, ?_, ?_, ?_⟩ <;> decide +kernel

/-- States and operands that meet the hypotheses of Obligations.EpochsAndEchoes, clause by clause. -/
theorem witness_EpochsAndEchoes :
    (wMark.chip.quiet = true ∧ wMark.chip.talks 9 = true) ∧ (wMark.chip.quiet = true ∧ wMark.chip.talks 9 = true ∧ wMark.chip.link 9 ≠ Lk.align ∧ ∃ m
    ∈ (wMark.chip.tile 9).marks, m.1 = (4#16).toNat) ∧ (wMark.chip.quiet = true ∧ wMark.chip.talks 9 = true ∧ ∀ m ∈ (wMark.chip.tile 9).marks, m.1 ≠
    (5#16).toNat) :=
  by refine ⟨?_, ?_, ?_⟩ <;> decide +kernel

/-- States and operands that meet the hypotheses of Obligations.LinksFailAndRetrain, clause by clause. -/
theorem witness_LinksFailAndRetrain :
    wFailing.chip.quiet = true ∧ wAlive.chip.quiet = true ∧ (wFailed.chip.quiet = true ∧ wFailed.chip.link 9 = Lk.failed ∧ (wFailed.chip.tile
    9).failedAt = some 9999000000 ∧ 9999000000 + 1000000 ≤ wFailed.at_ 0) ∧ wTrain.chip.quiet = true ∧ ∃ a ∈ (wTrain.chip.tile 9).trainAt, a +
    100000000 ≤ wTrain.at_ 0 :=
  by refine ⟨?_, ?_, ?_, ?_⟩ <;> decide +kernel

/-- States and operands that meet the hypotheses of Obligations.UplinkFrames, clause by clause. -/
theorem witness_UplinkFrames :
    (wAlive.chip.quiet = true ∧ wAlive.chip.talks 9 = true ∧ wAlive.chip.flag (Fld.TILE_LINK_STATUS_UP_LOCK 9) = false) ∧ (wLocked.chip.quiet = true ∧
    wLocked.chip.talks 9 = true ∧ wLocked.chip.flag (Fld.TILE_LINK_STATUS_UP_LOCK 9) = true ∧ frameGood (upHdr 0) [] = false) ∧ (wLocked.chip.quiet =
    true ∧ wLocked.chip.talks 9 = true ∧ wLocked.chip.flag (Fld.TILE_LINK_STATUS_UP_LOCK 9) = true ∧ frameGood (upHdr 0) (upBody 0) = true ∧ leNat
    (List.take 1 (List.drop 5 (upHdr 0))) % 2 = 1 ∧ (leNat (List.take 2 (upHdr 0)) + 65536 - (wLocked.chip.tile 9).rxNext) % 65536 = 0) ∧
    (wLocked.chip.quiet = true ∧ wLocked.chip.talks 9 = true ∧ wLocked.chip.flag (Fld.TILE_LINK_STATUS_UP_LOCK 9) = true ∧ frameGood (upHdr 65535)
    (upBody 65535) = true ∧ leNat (List.take 1 (List.drop 5 (upHdr 65535))) % 2 = 1 ∧ (leNat (List.take 2 (upHdr 65535)) + 65536 - (wLocked.chip.tile
    9).rxNext) % 65536 ≠ 0) ∧ (wAlive.chip.quiet = true ∧ wAlive.chip.talks 9 = true ∧ wAlive.chip.flag (Fld.TILE_LINK_STATUS_UP_LOCK 9) = false ∧
    (wAlive.chip.tile 9).rx.run = 0 ∧ goodBlocks.length = 64 ∧ ∀ b ∈ goodBlocks, b.sync = 1#2 ∨ b.sync = 2#2) ∧ wLocked.chip.quiet = true ∧
    wLocked.chip.talks 9 = true ∧ wLocked.chip.flag (Fld.TILE_LINK_STATUS_UP_LOCK 9) = true ∧ (wLocked.chip.tile 9).lockLost = none ∧ badBlocks.length
    = 16 ∧ ∀ b ∈ badBlocks, b.sync ≠ 1#2 ∧ b.sync ≠ 2#2 :=
  by refine ⟨?_, ?_, ?_, ?_, ?_, ?_⟩ <;> decide +kernel

/-- States and operands that meet the hypotheses of Obligations.HeadReports, clause by clause. -/
theorem witness_HeadReports :
    (wAlive.chip.quiet = true ∧ wAlive.chip.talks 9 = true ∧ leNat (List.take 1 (List.drop 4 ([132#8, 40#8, 0#8, 0#8, 0#8, 0#8, 61#8] ++
    List.replicate 33 0#8))) = 0 ∧ leNat (List.take 1 (List.drop 5 ([132#8, 40#8, 0#8, 0#8, 0#8, 0#8, 61#8] ++ List.replicate 33 0#8))) = 0 ∧
    wAlive.chip.link 9 ≠ Lk.ident ∧ (wAlive.chip.tile 9).loads = []) ∧ (wTraining.chip.quiet = true ∧ wTraining.chip.talks 9 = true ∧ leNat (List.take
    1 (List.drop 4 (idBody true))) = 1 ∧ wTraining.chip.link 9 = Lk.train ∧ wTraining.chip.flag (Fld.TILE_LINK_STATUS_UP_LOCK 9) = true) ∧
    (wAlive.chip.quiet = true ∧ wAlive.chip.talks 9 = true ∧ leNat (List.take 1 (List.drop 4 (idBody false))) = 1 ∧ Lk.ident < wAlive.chip.link 9 ∧
    identityOk (idBody false) = false) ∧ ((wIdent false).chip.quiet = true ∧ (wIdent false).chip.talks 9 = true ∧ (wIdent false).chip.link 9 =
    Lk.ident ∧ ((wIdent false).chip.tile 9).ident = some (idBody false) ∧ identityOk (idBody false) = false) ∧ ((wIdent true).chip.quiet = true ∧
    (wIdent true).chip.talks 9 = true ∧ (wIdent true).chip.link 9 = Lk.ident ∧ ((wIdent true).chip.tile 9).ident = some (idBody true) ∧ identityOk
    (idBody true) = true ∧ ((wIdent true).chip.tile 9).echoes.length < 8) ∧ (wAlive.chip.quiet = true ∧ wAlive.chip.talks 9 = true ∧ [32767#16,
    32768#16, 5#16, 6#16].length = 4 ∧ ∃ v ∈ [32767#16, 32768#16, 5#16, 6#16], wAlive.chip.fldS (Fld.TILE_TEMP_WARN_LIMIT 9) < v.toInt) ∧
    (wAlive.chip.quiet = true ∧ wAlive.chip.talks 9 = true ∧ [0#16, 32768#16, 0#16, 65535#16].length = 4 ∧ ∀ v ∈ [0#16, 32768#16, 0#16, 65535#16],
    v.toInt ≤ wAlive.chip.fldS (Fld.TILE_TEMP_WARN_LIMIT 9)) ∧ wLoad.chip.quiet = true ∧ wLoad.chip.talks 9 = true ∧ (wLoad.chip.tile 9).loads =
    [aLoad] ∧ aLoad.sentAt = some 9999000000 ∧ 9999000000 + 1000000 ≤ wLoad.at_ 0 ∧ aLoad.fails = 0 :=
  by
    refine ⟨?_, ?_, ?_, ?_, ?_, ?_, ?_, ?_⟩
    all_goals try simp only [List.forall_mem_cons, List.exists_mem_cons_iff, List.not_mem_nil, false_imp_iff, implies_true]
    all_goals decide +kernel

/-- States and operands that meet the hypotheses of Obligations.ClocksLostAndRestored, clause by clause. -/
theorem witness_ClocksLostAndRestored :
    ((wDll 0 1).chip.quiet = true ∧ (wDll 0 1).chip.flag (Fld.TILE_LINK_STATUS_DLL_BYPASS (8 * 1)) = false ∧ (∀ k < 64, (wDll 0 1).chip.link k ≠
    Lk.align) ∧ ((edges 65539 0 0).reference + 2 < (edges 65539 0 0).delayed ∨ (edges 65539 0 0).delayed + 2 < (edges 65539 0 0).reference ∨ 1024 ≤
    (edges 65539 0 0).offCycles)) ∧ ((wDll 0 1).chip.quiet = true ∧ (wDll 0 1).chip.flag (Fld.TILE_LINK_STATUS_DLL_BYPASS (8 * 1)) = false ∧ (∀ k <
    64, (wDll 0 1).chip.link k ≠ Lk.align) ∧ ((edges 65533 0 0).reference + 2 < (edges 65533 0 0).delayed ∨ (edges 65533 0 0).delayed + 2 < (edges
    65533 0 0).reference ∨ 1024 ≤ (edges 65533 0 0).offCycles)) ∧ ((wDll 0 1).chip.quiet = true ∧ (wDll 0 1).chip.flag
    (Fld.TILE_LINK_STATUS_DLL_BYPASS (8 * 1)) = false ∧ (∀ k < 64, (wDll 0 1).chip.link k ≠ Lk.align) ∧ ((edges 65536 0 1024).reference + 2 < (edges
    65536 0 1024).delayed ∨ (edges 65536 0 1024).delayed + 2 < (edges 65536 0 1024).reference ∨ 1024 ≤ (edges 65536 0 1024).offCycles)) ∧ ((wDll 0
    1).chip.quiet = true ∧ (edges 65538 4 1023).delayed ≤ (edges 65538 4 1023).reference + 2 ∧ (edges 65538 4 1023).reference ≤ (edges 65538 4
    1023).delayed + 2 ∧ (edges 65538 4 1023).offCycles < 1024) ∧ ((wDll 1 0).chip.quiet = true ∧ (wDll 1 0).chip.flag (Fld.TILE_LINK_STATUS_DLL_BYPASS
    (8 * 1)) = true ∧ (wDll 1 0).chip.flag (Fld.TILE_LINK_STATUS_DLL_LOCK (8 * 1)) = false ∧ (wDll 1 0).chip.eng.refLost = false ∧ (∀ k < 64, (wDll 1
    0).chip.link k ≠ Lk.align) ∧ (List.replicate 16 (edges 65534 (-1) 0)).length = 16 ∧ ∀ w ∈ List.replicate 16 (edges 65534 (-1) 0), w.delayed ≤
    w.reference + 2 ∧ w.reference ≤ w.delayed + 2 ∧ w.offset.natAbs ≤ 1) ∧ ((wDll 1 0).chip.quiet = true ∧ (wDll 1 0).chip.flag
    (Fld.TILE_LINK_STATUS_DLL_BYPASS (8 * 1)) = true ∧ (wDll 1 0).chip.flag (Fld.TILE_LINK_STATUS_DLL_LOCK (8 * 1)) = false ∧ (wDll 1
    0).chip.eng.refLost = false ∧ (∀ k < 64, (wDll 1 0).chip.link k ≠ Lk.align) ∧ (List.replicate 14 (edges 0 0 0)).length < 15 ∧ (edges 65534 1
    0).delayed ≤ (edges 65534 1 0).reference + 2 ∧ (edges 65534 1 0).reference ≤ (edges 65534 1 0).delayed + 2 ∧ (edges 65534 1 0).offset.natAbs ≤ 1)
    ∧ ((wDll 1 0).chip.quiet = true ∧ (wDll 1 0).chip.flag (Fld.TILE_LINK_STATUS_DLL_BYPASS (8 * 1)) = true ∧ (wDll 1 0).chip.flag
    (Fld.TILE_LINK_STATUS_DLL_LOCK (8 * 1)) = false ∧ (wDll 1 0).chip.eng.refLost = false ∧ (∀ k < 64, (wDll 1 0).chip.link k ≠ Lk.align) ∧ ((edges
    65536 2 0).reference + 2 < (edges 65536 2 0).delayed ∨ (edges 65536 2 0).delayed + 2 < (edges 65536 2 0).reference ∨ 1 < (edges 65536 2
    0).offset.natAbs)) ∧ ((wDll 1 0).chip.quiet = true ∧ (wDll 1 0).chip.flag (Fld.TILE_LINK_STATUS_DLL_BYPASS (8 * 1)) = true ∧ (wDll 1 0).chip.flag
    (Fld.TILE_LINK_STATUS_DLL_LOCK (8 * 1)) = false ∧ (wDll 1 0).chip.eng.refLost = false ∧ ∀ k < 64, (wDll 1 0).chip.link k ≠ Lk.align) ∧ ((wDll 1
    0).chip.quiet = true ∧ (wDll 1 0).chip.eng.refLost = false ∧ (wDll 1 0).chip.state = St.idle ∧ ∀ k < 64, (wDll 1 0).chip.link k ≠ Lk.align) ∧
    (wDll 1 0).chip.quiet = true :=
  by refine ⟨?_, ?_, ?_, ?_, ?_, ?_, ?_, ?_, ?_, ?_⟩ <;> decide +kernel

/-- States and operands that meet the hypotheses of Obligations.MirrorsStart, clause by clause. -/
theorem witness_MirrorsStart :
    ((wMirror none).chip.quiet = true ∧ 2000 ≤ ((wMirror none).chip.tile 9).mirrorNom ∧ ((wMirror none).chip.tile 9).mirrorNom ≤ 8000 ∧ (wMirror
    none).chip.mirrorWaits 9 = true ∧ ((wMirror none).chip.tile 9).retryAt = none ∧ (wMirror none).chip.mirrorSlot 9 = some 0 ∧ 0 ≤ (wMirror
    none).at_ 0) ∧ ((wMirror (some 10000000000)).chip.quiet = true ∧ 2000 ≤ ((wMirror (some 10000000000)).chip.tile 9).mirrorNom ∧ ((wMirror (some
    10000000000)).chip.tile 9).mirrorNom ≤ 8000 ∧ (wMirror (some 10000000000)).chip.mirrorWaits 9 = true ∧ ((wMirror (some 10000000000)).chip.tile
    9).retryAt ≠ none ∧ (wMirror (some 10000000000)).chip.mirrorSlot 9 = some 10000000000 ∧ 10000000000 ≤ (wMirror (some 10000000000)).at_ 0) ∧
    ((wDriven 28672).chip.quiet = true ∧ 2000 ≤ ((wDriven 28672).chip.tile 9).mirrorNom ∧ ((wDriven 28672).chip.tile 9).mirrorNom ≤ 8000 ∧ ((wDriven
    28672).chip.tile 9).startAt = some 7600000000 ∧ ((wDriven 28672).chip.tile 9).driven = true ∧ ((wDriven 28672).chip.tile 9).stamped = false ∧
    ((wDriven 28672).chip.tile 9).ampl < 32768 ∧ 7600000000 + ((wDriven 28672).chip.tile 9).ampl / 4096 * 25000000 ≤ (wDriven 28672).at_ 0) ∧
    ((wDriven 28672).chip.quiet = true ∧ 2000 ≤ ((wDriven 28672).chip.tile 9).mirrorNom ∧ ((wDriven 28672).chip.tile 9).mirrorNom ≤ 8000 ∧ ((wDriven
    28672).chip.tile 9).startAt = some 7600000000 ∧ ((wDriven 28672).chip.tile 9).driven = true ∧ ((wDriven 28672).chip.tile 9).locked = false ∧
    7600000000 + 2400000000 ≤ (wDriven 28672).at_ 0) ∧ ((wMirror none).chip.quiet = true ∧ 2000 ≤ ((wMirror none).chip.tile 9).mirrorNom ∧ ((wMirror
    none).chip.tile 9).mirrorNom ≤ 8000 ∧ ((wMirror none).chip.tile 9).startAt = none) :=
  by refine ⟨?_, ?_, ?_, ?_, ?_⟩ <;> decide +kernel

/-- States and operands that meet the hypotheses of Obligations.SweepsStampedAndPlanned, clause by clause. -/
theorem witness_SweepsStampedAndPlanned :
    (wMissed.chip.quiet = true ∧ (wMissed.chip.tile 9).driven = true ∧ (∀ p ∈ (wMissed.chip.tile 9).plans, p.sweep ≠ goodStamp.sweep) ∧
    goodStamp.flags < 2) ∧ (wMissed.chip.quiet = true ∧ (wMissed.chip.tile 9).driven = true ∧ (∀ p ∈ (wMissed.chip.tile 9).plans, p.sweep ≠
    missedStamp.sweep) ∧ (missedStamp.flags = 4 ∨ missedStamp.flags = 8)) ∧ (wSweep.chip.quiet = true ∧ wSweep.chip.planning 9 = true ∧
    (wSweep.chip.refreshSched 9).planning 9 = true ∧ (wSweep.chip.tile 9).cal = none ∧ (∀ b ∈ wSweep.chip.safety.blanked, b.1 ≠ 9) ∧
    wSweep.chip.sweepAt (wSweep.at_ 0) 9 = some 100 ∧ (∀ p ∈ (wSweep.chip.tile 9).plans, sweepDist p.sweep (pattern 32 (↑100 + 3)) < 0) ∧
    (wSweep.chip.tile 9).dirOf (pattern 32 (↑100 + 3)) = some 0 ∧ (wSweep.chip.tile 9).midOf (pattern 32 (↑100 + 3)) = some (1280012800000 + 38400000
    - 12800000 + 12800000) ∧ wSweep.chip.leadOf 9 (pattern 32 (↑100 + 3)) = some (1280012800000 + 38400000 - wSweep.chip.spanOf 9 0)) ∧
    (wMissed.chip.quiet = true ∧ wMissed.chip.planning 9 = false) ∧ (wRefine.chip.quiet = true ∧ wRefine.chip.planning 9 = true ∧ wRefine.chip.sweepAt
    (wRefine.at_ 0) 9 = some 100 ∧ List.find? (fun q => q.sweep == pattern 32 (↑100 + 1) && !q.refined) (wRefine.chip.tile 9).plans = some
    { sweep := 101, dir := 0, bank := 0, cross := 0, e0 := 0 }) ∧ wSweep.chip.quiet = true ∧ (wSweep.chip.tile 9).driven = true ∧ (wSweep.chip.tile
    9).stamped = true :=
  by refine ⟨?_, ?_, ?_, ?_, ?_, ?_⟩ <;> decide +kernel

/-- States and operands that meet the hypotheses of Obligations.EmittersCalibrated, clause by clause. -/
theorem witness_EmittersCalibrated :
    (wMissed.chip.quiet = true ∧ (wMissed.chip.tile 9).cal = none) ∧ ((wCalib 0).chip.quiet = true ∧ (wCalib 0).offers 0 7 65 (cmd 65 [(16, 512)]) ∧
    (wCalib 0).chip.chain = none ∧ (∀ k ∈ List.filter (fun k => bit ((cmd 65 [(16, 512)]).param 16 8) k) (List.range 64), (wCalib 0).chip.tileUp k =
    true ∧ (wCalib 0).chip.tileOn k = true) ∧ ((wCalib 0).chip.flag Fld.SAFETY_STATUS_ILK_A = false ∨ (wCalib 0).chip.flag Fld.SAFETY_STATUS_ILK_B =
    false)) ∧ (wCalOk.chip.quiet = true ∧ wCalOk.offers 0 7 65 (cmd 65 [(16, 512)]) ∧ wCalOk.chip.chain = none ∧ (∀ k ∈ List.filter (fun k => bit
    ((cmd 65 [(16, 512)]).param 16 8) k) (List.range 64), wCalOk.chip.tileUp k = true ∧ wCalOk.chip.tileOn k = true) ∧ wCalOk.chip.calRefusal
    (List.filter (fun k => bit ((cmd 65 [(16, 512)]).param 16 8) k) (List.range 64)) = 0) ∧ ((wCalEnd 0).chip.serving = true ∧ (wCalEnd 0).chip.fast =
    true ∧ (wCalEnd 0).chip.eng.calJobs = [aJob 0] ∧ (aJob 0).prime = false ∧ (wCalEnd 0).chip.eng.calWait = [] ∧ (∀ k ∈ (aJob 0).tiles, (wCalEnd
    0).chip.calDone k = true) ∧ (aJob 0).fails = 0) ∧ (wCalEnd 70000).chip.serving = true ∧ (wCalEnd 70000).chip.fast = true ∧ (wCalEnd
    70000).chip.eng.calJobs = [aJob 70000] ∧ (aJob 70000).prime = false ∧ (wCalEnd 70000).chip.eng.calWait = [] ∧ (∀ k ∈ (aJob 70000).tiles, (wCalEnd
    70000).chip.calDone k = true) ∧ 0 < (aJob 70000).fails :=
  by unfold State.offers; refine ⟨?_, ?_, ?_, ?_, ?_⟩ <;> decide +kernel

/-- States and operands that meet the hypotheses of Obligations.LineScanActs, clause by clause. -/
theorem witness_LineScanActs :
    (wTrig.chip.quiet = true ∧ wTrig.chip.lscanOn = true ∧ wTrig.chip.seam.meas = [] ∧ wTrig.chip.seam.nextTrig = some 0 ∧ beltAtOrAfter
    wTrig.chip.beltPos 0 = true ∧ wTrig.chip.seam.outstanding = none) ∧ (wLine.chip.quiet = true ∧ wLine.chip.lscanOn = true ∧ wLine.chip.seam.meas =
    [] ∧ wLine.chip.seam.outstanding = some (9999000000, 1023, 0) ∧ 1023 < 1024 ∧ wLine.chip.seam.gone = false ∧ (∀ x ∈ [1022#16, 4#16], x.toNat <
    1023) ∧ [1022#16, 4#16].length = wLine.chip.seam.pixels ∧ wLine.chip.flag Fld.SEAM_LSCAN_STATUS_BYPASS = false ∧ wLine.chip.seam.pendLock = false
    ∧ (1026#16).toNat % 1024 = sumN (List.map (fun x => x.toNat) [1022#16, 4#16]) % 1024) ∧ (wLine.chip.quiet = true ∧ wLine.chip.lscanOn = true ∧
    wLine.chip.seam.meas = [] ∧ wLine.chip.seam.outstanding = some (9999000000, 1023, 0) ∧ 1023 < 1024 ∧ wLine.chip.seam.gone = false ∧ (∀ x ∈
    [1022#16, 4#16], x.toNat < 1023) ∧ [1022#16, 4#16].length = wLine.chip.seam.pixels ∧ wLine.chip.flag Fld.SEAM_LSCAN_STATUS_BYPASS = false ∧
    wLine.chip.seam.pendLock = false ∧ (3#16).toNat % 1024 ≠ sumN (List.map (fun x => x.toNat) [1022#16, 4#16]) % 1024) ∧ (wLine.chip.quiet = true ∧
    wLine.chip.lscanOn = true ∧ wLine.chip.seam.meas = [] ∧ wLine.chip.seam.outstanding = some (9999000000, 1023, 0) ∧ wLine.chip.seam.gone = false ∧
    9999000000 + 100000 ≤ wLine.at_ 0) ∧ (wLine.chip.quiet = true ∧ wLine.chip.lscanOn = true ∧ wLine.chip.seam.meas = [] ∧
    wLine.chip.seam.outstanding = some (9999000000, 1023, 0) ∧ wLine.chip.seam.gone = false ∧ 9999000000 + 1000000 ≤ wLine.at_ 0) ∧ (wLine.chip.quiet
    = true ∧ wLine.chip.lscanOn = true ∧ (wLine.chip.flag Fld.SEAM_LSCAN_STATUS_BYPASS = false ∨ wLine.chip.flag Fld.SEAM_LSCAN_STATUS_DLL_LOCK =
    true)) ∧ (wTrig.chip.quiet = true ∧ wTrig.chip.lscanOn = true ∧ wTrig.chip.seam.outstanding = none) ∧ (wLine.chip.quiet = true ∧
    wLine.chip.lscanOn = true ∧ wLine.chip.seam.outstanding ≠ none) ∧ wHeld.chip.quiet = true ∧ wHeld.chip.seam.held ≠ [] ∧ bit (wHeld.chip.classes
    wHeld.chip.seam.heldPart) 2 = true :=
  by
    refine ⟨?_, ?_, ?_, ?_, ?_, ?_, ?_, ?_, ?_⟩
    all_goals try simp only [List.forall_mem_cons, List.not_mem_nil, false_imp_iff, implies_true]
    all_goals decide +kernel

/-- States and operands that meet the hypotheses of Obligations.SlotOutputsBounded, clause by clause. -/
theorem witness_SlotOutputsBounded :
    (wSlot.chip.quiet = true ∧ wSlot.chip.state ≠ St.replay ∧ wSlot.chip.slotRuns 5 = true ∧ wSlot.chip.fld (Fld.WINDLASS_SLOT_CFG_LAW 5) ≠ 2 ∧
    wSlot.chip.slotDue (wSlot.at_ 0) 5 = some (0, 9999) ∧ wSlot.chip.slotTurn (wSlot.at_ 0) 5 = true ∧ F32.finite (wSlot.chip.slotReg 5 36) = true ∧
    F32.finite (wSlot.chip.slotReg 5 40) = true ∧ F32.le (wSlot.chip.slotReg 5 36) (wSlot.chip.slotReg 5 40) = true) ∧ (wSlot.chip.quiet = true ∧
    wSlot.chip.state ≠ St.replay ∧ (wSlot.chip.slotRuns 6 = false ∨ wSlot.chip.slotDue (wSlot.at_ 0) 6 = none ∨ wSlot.chip.slotTurn (wSlot.at_ 0) 6 =
    false)) ∧ wTurn.chip.quiet = true ∧ wTurn.chip.state ≠ St.replay ∧ (wTurn.chip.slotRuns 5 = false ∨ wTurn.chip.slotDue (wTurn.at_ 0) 5 = none ∨
    wTurn.chip.slotTurn (wTurn.at_ 0) 5 = false) :=
  by refine ⟨?_, ?_, ?_⟩ <;> decide +kernel

/-- States and operands that meet the hypotheses of Obligations.ConversionsAndEnergy, clause by clause. -/
theorem witness_ConversionsAndEnergy :
    (wSlot.chip.quiet = true ∧ wSlot.chip.wl.adc < 16 ∧ wSlot.chip.fld Fld.WINDLASS_FOLLOW_CFG_MODE ≠ 3) ∧ wSlot.chip.quiet = true ∧ ((wHvBin
    1086324736#32).chip.quiet = true ∧ ∀ k < 24, (wHvBin 1086324736#32).chip.flag (Fld.WINDLASS_HV_CFG_PAGE_CRIT k) = false) ∧ ((wHvBin
    1084227584#32).chip.quiet = true ∧ ∀ k < 24, (wHvBin 1084227584#32).chip.flag (Fld.WINDLASS_HV_CFG_PAGE_CRIT k) = false) ∧ (wOver.chip.quiet =
    true ∧ (wOver.chip.slotSt 95).lastSkip = some 0 ∧ 0 < (wOver.chip.slotSt 95).skips ∧ 0 + 1000000 ≤ wOver.at_ 0) ∧ wRc.chip.quiet = true ∧
    wRc.chip.flag (Fld.WINDLASS_RC_CFG_EN 3) = true ∧ wRc.chip.flag (Fld.WINDLASS_RC_CFG_LEARN 3) = true :=
  by refine ⟨?_, ?_, ?_, ?_, ?_, ?_⟩ <;> decide +kernel

/-- States and operands that meet the hypotheses of Obligations.MainsFollowAndInjection, clause by clause. -/
theorem witness_MainsFollowAndInjection :
    ((wZc 9992310000).chip.quiet = true ∧ (wZc 9992310000).chip.wl.zcAt = some 9992310000 ∧ 7690000 ≤ (wZc 9992310000).at_ 0 - 9992310000 ∧ (wZc
    9992310000).at_ 0 - 9992310000 ≤ 11110000) ∧ ((wZc 9988890000).chip.quiet = true ∧ (wZc 9988890000).chip.wl.zcAt = some 9988890000 ∧ 7690000 ≤
    (wZc 9988890000).at_ 0 - 9988890000 ∧ (wZc 9988890000).at_ 0 - 9988890000 ≤ 11110000) ∧ ((wZc 9988890000).chip.quiet = true ∧ (wZc
    9988890000).chip.wl.zcValid = some 9970000000 ∧ (wZc 9988890000).chip.flag Fld.WINDLASS_ZC_STATUS_PRESENT = true ∧ 9970000000 + 3 * (wZc
    9988890000).chip.fld Fld.WINDLASS_ZC_STATUS_HALF_PERIOD * 1000 ≤ (wZc 9988890000).at_ 0) ∧ (wFollow.chip.quiet = true ∧ (wFollow.chip.fld
    Fld.WINDLASS_FOLLOW_CFG_MODE = 1 ∨ wFollow.chip.fld Fld.WINDLASS_FOLLOW_CFG_MODE = 2) ∧ wFollow.chip.wl.owned = false ∧ F32.ofScaled (sumI
    (List.take (wFollow.chip.fld Fld.WINDLASS_FOLLOW_CFG_FWIN) (List.take 1000 ((List.foldl (FollowIn.sample (wFollow.chip.fld
    Fld.WINDLASS_FOLLOW_CFG_MODE)) (wFollow.chip.wl.follow, 0) (List.map (fun i => (i.a, i.b)) aTurn)).2 :: wFollow.chip.wl.follow.window)))) 0 = some
    1082130432#32 ∧ F32.ofScaled (↑(wFollow.chip.fld Fld.WINDLASS_FOLLOW_CFG_FWIN)) 0 = some 1065353216#32 ∧ F32.div 1082130432#32 1065353216#32 =
    some 1082130432#32 ∧ F32.mul (1082130432#32) (wFollow.chip.reg Reg.WINDLASS_FOLLOW_SCALE) = some 1082130432#32 ∧ F32.lt 1082130432#32 0#32 =
    false) ∧ (wFollow.chip.quiet = true ∧ wFollow.chip.wl.below = some 0 ∧ 0 + 100000000 ≤ wFollow.at_ 0) ∧ ((wInject none 96).chip.quiet = true ∧
    (wInject none 96).offers 0 7 52 (cmd 52 [(16, 96), (24, 16777216), (28, 1065353216)])) ∧ ((wInject none 5).chip.quiet = true ∧ (wInject none
    5).offers 0 7 52 (cmd 52 [(16, 5), (24, 16777216), (28, 1065353216)])) ∧ (wInject (some anInj) 5).chip.quiet = true ∧ (wInject (some anInj)
    5).offers 0 7 52 (cmd 52 [(16, 5), (24, 16777216), (28, 1065353216)]) :=
  by unfold State.offers; refine ⟨?_, ?_, ?_, ?_, ?_, ?_, ?_, ?_⟩ <;> decide +kernel

/-- States and operands that meet the hypotheses of Obligations.InterlockOpensAndCloses, clause by clause. -/
theorem witness_InterlockOpensAndCloses :
    ((wIlk St.primed).chip.quiet = true ∧ (wIlk St.primed).chip.flag (if true = true then Fld.SAFETY_STATUS_ILK_B else Fld.SAFETY_STATUS_ILK_A) =
    true) ∧ ((wIlk St.printing).chip.quiet = true ∧ (wIlk St.printing).chip.flag (if false = true then Fld.SAFETY_STATUS_ILK_B else
    Fld.SAFETY_STATUS_ILK_A) = true) ∧ ((wIlk St.awake).chip.quiet = true ∧ (wIlk St.awake).chip.flag (if false = true then Fld.SAFETY_STATUS_ILK_B
    else Fld.SAFETY_STATUS_ILK_A) = true) ∧ ((wIlk St.idle).chip.quiet = true) ∧ (wDiffer.chip.quiet = true) ∧ (wDiffer.chip.quiet = true ∧
    wDiffer.chip.safety.differSince = some 9900000000 ∧ 9900000000 + 100000000 ≤ wDiffer.at_ 0 ∧ wDiffer.chip.flag Fld.SAFETY_STATUS_ILK_DISC =
    false) :=
  by refine ⟨?_, ?_, ?_, ?_, ?_, ?_⟩ <;> decide +kernel

/-- States and operands that meet the hypotheses of Obligations.MainLostAndReturned, clause by clause. -/
theorem witness_MainLostAndReturned :
    ((wIlk St.primed).chip.quiet = true ∧ (wIlk St.primed).chip.safety.mainLost = false) ∧ (wIlk St.primed).chip.quiet = true ∧ (wLost.chip.quiet =
    true ∧ wLost.chip.safety.mainLost = true) ∧ (wLost.chip.quiet = true ∧ wLost.chip.safety.mainLost = true) ∧ (wHoldup.chip.calm = true ∧
    wHoldup.chip.serving = true ∧ wHoldup.chip.noService = true ∧ wHoldup.chip.pages = [] ∧ wHoldup.chip.flag Fld.POWER_STATUS_HOLDUP = true ∧
    wHoldup.chip.safety.mainLost = true ∧ wHoldup.chip.safety.lossAt + 600000000 ≤ wHoldup.at_ 0) ∧ wStopped.chip.quiet = true ∧
    wStopped.chip.stopFinished = true ∧ wStopped.merge.stopWritten = true ∧ wStopped.chip.eng.shed = false ∧ wStopped.chip.eng.resetPending = false :=
  by refine ⟨?_, ?_, ?_, ?_, ?_, ?_⟩ <;> decide +kernel

/-- States and operands that meet the hypotheses of Obligations.SuppliesAndTemperatures, clause by clause. -/
theorem witness_SuppliesAndTemperatures :
    ((wDischarge 1065353216).chip.quiet = true ∧ (wDischarge 1065353216).chip.safety.dischargeFrom = some 9900000000 ∧ 9900000000 + 100000000 ≤
    (wDischarge 1065353216).at_ 0) ∧ ((wDischarge 1073741824).chip.quiet = true ∧ (wDischarge 1073741824).chip.safety.dischargeFrom = some 9900000000
    ∧ 9900000000 + 100000000 ≤ (wDischarge 1073741824).at_ 0) ∧ (wVlow.chip.quiet = true) ∧ ((wIlk St.primed).chip.quiet = true) ∧ ((wIlk
    St.primed).chip.quiet = true ∧ (List.replicate 12 1670#16).length = 12 ∧ (∀ i < 12, (wIlk St.primed).chip.suspect i = false) ∧ (wIlk
    St.primed).chip.safety.history.length < 1000 ∧ ∀ i < 12, (((List.replicate 12 1670#16).getD i 0).toInt - ((List.replicate 12 1670#16).getD ((i +
    1) % 12) 0).toInt).natAbs ≤ 64) ∧ ((wIlk St.primed).chip.quiet = true ∧ (List.replicate 12 1888#16).length = 12 ∧ (∀ i < 12, (wIlk
    St.primed).chip.suspect i = false) ∧ (wIlk St.primed).chip.safety.history.length < 1000 ∧ ∀ i < 12, (((List.replicate 12 1888#16).getD i 0).toInt
    - ((List.replicate 12 1888#16).getD ((i + 1) % 12) 0).toInt).natAbs ≤ 64) ∧ ((wIlk St.primed).chip.quiet = true ∧ [400#16, 464, 401, 402, 400,
    400, 400, 400, 400, 400, 400, 400].length = 12 ∧ (∀ i < 12, (wIlk St.primed).chip.suspect i = false) ∧ (wIlk
    St.primed).chip.safety.history.length < 1000 ∧ ∀ i < 12, (([400#16, 464, 401, 402, 400, 400, 400, 400, 400, 400, 400, 400].getD i 0).toInt -
    ([400#16, 464, 401, 402, 400, 400, 400, 400, 400, 400, 400, 400].getD ((i + 1) % 12) 0).toInt).natAbs ≤ 64) :=
  by refine ⟨?_, ?_, ?_, ?_, ?_, ?_, ?_⟩ <;> decide +kernel

/-- States and operands that meet the hypotheses of Obligations.StartUpCoresAndMemories, clause by clause. -/
theorem witness_StartUpCoresAndMemories :
    (wStartUp.chip.fast = true ∧ wStartUp.chip.serving = true ∧ wStartUp.chip.noService = true ∧ wStartUp.chip.safety.blanking = none ∧
    wStartUp.chip.eng.starting = true ∧ wStartUp.chip.eng.rebuilding = false ∧ wStartUp.chip.eng.m0 ≠ none ∧ wStartUp.chip.state = St.awake ∧
    wStartUp.chip.noCommit = true ∧ wStartUp.chip.pages = [] ∧ wStartUp.chip.eng.calJobs = [] ∧ wStartUp.chip.eng.prime = none ∧
    wStartUp.chip.eng.sleepFor = none ∧ ∀ k < 64, wStartUp.chip.tileOn k = true → (wStartUp.chip.tile k).missing = true ∨ (wStartUp.chip.tile
    k).locked = true) ∧ (wRebuild.chip.fast = true ∧ wRebuild.chip.serving = true ∧ wRebuild.chip.noService = true ∧ wRebuild.chip.eng.rebuilding =
    true ∧ wRebuild.chip.noCommit = true ∧ wRebuild.chip.eng.calJobs = [] ∧ wRebuild.chip.eng.prime = none ∧ wRebuild.chip.eng.sleepFor = none ∧
    wRebuild.chip.pages = []) ∧ (wLost.chip.quiet = true ∧ wLost.chip.eng.standby = true ∧ wLost.chip.eng.activePair < 2) ∧ (wNoStandby.chip.quiet =
    true ∧ wNoStandby.chip.eng.standby = false) ∧ (wNoStandby.chip.quiet = true ∧ wNoStandby.chip.eng.testing = false) ∧ (wTesting.chip.quiet = true ∧
    wTesting.chip.eng.testing = true) ∧ wNoStandby.chip.quiet = true :=
  by refine ⟨?_, ?_, ?_, ?_, ?_, ?_, ?_⟩ <;> decide +kernel

/-- States and operands that meet the hypotheses of Obligations.StateCommandsAct, clause by clause. -/
theorem witness_StateCommandsAct :
    (inState St.safeStop 1).chip.quiet = true ∧ wSleepOpen.chip.quiet = true ∧ (inState St.idle 2).chip.quiet = true ∧ (inState St.idle 2
    [(Fld.HOST_PART_CTL_ATTACH 0, 1), (Fld.HOST_PORT_STATUS_DOWN 0, 0)]).chip.quiet = true ∧ (inState St.primed 4 [(Fld.SAFETY_STATUS_LEN_ARM,
    1)]).chip.quiet = true ∧ (inState St.safeStop 4).chip.quiet = true ∧ (inState St.safeStop 4 stopOk).chip.quiet = true ∧ (inState St.safeStop
    5).chip.quiet = true ∧ (inState St.primed 5 [(Fld.SAFETY_STATUS_LEN_ARM, 1)]).chip.quiet = true :=
  by refine ⟨?_, ?_, ?_, ?_, ?_, ?_, ?_, ?_, ?_⟩ <;> decide +kernel

/-- States and operands that meet the hypotheses of Obligations.PrimeRuns, clause by clause. -/
theorem witness_PrimeRuns :
    ((inState St.idle 3).chip.quiet = true ∧ (inState St.idle 3).offers 0 7 3 (cmd 3) ∧ ((inState St.idle 3).chip.each (List.range 64) fun k c =>
    c.latchTile k).primeRefused = some (Rc.ILK_OPEN, 3)) ∧ (wPrime.chip.quiet = true ∧ wPrime.offers 0 7 3 (cmd 3) ∧ (wPrime.chip.each (List.range 64)
    fun k c => c.latchTile k).primeRefused = none ∧ ∃ k < 8, (wPrime.chip.each (List.range 64) fun k c => c.latchTile k).configured k = true ∧
    wPrime.chip.flag (Fld.WINDLASS_SLOT_STATUS_LOCK (wPrime.chip.fld (Fld.WINDLASS_STN_SLOT_SLOT k))) = false) ∧ ((priming true 0).chip.unhurried =
    true ∧ (priming true 0).chip.noCommit = true ∧ (priming true 0).chip.eng.calJobs = [] ∧ (priming true 0).chip.eng.prime = some (7, 1000) ∧
    (priming true 0).chip.eng.calDone = true ∧ (priming true 0).chip.hvUnlocked = none ∧ (priming true 0).chip.eng.primeFails = 0) ∧ ((priming true
    70000).chip.unhurried = true ∧ (priming true 70000).chip.noCommit = true ∧ (priming true 70000).chip.eng.calJobs = [] ∧ (priming true
    70000).chip.eng.prime = some (7, 1000) ∧ (priming true 70000).chip.eng.calDone = true ∧ (priming true 70000).chip.hvUnlocked = none ∧ 0 < (priming
    true 70000).chip.eng.primeFails) ∧ (priming false 0).chip.unhurried = true ∧ (priming false 0).chip.noCommit = true ∧ (priming false
    0).chip.eng.calJobs = [] ∧ (priming false 0).chip.eng.prime = some (7, 1000) ∧ 1000 + 30000000000 ≤ (priming false 0).at_ 0 ∧ List.find? (fun k =>
    !((priming false 0).chip.stn k).aligned) (priming false 0).chip.configuredStations = some 0 :=
  by unfold State.offers; refine ⟨?_, ?_, ?_, ?_, ?_⟩ <;> decide +kernel

/-- States and operands that meet the hypotheses of Obligations.ReplayRunsAndReturns, clause by clause. -/
theorem witness_ReplayRunsAndReturns :
    ((wReplaying 0).chip.quiet = true ∧ (wReplaying 0).chip.eng.replay = some (replayOf false) ∧ (replayOf false).slot = 7 ∧ (replayOf false).ended =
    false) ∧ ((wReplaying 1).chip.quiet = true ∧ (wReplaying 1).chip.eng.replay = some (replayOf false) ∧ (replayOf false).slot = 7 ∧ (replayOf
    false).ended = false) ∧ (wReplayed.chip.quiet = true ∧ wReplayed.chip.eng.replay = some (replayOf true) ∧ (replayOf true).ended = true ∧
    wReplayed.chip.state = St.replay ∧ ∀ k ∈ wReplayed.chip.onTiles, (wReplayed.chip.tile k).missing = true ∨ (wReplayed.chip.tile k).locked = true) ∧
    (at10 idle (journal (cmd 6 [(16, 8)]))).chip.quiet = true ∧ (at10 idle (journal (cmd 6 [(16, 8)]))).chip.eng.replay = none ∧
    Merge.startableOrRetry (at10 idle (journal (cmd 6 [(16, 8)]))).chip (at10 idle (journal (cmd 6 [(16, 8)]))).merge 7 6 = some (cmd 6 [(16, 8)]) ∧
    (acceptedIn 6).contains (at10 idle (journal (cmd 6 [(16, 8)]))).chip.state = true ∧ ((at10 idle (journal (cmd 6 [(16, 8)]))).ctx 0).outranked 6 =
    false ∧ (cmd 6 [(16, 8)]).param 16 8 % 16 ≠ 0 :=
  by refine ⟨?_, ?_, ?_, ?_⟩ <;> decide +kernel

/-- States and operands that meet the hypotheses of Obligations.SmallUnitsAct, clause by clause. -/
theorem witness_SmallUnitsAct :
    (wReorder.chip.serving = true ∧ TapInstr.idcode = TapInstr.idcode ∧ (List.replicate 32 true).length = 32) ∧ (wReorder.chip.serving = true ∧
    TapInstr.bypass = TapInstr.bypass) ∧ (wSleep.chip.serving = true ∧ TapInstr.extest = TapInstr.extest ∧ wSleep.chip.state = St.sleep ∧ [true,
    false] ≠ []) ∧ (wReorder.chip.serving = true ∧ wReorder.chip.fast = true) ∧ (wSleep.chip.serving = true ∧ wSleep.chip.fast = false) ∧
    wReorder.chip.serving = true ∧ wReorder.chip.quiet = true :=
  by refine ⟨?_, ?_, ?_, ?_, ?_, ?_⟩ <;> decide +kernel

/-- States and operands that meet the hypotheses of Obligations.RegisterWritesTake, clause by clause. -/
theorem witness_RegisterWritesTake :
    (wMaster.chip.quiet = true ∧ wMaster.chip.guards = [] ∧ 1048576 ≤ (BitVec.ofNat 28 (Reg.STATION_DRUM_SCALE 0)).toNat ∧ (BitVec.ofNat 28
    (Reg.STATION_DRUM_SCALE 0)).toNat < 1572864 ∧ RegMap.find (BitVec.ofNat 28 (Reg.STATION_DRUM_SCALE 0)).toNat = some (drumScale, [0]) ∧
    (drumScale.fields.all fun f => f.acc == Access.rw) = true ∧ wMaster.chip.attrib Port.a drumScale.priv [0] ≠ none) ∧ (wMaster.chip.quiet = true ∧
    wMaster.chip.guards = [] ∧ 1048576 ≤ (BitVec.ofNat 28 (Reg.STATION_DRUM_SCALE 7)).toNat ∧ (BitVec.ofNat 28 (Reg.STATION_DRUM_SCALE 7)).toNat + 4 <
    1572864 ∧ (BitVec.ofNat 28 (Reg.STATION_DRUM_SCALE 7)).toNat % 8 = 0 ∧ RegMap.find (BitVec.ofNat 28 (Reg.STATION_DRUM_SCALE 7)).toNat = some
    (drumScale, [7]) ∧ RegMap.find ((BitVec.ofNat 28 (Reg.STATION_DRUM_SCALE 7)).toNat + 4) = some (schedCtl, [7]) ∧ (drumScale.fields.all fun f =>
    f.acc == Access.rw) = true ∧ (schedCtl.fields.all fun f => f.acc == Access.rw) = true ∧ wMaster.chip.attrib Port.a drumScale.priv [7] ≠ none ∧
    wMaster.chip.attrib Port.a schedCtl.priv [7] ≠ none) ∧ (wMaster.chip.quiet = true ∧ wMaster.chip.guards = [] ∧ 14#4 ≠ 15#4) ∧ (wMaster.chip.quiet
    = true ∧ wMaster.chip.guards = [] ∧ (BitVec.ofNat 28 (Reg.STATION_DRUM_SCALE 0)).toNat < aliasBase ∧ RegMap.find (BitVec.ofNat 28
    (Reg.STATION_DRUM_SCALE 0)).toNat = some (drumScale, [0]) ∧ wMaster.chip.attrib Port.b drumScale.priv [0] = none) ∧ (wMaster.chip.quiet = true ∧
    wMaster.chip.guards = [] ∧ 1048576 ≤ Reg.STATION_DRUM_SCALE 7 ∧ Reg.STATION_DRUM_SCALE 7 < 1572864 ∧ 31 < 32 ∧ RegMap.find (Reg.STATION_DRUM_SCALE
    7) = some (drumScale, [7]) ∧ (drumScale.fields.all fun f => f.acc == Access.rw) = true ∧ wMaster.chip.attrib Port.a drumScale.priv [7] ≠ none ∧ ∃
    f ∈ drumScale.fields, f.lo ≤ 31 ∧ 31 ≤ f.hi) ∧ (wMaster.chip.quiet = true ∧ wMaster.chip.guards = [] ∧ wMaster.chip.attrib Port.a Priv.master [] ≠
    none) ∧ wMaster.chip.quiet = true ∧ wMaster.chip.guards = [] ∧ (BitVec.ofNat 28 Reg.WINDLASS_EVENT).toNat < aliasBase ∧ RegMap.find (BitVec.ofNat
    28 Reg.WINDLASS_EVENT).toNat = some (wlEvent, []) ∧ wlEvent.seqClear = true ∧ wMaster.chip.attrib Port.a wlEvent.priv [] ≠ none :=
  by refine ⟨?_, ?_, ?_, ?_, ?_, ?_, ?_⟩ <;> decide +kernel

/-- States and operands that meet the hypotheses of Obligations.GuardedPairsTake, clause by clause. -/
theorem witness_GuardedPairsTake :
    (wMaster.chip.quiet = true ∧ (BitVec.ofNat 28 (Reg.WINDLASS_HV_CEIL 23)).toNat < aliasBase ∧ wMaster.chip.guards = [] ∧ RegMap.find (BitVec.ofNat
    28 (Reg.WINDLASS_HV_CEIL 23)).toNat = some (hvCeil, [23]) ∧ hvCeil.guarded = true ∧ wMaster.chip.attrib Port.a hvCeil.priv [23] ≠ none) ∧ ((wGuard
    (Reg.WINDLASS_HV_CEIL 23) 5#32).chip.quiet = true ∧ RegMap.find (Reg.WINDLASS_HV_CEIL 23) = some (hvCeil, [23]) ∧ hvCeil.guarded = true ∧
    Reg.WINDLASS_HV_CEIL 23 ≠ Reg.GLOBAL_RESET_CTL ∧ hvCeil.base ≠ Reg.STATION_CEIL_DUTY 0 ∧ (wGuard (Reg.WINDLASS_HV_CEIL 23) 5#32).chip.attrib
    Port.a hvCeil.priv [23] ≠ none ∧ (wGuard (Reg.WINDLASS_HV_CEIL 23) 5#32).chip.lockedField hvCeil.base [23] 0 = false ∧ (wGuard
    (Reg.WINDLASS_HV_CEIL 23) 5#32).chip.guards =
    [{ unit := unitOf (Reg.WINDLASS_HV_CEIL 23), off := Reg.WINDLASS_HV_CEIL 23, value := 5#32, port := Port.a, at_ := 9999936000 }] ∧ (wGuard
    (Reg.WINDLASS_HV_CEIL 23) 5#32).at_ 0 ≤ 9999936000 + 64000 ∧ (5#32).toNat &&& 2 ^ 32 - 1 - hvCeil.fieldMask = 0) ∧ (wGuard (Reg.WINDLASS_HV_CEIL
    23) 5#32).chip.quiet = true ∧ (wGuard (Reg.WINDLASS_HV_CEIL 23) 5#32).chip.guards = [aPair] ∧ aPair.off = (BitVec.ofNat 28 (Reg.WINDLASS_HV_CEIL
    23)).toNat ∧ aPair.at_ + 64000 < (wGuard (Reg.WINDLASS_HV_CEIL 23) 5#32).at_ 1 :=
  by refine ⟨?_, ?_, ?_⟩ <;> decide +kernel

/-- States and operands that meet the hypotheses of Obligations.OwnersAndWakes, clause by clause. -/
theorem witness_OwnersAndWakes :
    (wMaster.chip.quiet = true ∧ wMaster.chip.guards = [] ∧ wMaster.chip.attrib Port.a Priv.master [] ≠ none ∧ 0 < 7 ∧ 7 < 8) ∧ (wPart.chip.quiet =
    true ∧ wPart.chip.guards = [] ∧ wPart.chip.attrib Port.a Priv.master [] ≠ none ∧ 0 < 1 ∧ 1 < 8 ∧ wPart.chip.enabled 1 = true) ∧ (wPart.chip.quiet
    = true ∧ wPart.chip.guards = []) ∧ wSleep.chip.state = St.sleep ∧ wSleep.chip.eng.down = false ∧ wSleep.chip.serving = true ∧
    wSleep.chip.noService = true ∧ wSleep.chip.calm = true ∧ wSleep.chip.pages = [] ∧ wSleep.chip.guards = [] ∧ bit (1#32).toNat 0 = true :=
  by refine ⟨?_, ?_, ?_, ?_⟩ <;> decide +kernel

/-- States and operands that meet the hypotheses of Obligations.UnitsTakeWrites, clause by clause. -/
theorem witness_UnitsTakeWrites :
    (wMaster.chip.sound = true ∧ wMaster.chip.still = true ∧ wMaster.chip.fast = true ∧ wMaster.chip.serving = true ∧ wMaster.chip.noService = true ∧
    wMaster.chip.guards = [] ∧ wMaster.chip.attrib Port.a Priv.master [] ≠ none ∧ wMaster.chip.tileOn 63 = false ∧ wMaster.chip.link 63 = Lk.off ∧
    wMaster.chip.quadOn 63 = true ∧ bit (1#32).toNat 0 = true) ∧ (wTile0.chip.sound = true ∧ wTile0.chip.still = true ∧ wTile0.chip.fast = true ∧
    wTile0.chip.serving = true ∧ wTile0.chip.noService = true ∧ wTile0.chip.guards = [] ∧ wTile0.chip.attrib Port.a Priv.master [] ≠ none ∧
    wTile0.chip.tileOn 9 = true ∧ bit (0#32).toNat 0 = false) ∧ (wBreach.chip.sound = true ∧ wBreach.chip.still = true ∧ wBreach.chip.fast = true ∧
    wBreach.chip.serving = true ∧ wBreach.chip.noService = true ∧ wBreach.chip.guards = [] ∧ wBreach.chip.attrib Port.a (Priv.cls 1) [] ≠ none ∧
    wBreach.chip.fld (Fld.WINDLASS_HV_STATUS_STATE 23) = 2 ∧ bit (1#32).toNat 0 = true) ∧ (wLost.chip.sound = true ∧ wLost.chip.still = true ∧
    wLost.chip.fast = true ∧ wLost.chip.serving = true ∧ wLost.chip.noService = true ∧ wLost.chip.guards = [] ∧ wLost.chip.attrib Port.a (Priv.cls 1)
    [] ≠ none ∧ wLost.chip.muleState 15 = 0 ∧ wLost.chip.flag (Fld.MULE_CFG_EN 15) = false ∧ bit (1#32).toNat 0 = true) ∧ (wLost.chip.sound = true ∧
    wLost.chip.still = true ∧ wLost.chip.fast = true ∧ wLost.chip.serving = true ∧ wLost.chip.noService = true ∧ wLost.chip.guards = [] ∧
    wLost.chip.attrib Port.a (Priv.cls 1) [] ≠ none ∧ 1 ≤ (2000000#32).toNat ∧ (2000000#32).toNat ≤ 2000000) ∧ (wLost.chip.sound = true ∧
    wLost.chip.still = true ∧ wLost.chip.fast = true ∧ wLost.chip.serving = true ∧ wLost.chip.noService = true ∧ wLost.chip.guards = [] ∧
    wLost.chip.attrib Port.a (Priv.cls 1) [] ≠ none ∧ 0#32 = 0#32) ∧ (wSlot.chip.sound = true ∧ wSlot.chip.still = true ∧ wSlot.chip.fast = true ∧
    wSlot.chip.serving = true ∧ wSlot.chip.noService = true ∧ wSlot.chip.guards = [] ∧ wSlot.chip.attrib Port.a (Priv.cls 1) [] ≠ none ∧
    wSlot.chip.slotRuns 5 = true ∧ bits (1#32).toNat 2 0 ≠ 0) ∧ (wSlot.chip.sound = true ∧ wSlot.chip.still = true ∧ wSlot.chip.fast = true ∧
    wSlot.chip.serving = true ∧ wSlot.chip.noService = true ∧ wSlot.chip.guards = [] ∧ wSlot.chip.attrib Port.a (Priv.cls 1) [] ≠ none ∧
    wSlot.chip.slotRuns 5 = true ∧ 4278190080#32 = 4278190080#32 ∧ 12 ≤ wSlot.chip.fld (Fld.WINDLASS_SLOT_CFG_DEST 5)) ∧ ((wIlk St.idle).chip.sound =
    true ∧ (wIlk St.idle).chip.still = true ∧ (wIlk St.idle).chip.fast = true ∧ (wIlk St.idle).chip.serving = true ∧ (wIlk St.idle).chip.noService =
    true ∧ (wIlk St.idle).chip.guards = [] ∧ (wIlk St.idle).chip.attrib Port.a Priv.master [] ≠ none ∧ (wIlk St.idle).chip.flag
    Fld.SAFETY_STATUS_ILK_A = true ∧ (wIlk St.idle).chip.flag Fld.SAFETY_STATUS_ILK_B = true ∧ bit (1#32).toNat 0 = true) ∧ ((wSump 1).chip.sound =
    true ∧ (wSump 1).chip.still = true ∧ (wSump 1).chip.fast = true ∧ (wSump 1).chip.serving = true ∧ (wSump 1).chip.noService = true ∧ (wSump
    1).chip.guards = [] ∧ (wSump 1).chip.attrib Port.a (Priv.cls 2) [] ≠ none ∧ (wSump 1).chip.fld Fld.SUMP_STATUS_STATE = 1 ∧ bit (1#32).toNat 0 =
    true) ∧ (wSump 1).chip.sound = true ∧ (wSump 1).chip.still = true ∧ (wSump 1).chip.fast = true ∧ (wSump 1).chip.serving = true ∧ (wSump
    1).chip.noService = true ∧ (wSump 1).chip.guards = [] ∧ (wSump 1).chip.attrib Port.a (Priv.cls 2) [] ≠ none ∧ (wSump 1).chip.owner ((wSump
    1).chip.fld Fld.SUMP_STATUS_PART) = Port.a ∧ (wSump 1).chip.sump.rd < 2 ^ 64 :=
  by refine ⟨?_, ?_, ?_, ?_, ?_, ?_, ?_, ?_, ?_, ?_, ?_⟩ <;> decide +kernel

/-- States and operands that meet the hypotheses of Obligations.TablesTake, clause by clause. -/
theorem witness_TablesTake :
    (wLost.chip.quiet = true ∧ wLost.chip.attrib Port.a (Priv.cls 2) [] ≠ none ∧ (720896#24).toNat % 4 = 0 ∧ (720896#24).toNat < 8388608 ∧
    wLost.chip.tableHit (720896#24).toNat = TableHit.shadow ∧ ∀ i < 4, tableAt ((720896#24).toNat + i) ≠ none) ∧ (wLost.chip.quiet = true ∧
    wLost.chip.attrib Port.a (Priv.cls 2) [] ≠ none ∧ (9109504#24).toNat % 4 = 0 ∧ wLost.chip.tableHit (9109504#24).toNat = TableHit.active) ∧
    (wCopy.chip.quiet = true ∧ wCopy.chip.txn.copying = [((20480#16).toNat, [])]) :=
  by refine ⟨?_, ?_, ?_⟩ <;> decide +kernel

/-- States and operands that meet the hypotheses of Obligations.PartitionsAttachAndTranslate, clause by clause. -/
theorem witness_PartitionsAttachAndTranslate :
    (wPart.chip.quiet = true ∧ wPart.chip.guards = [] ∧ wPart.chip.owner 1 = Port.a ∧ bit (1#32).toNat 0 = true ∧ wPart.chip.enabled 1 = true ∧
    wPart.chip.attached 1 = false ∧ wPart.chip.portDown Port.a = false ∧ wPart.merge.parts.length = 8 ∧ (wPart.merge.part 1).geom = none ∧
    (wPart.chip.geometry 1).bad = false) ∧ (wLost.chip.quiet = true ∧ wLost.chip.guards = [] ∧ wLost.chip.owner 0 = Port.a ∧ bit (1#32).toNat 0 = true
    ∧ wLost.chip.enabled 0 = true ∧ wLost.chip.attached 0 = false ∧ wLost.chip.portDown Port.a = true) ∧ (wCache.chip.quiet = true ∧
    wCache.chip.guards = [] ∧ wCache.chip.owner 1 = Port.a) ∧ (wCache.chip.quiet = true ∧ wCache.chip.guards = [] ∧ wCache.chip.owner 1 = Port.a ∧
    wCache.chip.flag (Fld.HOST_PART_INVAL_STATUS_BUSY 1) = false ∧ BitVec.ofNat 32 (2 ^ 31 + 3) = BitVec.ofNat 32 (2 ^ 31 + 3)) ∧ (wCache.chip.quiet =
    true ∧ wCache.chip.guards = [] ∧ wCache.chip.owner 1 = Port.a ∧ ∀ b ∈ (wCache.chip.xlat.invals.getD 1 none).elim [] fun x => x.flying, b ∉
    wCache.chip.flying) ∧ wFlying.chip.quiet = true ∧ wFlying.chip.guards = [] ∧ wFlying.chip.owner 1 = Port.a ∧ ∃ b ∈ (wFlying.chip.xlat.invals.getD
    1 none).elim [] fun x => x.flying, b ∈ wFlying.chip.flying :=
  by refine ⟨?_, ?_, ?_, ?_, ?_, ?_⟩ <;> decide +kernel

/-- States and operands that meet the hypotheses of Obligations.ResetsRecover, clause by clause. -/
theorem witness_ResetsRecover :
    (wAttached.chip.quiet = true ∧ wAttached.chip.eng.coldNext = false) ∧ (wAttached.chip.quiet = true ∧ wAttached.chip.attrib Port.a Priv.master [] ≠
    none ∧ wAttached.chip.guards = [] ∧ (wAttached.chip.state = St.awake ∨ wAttached.chip.state = St.idle ∨ wAttached.chip.state = St.safeStop)) ∧
    wPrimedReset.chip.quiet = true ∧ wPrimedReset.chip.attrib Port.a Priv.master [] ≠ none ∧ wPrimedReset.chip.guards = [] ∧ (wPrimedReset.chip.state
    = St.primed ∨ wPrimedReset.chip.state = St.printing) :=
  by refine ⟨?_, ?_, ?_⟩ <;> decide +kernel

/-- States and operands that meet the hypotheses of Obligations.PartitionAndPortResets, clause by clause. -/
theorem witness_PartitionAndPortResets :
    (wAttached.chip.quiet = true ∧ wAttached.chip.attrib Port.a Priv.master [] ≠ none ∧ wAttached.chip.guards = []) ∧ wPortUp.chip.quiet = true ∧
    wPortUp.chip.quiet = true ∧ (wPortUp.chip.quiet = true ∧ wPortUp.chip.portDown Port.b = false ∧ (true && false) = false) ∧ wPortUp.chip.quiet =
    true ∧ wPortUp.chip.sump.gap = none :=
  by refine ⟨?_, ?_, ?_, ?_, ?_⟩ <;> decide +kernel

/-- States and operands that meet the hypotheses of Obligations.DoorbellsPollAndFetch, clause by clause. -/
theorem witness_DoorbellsPollAndFetch :
    ((wPoll []).chip.quiet = true ∧ (wPoll []).chip.polls 0 = true ∧ ((wPoll []).merge.part 0).geom.isSome = true ∧ ((wPoll []).merge.part 0).fetches
    = [] ∧ ((wPoll []).merge.part 0).resuming = false ∧ ((wPoll []).merge.part 0).lastPoll + 1000 * ((wPoll []).merge.part 0).wait ≤ (wPoll []).at_ 0)
    ∧ (wEarly.chip.quiet = true ∧ wEarly.chip.polls 0 = true ∧ (wEarly.merge.part 0).geom.isSome = true ∧ wEarly.at_ 0 < (wEarly.merge.part
    0).lastPoll + 1000 * (wEarly.merge.part 0).wait) ∧ ((wPoll [FItem.doorbell]).chip.quiet = true ∧ (wPoll [FItem.doorbell]).chip.polls 0 = true ∧
    ((wPoll [FItem.doorbell]).merge.part 0).geom.isSome = true ∧ ((wPoll [FItem.doorbell]).merge.part 0).fetches = [FItem.doorbell]) ∧ (wPoll
    [FItem.doorbell]).chip.quiet = true ∧ (wPoll [FItem.doorbell]).chip.polls 0 = true ∧ ((wPoll [FItem.doorbell]).merge.part 0).geom.isSome = true ∧
    ((wPoll [FItem.doorbell]).merge.part 0).fetches = [FItem.doorbell] ∧ (wPoll [FItem.doorbell]).chip.sump.gap = none ∧ ((wPoll
    [FItem.doorbell]).merge.part 0).heads.length = 4 ∧ doorbellBlock.field 0 4 = (((wPoll [FItem.doorbell]).merge.part 0).heads.getD 0 0 + 1) % 2 ^ 32
    ∧ (∀ r < 4, 0 < r → doorbellBlock.field (4 * r) 4 = ((wPoll [FItem.doorbell]).merge.part 0).heads.getD r 0) ∧ (∀ r < 4, ((wPoll
    [FItem.doorbell]).merge.part 0).heads.getD r 0 < 2 ^ 32) ∧ doorbellBlock.field 16 4 = 2 ^ 32 - 1 ∧ doorbellBlock.field 20 4 = ((wPoll
    [FItem.doorbell]).merge.part 0).cq.tail ∧ doorbellBlock.field 24 4 = ((wPoll [FItem.doorbell]).merge.part 0).eq.tail ∧ ((wPoll
    [FItem.doorbell]).merge.part 0).cq.tail < 2 ^ 32 ∧ ((wPoll [FItem.doorbell]).merge.part 0).eq.tail < 2 ^ 32 ∧ ((wPoll
    [FItem.doorbell]).merge.ackCompletions 0 ((wPoll [FItem.doorbell]).merge.part 0).cq.tail).hasRoom 0 = true :=
  by refine ⟨?_, ?_, ?_, ?_⟩ <;> decide +kernel

/-- States and operands that meet the hypotheses of Obligations.EntriesAccepted, clause by clause. -/
theorem witness_EntriesAccepted :
    ((wPoll [FItem.entries 0 4294967295 1]).chip.quiet = true ∧ (wPoll [FItem.entries 0 4294967295 1]).chip.polls 0 = true ∧ ((wPoll [FItem.entries 0
    4294967295 1]).merge.part 0).fetches = [FItem.entries 0 (((wPoll [FItem.entries 0 4294967295 1]).merge.part 0).heads.getD 0 0) 1] ∧ ((wPoll
    [FItem.entries 0 4294967295 1]).merge.part 0).heads.length = 4 ∧ (wPoll [FItem.entries 0 4294967295 1]).merge.parts.length = 8 ∧ (newEntry
    0).byte 1 % 2 = 0) ∧ ((wPoll [FItem.entries 0 4294967295 1]).chip.quiet = true ∧ (wPoll [FItem.entries 0 4294967295 1]).chip.polls 0 = true ∧
    ((wPoll [FItem.entries 0 4294967295 1]).merge.part 0).fetches = [FItem.entries 0 (((wPoll [FItem.entries 0 4294967295 1]).merge.part
    0).heads.getD 0 0) 1] ∧ ((wPoll [FItem.entries 0 4294967295 1]).merge.part 0).heads.length = 4 ∧ (wPoll [FItem.entries 0 4294967295
    1]).merge.parts.length = 8) ∧ ((wPoll [FItem.entries 0 4294967295 1]).chip.quiet = true ∧ (wPoll [FItem.entries 0 4294967295 1]).chip.polls 0 =
    true ∧ ((wPoll [FItem.entries 0 4294967295 1]).merge.part 0).fetches = [FItem.entries 0 (((wPoll [FItem.entries 0 4294967295 1]).merge.part
    0).heads.getD 0 0) 1] ∧ ((wPoll [FItem.entries 0 4294967295 1]).merge.part 0).heads.length = 4 ∧ (wPoll [FItem.entries 0 4294967295
    1]).merge.parts.length = 8 ∧ (newEntry 1).byte 1 % 2 = 1 ∧ acceptanceClosed (wPoll [FItem.entries 0 4294967295 1]).merge (wPoll [FItem.entries 0
    4294967295 1]).chip = false ∧ (wPoll [FItem.entries 0 4294967295 1]).merge.matchTag 0 (BitVec.ofNat 64 ((newEntry 1).field 8 8)) = none ∧ (wPoll
    [FItem.entries 0 4294967295 1]).merge.slotFor 0 ((newEntry 1).byte 0) 0 = some 0 ∧ (wPoll [FItem.entries 0 4294967295 1]).chip.acceptCheck 0 0
    (newEntry 1) = none) :=
  by refine ⟨?_, ?_, ?_⟩ <;> decide +kernel

/-- States and operands that meet the hypotheses of Obligations.RecordsDeliveredAndSignalled, clause by clause. -/
theorem witness_RecordsDeliveredAndSignalled :
    (wHeldRec.chip.quiet = true ∧ wHeldRec.chip.taking 0 = true ∧ wHeldRec.merge.parts.length = 8 ∧ wHeldRec.merge.held = [(0, coldRecord)] ∧
    wHeldRec.merge.stopArea = [] ∧ (∀ e ∈ wHeldRec.merge.journal, e.part ≠ 0) ∧ (wHeldRec.merge.part 0).copies = [] ∧ (wHeldRec.merge.part 0).dropped
    = none ∧ 0 < (wHeldRec.merge.part 0).roomE) ∧ ((wModerate 0).chip.quiet = true ∧ (wModerate 0).merge.parts.length = 8 ∧ (((wModerate
    0).merge.part 0).queue 1).firstAt = some 0 ∧ (wModerate 0).chip.portDown ((wModerate 0).chip.owner 0) = false ∧ 0 < (wModerate 0).chip.fld
    (Fld.HOST_PART_Q_CTL_MOD_COUNT 0 1) ∧ 0 < (wModerate 0).chip.fld (Fld.HOST_PART_Q_CTL_MOD_TIME 0 1) ∧ ((wModerate 0).merge.part 0).owesSignal 1 =
    false ∧ 0 + 1000 * (wModerate 0).chip.fld (Fld.HOST_PART_Q_CTL_MOD_TIME 0 1) ≤ (wModerate 0).at_ 0) ∧ ((wModerate 1).chip.quiet = true ∧
    (wModerate 1).merge.parts.length = 8 ∧ (((wModerate 1).merge.part 0).queue 1).firstAt = some 0 ∧ (wModerate 1).chip.portDown ((wModerate
    1).chip.owner 0) = false ∧ 0 < (wModerate 1).chip.fld (Fld.HOST_PART_Q_CTL_MOD_COUNT 0 1) ∧ 0 < (wModerate 1).chip.fld
    (Fld.HOST_PART_Q_CTL_MOD_TIME 0 1) ∧ ((wModerate 1).merge.part 0).owesSignal 1 = false ∧ 0 + 1000 * (wModerate 1).chip.fld
    (Fld.HOST_PART_Q_CTL_MOD_TIME 0 1) ≤ (wModerate 1).at_ 0) ∧ ((wBarrier 0).chip.quiet = true ∧ (wBarrier 0).merge.entry 7 = some (aBarrier 0) ∧
    (aBarrier 0).phase = Phase.result ∧ (aBarrier 0).barrier = true ∧ (wBarrier 0).chip.polls (aBarrier 0).part = true ∧ (aBarrier 0).part < 8 ∧
    (aBarrier 0).ring < 4 ∧ (wBarrier 0).merge.parts.length = 8 ∧ (wBarrier 0).merge.order.length = 32 ∧ ((wBarrier 0).merge.part (aBarrier
    0).part).fetches = [FItem.barrier 7] ∧ (wBarrier 0).merge.ringOrder (aBarrier 0).part (aBarrier 0).ring = [OrdItem.cmd 7]) ∧ ((wBarrier
    1).chip.quiet = true ∧ (wBarrier 1).merge.entry 7 = some (aBarrier 1) ∧ (aBarrier 1).phase = Phase.result ∧ (aBarrier 1).barrier = true ∧
    (wBarrier 1).chip.polls (aBarrier 1).part = true ∧ (aBarrier 1).part < 8 ∧ (aBarrier 1).ring < 4 ∧ (wBarrier 1).merge.parts.length = 8 ∧
    (wBarrier 1).merge.order.length = 32 ∧ ((wBarrier 1).merge.part (aBarrier 1).part).fetches = [FItem.barrier 7] ∧ (wBarrier 1).merge.ringOrder
    (aBarrier 1).part (aBarrier 1).ring = [OrdItem.cmd 7]) ∧ ((wBarrier 2).chip.quiet = true ∧ (wBarrier 2).merge.entry 7 = some (aBarrier 2) ∧
    (aBarrier 2).phase = Phase.result ∧ (aBarrier 2).barrier = true ∧ (wBarrier 2).chip.polls (aBarrier 2).part = true ∧ (aBarrier 2).part < 8 ∧
    (aBarrier 2).ring < 4 ∧ (wBarrier 2).merge.parts.length = 8 ∧ (wBarrier 2).merge.order.length = 32 ∧ ((wBarrier 2).merge.part (aBarrier
    2).part).fetches = [FItem.barrier 7] ∧ (wBarrier 2).merge.ringOrder (aBarrier 2).part (aBarrier 2).ring = [OrdItem.cmd 7]) :=
  by refine ⟨?_, ?_, ?_, ?_, ?_, ?_⟩ <;> decide +kernel

/-- States and operands that meet the hypotheses of Obligations.DmaMoves, clause by clause. -/
theorem witness_DmaMoves :
    (wGrant.chip.quiet = true ∧ wGrant.chip.portDown (wGrant.chip.owner 0) = false ∧ 64 ≤ (wGrant.chip.port (wGrant.chip.owner 0).num).cfg.mrrs ∧
    wGrant.chip.arbiter wGrant.merge (wGrant.chip.owner 0) = some (8 + 2 * 0) ∧ (wGrant.merge.part 0).fetches = [FItem.doorbell] ∧
    wGrant.chip.retryAsked 0 (8 + 2 * 0) 4 = false ∧ wGrant.chip.dma.jobs = [] ∧ ((wGrant.merge.part 0).geom.getD { }).doorbell < 2 ^ 39 ∧
    wGrant.chip.cached 0 ((wGrant.merge.part 0).geom.getD { }).doorbell = some (flatLeaf 0 4096) ∧ (flatLeaf 0 4096).rd = true) ∧ (wImg.chip.working =
    true ∧ wImg.chip.dma.jobs = [] ∧ wImg.chip.dma.img.length = 8 ∧ wImg.chip.pages = [run1] ∧ run1.running = true ∧ run1.cut = none ∧ (∀ i < 8, i ≠ 0
    → (wImg.chip.img i).page = some run1.seq) ∧ (wImg.chip.img 0).page = some run1.seq ∧ (wImg.chip.img 0).halted = false ∧ (wImg.chip.img 0).inFlight
    = some 64 ∧ (wImg.chip.img 0).desc = some blk ∧ (wImg.chip.img 0).done + 64 < blk.len ∧ wImg.chip.flag Fld.POWER_STATUS_HOLDUP = false ∧
    (List.replicate 64 7#8).length = 64) ∧ (wImg.chip.working = true ∧ wImg.chip.dma.jobs = [] ∧ wImg.chip.dma.img.length = 8 ∧ wImg.chip.pages =
    [run1] ∧ run1.running = true ∧ run1.cut = none ∧ (∀ i < 8, i ≠ 0 → (wImg.chip.img i).page = some run1.seq) ∧ (wImg.chip.img 0).page = some
    run1.seq ∧ (wImg.chip.img 0).halted = false ∧ (wImg.chip.img 0).inFlight = some 64 ∧ (wImg.chip.img 0).desc = some blk ∧ (wImg.chip.img 0).done +
    64 < blk.len ∧ wImg.chip.flag Fld.POWER_STATUS_HOLDUP = false ∧ (wImg.chip.img 0).tries < wImg.chip.fld Fld.DMA_IMG_RETRY_COUNT) ∧
    (wRetry.chip.quiet = true ∧ (wRetry.chip.img 7).retryAt = some 10000000000 ∧ 10000000000 ≤ wRetry.at_ 0 ∧ (wRetry.chip.img 7).halted = false) ∧
    (wSvc 0 0).chip.resting = true ∧ (wSvc 0 0).chip.dma.xfers = [] ∧ (wSvc 0 0).chip.dma.parked = [] ∧ 24 ≤ 24 ∧ (wSvc 0 0).chip.dma.jobs = [(24, svc
    0)] ∧ (svc 0).inFlight = some 32 :=
  by refine ⟨?_, ?_, ?_, ?_, ?_⟩ <;> decide +kernel

/-- States and operands that meet the hypotheses of Obligations.TransactionsStageAndRollBack, clause by clause. -/
theorem witness_TransactionsStageAndRollBack :
    ((wTxn none (cmd 16)).chip.quiet = true ∧ (cmd 16).part < 8 ∧ (wTxn none (cmd 16)).offers 0 7 16 (cmd 16) ∧ (wTxn none (cmd 16)).chip.openTxn (cmd
    16).part = none) ∧ ((wTxn (some noEntries) (cmd 16)).chip.quiet = true ∧ (cmd 16).part < 8 ∧ (wTxn (some noEntries) (cmd 16)).offers 0 7 16 (cmd
    16) ∧ (wTxn (some noEntries) (cmd 16)).chip.openTxn (cmd 16).part = some noEntries) ∧ ((wTxn none (cmd 17)).chip.quiet = true ∧ (cmd 17).part < 8
    ∧ (wTxn none (cmd 17)).offers 0 7 17 (cmd 17) ∧ (cmd 17).param 16 1 = 0 ∧ (cmd 17).param 20 4 % 4 = 0 ∧ (cmd 17).param 20 4 ≤ 67108860 ∧ (wTxn
    none (cmd 17)).chip.openTxn (cmd 17).part = none) ∧ ((wTxn (some noEntries) wrCmd).chip.quiet = true ∧ wrCmd.part < 8 ∧ (wTxn (some noEntries)
    wrCmd).offers 0 7 17 wrCmd ∧ wrCmd.param 16 1 = 0 ∧ wrCmd.param 20 4 % 4 = 0 ∧ wrCmd.param 20 4 ≤ 67108860 ∧ (wTxn (some noEntries)
    wrCmd).chip.openTxn wrCmd.part = some noEntries ∧ noEntries.entries.length < 512) ∧ ((wTxn (some noEntries) (cmd 17 [(20, 67108860)])).chip.quiet
    = true ∧ (cmd 17 [(20, 67108860)]).part < 8 ∧ (wTxn (some noEntries) (cmd 17 [(20, 67108860)])).offers 0 7 17 (cmd 17 [(20, 67108860)]) ∧ (cmd 17
    [(20, 67108860)]).param 16 1 = 0 ∧ (cmd 17 [(20, 67108860)]).param 20 4 % 4 = 0 ∧ (cmd 17 [(20, 67108860)]).param 20 4 ≤ 67108860 ∧ (wTxn (some
    noEntries) (cmd 17 [(20, 67108860)])).chip.openTxn (cmd 17 [(20, 67108860)]).part = some noEntries ∧ noEntries.entries.length < 512) ∧ ((wTxn
    (some noEntries) (cmd 19)).chip.quiet = true ∧ (cmd 19).part < 8 ∧ (wTxn (some noEntries) (cmd 19)).offers 0 7 19 (cmd 19) ∧ (wTxn (some
    noEntries) (cmd 19)).chip.openTxn (cmd 19).part = some noEntries) ∧ (wTxn none (cmd 19)).chip.quiet = true ∧ (cmd 19).part < 8 ∧ (wTxn none (cmd
    19)).offers 0 7 19 (cmd 19) ∧ (wTxn none (cmd 19)).chip.openTxn (cmd 19).part = none :=
  by unfold State.offers; refine ⟨?_, ?_, ?_, ?_, ?_, ?_, ?_⟩ <;> decide +kernel

/-- States and operands that meet the hypotheses of Obligations.CommitsSwitch, clause by clause. -/
theorem witness_CommitsSwitch :
    ((cmd 18).part < 8 ∧ (wTxn (some one) (cmd 18)).chip.quiet = true ∧ (wTxn (some one) (cmd 18)).offers 0 7 18 (cmd 18) ∧ (wTxn (some one) (cmd
    18)).chip.openTxn (cmd 18).part = some one ∧ one.entries = [Staged.reg Reg.THERMAL_THETA 255#32 18#32] ∧ (wTxn (some one) (cmd 18)).chip.conflict
    one.gen [Staged.reg Reg.THERMAL_THETA 255#32 18#32] = none) ∧ (commitAt.part < 8 ∧ (wTxn (some one) commitAt).chip.quiet = true ∧ (wTxn (some one)
    commitAt).offers 0 7 18 commitAt ∧ (wTxn (some one) commitAt).chip.openTxn commitAt.part = some one ∧ one.entries = [Staged.reg Reg.THERMAL_THETA
    255#32 18#32] ∧ (wTxn (some one) commitAt).chip.conflict one.gen [Staged.reg Reg.THERMAL_THETA 255#32 18#32] = none) ∧ (cmd 18).part < 8 ∧
    wTimed.chip.unhurried = true ∧ wTimed.chip.eng.calJobs = [] ∧ wTimed.chip.eng.prime = none ∧ wTimed.chip.txn.touched = [] ∧
    wTimed.chip.txn.switched = [] ∧ wTimed.chip.txn.commits = [aCommit] ∧ aCommit.part = (cmd 18).part ∧ aCommit.trig = Trigger.time 10000000000 ∧
    10000000000 ≤ wTimed.at_ 0 ∧ aCommit.entries = [Staged.reg Reg.THERMAL_THETA 255#32 18#32] ∧ aCommit.left = [1] ∧ aCommit.slot = none ∧
    aCommit.fired = false ∧ aCommit.begun = false ∧ aCommit.units = 0 ∧ aCommit.last = 0 ∧ aCommit.slotsLeft = [] :=
  by unfold State.offers; refine ⟨?_, ?_, ?_⟩ <;> decide +kernel

/-- States and operands that meet the hypotheses of Obligations.PagesArmAndChainsStart, clause by clause. -/
theorem witness_PagesArmAndChainsStart :
    ((wChain [aPage]).chip.working = true ∧ (wChain [aPage]).chip.flag Fld.POWER_STATUS_HOLDUP = false ∧ (∀ k < 8, ((wChain [aPage]).chip.img k).page
    = none) ∧ (wChain [aPage]).offers 0 7 33 (cmd 33) ∧ (wChain [aPage]).chip.pages = [aPage] ∧ aPage.part = (cmd 33).part ∧ aPage.running = false ∧
    aPage.joined = false ∧ aPage.cut = none ∧ (wChain [aPage]).chip.critFault = none ∧ (wChain [aPage]).chip.faultedChannel = none) ∧ (wChain
    []).chip.working = true ∧ (wChain []).chip.flag Fld.POWER_STATUS_HOLDUP = false ∧ (∀ k < 8, ((wChain []).chip.img k).page = none) ∧ (wChain
    []).offers 0 7 33 (cmd 33) ∧ (wChain []).chip.pages = [] :=
  by unfold State.offers; refine ⟨?_, ?_⟩ <;> decide +kernel

/-- States and operands that meet the hypotheses of Obligations.ChainsAndPagesEnd, clause by clause. -/
theorem witness_ChainsAndPagesEnd :
    ((printing (cmd 34) [] h1).chip.working = true ∧ (printing (cmd 34) [] h1).chip.flag Fld.POWER_STATUS_HOLDUP = false ∧ (∀ p ∈ (printing (cmd 34)
    [] h1).chip.pages, p.running = false ∧ p.cut = none) ∧ (printing (cmd 34) [] h1).offers 0 7 34 (cmd 34) ∧ (printing (cmd 34) [] h1).chip.chain =
    some h1 ∧ h1.part = (cmd 34).part ∧ ∀ k < 8, ((printing (cmd 34) [] h1).chip.img k).page = none) ∧ ((printing (cmd 34) [joined1] h1
    joined1.closing).chip.working = true ∧ (printing (cmd 34) [joined1] h1 joined1.closing).chip.flag Fld.POWER_STATUS_HOLDUP = false ∧ (printing (cmd
    34) [joined1] h1 joined1.closing).chip.chain = some h1 ∧ h1.closed = none ∧ (printing (cmd 34) [joined1] h1 joined1.closing).chip.pages =
    [joined1] ∧ joined1.joined = true ∧ joined1.running = false ∧ joined1.cut = none ∧ (∀ i < 8, ((printing (cmd 34) [joined1] h1
    joined1.closing).chip.img i).page = none) ∧ beltAtOrAfter (printing (cmd 34) [joined1] h1 joined1.closing).chip.beltPos joined1.closing = true) ∧
    ((printing (cmd 35 [(16, 77)]) [aPage] h1).chip.working = true ∧ (printing (cmd 35 [(16, 77)]) [aPage] h1).chip.flag Fld.POWER_STATUS_HOLDUP =
    false ∧ (printing (cmd 35 [(16, 77)]) [aPage] h1).offers 0 7 35 (cmd 35 [(16, 77)]) ∧ (printing (cmd 35 [(16, 77)]) [aPage] h1).chip.pages =
    [aPage] ∧ aPage.part = (cmd 35 [(16, 77)]).part ∧ aPage.tag = (cmd 35 [(16, 77)]).param 16 8 ∧ aPage.running = false ∧ aPage.joined = false ∧ (∀ i
    < 8, ((printing (cmd 35 [(16, 77)]) [aPage] h1).chip.img i).page = none) ∧ (printing (cmd 35 [(16, 77)]) [aPage] h1).chip.seam.meas = []) ∧
    ((printing (cmd 36 [(16, 77)]) [run1] h1).chip.working = true ∧ (printing (cmd 36 [(16, 77)]) [run1] h1).chip.flag Fld.POWER_STATUS_HOLDUP = false
    ∧ (printing (cmd 36 [(16, 77)]) [run1] h1).offers 0 7 36 (cmd 36 [(16, 77)]) ∧ (printing (cmd 36 [(16, 77)]) [run1] h1).chip.pages = [run1] ∧
    run1.part = (cmd 36 [(16, 77)]).part ∧ run1.tag = (cmd 36 [(16, 77)]).param 16 8 ∧ run1.running = true ∧ run1.joined = true ∧ run1.cut = none ∧
    run1.cutLogged = false ∧ (printing (cmd 36 [(16, 77)]) [run1] h1).chip.chain = some h1 ∧ run1.cutPast (run1.roundUp run1.horizon) = false) ∧
    ((printing (cmd 36) [joined1] h1 100).chip.working = true ∧ (printing (cmd 36) [joined1] h1 100).chip.flag Fld.POWER_STATUS_HOLDUP = false ∧
    (printing (cmd 36) [joined1] h1 100).chip.pages = [joined1] ∧ joined1.joined = true ∧ joined1.running = false ∧ joined1.cut = none ∧ beltAtOrAfter
    (printing (cmd 36) [joined1] h1 100).chip.beltPos joined1.startAt = true ∧ ∀ k ∈ joined1.tiles, bit ((printing (cmd 36) [joined1] h1
    100).chip.tile k).kill 2 = false ∧ (printing (cmd 36) [joined1] h1 100).chip.banksGood k = true) ∧ wLastPage.chip.working = true ∧
    wLastPage.chip.flag Fld.POWER_STATUS_HOLDUP = false ∧ wLastPage.chip.pages = [run1] ∧ run1.joined = true ∧ run1.running = true ∧ run1.cut = none ∧
    wLastPage.chip.chain = some chain2 ∧ wLastPage.chip.eng.thermalPending = false ∧ wLastPage.chip.state = St.printing ∧ beltAtOrAfter
    wLastPage.chip.beltPos run1.endAt = true ∧ (∀ k ∈ run1.tiles, (wLastPage.chip.tile k).limit = none) ∧ ∀ i < 8, (wLastPage.chip.img i).page = none
    ∨ (wLastPage.chip.img i).page = some run1.seq :=
  by unfold State.offers; refine ⟨?_, ?_, ?_, ?_, ?_, ?_⟩ <;> decide +kernel

/-- States and operands that meet the hypotheses of Obligations.BandsDecode, clause by clause. -/
theorem witness_BandsDecode :
    ((wBands (List.take 151 whiteBand)).chip.working = true ∧ (wBands (List.take 151 whiteBand)).chip.flag Fld.POWER_STATUS_HOLDUP = false ∧ (wBands
    (List.take 151 whiteBand)).chip.pages = [bandPage0] ∧ bandPage0.running = true ∧ bandPage0.cut = none ∧ bandPage0.stns = [bandStn] ∧
    bandStn.station = 0 ∧ bandPage0.decoded.length = 1 ∧ (∀ i < 8, ((wBands (List.take 151 whiteBand)).chip.img i).page = some bandPage0.seq) ∧
    ((wBands (List.take 151 whiteBand)).chip.lane 0).page = some bandPage0.seq ∧ ((wBands (List.take 151 whiteBand)).chip.lane 0).stopped = false ∧
    ((wBands (List.take 151 whiteBand)).chip.lane 0).pend = [] ∧ ((wBands (List.take 151 whiteBand)).chip.lane 0).pendErr = none ∧ ((wBands (List.take
    151 whiteBand)).chip.lane 0).band < cdiv bandPage0.lines 256 ∧ ((wBands (List.take 151 whiteBand)).chip.lane 0).input = [(bandPage0.seq, List.take
    151 whiteBand)] ∧ ((wBands (List.take 151 whiteBand)).chip.lane 0).taken + (List.take 151 whiteBand).length < bandStn.bandStart ((wBands
    (List.take 151 whiteBand)).chip.lane 0).band + bandStn.bands.getD ((wBands (List.take 151 whiteBand)).chip.lane 0).band 0) ∧ (wBands (whiteBand ++
    [1#8])).chip.working = true ∧ (wBands (whiteBand ++ [1#8])).chip.flag Fld.POWER_STATUS_HOLDUP = false ∧ (wBands (whiteBand ++ [1#8])).chip.pages =
    [bandPage0] ∧ bandPage0.running = true ∧ bandPage0.cut = none ∧ bandPage0.stns = [bandStn] ∧ bandStn.station = 0 ∧ bandPage0.decoded.length = 1 ∧
    (∀ i < 8, ((wBands (whiteBand ++ [1#8])).chip.img i).page = some bandPage0.seq) ∧ ((wBands (whiteBand ++ [1#8])).chip.lane 0).page = some
    bandPage0.seq ∧ ((wBands (whiteBand ++ [1#8])).chip.lane 0).stopped = false ∧ ((wBands (whiteBand ++ [1#8])).chip.lane 0).pend = [] ∧ ((wBands
    (whiteBand ++ [1#8])).chip.lane 0).pendErr = none ∧ ((wBands (whiteBand ++ [1#8])).chip.lane 0).band < cdiv bandPage0.lines 256 ∧ ((wBands
    (whiteBand ++ [1#8])).chip.lane 0).input = [(bandPage0.seq, whiteBand ++ [1#8])] ∧ bandStn.bandStart ((wBands (whiteBand ++ [1#8])).chip.lane
    0).band + bandStn.bands.getD ((wBands (whiteBand ++ [1#8])).chip.lane 0).band 0 ≤ ((wBands (whiteBand ++ [1#8])).chip.lane 0).taken + (whiteBand
    ++ [1#8]).length ∧ ((wBands (whiteBand ++ [1#8])).chip.lane 0).band + 1 < cdiv bandPage0.lines 256 ∧ decodeBand bandPage0.width 256 ((wBands
    (whiteBand ++ [1#8])).chip.lane 0).band (((wBands (whiteBand ++ [1#8])).chip.lane 0).band == 0) ((wBands (whiteBand ++ [1#8])).chip.lane 0).prev1
    ((wBands (whiteBand ++ [1#8])).chip.lane 0).prev2 ((wBands (whiteBand ++ [1#8])).chip.lane 0).kRun (List.take (bandStn.bands.getD ((wBands
    (whiteBand ++ [1#8])).chip.lane 0).band 0) (List.drop (bandStn.bandStart ((wBands (whiteBand ++ [1#8])).chip.lane 0).band - ((wBands (whiteBand ++
    [1#8])).chip.lane 0).taken) (whiteBand ++ [1#8]))) = Except.ok bandDec :=
  by refine ⟨?_, ?_⟩ <;> decide +kernel

/-- States and operands that meet the hypotheses of Obligations.SegmentsActAndStream, clause by clause. -/
theorem witness_SegmentsActAndStream :
    ((wSeg 9999000000).chip.sound = true ∧ (wSeg 9999000000).chip.still = true ∧ (wSeg 9999000000).chip.fast = true ∧ (wSeg 9999000000).chip.serving =
    true ∧ (wSeg 9999000000).chip.noService = true ∧ (wSeg 9999000000).chip.sump.gap = none ∧ (wSeg 9999000000).chip.sump.open_ = [aRec 9999000000,
    { typ := 1, src := 0, time := 10000000000, words := [6#32] }] ∧ (aRec 9999000000).time + 1000000 ≤ (wSeg 9999000000).at_ 0) ∧ ((wSeg
    9999000001).chip.sound = true ∧ (wSeg 9999000001).chip.still = true ∧ (wSeg 9999000001).chip.fast = true ∧ (wSeg 9999000001).chip.serving = true ∧
    (wSeg 9999000001).chip.noService = true ∧ (wSeg 9999000001).chip.sump.gap = none ∧ (∀ r ∈ (wSeg 9999000001).chip.sump.open_, (wSeg 9999000001).at_
    0 < r.time + 1000000) ∧ (wSeg 9999000001).chip.sump.openBytes < 65536) ∧ (wPost.chip.sound = true ∧ wPost.chip.still = true ∧ wPost.chip.fast =
    true ∧ wPost.chip.serving = true ∧ wPost.chip.noService = true ∧ wPost.chip.sump.trigAt = some 0 ∧ wPost.chip.fld Fld.SUMP_STATUS_STATE = 2 ∧
    wPost.chip.sump.freezing = false ∧ wPost.chip.sump.open_ = [] ∧ wPost.chip.sump.closed = [] ∧ wPost.chip.sump.waiters = [] ∧ 0 + wPost.chip.fld
    Fld.SUMP_CFG_POST_MS * 1000000 ≤ wPost.at_ 0) ∧ (wPost.chip.sound = true ∧ wPost.chip.still = true ∧ wPost.chip.fast = true ∧ wPost.chip.serving =
    true ∧ wPost.chip.noService = true ∧ wPost.chip.sump.closed = [] ∧ wPost.chip.sump.waiters = [] ∧ wPost.chip.sump.freezing = false) ∧
    wStream.chip.sound = true ∧ wStream.chip.still = true ∧ wStream.chip.fast = true ∧ wStream.chip.serving = true ∧ wStream.chip.noService = true ∧
    wStream.chip.portDown (wStream.chip.owner (wStream.chip.fld Fld.SUMP_STATUS_PART)) = false ∧ 0 < (wStream.chip.port (wStream.chip.owner
    (wStream.chip.fld Fld.SUMP_STATUS_PART)).num).cfg.mps ∧ (wStream.merge.part (wStream.chip.fld Fld.SUMP_STATUS_PART)).resuming = false ∧ (∀ ch <
    39, wStream.chip.ready wStream.merge (wStream.chip.owner (wStream.chip.fld Fld.SUMP_STATUS_PART)) ch = false) ∧ wStream.chip.xlat.susp = [] ∧
    wStream.chip.sump.closed = [aSeg] ∧ wStream.chip.sump.size ≠ 0 ∧ wStream.chip.sump.sent = 0 ∧ wStream.chip.flag Fld.SUMP_CFG_RETAIN = false ∧
    wStream.chip.sump.gap = none ∧ wStream.chip.sump.waiters = [] ∧ wStream.chip.sump.freezing = false ∧ 0 < aSeg.payload.length ∧ aSeg.payload.length
    ≤ 4032 ∧ aSeg.size ≤ wStream.chip.sump.size - wStream.chip.pair Reg.SUMP_WR_LO Reg.SUMP_WR_HI % wStream.chip.sump.size ∧ (wStream.chip.sump.base +
    wStream.chip.pair Reg.SUMP_WR_LO Reg.SUMP_WR_HI % wStream.chip.sump.size) % 4096 = 0 ∧ wStream.chip.sump.base + wStream.chip.pair Reg.SUMP_WR_LO
    Reg.SUMP_WR_HI % wStream.chip.sump.size + aSeg.size ≤ 2 ^ 39 ∧ wStream.chip.cached (wStream.chip.fld Fld.SUMP_STATUS_PART) (wStream.chip.sump.base
    + wStream.chip.pair Reg.SUMP_WR_LO Reg.SUMP_WR_HI % wStream.chip.sump.size) = some (flatLeaf 0 4096) ∧ wStream.chip.cached (wStream.chip.fld
    Fld.SUMP_STATUS_PART) (wStream.chip.sump.base + wStream.chip.pair Reg.SUMP_WR_LO Reg.SUMP_WR_HI % wStream.chip.sump.size + 64) = some (flatLeaf 0
    4096) ∧ (flatLeaf 0 4096).wr = true ∧ wStream.chip.xlat.cache.length < 4096 ∧ wStream.chip.pair Reg.SUMP_WR_LO Reg.SUMP_WR_HI + aSeg.size < 2 ^ 64 :=
  by refine ⟨?_, ?_, ?_, ?_, ?_⟩ <;> decide +kernel

/-- States and operands that meet the hypotheses of Obligations.ServiceTransfers, clause by clause. -/
theorem witness_ServiceTransfers :
    ((flat tloadCmd).chip.quiet = true ∧ (flat tloadCmd).chip.serviceFree ∧ (flat tloadCmd).offers 0 7 64 tloadCmd ∧ tloadCmd.param 16 8 % 32 = 0 ∧ 0
    < tloadCmd.param 24 2 ∧ tloadCmd.param 24 2 ≤ 1024 ∧ tloadCmd.param 26 1 ≤ 3 ∧ tloadCmd.param 27 1 ≤ 8 ∧ ∀ i ∈ loadInstances tloadCmd,
    (tableRanges i).isEmpty = false) ∧ ((flat captCmd).chip.quiet = true ∧ (flat captCmd).chip.serviceFree ∧ (flat captCmd).offers 0 7 68 captCmd ∧
    captCmd.param 16 1 = 2 ∧ captCmd.param 24 8 % 32 = 0 ∧ 0 < captCmd.param 32 2 ∧ captCmd.param 32 2 ≤ 1024) ∧ ((flat (cmd 240)).chip.quiet = true ∧
    (flat (cmd 240)).chip.serviceFree ∧ (flat (cmd 240)).offers 0 7 240 (cmd 240)) ∧ ((flat (cmd 240)).chip.quiet = true ∧ (flat (cmd
    240)).chip.serviceFree ∧ (flat (cmd 240)).merge.startable 8 240 = none) ∧ (wLoop.chip.quiet = true ∧ wLoop.chip.serviceFree ∧ wLoop.offers 0 7 51
    (cmd 51 [(16, 5)]) ∧ (cmd 51 [(16, 5)]).param 17 1 = 0 ∧ (cmd 51 [(16, 5)]).param 24 8 = 0 ∧ (cmd 51 [(16, 5)]).param 16 1 = 5 ∧ 12 ≤
    wLoop.chip.fld (Fld.WINDLASS_SLOT_CFG_DEST 5) ∧ destListed (wLoop.chip.fld (Fld.WINDLASS_SLOT_CFG_DEST 5)) = true ∧ wLoop.chip.fld
    (Fld.WINDLASS_SLOT_CFG_TRIG 5) = 0 ∧ wLoop.chip.beltOrDrum 5 = false ∧ wLoop.chip.slotRuns 5 = true) ∧ ((wSvc 3 0).chip.resting = true ∧ 24 ≤ 24 ∧
    (wSvc 3 0).chip.dma.xfers = [] ∧ (wSvc 3 0).chip.dma.parked = [] ∧ (wSvc 3 0).chip.dma.owner = List.map (fun i => if i + 24 = 24 then some ((svc
    3).slot, (svc 3).part) else none) (List.range 15) ∧ (wSvc 3 0).chip.dma.jobs = [(24, svc 3)] ∧ (svc 3).phase = 3 ∧ (wSvc 3 0).chip.arbiter (wSvc 3
    0).merge Port.a = none ∧ (wSvc 3 0).merge.entry (svc 3).slot = some capStarted ∧ capStarted.slot = (svc 3).slot ∧ (capStarted.opcode = 68 ∨
    capStarted.opcode = 64 ∧ capStarted.param 26 1 = 3) ∧ (svc 3).bad = 0) ∧ (wSvc 3 5).chip.resting = true ∧ 24 ≤ 24 ∧ (wSvc 3 5).chip.dma.xfers = []
    ∧ (wSvc 3 5).chip.dma.parked = [] ∧ (wSvc 3 5).chip.dma.owner = List.map (fun i => if i + 24 = 24 then some ((svc 3 5).slot, (svc 3 5).part) else
    none) (List.range 15) ∧ (wSvc 3 5).chip.dma.jobs = [(24, svc 3 5)] ∧ (svc 3 5).phase = 3 ∧ (wSvc 3 5).chip.arbiter (wSvc 3 5).merge Port.a = none
    ∧ (wSvc 3 5).merge.entry (svc 3 5).slot = some capStarted ∧ capStarted.slot = (svc 3 5).slot ∧ (capStarted.opcode = 68 ∨ capStarted.opcode = 64 ∧
    capStarted.param 26 1 = 3) ∧ 0 < (svc 3 5).bad :=
  by unfold State.offers Chip.serviceFree; refine ⟨?_, ?_, ?_, ?_, ?_, ?_, ?_⟩ <;> decide +kernel

/-- States and operands that meet the hypotheses of Obligations.QueriesAndMarksWrite, clause by clause. -/
theorem witness_QueriesAndMarksWrite :
    ((flat (cmd 241 [(32, 64)])).chip.working = true ∧ (flat (cmd 241 [(32, 64)])).chip.serviceFree ∧ (flat (cmd 241 [(32, 64)])).chip.mapsFlat (cmd
    241 [(32, 64)]).part 4096 ∧ (flat (cmd 241 [(32, 64)])).chip.flag Fld.POWER_STATUS_HOLDUP = false ∧ (∀ i < 8, ((flat (cmd 241 [(32,
    64)])).chip.img i).page = none) ∧ ((flat (cmd 241 [(32, 64)])).offers 0 7 241 (cmd 241 [(32, 64)]) ∧ (flat (cmd 241 [(32, 64)])).moves ((flat (cmd
    241 [(32, 64)])).chip.owner (cmd 241 [(32, 64)]).part) (cmd 241 [(32, 64)])) ∧ (flat (cmd 241 [(32, 64)])).chip.pages = [] ∧ (cmd 241 [(32,
    64)]).param 16 1 = 0 ∧ (cmd 241 [(32, 64)]).param 32 8 % 64 = 0 ∧ (cmd 241 [(32, 64)]).param 32 8 + 64 ≤ 2 ^ 30) ∧ (wStrip.chip.working = true ∧
    wStrip.chip.serviceFree ∧ wStrip.chip.mapsFlat stripCmd.part 4096 ∧ wStrip.chip.flag Fld.POWER_STATUS_HOLDUP = false ∧ (∀ i < 8, (wStrip.chip.img
    i).page = none) ∧ (wStrip.offers 0 7 67 stripCmd ∧ wStrip.moves (wStrip.chip.owner stripCmd.part) stripCmd) ∧ wStrip.chip.pages = [] ∧
    stripCmd.param 16 1 = 2 + 1 ∧ 2 < 3 ∧ (wStrip.chip.seam.reports.getD 2 []).length = 4 * 1 ∧ 0 < 1 ∧ 1 ≤ 256 ∧ stripCmd.param 24 8 % 4096 = 0 ∧
    stripCmd.param 24 8 + 4096 ≤ 2 ^ 30 ∧ 16 * 1 ≤ stripCmd.param 32 4 ∧ stripCmd.param 32 4 ≤ 16777216) ∧ wMeasure.chip.working = true ∧
    wMeasure.chip.serviceFree ∧ wMeasure.chip.mapsFlat measCmd.part 4096 ∧ wMeasure.chip.flag Fld.POWER_STATUS_HOLDUP = false ∧ (∀ i < 8,
    (wMeasure.chip.img i).page = none) ∧ (wMeasure.offers 0 7 66 measCmd ∧ wMeasure.moves (wMeasure.chip.owner measCmd.part) measCmd) ∧
    wMeasure.chip.pages = [aPage] ∧ aPage.part = measCmd.part ∧ aPage.tag = measCmd.param 32 8 ∧ aPage.running = false ∧ aPage.cut = none ∧
    wMeasure.chip.flag Fld.SEAM_CTL_LSCAN_EN = true ∧ wMeasure.chip.seam.meas = [] ∧ wMeasure.chip.measuring wMeasure.merge measCmd aPage = false ∧
    measCmd.param 16 8 % 16 = 0 ∧ measCmd.param 16 8 + 16 ≤ 2 ^ 30 ∧ measCmd.param 24 2 = 1 ∧ hostBytes mapMem (4096 + measCmd.param 16 8) 16 = some
    mapEntry ∧ mapMark mapEntry = some mapMark1 :=
  by unfold State.offers State.moves Chip.serviceFree Chip.mapsFlat; refine ⟨?_, ?_, ?_⟩ <;> decide +kernel

/-- States and operands that meet the hypotheses of Obligations.CodecCommandsRun, clause by clause. -/
theorem witness_CodecCommandsRun :
    ((flat (codecCmd 69 1 8208)).chip.quiet = true ∧ (flat (codecCmd 69 1 8208)).chip.serviceFree ∧ (flat (codecCmd 69 1 8208)).chip.mapsFlat
    (codecCmd 69 1 8208).part 4096 ∧ 0 % 4096 = 0 ∧ 0 < 64 ∧ 64 ≤ 4096 ∧ 0 + 4096 ≤ 2 ^ 30 ∧ (codecCmd 69 1 8208).param 16 8 + 16 ≤ 2 ^ 30 ∧ (codecCmd
    69 1 8208).param 32 2 = 1 ∧ bit ((codecCmd 69 1 8208).param 46 1) 1 = false ∧ hostBytes (codecMem (List.replicate 64 0#8)) (4096 + (codecCmd 69 1
    8208).param 16 8) 16 = some (leBytes 8 0 ++ leBytes 4 64 ++ leBytes 4 0) ∧ hostBytes (codecMem (List.replicate 64 0#8)) (4096 + 0) 64 = some
    (List.replicate 64 0#8) ∧ ((flat (codecCmd 69 1 8208)).offers 0 7 69 (codecCmd 69 1 8208) ∧ (flat (codecCmd 69 1 8208)).moves ((flat (codecCmd 69
    1 8208)).chip.owner (codecCmd 69 1 8208).part) (codecCmd 69 1 8208)) ∧ codecRange (codecCmd 69 1 8208) false = none ∧ (codecCmd 69 1 8208).param
    34 2 = 1 ∧ (codecCmd 69 1 8208).param 24 8 + 16 ≤ 2 ^ 30 ∧ (codecCmd 69 1 8208).param 40 4 * cdiv ((codecCmd 69 1 8208).param 36 4) 2 = 64 ∧ 4096
    % 4096 = 0 ∧ 4096 + 4096 ≤ 2 ^ 30 ∧ hostBytes (codecMem (List.replicate 64 0#8)) (4096 + (codecCmd 69 1 8208).param 24 8) 16 = some (leBytes 8
    4096 ++ leBytes 4 64 ++ leBytes 4 0) ∧ encodeBands
    { mode := 0, run := bit ((codecCmd 69 1 8208).param 46 1) 0, setK := false, pred := bits ((codecCmd 69 1 8208).param 44 1) 3 0, tset := bits ((codecCmd 69 1 8208).param 44 1) 6 4, period := (codecCmd 69 1 8208).param 45 1, runK := 0, lines := 0 }
    ((codecCmd 69 1 8208).param 36 4) (cdiv ((codecCmd 69 1 8208).param 40 4) 256) 0 (inputLines ((codecCmd 69 1 8208).param 36 4) ((codecCmd 69 1
    8208).param 40 4) 0 (List.replicate 64 0#8)) [] [] 2 0 = (whiteItems, none) ∧ fillBits whiteItems (8 * 64) []
    { bits := [], taken := 0, k := 2, band := 0 } = (whiteBits, [], whiteLast, false) ∧ whiteBits ≠ []) ∧ ((flat (codecCmd 70 0 0)).chip.quiet = true
    ∧ (flat (codecCmd 70 0 0)).chip.serviceFree ∧ (flat (codecCmd 70 0 0)).chip.mapsFlat (codecCmd 70 0 0).part 4096 ∧ 0 % 4096 = 0 ∧ 0 < 28 ∧ 28 ≤
    4096 ∧ 0 + 4096 ≤ 2 ^ 30 ∧ (codecCmd 70 0 0).param 16 8 + 16 ≤ 2 ^ 30 ∧ (codecCmd 70 0 0).param 32 2 = 1 ∧ bit ((codecCmd 70 0 0).param 46 1) 1 =
    false ∧ hostBytes (codecMem whiteCode) (4096 + (codecCmd 70 0 0).param 16 8) 16 = some (leBytes 8 0 ++ leBytes 4 28 ++ leBytes 4 0) ∧ hostBytes
    (codecMem whiteCode) (4096 + 0) 28 = some whiteCode ∧ ((flat (codecCmd 70 0 0)).offers 0 7 70 (codecCmd 70 0 0) ∧ (flat (codecCmd 70 0 0)).moves
    ((flat (codecCmd 70 0 0)).chip.owner (codecCmd 70 0 0).part) (codecCmd 70 0 0)) ∧ codecRange (codecCmd 70 0 0) true = none ∧ (codecCmd 70 0
    0).param 34 2 = 0 ∧ (codecCmd 70 0 0).param 24 8 = 0 ∧ (decodeStream ((codecCmd 70 0 0).param 36 4) ((codecCmd 70 0 0).param 40 4) (cdiv
    ((codecCmd 70 0 0).param 40 4) 256) 0 { up := [], up2 := [], k := 2, cu := { bytes := whiteCode } } []).2 = none) ∧ (flat (codecCmd 70 0
    0)).chip.quiet = true ∧ (flat (codecCmd 70 0 0)).chip.serviceFree ∧ (flat (codecCmd 70 0 0)).chip.mapsFlat (codecCmd 70 0 0).part 4096 ∧ 0 % 4096
    = 0 ∧ 0 < 27 ∧ 27 ≤ 4096 ∧ 0 + 4096 ≤ 2 ^ 30 ∧ (codecCmd 70 0 0).param 16 8 + 16 ≤ 2 ^ 30 ∧ (codecCmd 70 0 0).param 32 2 = 1 ∧ bit ((codecCmd 70 0
    0).param 46 1) 1 = false ∧ hostBytes (codecMem whiteCode.tail) (4096 + (codecCmd 70 0 0).param 16 8) 16 = some (leBytes 8 0 ++ leBytes 4 27 ++
    leBytes 4 0) ∧ hostBytes (codecMem whiteCode.tail) (4096 + 0) 27 = some whiteCode.tail ∧ ((flat (codecCmd 70 0 0)).offers 0 7 70 (codecCmd 70 0 0)
    ∧ (flat (codecCmd 70 0 0)).moves ((flat (codecCmd 70 0 0)).chip.owner (codecCmd 70 0 0).part) (codecCmd 70 0 0)) ∧ codecRange (codecCmd 70 0 0)
    true = none ∧ (codecCmd 70 0 0).param 34 2 = 0 ∧ (codecCmd 70 0 0).param 24 8 = 0 ∧ (decodeStream ((codecCmd 70 0 0).param 36 4) ((codecCmd 70 0
    0).param 40 4) (cdiv ((codecCmd 70 0 0).param 40 4) 256) 0 { up := [], up2 := [], k := 2, cu := { bytes := whiteCode.tail } } []).2 = some (1, 0) :=
  by unfold State.offers State.moves Chip.serviceFree Chip.mapsFlat; refine ⟨?_, ?_, ?_⟩ <;> decide +kernel

/-- States and operands that meet the hypotheses of Obligations.RecorderActs, clause by clause. -/
theorem witness_RecorderActs :
    ((flat recCmd).chip.sound = true ∧ (flat recCmd).chip.still = true ∧ (flat recCmd).chip.fast = true ∧ (flat recCmd).chip.serving = true ∧ (flat
    recCmd).chip.noService = true ∧ (flat recCmd).offers 0 7 71 recCmd ∧ (flat recCmd).chip.fld Fld.SUMP_STATUS_STATE = 0 ∧ recCmd.param 16 1 = 1 ∧
    recCmd.param 24 8 % 4096 = 0 ∧ recCmd.param 32 4 = 2 ^ 30 ∧ recCmd.param 36 4 ≤ 255 ∧ recCmd.param 40 1 ≤ 15 ∧ recCmd.part < 8) ∧ ((flat (cmd
    71)).chip.sound = true ∧ (flat (cmd 71)).chip.still = true ∧ (flat (cmd 71)).chip.fast = true ∧ (flat (cmd 71)).chip.serving = true ∧ (flat (cmd
    71)).chip.noService = true ∧ (flat (cmd 71)).offers 0 7 71 (cmd 71) ∧ (flat (cmd 71)).chip.fld Fld.SUMP_STATUS_STATE = 0 ∧ ((cmd 71).param 16 1 =
    0 ∨ (cmd 71).param 16 1 = 2)) ∧ wRecFrozen.chip.sound = true ∧ wRecFrozen.chip.still = true ∧ wRecFrozen.chip.fast = true ∧
    wRecFrozen.chip.serving = true ∧ wRecFrozen.chip.noService = true ∧ wRecFrozen.offers 0 7 71 (cmd 71) ∧ wRecFrozen.chip.fld Fld.SUMP_STATUS_STATE
    ≠ 0 ∧ (cmd 71).param 16 1 = 0 ∧ wRecFrozen.chip.sump.open_ = [] ∧ wRecFrozen.chip.sump.waiters = [] ∧ wRecFrozen.chip.sump.nextSeq ≤
    wRecFrozen.chip.sump.streamed :=
  by unfold State.offers; refine ⟨?_, ?_, ?_⟩ <;> decide +kernel

end Sys2Proof.Tests
end

section
/-! SUPPORT and settlement of O38 (SmallUnitsAct): the TAP, the Wellhead's own sensor and the reorder window. -/

namespace Sys2Proof.Machine
open Sys2Proof

/-! ### The test access port -/

/-- Raising an event of a sequence-clear register writes no other register. -/
theorem Chip.regsBut_raise (c : Chip) (ev : Nat × Nat) : c.regsBut (c.raise ev) [ev.1] := by
  intro off hoff
  have hne : off ≠ ev.1 := by simpa using hoff
  unfold Chip.raise
  dsimp only
  split
  · exact Chip.reg_setReg_other hne
  · exact Chip.reg_setReg_other hne

/-- A command that hands nothing over leaves merge unit and chip to themselves. -/
theorem publish_nil {now : Nat} {m : Merge} {c : Chip} (h : c.emits = []) : publish now m c = (m, c) := by
  simp [publish, h, Merge.absorb, Chip.logRecords, Chip.each]

/-- The chip after a command of a serving chip that hands nothing over is the command's own effect. -/
theorem State.timed_chip {dt : Nat} {f : Ctx → Chip → Chip} {s : State} (hv : s.chip.serving = true)
    (he : (f (s.ctx dt) s.chip.fresh).emits = []) : (s.timed dt f).chip = f (s.ctx dt) s.chip.fresh := by
  unfold State.ctx State.at_ at *
  simp only [State.timed, State.opened_of_serving hv, publish_nil he]

/-- Between two chips only the TAP's own state and the outputs changed, and the instruction in effect is the same. -/
def Chip.tapMoved (c c' : Chip) : Prop :=
  ∃ sh hd o, c' = { c with eng := { c.eng with tapShift := sh, tapHeld := hd }, outs := c.outs ++ o }

theorem Chip.tapMoved_trans {a b c : Chip} (h : a.tapMoved b) (h' : b.tapMoved c) : a.tapMoved c := by
  obtain ⟨_, _, o, rfl⟩ := h
  obtain ⟨sh, hd, o', rfl⟩ := h'
  exact ⟨sh, hd, o ++ o', by rw [← List.append_assoc]⟩

/-- Driving what the TAP drives appends these outputs, and changes nothing else. -/
theorem Chip.showTap_eq (c : Chip) : c.showTap = { c with outs := c.outs ++ c.tapDrives.map fun e => Out.pin e.1.ball e.1.index e.2 } :=
  Chip.each_send c.tapDrives (fun e => Out.pin e.1.ball e.1.index e.2) c

/-- Under an instruction that drives nothing, nothing is shown. -/
theorem Chip.showTap_of_lt {c : Chip} (h : c.tapActs < 3) : c.showTap = c := by
  simp [Chip.showTap_eq, Chip.tapDrives, h]

/-- The instruction takes effect and shows on the outputs. -/
theorem Chip.tapInstruction_eq (c : Chip) (i : TapInstr) :
    c.tapInstruction i = (({ c with eng := { c.eng with tap := tapCode i } } : Chip).pin "TAP" 0
      (if 3 ≤ tapCode i ∧ c.state ≠ St.sleep then 0 else tapCode i)).showTap := rfl

/-- Shifting bit after bit: the captured bits leave first and then those on TDI, and what has not left stays in the register (R505). -/
theorem Chip.tapShift_each (tdi : List Bool) (c : Chip) (h : c.eng.tapShift ≠ []) :
    (c.each tdi fun b c => (c.tapShiftBit b).2.pin "TDO" 0 (b2n (c.tapShiftBit b).1))
      = { c with
          eng := { c.eng with tapShift := (c.eng.tapShift ++ tdi).drop tdi.length }
          outs := c.outs ++ ((c.eng.tapShift ++ tdi).take tdi.length).map fun b => Out.pin "TDO" 0 (b2n b) } := by
  induction tdi generalizing c with
  | nil => simp [Chip.each]
  | cons b l ih =>
    obtain ⟨a, r, hr⟩ := List.exists_cons_of_ne_nil h
    have hstep : (c.each (b :: l) fun b c => (c.tapShiftBit b).2.pin "TDO" 0 (b2n (c.tapShiftBit b).1))
        = ((c.tapShiftBit b).2.pin "TDO" 0 (b2n (c.tapShiftBit b).1)).each l
          fun b c => (c.tapShiftBit b).2.pin "TDO" 0 (b2n (c.tapShiftBit b).1) := rfl
    rw [hstep, ih _ (by simp [Chip.tapShiftBit, Chip.pin, Chip.send, Chip.updEng])]
    simp [Chip.tapShiftBit, Chip.pin, Chip.send, Chip.updEng, hr]

/-- The bits that Capture-DR loads (R505). -/
def Chip.tapCaptured (c : Chip) (levels : List Bool) : List Bool :=
  if c.tapActs = 1 then (List.range 32).map fun i => bit tapIdcode.toNat i
  else if c.tapBoundary then (List.range boundaryCells.length).map fun i => levels.getD i false
  else [false]

theorem Chip.tapCapture_eq (c : Chip) (levels : List Bool) :
    c.tapCapture levels = { c with eng := { c.eng with tapShift := c.tapCaptured levels } } := rfl

theorem boundaryCells_length_pos : 0 < boundaryCells.length := by decide +kernel

theorem Chip.tapCaptured_ne_nil (c : Chip) (levels : List Bool) : c.tapCaptured levels ≠ [] := by
  unfold Chip.tapCaptured
  split
  · simp
  · split
    · simpa using boundaryCells_length_pos.ne'
    · simp

/-- Update-DR moves the TAP's own state alone. -/
theorem Chip.tapMoved_tapUpdate (c : Chip) : c.tapMoved c.tapUpdate := by
  unfold Chip.tapUpdate
  split
  · rw [Chip.showTap_eq]
    exact ⟨_, _, _, rfl⟩
  · exact ⟨_, _, [], by simp; rfl⟩

/-- A chip after the bits on TDI went through the captured register. -/
def Chip.tapShifted (c : Chip) (levels tdi : List Bool) : Chip :=
  { c with
    eng := { c.eng with tapShift := (c.tapCaptured levels ++ tdi).drop tdi.length }
    outs := c.outs ++ ((c.tapCaptured levels ++ tdi).take tdi.length).map fun b => Out.pin "TDO" 0 (b2n b) }

@[simp] theorem Chip.tapShifted_boundary (c : Chip) (levels tdi : List Bool) : (c.tapShifted levels tdi).tapBoundary = c.tapBoundary := rfl

/-- A scan is a capture, the shifts and an update (R505). -/
theorem Chip.tapScan_eq {c : Chip} {levels tdi : List Bool} (h : tdi ≠ []) : c.tapScan levels tdi = (c.tapShifted levels tdi).tapUpdate := by
  unfold Chip.tapScan
  rw [if_neg h]
  exact congrArg Chip.tapUpdate (Chip.tapShift_each tdi (c.tapCapture levels) (c.tapCaptured_ne_nil levels))

theorem Chip.tapMoved_tapScan (c : Chip) (levels tdi : List Bool) : c.tapMoved (c.tapScan levels tdi) := by
  by_cases h : tdi = []
  · exact ⟨_, _, [], by simp [Chip.tapScan, h]; rfl⟩
  · rw [Chip.tapScan_eq h]
    exact Chip.tapMoved_trans ⟨_, _, _, rfl⟩ (Chip.tapMoved_tapUpdate _)

/-- Under an instruction whose register is not the boundary register, Update-DR does nothing. -/
theorem Chip.tapUpdate_of_not_boundary {c : Chip} (h : c.tapBoundary = false) : c.tapUpdate = c := by simp [Chip.tapUpdate, h]

/-- Update-DR of the boundary register: its update stage takes what was shifted in. -/
theorem Chip.tapUpdate_held {c : Chip} (h : c.tapBoundary = true) : c.tapUpdate.eng.tapHeld = c.eng.tapShift := by
  simp [Chip.tapUpdate, h, Chip.showTap_eq, Chip.updEng]

/-- An instruction that drives no ball shows itself alone. -/
theorem Chip.tapInstruction_of_lt {c : Chip} {i : TapInstr} (h : tapCode i < 3) :
    c.tapInstruction i = ({ c with eng := { c.eng with tap := tapCode i } } : Chip).pin "TAP" 0 (tapCode i) := by
  have hn : ¬ (3 ≤ tapCode i ∧ c.state ≠ St.sleep) := by omega
  rw [Chip.tapInstruction_eq, if_neg hn]
  refine Chip.showTap_of_lt ?_
  show (if 3 ≤ tapCode i ∧ c.state ≠ St.sleep then 0 else tapCode i) < 3
  rwa [if_neg hn]

/-- The instruction in effect is the one given, except that EXTEST, CLAMP and HIGHZ act as BYPASS outside SLEEP (R505). -/
theorem Chip.tapInstruction_acts (c : Chip) (i : TapInstr) :
    (c.tapInstruction i).tapActs = if 3 ≤ tapCode i ∧ c.state ≠ St.sleep then 0 else tapCode i := by
  rw [Chip.tapInstruction_eq, Chip.showTap_eq]
  rfl

/-- The whole effect of TAP_INSTRUCTION on the chip. -/
theorem Chip.tapMoved_tap {c : Chip} {i : TapInstr} {levels tdi : List Bool} :
    (({ c with eng := { c.eng with tap := tapCode i } } : Chip).pin "TAP" 0
      (if 3 ≤ tapCode i ∧ c.state ≠ St.sleep then 0 else tapCode i)).tapMoved ((c.tapInstruction i).tapScan levels tdi) :=
  Chip.tapMoved_trans (by rw [Chip.tapInstruction_eq, Chip.showTap_eq]; exact ⟨_, _, _, rfl⟩) (Chip.tapMoved_tapScan _ levels tdi)

/-- A scan of a register that is not the boundary register shows on TDO the captured bits and then those on TDI, as many as there are bits on TDI. -/
theorem Chip.tapScan_outs {c : Chip} {levels tdi : List Bool} (h : c.tapBoundary = false) :
    (c.tapScan levels tdi).outs = c.outs ++ ((c.tapCaptured levels ++ tdi).take tdi.length).map fun b => Out.pin "TDO" 0 (b2n b) := by
  by_cases hn : tdi = []
  · simp [Chip.tapScan, hn]
  · rw [Chip.tapScan_eq hn, Chip.tapUpdate_of_not_boundary (by simpa using h)]
    rfl

/-- TAP_INSTRUCTION of a serving chip is its effect on the chip alone, at the instant it comes. -/
theorem exec_tapInstruction {dt : Nat} {s : State} (hv : s.chip.serving = true) (i : TapInstr) (levels tdi : List Bool) :
    ∃ t, exec (.tapInstruction dt i levels tdi) s = .next t ∧ t.chip = (s.chip.fresh.tapInstruction i).tapScan levels tdi
      ∧ t.clock.time = s.at_ dt := by
  refine ⟨_, rfl, State.timed_chip hv ?_, rfl⟩
  obtain ⟨_, _, _, h⟩ := Chip.tapMoved_tap (c := s.chip.fresh) (i := i) (levels := levels) (tdi := tdi)
  rw [h]
  rfl

/-- IDCODE shifts the identification code out, its low bit first (R505). -/
theorem Chip.idcode_outs {c : Chip} (ho : c.outs = []) {levels tdi : List Bool} (h : tdi.length = 32) :
    ((c.tapInstruction .idcode).tapScan levels tdi).outs
      = Out.pin "TAP" 0 1 :: (List.range 32).map fun k => Out.pin "TDO" 0 (b2n (bit tapIdcode.toNat k)) := by
  have ha : (c.tapInstruction .idcode).tapActs = 1 := Chip.tapInstruction_acts c .idcode
  have hc : (c.tapInstruction .idcode).tapCaptured levels = (List.range 32).map fun k => bit tapIdcode.toNat k := by
    rw [Chip.tapCaptured, if_pos ha]
  have hi : (c.tapInstruction .idcode).outs = [Out.pin "TAP" 0 1] := by
    rw [Chip.tapInstruction_of_lt (by decide)]
    simp [Chip.pin, Chip.send, ho, tapCode]
  rw [Chip.tapScan_outs (by simp [Chip.tapBoundary, ha]), hc, hi, List.take_left' (by simp [h]), List.map_map]
  rfl

/-- BYPASS shifts the bits on TDI out one bit late behind a 0 (R505). -/
theorem Chip.bypass_outs {c : Chip} (ho : c.outs = []) {levels tdi : List Bool} :
    ((c.tapInstruction .bypass).tapScan levels tdi).outs
      = Out.pin "TAP" 0 0 :: ((false :: tdi).take tdi.length).map fun b => Out.pin "TDO" 0 (b2n b) := by
  have ha : (c.tapInstruction .bypass).tapActs = 0 := Chip.tapInstruction_acts c .bypass
  have hb : (c.tapInstruction .bypass).tapBoundary = false := by simp [Chip.tapBoundary, ha]
  have hc : (c.tapInstruction .bypass).tapCaptured levels = [false] := by simp [Chip.tapCaptured, ha, hb]
  have hi : (c.tapInstruction .bypass).outs = [Out.pin "TAP" 0 0] := by
    rw [Chip.tapInstruction_of_lt (by decide)]
    simp [Chip.pin, Chip.send, ho, tapCode]
  rw [Chip.tapScan_outs hb, hc, hi]
  rfl

/-- EXTEST in SLEEP: the update stage takes what the scan left in the boundary register (R505). -/
theorem Chip.extest_held {c : Chip} (hs : c.state = St.sleep) {levels tdi : List Bool} (h : tdi ≠ []) :
    ((c.tapInstruction .extest).tapScan levels tdi).eng.tapHeld
      = (((List.range boundaryCells.length).map fun k => levels.getD k false) ++ tdi).drop tdi.length := by
  have ha : (c.tapInstruction .extest).tapActs = 3 := by simp [Chip.tapInstruction_acts, hs, tapCode]
  have hb : (c.tapInstruction .extest).tapBoundary = true := by simp [Chip.tapBoundary, ha]
  rw [Chip.tapScan_eq h, Chip.tapUpdate_held (by simpa using hb)]
  simp [Chip.tapShifted, Chip.tapCaptured, ha, hb]

/-! ### The Wellhead's own sensor -/

theorem Chip.safety_raise (c : Chip) (ev : Nat × Nat) : (c.raise ev).safety = c.safety := by
  unfold Chip.raise
  dsimp only
  split
  · rfl
  · rfl

/-- The chip after a reading of the Wellhead's sensor: the temperature, whether its correction is limited, and the event of a correction that has just become limited (R398). -/
def Chip.wellheadNoted (c : Chip) (temp : Int) (far : Bool) : Chip :=
  let c' := c.updSafety fun x => { x with wellTemp := temp, wellRange := far }
  if far && !c.safety.wellRange then c'.raise Ev.SAFETY_EVENT_XTAL_COMP_RANGE else c'

theorem Chip.wellheadNoted_frame (c : Chip) (temp : Int) (far : Bool) :
    (c.wellheadNoted temp far).safety.wellTemp = temp ∧ c.regsBut (c.wellheadNoted temp far) [Reg.SAFETY_EVENT] := by
  unfold Chip.wellheadNoted
  dsimp only
  split
  · exact ⟨by rw [Chip.safety_raise]; rfl, Chip.regsBut_raise (c.updSafety _) Ev.SAFETY_EVENT_XTAL_COMP_RANGE⟩
  · exact ⟨rfl, fun _ _ => rfl⟩

/-- WELLHEAD_SENSOR_READ while the fast clocks run: time passes, and nothing else. -/
theorem State.wellheadRead_of_fast {dt : Nat} {temp : Int} {s : State} (hv : s.chip.serving = true) (hf : s.chip.fast = true) :
    s.wellheadRead dt temp = { s with clock := s.elapsed dt, chip := s.chip.fresh } := by
  simp only [State.wellheadRead, State.opened_of_serving hv, hf, if_true]

/-- WELLHEAD_SENSOR_READ while they stand still: the ticks since the last reading are corrected at this temperature, and a new interval starts (R29, R398). -/
theorem State.wellheadRead_of_still {dt : Nat} {temp : Int} {s : State} (hv : s.chip.serving = true) (hf : s.chip.fast = false) :
    ∃ far, s.wellheadRead dt temp = { s with
      clock := { s.elapsed dt with
        sinceRead := 0
        corr := (s.elapsed dt).corr - ((s.elapsed dt).sinceRead : Int) * xtalLimit (xtalPoly (fun i => s.chip.reg (Reg.THERMAL_XTAL_WELL i)) temp) }
      chip := s.chip.fresh.wellheadNoted temp far } := by
  simp only [State.wellheadRead, State.opened_of_serving hv, hf, Bool.false_eq_true, if_false]
  exact ⟨_, rfl⟩

/-- While the fast clocks stand still the Wellhead counts, and engine time waits (R29). -/
theorem State.elapsed_of_still {s : State} (dt : Nat) (hf : s.chip.fast = false) :
    s.elapsed dt = { s.clock with slept := s.clock.slept + dt, sinceRead := s.clock.sinceRead + dt } := by
  simp [State.elapsed, Clock.elapse, hf]

/-! ### The reorder window -/

/-- What is held for a partition is not an event of the window, and takes no number. -/
theorem Merge.hold_frame (m : Merge) (p : Nat) (r : Rec) : (m.hold p r).reorder = m.reorder ∧ (m.hold p r).nextSeq = m.nextSeq := by
  unfold Merge.hold
  repeat' split
  all_goals exact ⟨rfl, rfl⟩

theorem Merge.postEvent_frame (c : Chip) (m : Merge) (p : Nat) (r : Rec) :
    (m.postEvent c p r).reorder = m.reorder ∧ (m.postEvent c p r).nextSeq = m.nextSeq := by
  unfold Merge.postEvent
  dsimp only
  repeat' split
  · exact m.hold_frame p _
  · exact ⟨rfl, rfl⟩
  · exact m.hold_frame p _

theorem Merge.postEvents_frame (c : Chip) (ps : List Nat) (r : Rec) (m : Merge) :
    (ps.foldl (fun m p => m.postEvent c p r) m).reorder = m.reorder ∧ (ps.foldl (fun m p => m.postEvent c p r) m).nextSeq = m.nextSeq := by
  induction ps generalizing m with
  | nil => exact ⟨rfl, rfl⟩
  | cons p ps ih =>
    obtain ⟨h1, h2⟩ := ih (m.postEvent c p r)
    obtain ⟨h3, h4⟩ := m.postEvent_frame c p r
    exact ⟨h1.trans h3, h2.trans h4⟩

/-- An event record takes one number, and leaves the window as it is (R30). -/
theorem Merge.event_frame (c : Chip) (now : Nat) (m : Merge) (e : Ev) :
    (m.event c now e).2.reorder = m.reorder ∧ (m.event c now e).2.nextSeq = m.nextSeq + 1 :=
  Merge.postEvents_frame c _ _ { m with nextSeq := m.nextSeq + 1 }

/-- Events entered one after the other take a number each. -/
theorem Merge.events_frame (c : Chip) (now : Nat) (due : List (Nat × Nat × Nat × Ev)) (a : List Rec × Merge) :
    let x := due.foldl (fun (a : List Rec × Merge) x =>
      let (r, m) := a.2.event c now { x.2.2.2 with time := some x.2.1 }; (a.1 ++ [r], m)) a
    x.2.reorder = a.2.reorder ∧ x.2.nextSeq = a.2.nextSeq + due.length := by
  induction due generalizing a with
  | nil => exact ⟨rfl, rfl⟩
  | cons e due ih =>
    obtain ⟨h1, h2⟩ := ih ((a.1 ++ [(a.2.event c now { e.2.2.2 with time := some e.2.1 }).1],
      (a.2.event c now { e.2.2.2 with time := some e.2.1 }).2))
    obtain ⟨h3, h4⟩ := a.2.event_frame c now { e.2.2.2 with time := some e.2.1 }
    refine ⟨h1.trans h3, h2.trans ?_⟩
    rw [h4, List.length_cons]
    omega

/-- The end of the window enters each event whose 16 us have passed, with a number of its own, and keeps the others (R457). -/
theorem Merge.endWindow_frame (c : Chip) (now : Nat) (m : Merge) :
    (m.endWindow c now).2.reorder = (m.reorder.filter fun x => !decide (x.2.1 + 16000 ≤ now))
      ∧ (m.endWindow c now).2.nextSeq = m.nextSeq + (m.reorder.filter fun x => decide (x.2.1 + 16000 ≤ now)).length :=
  Merge.events_frame c now _ ([], { m with reorder := m.reorder.filter fun x => !decide (x.2.1 + reorderWindow ≤ now) })

/-- The TAP's clauses of SmallUnitsAct. -/
theorem tapInstruction_acts {dt : Nat} {s : State} (hv : s.chip.serving = true) (i : TapInstr) (levels tdi : List Bool) :
    ∃ t, exec (.tapInstruction dt i levels tdi) s = .next t ∧ t.chip.eng.tap = tapCode i ∧ s.chip.regsBut t.chip []
      ∧ t.drove "TAP" 0 (if 3 ≤ tapCode i ∧ s.chip.state ≠ St.sleep then 0 else tapCode i) ∧ t.clock.time = s.at_ dt
      ∧ (i = .idcode → tdi.length = 32 →
        t.chip.outs = Out.pin "TAP" 0 1 :: (List.range 32).map fun k => Out.pin "TDO" 0 (b2n (bit tapIdcode.toNat k)))
      ∧ (i = .bypass → t.chip.outs = Out.pin "TAP" 0 0 :: ((false :: tdi).take tdi.length).map fun b => Out.pin "TDO" 0 (b2n b))
      ∧ (i = .extest → s.chip.state = St.sleep → tdi ≠ [] →
        t.chip.eng.tapHeld = (((List.range boundaryCells.length).map fun k => levels.getD k false) ++ tdi).drop tdi.length) := by
  obtain ⟨t, ht, hc, hk⟩ := exec_tapInstruction (dt := dt) hv i levels tdi
  obtain ⟨sh, hd, o, hm⟩ := Chip.tapMoved_tap (c := s.chip.fresh) (i := i) (levels := levels) (tdi := tdi)
  have hm := hc.trans hm
  refine ⟨t, ht, by rw [hm]; rfl, fun off _ => by rw [hm]; rfl, ?_, hk, ?_, ?_, ?_⟩
  · rw [State.drove, hm]
    exact List.mem_append_left o (List.mem_append_right _ (List.mem_singleton.2 rfl))
  · rintro rfl h
    exact hc ▸ Chip.idcode_outs rfl h
  · rintro rfl
    exact hc ▸ Chip.bypass_outs rfl
  · rintro rfl hs h
    exact hc ▸ Chip.extest_held (c := s.chip.fresh) hs h

/-- The clauses of SmallUnitsAct for the Wellhead's own sensor. -/
theorem wellheadSensorRead_acts {dt : Nat} {s : State} (hv : s.chip.serving = true) (temp : BitVec 16) :
    ∃ t, exec (.wellheadSensorRead dt temp) s = .next t ∧ t.merge = s.merge
      ∧ (s.chip.fast = true → t.chip = s.chip.fresh ∧ t.clock = s.elapsed dt)
      ∧ (s.chip.fast = false → t.chip.safety.wellTemp = temp.toInt ∧ t.clock.time = s.clock.time ∧ t.clock.slept = s.clock.slept + dt
        ∧ t.clock.sinceRead = 0 ∧ t.clock.corr = s.clock.corr
          - ((s.clock.sinceRead + dt : Nat) : Int) * xtalLimit (xtalPoly (fun i => s.chip.reg (Reg.THERMAL_XTAL_WELL i)) temp.toInt)
        ∧ s.chip.regsBut t.chip [Reg.SAFETY_EVENT]) := by
  refine ⟨s.wellheadRead dt temp.toInt, rfl, ?_⟩
  cases hf : s.chip.fast with
  | true =>
    rw [State.wellheadRead_of_fast hv hf]
    exact ⟨rfl, fun _ => ⟨rfl, rfl⟩, fun h => absurd h (by decide)⟩
  | false =>
    obtain ⟨far, h⟩ := State.wellheadRead_of_still (dt := dt) (temp := temp.toInt) hv hf
    obtain ⟨ht, hr⟩ := s.chip.fresh.wellheadNoted_frame temp.toInt far
    rw [h, State.elapsed_of_still dt hf]
    exact ⟨rfl, fun h => absurd h (by decide), fun _ => ⟨ht, rfl, rfl, rfl, rfl, hr⟩⟩

/-- The clauses of SmallUnitsAct for the reorder window. -/
theorem reorderWindowEnd_acts {dt : Nat} {s : State} (hq : s.chip.quiet = true) :
    ∃ t, exec (.reorderWindowEnd dt) s = .next t ∧ s.chip.regsBut t.chip []
      ∧ t.merge.reorder = (s.merge.reorder.filter fun x => !decide (x.2.1 + 16000 ≤ s.at_ dt))
      ∧ t.merge.nextSeq = s.merge.nextSeq + (s.merge.reorder.filter fun x => decide (x.2.1 + 16000 ≤ s.at_ dt)).length := by
  obtain ⟨hv, -, hs, -, hr, hn⟩ := Chip.quiet_iff.1 hq
  have hset (m : Merge) : settle (s.at_ dt) (m, s.chip.fresh) = (m, s.chip.fresh) :=
    have hn : s.chip.fresh.noService = true := hn
    settle_still hs (Chip.service_of_none hn).1 (Chip.service_of_none hn).2
  have hx : s.timedMerge dt (fun now x => settle now (let r := x.1.endWindow x.2 now; (r.2, x.2.logRecords now r.1)))
      = { s with
          clock := s.elapsed dt, merge := (s.merge.endWindow s.chip.fresh (s.at_ dt)).2, chip := s.chip.fresh
          firm := s.firm.follow (s.at_ dt) (s.merge.endWindow s.chip.fresh (s.at_ dt)).2 s.chip.fresh } := by
    unfold State.at_ at *
    simp only [State.timedMerge, State.opened_of_serving hv, Chip.logRecords_idle (c := s.chip.fresh) hr, hset]
    rw [publish_nil rfl]
  obtain ⟨h1, h2⟩ := s.merge.endWindow_frame s.chip.fresh (s.at_ dt)
  exact ⟨_, congrArg Host.Outcome.next hx, fun _ _ => rfl, h1, h2⟩

/-- Settles O38: each unit's own effect is all that its command does. -/
theorem smallUnitsAct : Obligations.SmallUnitsAct := by
  unfold Obligations.SmallUnitsAct
  intro dt s hv
  exact ⟨tapInstruction_acts hv, wellheadSensorRead_acts hv, reorderWindowEnd_acts⟩

end Sys2Proof.Machine
end

section
/-! SUPPORT and settlement of O2 (EveryCommandCompletes): the shapes of a timed run and what each does to time and queue. -/

namespace Sys2Proof.Machine
open Sys2Proof

/-- What every command but a new start does to the queue and to engine time when `dt` ns have passed: the queue stays, time does not go back, and while the fast clocks run it goes on by what `Clock.elapse` gives (R5, R29). -/
def State.Advances (s t : State) (dt : Nat) : Prop :=
  t.pending = s.pending ∧ s.clock.time ≤ t.clock.time ∧ (s.chip.fast = true → t.clock.time = s.at_ dt)

/-- Engine time does not go back while time passes, whatever the correction of REF. -/
theorem State.time_le_at (s : State) (dt : Nat) : s.clock.time ≤ s.at_ dt := by
  unfold State.at_ State.elapsed Clock.elapse
  split
  · exact Nat.le_add_right _ _
  · exact le_rfl

/-- Without a correction, whole ns of REF are whole ns of engine time (R5, R398). -/
theorem State.at_of_uncorrected {s : State} (dt : Nat) (hf : s.chip.fast = true) (hc : s.chip.safety.refCorr = 0)
    (hr : s.clock.rest < 65536000000) : s.at_ dt = s.clock.time + dt := by
  have hn : ((dt : Int) * 65536000000 - dt * 0 + s.clock.rest) / 65536000000 = dt := by omega
  simp only [State.at_, State.elapsed, Clock.elapse, hf, hc, hn, if_true, Int.toNat_natCast]

/-- A restart of the fast clocks sets engine time forward (R29). -/
theorem Clock.time_le_restart (k : Clock) : k.time ≤ k.restart.time := Nat.le_add_right _ _

theorem State.advances_timed (dt : Nat) (f : Ctx → Chip → Chip) (s : State) : s.Advances (s.timed dt f) dt :=
  ⟨rfl, s.time_le_at dt, fun _ => rfl⟩

theorem State.advances_timedMerge (dt : Nat) (f : Nat → Merge × Chip → Merge × Chip) (s : State) : s.Advances (s.timedMerge dt f) dt :=
  ⟨rfl, s.time_le_at dt, fun _ => rfl⟩

/-- A command that may wake the block lets time go on as any other while the fast clocks run. -/
theorem State.advances_restarted (dt : Nat) (go : Chip → Bool) (f : Nat → Merge × Chip → Merge × Chip) (s : State) :
    s.Advances (s.restarted dt go f) dt := by
  refine ⟨rfl, ?_, fun hf => ?_⟩
  · unfold State.restarted
    dsimp only
    split
    · exact (s.time_le_at dt).trans (Clock.time_le_restart (s.corrected (s.elapsed dt)))
    · exact s.time_le_at dt
  · simp [State.restarted, hf, State.at_]

theorem State.advances_wellheadRead (dt : Nat) (temp : Int) (s : State) : s.Advances (s.wellheadRead dt temp) dt := by
  unfold State.wellheadRead
  dsimp only
  split
  · exact ⟨rfl, s.time_le_at dt, fun _ => rfl⟩
  · exact ⟨rfl, s.time_le_at dt, fun _ => rfl⟩

/-- A write of the register window, whether one word or two, is a command that may wake the block. -/
theorem State.advances_execRegisterWrite (dt : Nat) (q : Port) (off : BitVec 28) (v : Word) (be : BitVec 4) (upper : Option (Word × BitVec 4))
    (s : State) : ∃ t, execRegisterWrite dt q off v be upper s = .next t ∧ s.Advances t dt := by
  cases upper with
  | none => exact ⟨_, rfl, s.advances_restarted dt _ _⟩
  | some p => exact ⟨_, rfl, s.advances_restarted dt _ _⟩

/-- A cold start answers a next state with the same queue. -/
theorem pending_execColdStart (dt : Nat) (msel mainOk : Bool) (vback : BitVec 16) (a : BitVec 2) (s : State) :
    ∃ t, execColdStart dt msel mainOk vback a s = .next t ∧ t.pending = s.pending := ⟨_, rfl, rfl⟩

/-- So does a power-on reset, with the Wellhead held or not. -/
theorem pending_execPowerOnReset (dt : Nat) (msel mainOk : Bool) (vback : BitVec 16) (s : State) :
    ∃ t, execPowerOnReset dt msel mainOk vback s = .next t ∧ t.pending = s.pending := by
  unfold execPowerOnReset
  split
  · exact ⟨_, rfl, rfl⟩
  · exact ⟨_, rfl, rfl⟩

/-- Every command but the two that may start the count of engine time anew answers a next state that advances the state before it. -/
theorem exec_advances (c : Instr) (s : State) (hc : ∀ dt m o v a, c ≠ .coldStart dt m o v a) (hp : ∀ dt m o v, c ≠ .powerOnReset dt m o v) :
    ∃ t, exec c s = .next t ∧ s.Advances t c.elapsed := by
  cases c
  case coldStart dt m o v a => exact absurd rfl (hc dt m o v a)
  case powerOnReset dt m o v => exact absurd rfl (hp dt m o v)
  case registerWrite dt q off v be upper => exact s.advances_execRegisterWrite dt q off v be upper
  case wellheadSensorRead dt temp => exact ⟨_, rfl, s.advances_wellheadRead dt _⟩
  case tapInstruction dt tap levels tdi => exact ⟨_, rfl, s.advances_timed dt _⟩
  case engineReset dt q v | partitionReset dt q v | portReset dt q v | i2cWake dt byte | bitAliasWrite dt q off v | maskedWrite dt q off v
      | sqClearWrite dt q off v | guardFirstWrite dt q off v | guardedPairWrite dt q off v | partOwnerWrite dt q v | wakeRegisterWrite dt q v
      | partitionAttach dt q p v | xlatRootApply dt q p v | xlatInvalidate dt q p v | tileEnableWrite dt q t v | hvRearm dt q k v
      | ilkClear dt q v | sumpTrig dt q v | sumpRdWrite dt q hi v | muleEnableWrite dt q m v | muleProfileWrite dt q m which v
      | slotEnableWrite dt q n v =>
    exact ⟨_, rfl, s.advances_restarted dt _ _⟩
  all_goals exact ⟨_, rfl, s.advances_timedMerge _ _⟩

/-- Settles O2: each command's meaning is one of the few shapes of a timed run, and each shape advances the state. -/
theorem everyCommandCompletes : Obligations.EveryCommandCompletes := by
  unfold Obligations.EveryCommandCompletes
  intro c s
  by_cases hc : ∃ dt m o v a, c = .coldStart dt m o v a
  · obtain ⟨dt, m, o, v, a, rfl⟩ := hc
    obtain ⟨t, ht, hp⟩ := pending_execColdStart dt m o v a s
    exact ⟨t, ht, hp, fun h => absurd rfl (h dt m o v a)⟩
  by_cases hp : ∃ dt m o v, c = .powerOnReset dt m o v
  · obtain ⟨dt, m, o, v, rfl⟩ := hp
    obtain ⟨t, ht, hq⟩ := pending_execPowerOnReset dt m o v s
    exact ⟨t, ht, hq, fun _ h => absurd rfl (h dt m o v)⟩
  push Not at hc hp
  obtain ⟨t, ht, hq, hle, hat⟩ := exec_advances c s hc hp
  exact ⟨t, ht, hq, fun _ _ => ⟨hle, hat, fun hf h0 hr => (hat hf).trans (State.at_of_uncorrected c.elapsed hf h0 hr)⟩⟩

end Sys2Proof.Machine
end

section
/-! SUPPORT and settlement of O4 (SoundKept): for each operation of the model, that it keeps a chip sound. -/

namespace Sys2Proof.Machine
open Sys2Proof
-- One proof at a time, as in the tests: elaborated at once, so many short proofs hold more threads than the check's memory allows.
set_option Elab.async false

/-! ### What a sound chip is -/

/-- The parts of `Chip.sound`: three stores in canonical form and as many units as the block has. -/
structure Chip.Sound (c : Chip) : Prop where
  regs : Sparse.wf RegMap.resetOf c.regs = true
  shadow : Sparse.wf (tableDefault c.nominal) c.shadow = true
  active : Sparse.wf (tableDefault c.nominal) c.active = true
  shape : c.shape = Chip.unitCounts

theorem Chip.sound_iff {c : Chip} : c.sound = true ↔ c.Sound := by
  simp only [Chip.sound, Chip.canonical, Bool.and_eq_true, beq_iff_eq]
  exact ⟨fun ⟨⟨⟨h1, h2⟩, h3⟩, h4⟩ => ⟨h1, h2, h3, h4⟩, fun ⟨h1, h2, h3, h4⟩ => ⟨⟨⟨h1, h2⟩, h3⟩, h4⟩⟩

/-- All of a chip that `Chip.Sound` speaks of. -/
def Chip.core (c : Chip) : List (Nat × Word) × List Host.Cell × List Host.Cell × List Nat × List Nat :=
  (c.regs, c.shadow, c.active, c.nominal, c.shape)

/-- A change outside the stores and the numbers of units keeps a chip sound. -/
theorem Chip.Sound.same {c c' : Chip} (h : c.Sound) (e : c'.core = c.core := by rfl) : c'.Sound := by
  simp only [Chip.core, Prod.mk.injEq] at e
  obtain ⟨h1, h2, h3, h4, h5⟩ := e
  exact ⟨h1 ▸ h.regs, h4 ▸ h2 ▸ h.shadow, h4 ▸ h3 ▸ h.active, h5.trans h.shape⟩

@[simp] theorem length_updAt {α : Type} (l : List α) (i : Nat) (f : α → α) : (updAt l i f).length = l.length := by
  induction l generalizing i with
  | nil => rfl
  | cons x xs ih => cases i with
    | zero => rfl
    | succ i => simp [updAt, ih]

/-! ### Control flow -/

theorem Chip.Sound.ite {a b : Chip} {p : Prop} {i : Decidable p} (ha : a.Sound) (hb : b.Sound) : (if p then a else b).Sound := by
  split
  · exact ha
  · exact hb

theorem Chip.Sound.iteFst {α : Type} {a b : Chip × α} {p : Prop} {i : Decidable p} (ha : a.1.Sound) (hb : b.1.Sound) :
    (if p then a else b).1.Sound := by
  split
  · exact ha
  · exact hb

theorem Chip.Sound.iteSnd {α : Type} {a b : α × Chip} {p : Prop} {i : Decidable p} (ha : a.2.Sound) (hb : b.2.Sound) :
    (if p then a else b).2.Sound := by
  split
  · exact ha
  · exact hb

theorem Chip.Sound.foldl {α : Type} {c : Chip} {l : List α} {f : Chip → α → Chip} (h : c.Sound)
    (hf : ∀ c x, c.Sound → (f c x).Sound) : (l.foldl f c).Sound := by
  induction l generalizing c with
  | nil => exact h
  | cons x l ih => exact ih (hf c x h)

theorem Chip.Sound.foldlSnd {α β : Type} {y : β × Chip} {l : List α} {f : β × Chip → α → β × Chip} (h : y.2.Sound)
    (hf : ∀ y x, y.2.Sound → (f y x).2.Sound) : (l.foldl f y).2.Sound := by
  induction l generalizing y with
  | nil => exact h
  | cons x l ih => exact ih (hf y x h)

theorem Chip.Sound.each {α : Type} {c : Chip} {l : List α} {f : α → Chip → Chip} (h : c.Sound)
    (hf : ∀ x c, c.Sound → (f x c).Sound) : (c.each l f).Sound := h.foldl fun c x => hf x c

/-- What follows from the soundness of a chip on the way may use it more than once. -/
theorem Chip.Sound.use {a b : Chip} (h : a.Sound) (k : a.Sound → b.Sound) : b.Sound := k h

theorem Chip.Sound.pair {α : Type} {a : α} {c : Chip} (h : c.Sound) : (a, c).2.Sound := h

theorem Chip.Sound.pairFst {α : Type} {a : α} {c : Chip} (h : c.Sound) : (c, a).1.Sound := h

/-- The chip of a pair that is known. -/
theorem Chip.Sound.snd {α : Type} {y : α × Chip} {a : α} {c : Chip} (e : y = (a, c)) (h : y.2.Sound) : c.Sound := by
  subst e
  exact h

theorem Chip.Sound.elim {α : Type} {c : Chip} {o : Option α} {f : α → Chip} (h : c.Sound) (hf : ∀ x, (f x).Sound) : (o.elim c f).Sound := by
  cases o with
  | none => exact h
  | some x => exact hf x

/-! ### Transfers that may fail -/

/-- A stretch that may fail: `P` holds of its failure, `Q` of its result. -/
def Both {ε α : Type} (P : ε → Prop) (Q : α → Prop) : Except ε α → Prop
  | .error e => P e
  | .ok x => Q x

section
variable {ε α β : Type} {P : ε → Prop} {Q : α → Prop} {R : β → Prop} {r : Except ε α}

theorem Both.error {e : ε} (h : Both P Q r) (hr : r = .error e) : P e := by
  subst hr
  exact h

theorem Both.ok {x : α} (h : Both P Q r) (hr : r = .ok x) : Q x := by
  subst hr
  exact h

theorem Both.bind {f : α → Except ε β} (h : Both P Q r) (k : ∀ x, Q x → Both P R (f x)) : Both P R (r >>= f) := by
  cases r with
  | error e => exact h
  | ok x => exact k x h

theorem Both.foldlM {l : List β} {f : α → β → Except ε α} {x : α} (h : Q x) (k : ∀ x y, Q x → Both P Q (f x y)) :
    Both P Q (l.foldlM f x) := by
  induction l generalizing x with
  | nil => exact h
  | cons y l ih => exact (k x y h).bind fun x hx => ih hx

theorem Both.ite {p : Prop} {i : Decidable p} {a b : Except ε α} (ha : Both P Q a) (hb : Both P Q b) : Both P Q (if p then a else b) := by
  split
  · exact ha
  · exact hb

end

/-! ### Primitive updates -/

theorem Chip.Sound.setReg {c : Chip} {off : Nat} {v : Word} (h : c.Sound) : (c.setReg off v).Sound :=
  ⟨Sparse.wf_put h.regs, h.shadow, h.active, h.shape⟩

/-- An update that keeps the stores and the default banks keeps a chip sound if it keeps the numbers of units. -/
theorem Chip.Sound.reshaped {c c' : Chip} (h : c.Sound) (e : c'.shape = c.shape) (er : c'.regs = c.regs := by rfl)
    (es : c'.shadow = c.shadow := by rfl) (ea : c'.active = c.active := by rfl) (en : c'.nominal = c.nominal := by rfl) : c'.Sound :=
  h.same (by simp only [Chip.core, e, er, es, ea, en])

theorem Chip.Sound.slots_length {c : Chip} (h : c.Sound) : c.wl.slots.length = 96 := by
  have hs := h.shape
  simp only [Chip.shape, Chip.unitCounts, List.cons.injEq] at hs
  simp only [hs]

theorem Chip.Sound.roots_length {c : Chip} (h : c.Sound) : c.xlat.roots.length = 8 := by
  have hs := h.shape
  simp only [Chip.shape, Chip.unitCounts, List.cons.injEq] at hs
  simp only [hs]

theorem Chip.Sound.fbCopy_length {c : Chip} (h : c.Sound) : c.fbCopy.length = 16 := by
  have hs := h.shape
  simp only [Chip.shape, Chip.unitCounts, List.cons.injEq] at hs
  simp only [hs]

theorem Chip.Sound.updEng {c : Chip} {f : Eng → Eng} (h : c.Sound) : (c.updEng f).Sound := h.same
theorem Chip.Sound.updSump {c : Chip} {f : Sump → Sump} (h : c.Sound) : (c.updSump f).Sound := h.same
theorem Chip.Sound.updSeam {c : Chip} {f : Seam → Seam} (h : c.Sound) : (c.updSeam f).Sound := h.same

theorem Chip.Sound.updXlat {c : Chip} {f : Xlat → Xlat} (h : c.Sound) (er : (f c.xlat).roots.length = c.xlat.roots.length := by rfl)
    (ei : (f c.xlat).invals.length = c.xlat.invals.length := by rfl) : (c.updXlat f).Sound :=
  h.reshaped (by simp [Chip.shape, Chip.updXlat, er, ei])

theorem Chip.Sound.updDma {c : Chip} {f : Dma → Dma} (h : c.Sound) (ei : (f c.dma).img.length = c.dma.img.length := by rfl)
    (eo : (f c.dma).owner.length = c.dma.owner.length := by rfl) : (c.updDma f).Sound :=
  h.reshaped (by simp [Chip.shape, Chip.updDma, ei, eo])

theorem Chip.Sound.updTxn {c : Chip} {f : TxnUnit → TxnUnit} (h : c.Sound)
    (e : (f c.txn).opens.length = c.txn.opens.length := by rfl) : (c.updTxn f).Sound :=
  h.reshaped (by simp [Chip.shape, Chip.updTxn, e])

theorem Chip.Sound.updSafety {c : Chip} {f : Safety → Safety} (h : c.Sound)
    (e : (f c.safety).thHist.length = c.safety.thHist.length := by rfl) : (c.updSafety f).Sound :=
  h.reshaped (by simp [Chip.shape, Chip.updSafety, e])

theorem Chip.Sound.updWl {c : Chip} {f : Windlass → Windlass} (h : c.Sound) (es : (f c.wl).slots.length = c.wl.slots.length := by rfl)
    (eh : (f c.wl).hv.length = c.wl.hv.length := by rfl) (ez : (f c.wl).zones.length = c.wl.zones.length := by rfl)
    (et : (f c.wl).tracks.length = c.wl.tracks.length := by rfl) : (c.updWl f).Sound :=
  h.reshaped (by simp [Chip.shape, Chip.updWl, es, eh, ez, et])

theorem Chip.Sound.updTile {c : Chip} {i : Nat} {f : Tile → Tile} (h : c.Sound) : (c.updTile i f).Sound :=
  h.reshaped (by simp [Chip.shape, Chip.updTile])

theorem Chip.Sound.updStn {c : Chip} {i : Nat} {f : Stn → Stn} (h : c.Sound) : (c.updStn i f).Sound :=
  h.reshaped (by simp [Chip.shape, Chip.updStn])

theorem Chip.Sound.updDrive {c : Chip} {i : Nat} {f : Drive → Drive} (h : c.Sound) : (c.updDrive i f).Sound :=
  h.reshaped (by simp [Chip.shape, Chip.updDrive])

theorem Chip.Sound.updEnc {c : Chip} {i : Nat} {f : Enc → Enc} (h : c.Sound) : (c.updEnc i f).Sound :=
  h.reshaped (by simp [Chip.shape, Chip.updEnc])

theorem Chip.Sound.updHall {c : Chip} {i : Nat} {f : Hall → Hall} (h : c.Sound) : (c.updHall i f).Sound :=
  h.reshaped (by simp [Chip.shape, Chip.updHall])

theorem Chip.Sound.updBiss {c : Chip} {i : Nat} {f : Biss → Biss} (h : c.Sound) : (c.updBiss i f).Sound :=
  h.reshaped (by simp [Chip.shape, Chip.updBiss])

theorem Chip.Sound.updMule {c : Chip} {i : Nat} {f : Mule → Mule} (h : c.Sound) : (c.updMule i f).Sound :=
  h.reshaped (by simp [Chip.shape, Chip.updMule])

theorem Chip.Sound.updLane {c : Chip} {i : Nat} {f : Lane → Lane} (h : c.Sound) : (c.updLane i f).Sound :=
  h.reshaped (by simp [Chip.shape, Chip.updLane])

theorem Chip.Sound.updSlot {c : Chip} {i : Nat} {f : CtxSlot → CtxSlot} (h : c.Sound) : (c.updSlot i f).Sound :=
  h.reshaped (by simp [Chip.shape, Chip.updSlot])

theorem Chip.Sound.updPort {c : Chip} {i : Nat} {f : PortSt → PortSt} (h : c.Sound) : (c.updPort i f).Sound :=
  h.reshaped (by simp [Chip.shape, Chip.updPort])

/-! ### Operations of Machine/Ops.lean -/

theorem Chip.Sound.setFld {c : Chip} {f : BitField} {v : Nat} (h : c.Sound) : (c.setFld f v).Sound := h.setReg

theorem Chip.Sound.setFlag {c : Chip} {f : BitField} {b : Bool} (h : c.Sound) : (c.setFlag f b).Sound := h.setFld

theorem Chip.Sound.setFldS {c : Chip} {f : BitField} {v : Int} (h : c.Sound) : (c.setFldS f v).Sound := h.setFld

theorem Chip.Sound.bump {c : Chip} {f : BitField} {n : Nat} (h : c.Sound) : (c.bump f n).Sound := h.setFld

theorem Chip.Sound.setPair {c : Chip} {lo hi v : Nat} (h : c.Sound) : (c.setPair lo hi v).Sound := h.setReg.setReg

theorem Chip.Sound.setSqSeen {c : Chip} {off n : Nat} (h : c.Sound) : (c.setSqSeen off n).Sound := h.same

theorem Chip.Sound.raise {c : Chip} {ev : Nat × Nat} (h : c.Sound) : (c.raise ev).Sound := h.setReg.ite h.setReg.setSqSeen

theorem Chip.Sound.emit {c : Chip} {e : Emit} (h : c.Sound) : (c.emit e).Sound := h.same

theorem Chip.Sound.event {c : Chip} {status tag detail : Nat} (h : c.Sound) : (c.event status tag detail).Sound := h.emit

theorem Chip.Sound.eventTo {c : Chip} {p status opcode tag detail : Nat} (h : c.Sound) : (c.eventTo p status opcode tag detail).Sound := h.emit

theorem Chip.Sound.result {c : Chip} {slot status detail : Nat} (h : c.Sound) : (c.result slot status detail).Sound := h.emit

theorem Chip.Sound.started {c : Chip} {slot : Nat} (h : c.Sound) : (c.started slot).Sound := h.emit

theorem Chip.Sound.send {c : Chip} {o : Out} (h : c.Sound) : (c.send o).Sound := h.same

theorem Chip.Sound.pin {c : Chip} {name : String} {index value : Nat} (h : c.Sound) : (c.pin name index value).Sound := h.send

theorem Chip.Sound.freeWord {c : Chip} (h : c.Sound) : (c.freeWord).2.Sound := h.same

theorem Chip.Sound.freeNat {c : Chip} (h : c.Sound) : (c.freeNat).2.Sound := h.same

theorem Chip.Sound.freeBool {c : Chip} (h : c.Sound) : (c.freeBool).2.Sound := h.same

theorem Chip.Sound.when {c : Chip} {b : Bool} {f : Chip → Chip} (h : c.Sound) (hf : ∀ c, c.Sound → (f c).Sound) : (c.when b f).Sound :=
  (hf _ h).ite h

theorem Chip.Sound.sumpRec {c : Chip} {srcBit : Option Nat} {typ src time : Nat} {words : List Word} (h : c.Sound) :
    (c.sumpRec srcBit typ src time words).Sound := by
  unfold Chip.sumpRec
  refine h.ite ?_
  extract_lets n
  split
  · exact h.updSump
  · exact h.updSump.ite h.updSump

/-! ### Operations of Machine/Tables.lean -/

theorem Chip.Sound.noteZero {c : Chip} {act : Bool} {off : Nat} {b : Byte} (h : c.Sound) : (c.noteZero act off b).Sound := h.same.ite h

theorem Chip.Sound.setTabByte {c : Chip} {act : Bool} {off : Nat} {b : Byte} (h : c.Sound) : (c.setTabByte act off b).Sound := by
  have h1 : (c.noteZero act off b).Sound := h.noteZero
  unfold Chip.setTabByte
  exact Chip.Sound.ite ⟨h1.regs, h1.shadow, Sparse.wf_put h1.active, h1.shape⟩ ⟨h1.regs, Sparse.wf_put h1.shadow, h1.active, h1.shape⟩

theorem Chip.Sound.setTabBytes {c : Chip} {act : Bool} {off : Nat} {l : List Byte} (h : c.Sound) : (c.setTabBytes act off l).Sound := by
  induction l generalizing c off with
  | nil => exact h
  | cons b l ih => exact ih h.setTabByte

theorem Chip.Sound.swapBanks {c : Chip} {inst : Nat} (h : c.Sound) : (c.swapBanks inst).Sound :=
  ⟨h.regs, Sparse.wf_puts (Sparse.wf_filter h.shadow), Sparse.wf_puts (Sparse.wf_filter h.active), h.shape⟩

theorem Chip.Sound.copyBank {c : Chip} {inst : Nat} (h : c.Sound) : (c.copyBank inst).Sound :=
  ⟨h.regs, Sparse.wf_puts (Sparse.wf_filter h.shadow), h.active, h.shape⟩

theorem Chip.Sound.putTableWord {c : Chip} {off : Nat} {w : Word} (h : c.Sound) : (c.putTableWord off w).Sound :=
  h.foldl (fun _ _ h1 => h1.setTabByte.ite h1)

theorem Chip.Sound.masterCopied {c : Chip} {inst : Nat} (h : c.Sound) : (c.masterCopied inst).Sound := h.updWl

theorem Chip.Sound.tableCopied {c : Chip} {inst : Nat} (h : c.Sound) : (c.tableCopied inst).Sound := by
  unfold Chip.tableCopied
  split
  · exact h
  · exact h.copyBank.masterCopied.updTxn.foldl (fun _ _ h1 => h1.putTableWord)

theorem Chip.Sound.checkBank {c : Chip} {inst : Nat} (h : c.Sound) : (c.checkBank inst).2.Sound := by
  unfold Chip.checkBank
  refine (h.iteSnd h.raise.event).iteSnd ?_
  refine .iteSnd ?_ ?_
  · split
    · exact h
    · exact h.raise.event
  · refine .iteSnd ?_ ?_
    · split
      · exact h
      · exact h.raise.event
    · refine .iteSnd ?_ h
      split
      · exact h
      · exact h.raise.event

/-! ### Operations of Machine/TroughCore.lean -/

theorem Chip.Sound.setLink {c : Chip} {t n : Nat} (h : c.Sound) : (c.setLink t n).Sound := h.setFld

theorem Chip.Sound.latchTile {c : Chip} {t : Nat} (h : c.Sound) : (c.latchTile t).Sound := h.updTile

theorem Chip.Sound.putLane {c : Chip} {t : Nat} {l : List (Nat × List Byte)} (h : c.Sound) : (c.putLane t l).Sound := h.freeNat.send

theorem Chip.Sound.putBlocks {c : Chip} {t typ n : Nat} {bytes : List Byte} (h : c.Sound) : (c.putBlocks t typ n bytes).Sound :=
  (h.each (fun _ _ h1 => h1.send)).putLane

theorem Chip.Sound.putFrame {c : Chip} {t seq : Nat} {msg : List Byte} {seqd retx : Bool} (h : c.Sound) :
    (c.putFrame t seq msg seqd retx).Sound :=
  h.send.putLane

theorem Chip.Sound.pump {now t n : Nat} {c : Chip} (h : c.Sound) : (Chip.pump now t n c).Sound := by
  induction n generalizing c with
  | zero => exact h
  | succ n ih =>
    unfold Chip.pump
    extract_lets x
    split
    · exact h
    · exact h.ite (ih h.putFrame.updTile)

theorem Chip.Sound.sendMsg {c : Chip} {now t typ b1 : Nat} {fields : List Byte} {load : Option Nat} (h : c.Sound) :
    (c.sendMsg now t typ b1 fields load).Sound :=
  h.ite h.updTile.pump

theorem Chip.Sound.showKill {c : Chip} {t : Nat} (h : c.Sound) : (c.showKill t).Sound := h.setFlag

theorem Chip.Sound.killMsg {c : Chip} {now t cause : Nat} (h : c.Sound) : (c.killMsg now t cause).Sound := h.sendMsg.ite h.putFrame.updTile

theorem Chip.Sound.kill {c : Chip} {now t cause : Nat} (h : c.Sound) : (c.kill now t cause).Sound := (h.putBlocks.killMsg.ite h).updTile.showKill

theorem Chip.Sound.unkill {c : Chip} {t cause : Nat} (h : c.Sound) : (c.unkill t cause).Sound := h.updTile.showKill

theorem Chip.Sound.killAll {c : Chip} {now cause : Nat} (h : c.Sound) : (c.killAll now cause).Sound := h.each (fun _ _ h1 => h1.kill)

theorem Chip.Sound.unkillAll {c : Chip} {cause : Nat} (h : c.Sound) : (c.unkillAll cause).Sound := h.each (fun _ _ h1 => h1.unkill)

theorem Chip.Sound.sendBias {c : Chip} {now t : Nat} {codes : List Nat} {rearm : Bool} (h : c.Sound) : (c.sendBias now t codes rearm).Sound :=
  h.ite ((h.each (fun _ _ h1 => h1.setFld)).sendMsg.use (fun hc1 => hc1.unkill.ite hc1))

theorem Chip.Sound.sendDrive {c : Chip} {now t : Nat} (h : c.Sound) : (c.sendDrive now t).Sound := h.sendMsg

theorem Chip.Sound.stopMirror {c : Chip} {now t : Nat} (h : c.Sound) : (c.stopMirror now t).Sound := h.updTile.sendDrive.ite h

theorem Chip.Sound.sendBank {c : Chip} {now t bank : Nat} {ws : List Word} (h : c.Sound) : (c.sendBank now t bank ws).Sound :=
  h.each (fun _ _ h1 => h1.sendMsg)

theorem Chip.Sound.loadBank {c : Chip} {now t bank : Nat} {ws : List Word} (h : c.Sound) : (c.loadBank now t bank ws).Sound := h.updTile.sendBank

theorem Chip.Sound.loadAllBanks {c : Chip} {now t : Nat} (h : c.Sound) : (c.loadAllBanks now t).Sound := h.each (fun _ _ h1 => h1.loadBank)

theorem Chip.Sound.countRetx {c : Chip} {t n : Nat} (h : c.Sound) : (c.countRetx t n).Sound := h.ite (h.bump.each (fun _ _ h1 => h1.raise))

theorem Chip.Sound.resend {c : Chip} {now t : Nat} (h : c.Sound) : (c.resend now t).Sound :=
  (h.each (fun _ _ h1 => h1.putFrame)).updTile.countRetx

theorem Chip.Sound.ackUpTo {c : Chip} {now t seq : Nat} (h : c.Sound) : (c.ackUpTo now t seq).Sound := by
  unfold Chip.ackUpTo
  extract_lets x
  split
  · exact h
  · exact h.updTile.pump

/-! ### Operations of Machine/PageCore.lean -/

theorem Chip.Sound.updPage {c : Chip} {seq : Nat} {f : Page → Page} (h : c.Sound) : (c.updPage seq f).Sound := h.same

theorem Chip.Sound.closeChain {c : Chip} {cause : Nat} (h : c.Sound) : (c.closeChain cause).Sound := by
  unfold Chip.closeChain
  split
  · exact h
  · exact h.same.same

theorem Chip.Sound.breakChain {c : Chip} {cause : Nat} (h : c.Sound) : (c.breakChain cause).Sound := by
  unfold Chip.breakChain
  split
  · exact h
  · exact h.same.closeChain

theorem Chip.Sound.showFronts {c : Chip} (h : c.Sound) : c.showFronts.Sound :=
  h.each (fun _ _ h1 => by
    extract_lets mine begun
    split
    · exact h1.setPair
    · exact h1)

theorem Chip.Sound.restLanes {c : Chip} (h : c.Sound) : c.restLanes.Sound := h.each (fun _ _ h1 => h1.setFld.ite h1)

theorem Chip.Sound.abortPage {c : Chip} {seq cause station : Nat} {byData : Bool} (h : c.Sound) :
    (c.abortPage seq cause station byData).Sound :=
  (h.foldl (fun _ _ h1 => h1.ite h1.updPage)).restLanes.breakChain

theorem Chip.Sound.abortAll {c : Chip} {cause : Nat} (h : c.Sound) : (c.abortAll cause).Sound := by
  unfold Chip.abortAll
  split
  · exact h
  · exact h.abortPage

theorem Chip.Sound.defect {c : Chip} {p : Page} {t line : Nat} {emitter : Bool} (h : c.Sound) : (c.defect p t line emitter).Sound :=
  h.updPage.eventTo

theorem Chip.Sound.losePages {c : Chip} {t : Nat} (h : c.Sound) : (c.losePages t).Sound :=
  (h.setFld.ite h).ite ((h.foldl (fun _ _ h1 => by
    split
    · exact h1.defect.updPage
    · exact h1.updPage)).use (fun hc1 => hc1.ite hc1.setFld))

theorem Chip.Sound.loseTile {c : Chip} {now t : Nat} (h : c.Sound) : (c.loseTile now t).Sound := h.kill.losePages

theorem Chip.Sound.updImg {c : Chip} {s : Nat} {f : ImgChan → ImgChan} (h : c.Sound) : (c.updImg s f).Sound := h.updDma (ei := by simp)

theorem Chip.Sound.showImg {c : Chip} {s : Nat} (h : c.Sound) : (c.showImg s).Sound := by
  unfold Chip.showImg
  extract_lets k c1 c2
  split
  · exact h.setReg.setFld.setFld.setFld.setReg.setReg.setReg.setReg
  · exact (h.setReg.setFld.each (fun _ _ h1 => h1.setReg))

theorem Chip.Sound.tileMissing {c : Chip} {t step : Nat} (h : c.Sound) : (c.tileMissing t step).Sound := h.ite h.updTile.event

theorem Chip.Sound.tileFound {c : Chip} {t : Nat} (h : c.Sound) : (c.tileFound t).Sound := h.updTile.event.ite h

/-! ### Operations of Machine/SumpCore.lean -/

theorem Chip.Sound.addSegment {c : Chip} {s : Segment} (h : c.Sound) : (c.addSegment s).Sound := h.updSump

theorem Chip.Sound.closeSegment {c : Chip} (h : c.Sound) : c.closeSegment.Sound := by
  unfold Chip.closeSegment
  extract_lets rs
  clear_value rs
  split
  · exact h
  · exact h.updSump.addSegment

theorem Chip.Sound.endGap {c : Chip} {now : Nat} (h : c.Sound) : (c.endGap now).Sound := by
  unfold Chip.endGap
  split
  · exact h
  · exact h.ite (h.closeSegment.updSump.addSegment.bump.raise.emit.use (fun hc1 => hc1.ite hc1.addSegment.updSump))

theorem Chip.Sound.openGap {c : Chip} {t0 cause lost : Nat} (h : c.Sound) : (c.openGap t0 cause lost).Sound := by
  unfold Chip.openGap
  split
  · exact h.updSump
  · exact h.closeSegment.updSump

theorem Chip.Sound.sumpTrigger {c : Chip} {now cause : Nat} (h : c.Sound) : (c.sumpTrigger now cause).Sound :=
  h.sumpRec.setPair.setFld.setFld.closeSegment.updSump.raise.ite h

/-! ### Operations of Machine/Run.lean -/

theorem Chip.Sound.logRecords {c : Chip} {now : Nat} {l : List Rec} (h : c.Sound) : (c.logRecords now l).Sound :=
  h.each (fun _ c h1 => by
    extract_lets c1
    have hc1 : c1.Sound := h1.sumpRec
    split
    · exact hc1.sumpTrigger.ite hc1
    · exact hc1)

theorem Chip.Sound.publish {now : Nat} {m : Merge} {c : Chip} (h : c.Sound) : (publish now m c).2.Sound := h.logRecords

theorem Chip.Sound.fresh {c : Chip} (h : c.Sound) : c.fresh.Sound := h.same

theorem Chip.Sound.numberAccepted {now : Nat} {x : Merge × Chip} (h : x.2.Sound) : (numberAccepted now x).2.Sound :=
  h.foldlSnd (fun x _ h1 => by
    obtain ⟨m, c⟩ := x
    dsimp -zeta only
    extract_lets c1
    have hc1 : c1.Sound := h1.updEng
    split
    · exact hc1.pair
    · exact hc1.sumpRec.pair)

theorem Chip.Sound.numbered {s : State} (h : s.chip.Sound) : (s.numbered).2.Sound := h.fresh.numberAccepted.publish.same

theorem Chip.Sound.opened {dt : Nat} {s : State} (h : s.chip.Sound) : (State.opened dt s).2.Sound := h.fresh.iteSnd h.numbered

theorem Chip.Sound.timed {dt : Nat} {f : Ctx → Chip → Chip} {s : State} (h : s.chip.Sound) (hf : ∀ x0 c, c.Sound → (f x0 c).Sound) :
    (State.timed dt f s).chip.Sound :=
  (hf _ _ h.opened).publish

theorem Chip.Sound.timedMerge {dt : Nat} {f : Nat → Merge × Chip → Merge × Chip} {s : State} (h : s.chip.Sound) (hf : ∀ x0 y, y.2.Sound →
    (f x0 y).2.Sound) :
    (State.timedMerge dt f s).chip.Sound :=
  (hf _ _ h.opened).publish

theorem Chip.Sound.restarted {dt : Nat} {go : Chip → Bool} {f : Nat → Merge × Chip → Merge × Chip} {s : State} (h : s.chip.Sound)
    (hf : ∀ x0 y, y.2.Sound → (f x0 y).2.Sound) :
    (State.restarted dt go f s).chip.Sound :=
  (hf _ _ h.opened).publish

theorem Chip.Sound.command {opcode slot : Nat} {body : JEntry → Ctx → Chip → Chip} {x : Ctx} {c : Chip} (h : c.Sound)
    (hbody : ∀ x0 x1 c, c.Sound → (body x0 x1 c).Sound) :
    (command opcode slot body x c).Sound := by
  unfold Machine.command
  refine h.ite ?_
  split
  · exact h
  · exact (hbody _ _ _ h).ite h.result

theorem Chip.Sound.enter {c : Chip} {new cause : Nat} (h : c.Sound) : (c.enter new cause).Sound := h.event.setFld.same

/-! ### Operations of Machine/RegCore.lean -/

theorem Chip.Sound.errFault {c : Chip} {kind addr part port cause : Nat} {table : Bool} (h : c.Sound) :
    (c.errFault kind addr part port cause table).Sound :=
  h.raise.use (fun hc1 => (hc1.setReg.setReg.ite hc1).setReg.setReg)

theorem Chip.Sound.privViolation {c : Chip} {q : Port} {addr : Nat} {table : Bool} (h : c.Sound) : (c.privViolation q addr table).Sound := by
  unfold Chip.privViolation
  split
  rename_i n c1 e
  have hc1 : c1.Sound := .snd e h.freeNat
  extract_lets part c2
  have hc2 : c2.Sound := hc1.errFault
  split
  · exact hc2.eventTo
  · exact hc2

theorem Chip.Sound.lockViolation {c : Chip} {q : Port} {p addr : Nat} (h : c.Sound) : (c.lockViolation q p addr).Sound := h.errFault.eventTo

theorem Chip.Sound.coupledWrite {c : Chip} {q : Port} {p addr : Nat} (h : c.Sound) : (c.coupledWrite q p addr).Sound := h.errFault.eventTo

theorem Chip.Sound.guardFault {c : Chip} {q : Port} {p addr cause : Nat} (h : c.Sound) : (c.guardFault q p addr cause).Sound := h.errFault

theorem Chip.Sound.dropGuard {c : Chip} {unit : Nat} (h : c.Sound) : (c.dropGuard unit).Sound := h.same

theorem Chip.Sound.expireGuards {c : Chip} {now : Nat} {p : GuardPend → Bool} (h : c.Sound) : (c.expireGuards now p).Sound :=
  h.foldl (fun _ _ h1 => h1.guardFault.dropGuard)

theorem Chip.Sound.seqClear {c : Chip} {off : Nat} {v : Word} (h : c.Sound) : (c.seqClear off v).Sound :=
  (h.setReg.setSqSeen.use (fun hc1 => hc1.setFld.ite hc1)).ite h

/-! ### Operations of Machine/Txn.lean -/

theorem Chip.Sound.setOpen {c : Chip} {p : Nat} {o : Option OpenTxn} (h : c.Sound) : (c.setOpen p o).Sound := h.updTxn (e := by simp)

theorem Chip.Sound.updCommit {c : Chip} {p : Nat} {f : Commit → Commit} (h : c.Sound) : (c.updCommit p f).Sound := h.updTxn

theorem Chip.Sound.dropCommit {c : Chip} {p : Nat} (h : c.Sound) : (c.dropCommit p).Sound := h.updTxn

theorem Chip.Sound.showTxn {c : Chip} {p : Nat} (h : c.Sound) : (c.showTxn p).Sound := by
  unfold Chip.showTxn
  extract_lets o c1 c2
  have hc1 : c1.Sound := by
    unfold c1
    split
    · exact h.setFld.setFld.setPair
    · exact h.setFld.setFld.setPair
  exact hc1.setFlag.setFld

theorem Chip.Sound.showResult {c : Chip} {p status units span : Nat} (h : c.Sound) : (c.showResult p status units span).Sound :=
  h.setFld.setFld.setFld

theorem Chip.Sound.txnBegin {c : Chip} {e : JEntry} (h : c.Sound) : (c.txnBegin e).Sound := by
  unfold Chip.txnBegin
  extract_lets c1
  have hc1 : c1.Sound := h.started
  split
  · exact hc1.result
  · exact hc1.setOpen.setReg.showTxn.result

theorem Chip.Sound.txnWrite {c : Chip} {e : JEntry} (h : c.Sound) : (c.txnWrite e).Sound := by
  unfold Chip.txnWrite
  refine h.result.ite ?_
  refine h.result.ite ?_
  extract_lets c1
  have hc1 : c1.Sound := h.started
  split
  · exact hc1.result
  · split
    · exact hc1.result
    · exact hc1.result.ite hc1.setOpen.showTxn.result

theorem Chip.Sound.applyEntry {c : Chip} {s : Staged} (h : c.Sound) : (c.applyEntry s).Sound := by
  cases s with
  | reg off mask data =>
    unfold Machine.Chip.applyEntry
    exact h.setReg.updTxn
  | table i => exact h.tableCopied.swapBanks.masterCopied.updTxn.updEng.use fun h1 => h1.updTile.ite h1

theorem Chip.Sound.applyEntries {c : Chip} {l : List Staged} (h : c.Sound) : (c.applyEntries l).Sound := h.foldl (fun _ _ h1 => h1.applyEntry)

theorem Chip.Sound.applyUnit {c : Chip} {m : Commit} {u : Nat} (h : c.Sound) : (c.applyUnit m u).Sound := h.applyEntries

theorem Chip.Sound.reportCommit {c : Chip} {m : Commit} {now status detail : Nat} {time : Option Nat} (h : c.Sound) :
    (c.reportCommit m now status detail time).Sound := by
  unfold Chip.reportCommit
  split
  · exact h.emit.ite h.result
  · exact h.emit

theorem Chip.Sound.endCommit {c : Chip} {now p : Nat} (h : c.Sound) : (c.endCommit now p).Sound := by
  unfold Chip.endCommit
  split
  · exact h
  · exact h.ite h.dropCommit.showResult.showTxn.reportCommit

theorem Chip.Sound.unitSwitched {c : Chip} {now p u instant : Nat} (h : c.Sound) : (c.unitSwitched now p u instant).Sound :=
  h.setReg.updCommit.showTxn.endCommit

theorem Chip.Sound.switchUnit {c : Chip} {now p u instant : Nat} (h : c.Sound) : (c.switchUnit now p u instant).Sound := by
  unfold Chip.switchUnit
  split
  · exact h
  · exact h.applyUnit.unitSwitched.ite h

theorem Chip.Sound.tileSwitched {c : Chip} {now p u t instant : Nat} (h : c.Sound) : (c.tileSwitched now p u t instant).Sound := by
  unfold Chip.tileSwitched
  split
  · exact h
  · exact h.ite ((h.updCommit.when (fun _ h1 => h1.updTile)).use (fun hc1 => hc1.switchUnit.ite hc1.showTxn))

theorem Chip.Sound.switchNow {c : Chip} {now p : Nat} (h : c.Sound) : (c.switchNow now p).Sound := by
  unfold Chip.switchNow
  split
  · exact h
  · exact h.foldl (fun _ _ h1 => (h1.switchUnit.ite (h1.foldl (fun _ _ h2 => h2.tileSwitched))).ite ((h1.switchUnit.ite h1).ite
      ((h1.ite h1.switchUnit).ite ((h1.switchUnit.ite h1.applyEntries.updCommit.showTxn).ite h1.switchUnit))))

theorem Chip.Sound.fire {c : Chip} {now p : Nat} (h : c.Sound) : (c.fire now p).Sound := by
  unfold Chip.fire
  split
  · exact h
  · exact h.ite (h.dropCommit.showResult.showTxn.reportCommit.ite h.updCommit.switchNow)

theorem Chip.Sound.fireDue {c : Chip} {now : Nat} (h : c.Sound) : (c.fireDue now).Sound := h.foldl (fun _ _ h1 => h1.fire)

theorem Chip.Sound.prepareTables {c : Chip} {now : Nat} {l : List Staged} (h : c.Sound) : (c.prepareTables now l).Sound :=
  h.foldl (fun _ _ h1 => by
    split
    · exact h1
    · exact h1.checkBank.updTxn.use (fun hc1 => hc1.loadBank.ite hc1))

theorem Chip.Sound.frozen {c : Chip} {m : Commit} {t : Nat} (h : c.Sound) : (c.frozen m t).Sound := by
  unfold Chip.frozen
  split
  · exact h.raise.eventTo.ite h
  · exact h

theorem Chip.Sound.enterCommit {c : Chip} {m : Commit} (h : c.Sound) : (c.enterCommit m).Sound := h.updTxn

theorem Chip.Sound.schedule {c : Chip} {now : Nat} {m : Commit} (h : c.Sound) : (c.schedule now m).Sound :=
  ((h.enterCommit.setReg.setReg.each (fun _ _ h1 => h1.setReg)).prepareTables.showTxn.each (fun _ _ h1 => h1.frozen)).use (fun hc1 =>
    hc1.fire.ite hc1)

theorem Chip.Sound.commitEntries {c : Chip} {now : Nat} {e : JEntry} {trig : Trigger} {begin_ : Nat} {l : List Staged}
    {checkLocks closes : Bool} (h : c.Sound) :
    (c.commitEntries now e trig begin_ l checkLocks closes).Sound := by
  unfold Chip.commitEntries
  extract_lets fail
  have hfail : ∀ x0 x1 x2, x0.Sound → (fail x0 x1 x2).Sound := fun _ _ _ h1 => h1.showResult.result
  refine (hfail _ _ _ h).ite ?_
  split
  · exact h.setReg.use (fun hc1 => hfail _ _ _ (hc1.setOpen.showTxn.ite hc1))
  · refine (hfail _ _ _ h).ite ?_
    split
    · exact hfail _ _ _ h
    · exact (hfail _ _ _ h).ite ((h.setOpen.ite h).use (fun hc2 => hc2.schedule.ite hc2.showResult.result.schedule))

theorem Chip.Sound.txnCommit {c : Chip} {x : Ctx} {e : JEntry} (h : c.Sound) : (c.txnCommit x e).Sound := by
  unfold Chip.txnCommit
  refine h.result.ite ?_
  extract_lets c1
  have hc1 : c1.Sound := h.started
  split
  · exact hc1.result
  · exact hc1.setOpen.showResult.showTxn.result.ite hc1.commitEntries

theorem Chip.Sound.txnRollback {c : Chip} {e : JEntry} (h : c.Sound) : (c.txnRollback e).Sound := by
  unfold Chip.txnRollback
  extract_lets c1
  have hc1 : c1.Sound := h.started
  split
  · exact hc1.setOpen.showTxn.result
  · split
    · exact hc1.result
    · exact hc1.result.ite (hc1.result.ite hc1.dropCommit.showTxn.result)

theorem Chip.Sound.switchDrive {c : Chip} {now a : Nat} (h : c.Sound) : (c.switchDrive now a).Sound := h.foldl (fun _ _ h1 => h1.switchUnit)

theorem Chip.Sound.switchMule {c : Chip} {now m : Nat} (h : c.Sound) : (c.switchMule now m).Sound := h.foldl (fun _ _ h1 => h1.switchUnit)

theorem Chip.Sound.switchSlot {c : Chip} {now n sample : Nat} (h : c.Sound) : (c.switchSlot now n sample).Sound :=
  h.foldl (fun _ _ h1 => h1.applyEntries.updCommit.use (fun hc1 => hc1.unitSwitched.ite hc1))

theorem Chip.Sound.catchUp {c : Chip} {now : Nat} (h : c.Sound) : (c.catchUp now).Sound :=
  h.foldl (fun _ _ h1 => (h1.foldl (fun _ _ h2 => (h2.foldl (fun _ _ h3 => h3.tileSwitched)).ite (h2.switchUnit.ite
    (h2.switchUnit.ite h2)))).foldl (fun _ _ h2 => h2.switchSlot))

theorem Chip.Sound.resetTxn {c : Chip} {now p : Nat} (h : c.Sound) : (c.resetTxn now p).Sound := by
  unfold Chip.resetTxn
  extract_lets c1 c2
  have hc1 : c1.Sound := h.setOpen
  have hc2 : c2.Sound := by
    unfold c2
    split
    · exact hc1.ite hc1.dropCommit.showResult.reportCommit
    · exact hc1
  exact hc2.showTxn

/-! ### Operations of Machine/Feedback.lean -/

theorem Chip.Sound.shiftDrums {c : Chip} {ch : Nat} {d : Int} (h : c.Sound) : (c.shiftDrums ch d).Sound :=
  h.reshaped (by simp [Chip.shape, Machine.Chip.shiftDrums])

theorem Chip.Sound.setPhase {c : Chip} {e : Nat} {ph : Int} (h : c.Sound) : (c.setPhase e ph).Sound := h.setFldS.setFldS.shiftDrums

theorem Chip.Sound.latchFeedback {c : Chip} (h : c.Sound) : c.latchFeedback.Sound :=
  h.reshaped (by simp [Chip.shape, Machine.Chip.latchFeedback, h.fbCopy_length])

theorem Chip.Sound.beltMoved {c : Chip} {now : Nat} (h : c.Sound) : (c.beltMoved now).Sound := h.setPair.fireDue

theorem Chip.Sound.advance {c : Chip} {now ch : Nat} {d : Int} (h : c.Sound) : (c.advance now ch d).Sound := by
  unfold Machine.Chip.advance
  extract_lets at_ c1 d1
  have h1 : c1.Sound := h.reshaped (by simp [Chip.shape, c1])
  refine Chip.Sound.ite (Chip.Sound.beltMoved ?_) h1
  exact h1.same

theorem Chip.Sound.encoderFault {c : Chip} {ch cause : Nat} (h : c.Sound) : (c.encoderFault ch cause).Sound :=
  h.ite ((h.setFlag.ite h.setFlag).raise.event.use (fun hc1 => hc1.abortAll.ite hc1))

theorem Chip.Sound.showSpeed {c : Chip} {now e : Nat} (h : c.Sound) : (c.showSpeed now e).Sound := h.setFldS.setFldS

theorem Chip.Sound.seedSpeed {c : Chip} {now e : Nat} {v : Int} (h : c.Sound) : (c.seedSpeed now e v).Sound := h.updEnc.showSpeed

theorem Chip.Sound.updateSpeed {c : Chip} {now e : Nat} (h : c.Sound) : (c.updateSpeed now e).Sound :=
  h.updEnc.use (fun hc1 => hc1.updEnc.showSpeed.ite ((hc1.setFld.seedSpeed.ite hc1.updEnc.showSpeed).ite
    (hc1.setFld.seedSpeed.ite hc1.updEnc.showSpeed)))

theorem Chip.Sound.dirRecord {c : Chip} {now e : Nat} (h : c.Sound) : (c.dirRecord now e).Sound := h.ite (h.ite h.updEnc.event)

theorem Chip.Sound.speedUpdate {c : Chip} {now : Nat} (h : c.Sound) : (c.speedUpdate now).Sound :=
  (h.each (fun _ _ h1 => h1.updateSpeed.dirRecord.ite h1)).each (fun _ _ h1 => by
    split
    · exact h1.updHall.setFld.ite h1
    · exact h1)

theorem Chip.Sound.setDirection {c : Chip} {now e : Nat} {sign n : Int} {stamps : List Nat} (h : c.Sound) :
    (c.setDirection now e sign n stamps).Sound :=
  h.setFld.updEnc.use (fun hc1 => hc1.seedSpeed.ite hc1.setFlag.seedSpeed)

theorem Chip.Sound.alongCount {c : Chip} {now e : Nat} {sign n : Int} (h : c.Sound) : (c.alongCount now e sign n).Sound :=
  h.updEnc.use (fun hc1 => hc1.setFlag.seedSpeed.ite hc1)

theorem Chip.Sound.judgeCount {c : Chip} {now e : Nat} {sign n : Int} {prev : Option Nat} (h : c.Sound) :
    (c.judgeCount now e sign n prev).Sound :=
  ((h.updEnc.use (fun hc1 => hc1.setDirection.ite (hc1.setDirection.ite h.updEnc))).ite (h.alongCount.ite (h.updEnc.setDirection.ite h))).ite
    (h.updEnc.setDirection.ite (h.alongCount.ite h.updEnc.setDirection.raise.dirRecord))

theorem Chip.Sound.indexMismatch {c : Chip} {e dev : Nat} {missed : Bool} (h : c.Sound) : (c.indexMismatch e dev missed).Sound :=
  h.setFld.raise.event.use (fun hc1 => hc1.encoderFault.ite hc1)

theorem Chip.Sound.countOne {c : Chip} {now e : Nat} {sign : Int} (h : c.Sound) : (c.countOne now e sign).Sound :=
  (h.setFldS.setFldS.when (fun _ h1 => h1.bump.raise.updEnc)).judgeCount.updEnc.showSpeed.advance.use (fun hc1 =>
    hc1.freeNat.updEnc.indexMismatch.ite hc1)

theorem Chip.Sound.encoderInput {c : Chip} {now e : Nat} {inp : QuadIn} {samples : Nat} (h : c.Sound) :
    (c.encoderInput now e inp samples).Sound := by
  unfold Chip.encoderInput
  refine h.ite ?_
  extract_lets x c1
  have hc1 : c1.Sound := h.updEnc
  refine hc1.ite ?_
  split
  · exact hc1.bump.raise
  · exact hc1
  · exact hc1.countOne

theorem Chip.Sound.slipRunEnd {c : Chip} {now e : Nat} (h : c.Sound) : (c.slipRunEnd now e).Sound := by
  unfold Chip.slipRunEnd
  extract_lets x
  split
  · exact h.updEnc.event.ite h
  · exact h

theorem Chip.Sound.standstill {c : Chip} {now e : Nat} (h : c.Sound) : (c.standstill now e).Sound := by
  unfold Chip.standstill
  split
  · exact h.setFlag.updEnc.seedSpeed.ite h
  · exact h

theorem Chip.Sound.indexEdge {c : Chip} {e : Nat} (h : c.Sound) : (c.indexEdge e).Sound :=
  h.ite (h.updEnc.use (fun hc1 => hc1.setPhase.setFlag.ite (hc1.setFldS.use (fun hc2 => (hc2.setFld.use (fun hc3 =>
    hc3.setPhase.ite hc3)).ite hc2.indexMismatch))))

theorem Chip.Sound.hallEdge {c : Chip} {now h st : Nat} (hs : c.Sound) : (c.hallEdge now h st).Sound := by
  unfold Chip.hallEdge
  refine hs.ite ?_
  extract_lets x old c1
  have hc1 : c1.Sound := hs.setFld
  split
  · exact hc1.bump.raise.updHall
  · extract_lets c2
    have hc2 : c2.Sound := hc1.updHall
    split
    · exact hc2.updHall
    · exact hc2.ite (hc2.updHall.setFldS.ite hc2.updHall.bump.raise)

theorem Chip.Sound.hallRunEnd {c : Chip} {now h : Nat} (hs : c.Sound) : (c.hallRunEnd now h).Sound := by
  unfold Chip.hallRunEnd
  extract_lets x
  split
  · exact hs.updHall.event.ite hs
  · exact hs

theorem Chip.Sound.bissStart {c : Chip} {now b : Nat} (h : c.Sound) : (c.bissStart now b).Sound := h.ite h.updBiss.pin

theorem Chip.Sound.bissEnd {c : Chip} {now b : Nat} {frame : Option (List Bool)} {delay : Nat} (h : c.Sound) :
    (c.bissEnd now b frame delay).Sound := by
  unfold Machine.Chip.bissEnd
  split
  · exact h
  extract_lets x c1 k c2
  have h1 : c1.Sound := h.updBiss.setFld
  have h2 : c2.Sound := h1.setFld.setFlag
  split
  · exact h1.setFld.setFld.raise.use fun h3 => h3.encoderFault.ite h3
  extract_lets c3 c4
  have h4 : c4.Sound := (h2.bump.ite h2).setPair
  split
  · exact h4.updBiss.shiftDrums
  · exact h4.updBiss.setFldS.advance

theorem Chip.Sound.enableEnc {c : Chip} {e : Nat} (h : c.Sound) : (c.enableEnc e).Sound :=
  h.shiftDrums.setReg.setReg.setReg.setReg.setReg.setFld.updEnc

theorem Chip.Sound.enableBiss {c : Chip} {b : Nat} (h : c.Sound) : (c.enableBiss b).Sound := h.shiftDrums.setFlag.setFlag.setFld.setReg.updBiss

theorem Chip.Sound.enableHall {c : Chip} {h : Nat} (hs : c.Sound) : (c.enableHall h).Sound := hs.setReg.updHall

/-! ### Operations of Machine/Expose.lean -/

theorem Chip.Sound.showClamp {c : Chip} {t : Nat} (h : c.Sound) : (c.showClamp t).Sound := h.setFld.setFld.setFld

theorem Chip.Sound.showDisabled {c : Chip} {t : Nat} (h : c.Sound) : (c.showDisabled t).Sound := h.setFld

theorem Chip.Sound.disableEmitter {c : Chip} {t e cause : Nat} (h : c.Sound) : (c.disableEmitter t e cause).Sound :=
  h.ite h.updTile.showDisabled.setFld.setFld.raise.event

theorem Chip.Sound.enableEmitter {c : Chip} {t e : Nat} (h : c.Sound) : (c.enableEmitter t e).Sound := h.updTile.showDisabled

theorem Chip.Sound.clampRun {c : Chip} {t : Nat} (h : c.Sound) : (c.clampRun t).Sound := by
  unfold Chip.clampRun
  refine h.updTile.ite ?_
  split
  · exact h
  · exact h.updTile.event

theorem Chip.Sound.limiter {c : Chip} {now t : Nat} {k : Plan} {ws : List (Nat × List DotPulse)} (h : c.Sound) :
    (c.limiter now t k ws).2.Sound := by
  unfold Chip.limiter
  dsimp only
  exact ((((h.clampRun.updTile.when (fun _ h1 => h1.raise)).showClamp).each (fun _ _ h1 => h1.disableEmitter.updTile)).when (fun _ h1 =>
    h1.raise.event.use (fun hc1 => hc1.loseTile.ite hc1)))

theorem Chip.Sound.countPulses {c : Chip} {t : Nat} {k : Plan} {ws : List (Nat × List DotPulse)} {sat : Nat} (h : c.Sound) :
    (c.countPulses t k ws sat).Sound := by
  unfold Chip.countPulses
  extract_lets s gs add c1
  have hadd : ∀ x0 x1 x2, x0.Sound → (add x0 x1 x2).Sound := fun _ _ _ h1 => h1.setFld
  exact (hadd _ _ _ (hadd _ _ _ h)).use (fun hc1 => hc1.ite ((hadd _ _ _ hc1).raise))

theorem Chip.Sound.keepHistory {c : Chip} {t : Nat} {k : Plan} {ws : List (Nat × List DotPulse)} (h : c.Sound) :
    (c.keepHistory t k ws).Sound :=
  h.each (fun _ c h1 => by
    extract_lets fired c1
    have hc1 : c1.Sound := h1.updTile
    refine .ite ?_ hc1
    split
    · exact hc1.updTile.defect
    · exact hc1)

/-! ### Operations of Machine/Calib.lean -/

theorem Chip.Sound.updCal {c : Chip} {t : Nat} {f : Cal → Cal} (h : c.Sound) : (c.updCal t f).Sound := h.updTile

theorem Chip.Sound.calNext {c : Chip} {t sweep : Nat} (h : c.Sound) : (c.calNext t sweep).2.Sound := by
  unfold Chip.calNext
  split
  · exact h
  · split
    · exact h
    · exact h.updCal.iteSnd h.updCal

theorem Chip.Sound.setBias {c : Chip} {now t e code : Nat} (h : c.Sound) : (c.setBias now t e code).Sound := h.sendBias

theorem Chip.Sound.calFailed {c : Chip} {t : Nat} (h : c.Sound) : (c.calFailed t).Sound := by
  unfold Chip.calFailed
  exact h.updEng

theorem Chip.Sound.calSettle {c : Chip} {now t e : Nat} (h : c.Sound) : (c.calSettle now t e).Sound := by
  unfold Chip.calSettle
  split
  · exact h
  · refine h.ite ?_
    extract_lets c1
    have hc1 : c1.Sound := h.updCal
    split
    · exact hc1.setBias.enableEmitter
    · exact hc1.setBias.disableEmitter.calFailed

theorem Chip.Sound.monitorPd {c : Chip} {now t sweep : Nat} {codes : List Nat} (h : c.Sound) : (c.monitorPd now t sweep codes).Sound := by
  unfold Chip.monitorPd
  extract_lets c1
  have hc1 : c1.Sound := h.each (fun _ _ h1 => h1.setFld)
  split
  · exact hc1
  · split
    · exact hc1
    · exact hc1.updCal.each (fun _ _ h1 => h1.calSettle)

theorem Chip.Sound.calBias1 {c : Chip} {now t : Nat} {k : CalKey} (h : c.Sound) : (c.calBias1 now t k).Sound := h.ite h.setBias

theorem Chip.Sound.calDrop {c : Chip} {now t : Nat} (h : c.Sound) : (c.calDrop now t).Sound := by
  unfold Chip.calDrop
  split
  · exact h
  · exact h.updTile.use (fun hc1 => hc1.ite hc1.sendBias)

theorem Chip.Sound.calBegin {c : Chip} {slot : Nat} {tiles : List Nat} {prime : Bool} (h : c.Sound) : (c.calBegin slot tiles prime).Sound := by
  unfold Chip.calBegin
  exact (h.each (fun _ _ h1 => h1.updTile)).updEng

theorem Chip.Sound.calCommand {c : Chip} {slot : Nat} {tiles : List Nat} (h : c.Sound) : (c.calCommand slot tiles).Sound := by
  unfold Chip.calCommand
  split
  · exact h.calBegin
  · exact h.result

theorem Chip.Sound.calComplete {c : Chip} (h : c.Sound) : c.calComplete.Sound :=
  (h.each (fun _ _ h1 => h1.updTile)).updEng.each (fun _ _ h1 => h1.updEng.ite (h1.result.ite h1.result))

theorem Chip.Sound.calDrumCheck {c : Chip} {now : Nat} (h : c.Sound) : (c.calDrumCheck now).Sound :=
  h.ite (h.each (fun _ _ h1 => ((h1.each (fun _ _ h2 => h2.calDrop)).updEng).result))

theorem Chip.Sound.calAbort {c : Chip} {now : Nat} (h : c.Sound) : (c.calAbort now).Sound := by
  unfold Chip.calAbort
  exact (h.each (fun _ _ h1 => h1.calDrop)).updEng

/-! ### Operations of Machine/MuleAxis.lean -/

theorem Chip.Sound.setMuleDir {c : Chip} {m : Nat} {d : Int} (h : c.Sound) : (c.setMuleDir m d).Sound := h.setFlag

theorem Chip.Sound.endMule {c : Chip} {m status detail : Nat} (h : c.Sound) : (c.endMule m status detail).Sound := by
  unfold Chip.endMule
  split
  · exact h.updMule.result
  · exact h

theorem Chip.Sound.dropNext {c : Chip} {m status detail : Nat} (h : c.Sound) : (c.dropNext m status detail).Sound :=
  h.updMule.each (fun _ _ h1 => h1.result)

theorem Chip.Sound.dropPending {c : Chip} {m status detail : Nat} (h : c.Sound) : (c.dropPending m status detail).Sound :=
  h.each (fun _ _ h1 => h1.dropNext)

theorem Chip.Sound.muleHold {c : Chip} {m : Nat} {atOnce : Bool} (h : c.Sound) : (c.muleHold m atOnce).Sound :=
  h.setFld.setFlag.setReg.setFlag.updMule

theorem Chip.Sound.loadProfile {c : Chip} {m : Nat} (h : c.Sound) : (c.loadProfile m).Sound := h.updMule

theorem Chip.Sound.setMuleSpeed {c : Chip} {m v2 : Nat} {dir : Int} (h : c.Sound) : (c.setMuleSpeed m v2 dir).Sound :=
  h.setMuleDir.setFldS.updMule

theorem Chip.Sound.setGroupSpeed {c : Chip} {lead : Nat} {g : MuleGroup} {v2 : Nat} (h : c.Sound) : (c.setGroupSpeed lead g v2).Sound :=
  h.updMule.foldl (fun _ _ h1 => h1.setFldS)

theorem Chip.Sound.muleGo {c : Chip} {now m : Nat} {dir : Int} {st kind : Nat} (h : c.Sound) : (c.muleGo now m dir st kind).Sound :=
  h.setFld.setFlag.updMule.setMuleSpeed

theorem Chip.Sound.setEncBase {c : Chip} {m : Nat} (h : c.Sound) : (c.setEncBase m).Sound := h.updMule

theorem Chip.Sound.muleStop {c : Chip} {m dec status detail : Nat} (h : c.Sound) : (c.muleStop m dec status detail).Sound := h.updMule

theorem Chip.Sound.muleEstop {c : Chip} {m dec status detail : Nat} (h : c.Sound) : (c.muleEstop m dec status detail).Sound := h.muleStop

theorem Chip.Sound.groupGo {c : Chip} {now : Nat} {l : List (Nat × Int)} {cmd : Nat} (h : c.Sound) : (c.groupGo now l cmd).Sound :=
  h.result.ite ((h.foldl (fun _ _ h1 => h1.setFldS.setFld.setFlag.setFlag.setMuleDir.updMule)).updMule.setGroupSpeed)

theorem Chip.Sound.muleReplace {c : Chip} {m limit : Nat} (h : c.Sound) : (c.muleReplace m limit).Sound := h.endMule.loadProfile.updMule

theorem Chip.Sound.muleBegin {c : Chip} {now m : Nat} {r : MuleReq} {cmd : Nat} (h : c.Sound) : (c.muleBegin now m r cmd).Sound := by
  unfold Chip.muleBegin
  extract_lets moving
  split
  · exact h.result
  · split
    · split
      · exact h.updMule
      · split
        · exact h.result
        · exact h.groupGo
    · exact (h.muleReplace.ite h.loadProfile).use (fun hc1 => hc1.result.ite (hc1.setFldS.updMule.setFld.use (fun hc2 =>
        hc2.updMule.ite hc2.muleGo)))
    · exact (h.muleReplace.ite h.loadProfile).use (fun hc3 => hc3.result.ite (hc3.result.ite (hc3.updMule.setFld.use (fun hc4 =>
        hc4.updMule.ite hc4.muleGo))))
    · exact (h.muleReplace.ite h.loadProfile).setFlag.setFld.updMule.use (fun hc5 => hc5.updMule.ite hc5.muleGo)

theorem Chip.Sound.pruneNext {c : Chip} {m : Nat} (h : c.Sound) : (c.pruneNext m).1.Sound :=
  (h.foldl (fun _ _ h1 => by
    split
    · exact h1.result
    · exact h1.result)).updMule

theorem Chip.Sound.takeNext {c : Chip} {now m : Nat} (h : c.Sound) : (c.takeNext now m).Sound := by
  have h1 : (c.pruneNext m).1.Sound := h.pruneNext
  unfold Machine.Chip.takeNext
  split
  next e =>
    rw [e] at h1
    exact h1.updMule.muleBegin
  next e =>
    rw [e] at h1
    exact h1

theorem Chip.Sound.profileDeferred {c : Chip} {m : Nat} (h : c.Sound) : (c.profileDeferred m).Sound := h.raise.event

theorem Chip.Sound.applyFresh {c : Chip} {m : Nat} {rem : Option Nat} (h : c.Sound) : (c.applyFresh m rem).Sound :=
  h.updMule.ite (h.updMule.use (fun hc1 => (hc1.profileDeferred.ite hc1.updMule).ite hc1))

theorem Chip.Sound.applyGroupFresh {c : Chip} {lead : Nat} {g : MuleGroup} (h : c.Sound) : (c.applyGroupFresh lead g).Sound := by
  unfold Chip.applyGroupFresh
  extract_lets x wrote clear
  have hclear : ∀ x0, x0.Sound → (clear x0).Sound := fun _ h1 => h1.foldl (fun _ _ h2 => h2.updMule)
  exact (hclear _ h).ite (hclear _ ((h.foldl (fun _ _ h1 => h1.profileDeferred)).ite h).updMule)

theorem Chip.Sound.muleRested {c : Chip} {now m : Nat} (h : c.Sound) : (c.muleRested now m).Sound := by
  unfold Chip.muleRested
  extract_lets x
  split
  · exact h.setFldS.updMule.setFlag.setEncBase.setFldS.use (fun hc1 => hc1.muleHold.endMule.ite hc1.loadProfile.updMule.muleGo)
  · exact ((h.updMule.foldl (fun _ _ h1 => h1.muleHold)).endMule).takeNext

theorem Chip.Sound.stepped {c : Chip} {now m : Nat} {p : Int} (h : c.Sound) : (c.stepped now m p).Sound := h.setFldS.updMule

theorem Chip.Sound.groupTurn {c : Chip} {m : Nat} {g : MuleGroup} (h : c.Sound) : (c.groupTurn m g).Sound := by
  have h1 : (c.pruneNext m).1.Sound := h.pruneNext
  unfold Machine.Chip.groupTurn
  refine h.ite ?_
  split
  next e =>
    rw [e] at h1
    exact h1.endMule.muleStop.ite h1
  next e =>
    rw [e] at h1
    exact h1

theorem Chip.Sound.groupStep {c : Chip} {now m : Nat} {g : MuleGroup} (h : c.Sound) : (c.groupStep now m g).Sound := by
  unfold Chip.groupStep
  extract_lets n c1 g c2 x
  have hc2 : c2.Sound := (h.foldl (fun _ _ h1 => h1.ite h1.stepped)).updMule.applyGroupFresh.groupTurn
  refine (hc2.muleRested.ite hc2.setGroupSpeed).ite ?_
  split
  · exact hc2.muleStop.muleRested
  · exact hc2.setGroupSpeed

theorem Chip.Sound.muleStep {c : Chip} {now m : Nat} (h : c.Sound) : (c.muleStep now m).Sound := by
  unfold Chip.muleStep
  refine h.ite ?_
  split
  · exact h.groupStep
  · extract_lets c1 toGo c2 c3 x p dir
    have hc2 : c2.Sound := h.stepped.applyFresh
    have hc3 : c3.Sound := hc2.ite (hc2.pruneNext.ite hc2.takeNext)
    refine .ite ?_ ?_
    · split
      · exact hc3.muleHold.endMule
      · exact hc3.setMuleSpeed
    · refine .ite ?_ (hc3.muleRested.ite hc3.setMuleSpeed)
      refine (hc3.raise.muleStop.updMule.use (fun hc4 => hc4.muleRested.ite hc4.setMuleSpeed)).ite ?_
      refine hc3.muleHold.endMule.ite ?_
      refine hc3.setMuleSpeed.ite ?_
      split
      · exact hc3.muleHold.endMule
      · exact hc3.setMuleSpeed

theorem Chip.Sound.handOver {c : Chip} {lead heir : Nat} {g : MuleGroup} (h : c.Sound) : (c.handOver lead heir g).Sound :=
  h.updMule.updMule.each (fun _ _ h1 => h1.updMule)

theorem Chip.Sound.groupStop {c : Chip} {lead gone status detail : Nat} (h : c.Sound) : (c.groupStop lead gone status detail).Sound := by
  unfold Chip.groupStop
  split
  · exact h
  · extract_lets g' d c1
    have hc1 : c1.Sound := h.dropNext.updMule.muleEstop
    split
    · exact hc1.updMule.endMule
    · exact hc1.handOver.ite hc1

theorem Chip.Sound.muleHalt {c : Chip} {m status detail : Nat} (h : c.Sound) : (c.muleHalt m status detail).Sound := by
  unfold Chip.muleHalt
  split
  · exact h.groupStop.setFld.setFlag.setFlag.setReg.updMule
  · exact h.dropPending.dropNext.muleHold.endMule

theorem Chip.Sound.limitHit {c : Chip} {now m : Nat} (h : c.Sound) : (c.limitHit now m).Sound := by
  unfold Chip.limitHit
  extract_lets c1
  have hc1 : c1.Sound := h.raise.updMule
  split
  · exact hc1.groupStop
  · exact hc1.dropPending.dropNext.muleEstop.updMule

theorem Chip.Sound.showSwitches {c : Chip} {m : Nat} (h : c.Sound) : (c.showSwitches m).Sound := h.setFlag.setFlag.setFlag

theorem Chip.Sound.muleSwitch {c : Chip} {now m : Nat} {which : MuleInput} {level : Bool} (h : c.Sound) :
    (c.muleSwitch now m which level).Sound :=
  h.ite (h.updMule.showSwitches.setFldS.use (fun hc1 => hc1.ite (hc1.muleStop.updMule.ite (hc1.limitHit.ite hc1))))

theorem Chip.Sound.muleFault {c : Chip} {m cause bits_ : Nat} (h : c.Sound) : (c.muleFault m cause bits_).Sound :=
  h.raise.muleHalt.setFld.setFlag.pin.event

theorem Chip.Sound.stallShow {c : Chip} {m : Nat} (h : c.Sound) : (c.stallShow m).Sound := h.setFlag.use (fun hc1 => hc1.setFldS.ite hc1)

theorem Chip.Sound.stallCheck {c : Chip} {now m : Nat} (h : c.Sound) : (c.stallCheck now m).Sound :=
  h.stallShow.use (fun hc1 => hc1.updMule.ite (hc1.updMule.ite (hc1.updMule.ite (hc1.bump.updMule.use (fun hc2 =>
    hc2.ite hc2.muleHalt.setFldS.updMule.raise.event)))))

theorem Chip.Sound.stageWord {c : Chip} {m w : Nat} (h : c.Sound) : (c.stageWord m w).Sound := h.setFld.use (fun hc1 => hc1.bump.ite hc1)

theorem Chip.Sound.stageStatus {c : Chip} {m w : Nat} (h : c.Sound) : (c.stageStatus m w).Sound :=
  h.updMule.use (fun hc1 => hc1.muleFault.ite (hc1.muleFault.ite hc1))

theorem Chip.Sound.sendCoilFrame {c : Chip} {chain : Nat} (h : c.Sound) : (c.sendCoilFrame chain).Sound := h.send.send.send

theorem Chip.Sound.coilFrame {c : Chip} {now chain : Nat} {status : List Nat} (h : c.Sound) : (c.coilFrame now chain status).Sound :=
  h.ite (((h.each (fun _ _ h1 => h1.switchMule.pin)).sendCoilFrame).each (fun _ _ h1 => (h1.stageWord.ite h1).use (fun hc1 => hc1.ite
    (hc1.stallShow.ite (hc1.stageStatus.use (fun hc2 => hc2.ite hc2.stallCheck))))))

theorem Chip.Sound.holdDelay {c : Chip} {now m : Nat} (h : c.Sound) : (c.holdDelay now m).Sound := h.setFlag.ite h

theorem Chip.Sound.muleEnable {c : Chip} {now m : Nat} (h : c.Sound) : (c.muleEnable now m).Sound := h.setFld.setFlag.updMule.setEncBase.ite h

theorem Chip.Sound.muleDisable {c : Chip} {m status : Nat} (h : c.Sound) : (c.muleDisable m status).Sound :=
  h.dropNext.muleHalt.setFld.setFlag.setFlag.pin

theorem Chip.Sound.mulesSafeStop {c : Chip} (h : c.Sound) : c.mulesSafeStop.Sound :=
  h.each (fun _ c h1 => by
    refine h1.ite ?_
    extract_lets c1
    have hc1 : c1.Sound := h1.dropPending.dropNext
    split
    · exact hc1.groupStop
    · exact hc1.muleEstop.updMule)

theorem Chip.Sound.mulesOff {c : Chip} (h : c.Sound) : c.mulesOff.Sound := h.each (fun _ _ h1 => h1.muleDisable.setFlag)

theorem Chip.Sound.muleRequest {c : Chip} {now m : Nat} {r : MuleReq} {cmd : Nat} (h : c.Sound) : (c.muleRequest now m r cmd).Sound :=
  h.muleBegin.ite h.updMule

theorem Chip.Sound.muleYield {c : Chip} {m : Nat} (h : c.Sound) : (c.muleYield m).Sound := h.ite h.dropNext.endMule.muleStop.updMule

theorem Chip.Sound.groupRequest {c : Chip} {now : Nat} {goals : List (Nat × Int)} {cmd : Nat} (h : c.Sound) :
    (c.groupRequest now goals cmd).Sound := by
  unfold Chip.groupRequest
  extract_lets m
  split
  · exact h.muleRequest
  · exact (h.each (fun _ _ h1 => h1.muleYield)).muleBegin

theorem Chip.Sound.axisMove {c : Chip} {now : Nat} {e : JEntry} (h : c.Sound) : (c.axisMove now e).Sound := by
  unfold Chip.axisMove
  refine h.result.ite ?_
  split
  · exact h.result
  · extract_lets goals
    split
    · exact h.result
    · exact h.result
    · split
      · exact h.result
      · exact h.started.use (fun hc1 => hc1.muleRequest.ite hc1.groupRequest)

theorem Chip.Sound.muleJog {c : Chip} {now m : Nat} {e : JEntry} (h : c.Sound) : (c.muleJog now m e).Sound := by
  unfold Chip.muleJog
  refine h.result.ite ?_
  refine h.result.ite ?_
  split
  · exact h.result
  · exact h.result
  · exact h.result.ite h.started.muleRequest

theorem Chip.Sound.axisHome {c : Chip} {now : Nat} {e : JEntry} (h : c.Sound) : (c.axisHome now e).Sound := by
  unfold Chip.axisHome
  split
  · exact h.result
  · split
    · exact h.result
    · exact h.result
    · exact h.result.ite h.started.muleRequest

/-! ### Operations of Machine/Xlat.lean -/

theorem Chip.Sound.cacheLeaf {c : Chip} {l : Leaf} (h : c.Sound) : (c.cacheLeaf l).Sound := by
  unfold Chip.cacheLeaf
  exact h.updXlat

theorem Chip.Sound.dropLeaves {c : Chip} {part start size : Nat} (h : c.Sound) : (c.dropLeaves part start size).Sound := h.updXlat

theorem Chip.Sound.showLocks {c : Chip} (h : c.Sound) : c.showLocks.Sound :=
  h.setFld.use (fun hc1 => (hc1.setFld.ite hc1).each (fun _ _ h1 => h1.setFld))

theorem Chip.Sound.unlock {c : Chip} {part : Nat} {keys : List (Nat × Nat)} (h : c.Sound) : (c.unlock part keys).Sound := h.updXlat.showLocks

theorem Chip.Sound.translate {c : Chip} {mem : HostImg} {part a : Nat} {write fresh : Bool} (h : c.Sound) :
    Both (fun _ => True) (·.2.Sound) (c.translate mem part a write fresh) := by
  unfold Machine.Chip.translate
  refine Both.ite trivial ?_
  extract_lets found
  cases found with
  | error e => trivial
  | ok l => exact Both.ite trivial (Both.ite trivial h.cacheLeaf)

theorem Chip.Sound.showSusp {c : Chip} {p : Nat} (h : c.Sound) : (c.showSusp p).Sound := h.setFlag.setFld

theorem Chip.Sound.suspend {c : Chip} {part source chan a cause ring opcode : Nat} {write : Bool} {cmd : Option Nat} {key : Nat} (h : c.Sound) :
    (c.suspend part source chan a cause ring opcode write cmd key).Sound :=
  h.updXlat.setFld.showSusp.use (fun hc1 => (hc1.setFld.ite hc1).eventTo)

theorem Chip.Sound.unsuspend {c : Chip} {s : Susp} (h : c.Sound) : (c.unsuspend s).Sound :=
  h.updXlat.showSusp.use (fun hc1 => hc1.setFld.ite hc1)

theorem Chip.Sound.sendRead {c : Chip} {q : Port} {h n : Nat} {image : Bool} (hs : c.Sound) : (c.sendRead q h n image).Sound :=
  hs.each (fun _ _ h1 => h1.send)

theorem Chip.Sound.sendWrite {c : Chip} {q : Port} {h : Nat} {bs : List Byte} (hs : c.Sound) : (c.sendWrite q h bs).Sound :=
  hs.each (fun _ _ h1 => h1.send)

theorem Chip.Sound.noteBusError {c : Chip} {q : Port} (h : c.Sound) : (c.noteBusError q).Sound := h.freeBool.updPort.ite h.freeBool

theorem Chip.Sound.resumed {c : Chip} {part slot : Nat} (h : c.Sound) : (c.resumed part slot).Sound := h.foldl (fun _ _ h1 => h1.unsuspend)

/-! ### Operations of Machine/PageTree.lean -/

theorem Chip.Sound.lockAt {c : Chip} {mem : HostImg} {part a : Nat} {keys : List (Nat × Nat)} (h : c.Sound) :
    Both (fun _ => True) (·.2.2.Sound) (c.lockAt mem part a keys) := by
  unfold Machine.Chip.lockAt
  refine Both.ite trivial ?_
  split
  · refine Both.ite h ?_
    dsimp only [Both]
    exact h.updXlat
  split
  · trivial
  · exact Both.ite trivial (Both.ite trivial h.dropLeaves.cacheLeaf)

theorem Chip.Sound.lockRange {mem : HostImg} {part fuel a n : Nat} {keys : List (Nat × Nat)} {c : Chip} (h : c.Sound) :
    Both (·.2.2.Sound) (·.2.Sound) (Chip.lockRange mem part fuel a n keys c) := by
  induction fuel generalizing a n keys c with
  | zero => exact h
  | succ fuel ih =>
    unfold Machine.Chip.lockRange
    refine Both.ite h ?_
    split
    · exact h
    next e1 => exact ih (h.lockAt.ok e1)

/-! ### Operations of Machine/Lanes.lean -/

theorem Chip.Sound.showLane {c : Chip} {s state band block line k : Nat} (h : c.Sound) : (c.showLane s state band block line k).Sound :=
  h.setFld.setFld.setFld.setFld.setFld

theorem Chip.Sound.setDecoded {c : Chip} {p : Page} {s n : Nat} (h : c.Sound) : (c.setDecoded p s n).Sound := h.updPage

theorem Chip.Sound.laneError {c : Chip} {s : Nat} {p : Page} {b : Nat} {e : SiphonErr} {k : Nat} (h : c.Sound) :
    (c.laneError s p b e k).Sound :=
  h.updLane.setDecoded.showLane.setFld.setFld.setFld.setFld.setFld.raise.event.abortPage

theorem Chip.Sound.feedLane {c : Chip} {s : Nat} (h : c.Sound) : (c.feedLane s).Sound := by
  unfold Machine.Chip.feedLane
  extract_lets l kept n came left
  split
  · exact h
  refine h.ite ?_
  extract_lets l1 b c1
  have h1 : c1.Sound := by
    unfold c1
    split
    · exact h.setDecoded.showLane
    · exact h
  refine h1.updLane.ite ?_
  split
  · exact h1.updLane.laneError
  · exact h1.updLane.showLane.ite h1.updLane.showLane

theorem Chip.Sound.bandDecode {c : Chip} {s : Nat} (h : c.Sound) : (c.bandDecode s).Sound := by
  unfold Chip.bandDecode
  split
  · exact h
  · split
    · exact h
    · exact h.ite h.updLane.feedLane

/-! ### Operations of Machine/Sweep.lean -/

theorem Chip.Sound.sendTrim {c : Chip} {now t : Nat} {k : Plan} (h : c.Sound) : (c.sendTrim now t k).Sound := h.sumpRec.sendMsg

theorem Chip.Sound.endLimit {c : Chip} {t : Nat} (h : c.Sound) : (c.endLimit t).Sound := by
  unfold Chip.endLimit
  split
  · exact h
  · exact h.updTile.bump.setFld.event

theorem Chip.Sound.judgeLimit {c : Chip} {t : Nat} {k : Plan} (h : c.Sound) : (c.judgeLimit t k).Sound := by
  unfold Chip.judgeLimit
  split
  · exact h.ite h.endLimit
  · exact (h.when (fun _ h1 => h1.endLimit)).use (fun hc1 => hc1.ite ((hc1.when (fun _ h1 => h1.raise)).updTile))

theorem Chip.Sound.moveHorizon {c : Chip} {ls : List PlanLine} (h : c.Sound) : (c.moveHorizon ls).Sound :=
  h.ite ((h.each (fun _ _ h1 => h1.updPage)).showFronts)

theorem Chip.Sound.takeCommits {c : Chip} {now t instant : Nat} (h : c.Sound) : (c.takeCommits now t instant).Sound :=
  h.foldl (fun _ _ h1 => (h1.foldl (fun _ _ h2 => h2.tileSwitched)).ite h1)

theorem Chip.Sound.refreshSched {c : Chip} {t : Nat} (h : c.Sound) : (c.refreshSched t).Sound := h.ite h.setFld

theorem Chip.Sound.sendPlan {c : Chip} {now t : Nat} {k : Plan} {ws : List (Nat × List DotPulse)} (h : c.Sound) :
    (c.sendPlan now t k ws).Sound :=
  h.sendMsg.sendTrim.each (fun _ _ h1 => h1.sendMsg)

theorem Chip.Sound.showPlan {c : Chip} {t : Nat} {k : Plan} (h : c.Sound) : (c.showPlan t k).Sound :=
  h.updTile.setFld.setFld.setFld.setFld.setFld.setFld

theorem Chip.Sound.makePlan {c : Chip} {now t sweep d m : Nat} (h : c.Sound) : (c.makePlan now t sweep d m).Sound :=
  ((((h.calNext.iteSnd h).limiter).elim (fun _ => ((h.calNext.iteSnd h).limiter).updTile)).moveHorizon.countPulses.keepHistory.when (fun _ h1 =>
    h1.raise)).updTile.sendPlan.showPlan

theorem Chip.Sound.blankTile {c : Chip} {now t sweep : Nat} (h : c.Sound) : (c.blankTile now t sweep).Sound := h.updSafety.kill

theorem Chip.Sound.sweepPlan {c : Chip} {now t : Nat} (h : c.Sound) : (c.sweepPlan now t).Sound := by
  unfold Chip.sweepPlan
  refine h.ite ?_
  split
  · exact h
  · refine h.blankTile.ite ?_
    refine h.ite ?_
    refine h.ite ?_
    split
    · exact h.takeCommits.refreshSched.use (fun hc1 => (hc1.loseTile.ite hc1).ite (hc1.loseTile.ite hc1.makePlan.feedLane))
    · exact h

theorem Chip.Sound.trimRefine {c : Chip} {now t : Nat} (h : c.Sound) : (c.trimRefine now t).Sound := by
  unfold Chip.trimRefine
  split
  · exact h
  · extract_lets k
    split
    · exact h
    · refine h.ite ?_
      extract_lets s m w d0
      split
      rename_i rho cutRamp resid e
      extract_lets limited p c1 c2
      have hc2 : c2.Sound := h.updTile.sendTrim.judgeLimit
      split
      · exact hc2.calBias1
      · exact hc2

/-! ### Operations of Machine/Mirror.lean -/

theorem Chip.Sound.startMirror {c : Chip} {now t : Nat} (h : c.Sound) : (c.startMirror now t).Sound :=
  h.updTile.tileMissing.ite h.updEng.updTile.sendDrive

theorem Chip.Sound.mirrorStart {c : Chip} {now t : Nat} (h : c.Sound) : (c.mirrorStart now t).Sound := h.startMirror.ite h

theorem Chip.Sound.mirrorRetry {c : Chip} {now t : Nat} (h : c.Sound) : (c.mirrorRetry now t).Sound := h.startMirror.ite h

theorem Chip.Sound.mirrorStep {c : Chip} {now t : Nat} (h : c.Sound) : (c.mirrorStep now t).Sound := by
  unfold Chip.mirrorStep
  extract_lets x
  split
  · exact h.updTile.sendDrive.ite h
  · exact h

theorem Chip.Sound.lockTimeout {c : Chip} {now t : Nat} (h : c.Sound) : (c.lockTimeout now t).Sound := by
  unfold Chip.lockTimeout
  extract_lets x
  split
  · exact h.tileMissing.stopMirror.updTile.refreshSched.ite h
  · exact h

theorem Chip.Sound.mirrorFault {c : Chip} {now t cause : Nat} {stamp : Option Nat} (h : c.Sound) : (c.mirrorFault now t cause stamp).Sound := by
  unfold Chip.mirrorFault
  refine h.ite ?_
  extract_lets c1 c2 ee c3
  have hc2 : c2.Sound := h.updTile.raise
  have hc3 : c3.Sound := by
    unfold c3
    split
    · exact hc2.emit
    · exact hc2.emit
  exact hc3.loseTile.refreshSched

theorem Chip.Sound.mirrorOut {c : Chip} {now t lag : Nat} (h : c.Sound) : (c.mirrorOut now t lag).Sound := h.updTile.sumpRec.sendDrive

theorem Chip.Sound.amplitudeLoop {c : Chip} {now t span trail : Nat} (h : c.Sound) : (c.amplitudeLoop now t span trail).Sound := by
  unfold Chip.amplitudeLoop
  extract_lets nom
  split
  · exact h
  · exact h.updTile.mirrorOut

theorem Chip.Sound.mirrorSense {c : Chip} {now t phase : Nat} (h : c.Sound) : (c.mirrorSense now t phase).Sound :=
  h.ite (h.updTile.mirrorOut.use (fun hc1 => hc1.mirrorFault.ite hc1))

theorem Chip.Sound.showPredErr {c : Chip} {t m : Nat} {k : Plan} {w : Nat} (h : c.Sound) : (c.showPredErr t m k w).Sound := h.setFldS.setFld

theorem Chip.Sound.missedSweep {c : Chip} {now t : Nat} (h : c.Sound) : (c.missedSweep now t).Sound :=
  h.raise.updTile.use (fun hc1 => hc1.mirrorFault.ite hc1)

theorem Chip.Sound.judgeLock {c : Chip} {t : Nat} (h : c.Sound) : (c.judgeLock t).Sound :=
  h.ite (h.updTile.use (fun hc1 => (hc1.ite hc1.tileFound).refreshSched))

theorem Chip.Sound.judgeSpan {c : Chip} {now t span trail : Nat} (h : c.Sound) : (c.judgeSpan now t span trail).Sound :=
  (((h.when (fun _ h1 => h1.raise)).updTile.when (fun _ h1 => h1.mirrorFault)).when (fun _ h1 => h1.mirrorFault)).judgeLock

theorem Chip.Sound.stampedSweep {c : Chip} {now t sweep d lead trail : Nat} {plan : Option Plan} {late : Bool} (h : c.Sound) :
    (c.stampedSweep now t sweep d lead trail plan late).Sound := by
  unfold Chip.stampedSweep
  extract_lets x m span half c1 c2 hh c3 c4
  have hc2 : c2.Sound := h.updTile.setFld
  have hc3 : c3.Sound := hc2.ite hc2.setFld
  have hc4 : c4.Sound := by
    unfold c4
    split
    · exact hc3.showPredErr
    · exact hc3
  exact hc4.amplitudeLoop.judgeSpan.refreshSched

theorem Chip.Sound.underrun {c : Chip} {now t sweep : Nat} {stamp : Option Nat} (h : c.Sound) : (c.underrun now t sweep stamp).Sound := by
  unfold Chip.underrun
  extract_lets c1 c2 ee
  have hc2 : c2.Sound := h.loseTile.refreshSched.raise.setFld
  split
  · exact hc2.emit
  · exact hc2.emit

theorem Chip.Sound.bdStamp {c : Chip} {now t sweep lead48 trail48 flags : Nat} (h : c.Sound) :
    (c.bdStamp now t sweep lead48 trail48 flags).Sound := by
  unfold Chip.bdStamp
  refine h.ite ?_
  extract_lets plan killed lead trail whole late c1 c2 c3 c4
  have hc1 : c1.Sound := h.when (fun _ h1 => h1.raise)
  have hc2 : c2.Sound := by
    unfold c2
    clear_value plan
    split
    · exact hc1.ite hc1.judgeLimit
    · exact hc1
  exact hc2.updTile.use (fun hc3 => (hc3.stampedSweep.ite hc3.missedSweep).use (fun hc4 => hc4.underrun.ite hc4))

theorem Chip.Sound.wakeMirror {c : Chip} {now t : Nat} (h : c.Sound) : (c.wakeMirror now t).Sound := h.updTile.sendDrive.ite h.updTile

theorem Chip.Sound.forgetStamps {c : Chip} {t : Nat} (h : c.Sound) : (c.forgetStamps t).Sound := h.updTile.refreshSched

theorem Chip.Sound.rejoin {c : Chip} {now t : Nat} (h : c.Sound) : (c.rejoin now t).Sound := h.sendBias.updTile.refreshSched

/-! ### Operations of Machine/Link.lean -/

theorem Chip.Sound.enterTrain {c : Chip} {now t : Nat} (h : c.Sound) : (c.enterTrain now t).Sound := h.setLink.setFlag.latchTile.updTile

theorem Chip.Sound.askIdentity {c : Chip} {now t : Nat} (h : c.Sound) : (c.askIdentity now t).Sound := h.sendMsg

theorem Chip.Sound.tryTrain {c : Chip} {now t : Nat} (h : c.Sound) : (c.tryTrain now t).Sound := h.enterTrain.ite h

theorem Chip.Sound.linkOff {c : Chip} {t : Nat} (h : c.Sound) : (c.linkOff t).Sound := h.setLink.unkill.setFlag.setFlag.updTile.forgetStamps

theorem Chip.Sound.disableTile {c : Chip} {now t : Nat} (h : c.Sound) : (c.disableTile now t).Sound := h.loseTile.stopMirror.linkOff

theorem Chip.Sound.linkFault {c : Chip} {t cause more : Nat} (h : c.Sound) : (c.linkFault t cause more).Sound := h.setFld.event

theorem Chip.Sound.declareHeadFault {c : Chip} {now t more : Nat} (h : c.Sound) : (c.declareHeadFault now t more).Sound :=
  h.updTile.raise.loseTile.linkFault.refreshSched

theorem Chip.Sound.loadFailed {c : Chip} {now t : Nat} {l : BankLoad} (h : c.Sound) : (c.loadFailed now t l).Sound :=
  (h.ite h.updTile.declareHeadFault).loadBank.updTile

theorem Chip.Sound.bankTimeout {c : Chip} {now t : Nat} (h : c.Sound) : (c.bankTimeout now t).Sound := h.each (fun _ _ h1 => h1.loadFailed)

theorem Chip.Sound.linkUp {c : Chip} {now t : Nat} (h : c.Sound) : (c.linkUp now t).Sound := h.setLink.updTile.wakeMirror.refreshSched

theorem Chip.Sound.bankAcked {c : Chip} {now t : Nat} {l : BankLoad} (h : c.Sound) : (c.bankAcked now t l).Sound :=
  h.updTile.use (fun hc1 => hc1.linkUp.ite hc1.refreshSched)

theorem Chip.Sound.judgeLoads {c : Chip} {now t valid : Nat} {crcs : List Nat} (h : c.Sound) : (c.judgeLoads now t valid crcs).Sound :=
  h.each (fun _ _ h1 => h1.ite (h1.bankAcked.ite h1.loadFailed))

/-- Above the placement tables no default depends on the tiles. -/
theorem tableDefault_of_le {l l' : List Nat} {a : Nat} (h : 0x82000 ≤ a) : tableDefault l a = tableDefault l' a := by
  simp only [tableDefault, Nat.not_lt.mpr h, if_false]

/-- A canonical store is canonical under other defaults once its entries equal to those are gone. -/
theorem Sparse.wfFrom_filter_of {α : Type} [DecidableEq α] {d d' : Nat → α} {p : Nat × α → Bool} {lo : Option Nat} {l : List (Nat × α)}
    (h : Sparse.wfFrom d lo l = true) (hp : ∀ e, e.2 ≠ d e.1 → p e = true → e.2 ≠ d' e.1) : Sparse.wfFrom d' lo (l.filter p) = true := by
  induction l generalizing lo with
  | nil => rfl
  | cons e l ih =>
    simp only [Sparse.wfFrom, Bool.and_eq_true, decide_eq_true_eq] at h
    obtain ⟨⟨hlo, hd⟩, hl⟩ := h
    rw [List.filter_cons]
    split
    next hpe =>
      simp only [Sparse.wfFrom, Bool.and_eq_true, decide_eq_true_eq]
      exact ⟨⟨hlo, hp e hd hpe⟩, ih hl⟩
    next =>
      refine Sparse.wfFrom_mono (ih hl) fun b hb => ?_
      subst hb
      exact ⟨e.1, rfl, Nat.le_of_lt (of_decide_eq_true hlo)⟩

theorem Chip.Sound.makeDefaults {c : Chip} {t : Nat} (h : c.Sound) : (c.makeDefaults t).Sound := by
  unfold Chip.makeDefaults
  refine Chip.Sound.ite ?_ h
  extract_lets nom keep
  have hkeep (e : Host.Cell) (hd : e.2 ≠ tableDefault c.nominal e.1) (hk : keep e = true) : e.2 ≠ tableDefault nom e.1 := by
    simp only [keep, Bool.or_eq_true, decide_eq_true_eq, bne_iff_ne] at hk
    exact hk.elim (fun hle => tableDefault_of_le hle ▸ hd) id
  refine Chip.Sound.each ⟨h.regs, Sparse.wfFrom_filter_of h.shadow hkeep, Sparse.wfFrom_filter_of h.active hkeep, ?_⟩ fun _ _ h1 => h1.setTabByte
  rw [← h.shape]
  simp [Chip.shape, nom]

theorem Chip.Sound.tryTables {c : Chip} {now t : Nat} (h : c.Sound) : (c.tryTables now t).Sound := h.setLink.makeDefaults.loadAllBanks.ite h

theorem Chip.Sound.roundTrip {c : Chip} {t epoch : Nat} (h : c.Sound) : (c.roundTrip t epoch).Sound := by
  unfold Chip.roundTrip
  extract_lets x find
  split
  · exact h.updTile.setFldS
  · exact h

theorem Chip.Sound.acceptIdentity {c : Chip} {now t : Nat} {b : List Byte} (h : c.Sound) : (c.acceptIdentity now t b).Sound :=
  h.updTile.use (fun hc1 => (hc1.setLink.raise.linkFault.use (fun hc2 => (hc2.loseTile.ite hc2).forgetStamps)).ite ((hc1.each (fun _ _ h1 =>
    h1.setReg)).updTile.use (fun hc3 => hc3.setLink.tryTables.ite hc3)))

theorem Chip.Sound.judgeIdentity {c : Chip} {now t : Nat} (h : c.Sound) : (c.judgeIdentity now t).Sound :=
  (h.elim (fun _ => h.acceptIdentity)).ite h

theorem Chip.Sound.tryIdent {c : Chip} {t : Nat} (h : c.Sound) : (c.tryIdent t).Sound := h.setLink.ite h

theorem Chip.Sound.headIdentity {c : Chip} {now t : Nat} {b : List Byte} (h : c.Sound) : (c.headIdentity now t b).Sound :=
  h.updTile.tryIdent.ite h.acceptIdentity

theorem Chip.Sound.epochMark {c : Chip} {now t sub : Nat} (h : c.Sound) : (c.epochMark now t sub).Sound :=
  h.ite h.judgeIdentity.updTile.putBlocks

theorem Chip.Sound.echoMark {c : Chip} {now t epoch sub : Nat} (h : c.Sound) : (c.echoMark now t epoch sub).Sound := by
  unfold Chip.echoMark
  split
  · exact h
  · exact h.ite h.judgeIdentity.updTile.roundTrip.sendMsg.tryTables

theorem Chip.Sound.headReport {c : Chip} {now t : Nat} {b : List Byte} (h : c.Sound) : (c.headReport now t b).Sound :=
  (h.setFld.setFld.setFld.setFld.updTile.when (fun _ h1 => h1.declareHeadFault)).roundTrip.judgeLoads

theorem Chip.Sound.headStatus {c : Chip} {now t : Nat} {b : List Byte} (h : c.Sound) : (c.headStatus now t b).Sound :=
  h.ite (h.judgeIdentity.setFlag.use (fun hc1 => hc1.headReport.ite (hc1.headIdentity.ite hc1)))

theorem Chip.Sound.headTemp {c : Chip} {now t : Nat} {temps : List Nat} (h : c.Sound) : (c.headTemp now t temps).Sound :=
  (h.each (fun _ _ h1 => h1.setFld.sumpRec)).when (fun _ h1 => h1.raise)

theorem Chip.Sound.ackMsg {c : Chip} {now t seq : Nat} {nak : Bool} (h : c.Sound) : (c.ackMsg now t seq nak).Sound :=
  h.ite (h.ackUpTo.use (fun hc1 => hc1.resend.ite hc1))

theorem Chip.Sound.retxTimeout {c : Chip} {now t : Nat} (h : c.Sound) : (c.retxTimeout now t).Sound := by
  unfold Chip.retxTimeout
  split
  · exact h.resend.ite h
  · exact h

theorem Chip.Sound.sendAck {c : Chip} {t : Nat} (h : c.Sound) : (c.sendAck t).Sound := h.putFrame

theorem Chip.Sound.uplinkFrame {c : Chip} {now t : Nat} {hdr body : List Byte} (h : c.Sound) : (c.uplinkFrame now t hdr body).Sound :=
  h.ite (h.updTile.use (fun hc1 => hc1.bump.ite ((hc1.updTile.when (fun _ h1 => h1.askIdentity)).use (fun hc2 => hc2.bump.ite
    ((hc2.updTile.when (fun _ h1 => h1.countRetx)).use (fun hc3 => hc3.bump.updTile.sendAck.ite (hc3.sendAck.ite hc3.updTile.sendAck)))))))

theorem Chip.Sound.uplinkLock {c : Chip} {now t : Nat} {locked : Bool} (h : c.Sound) : (c.uplinkLock now t locked).Sound :=
  (h.when (fun _ h1 => h1.askIdentity)).setFlag.updTile.tryIdent

theorem Chip.Sound.uplinkBlock {c : Chip} {now t : Nat} {b : LaneBlock} (h : c.Sound) : (c.uplinkBlock now t b).Sound :=
  (h.updTile.when (fun _ h1 => h1.bump)).when (fun _ h1 => h1.uplinkLock)

theorem Chip.Sound.uplinkBlocks {c : Chip} {now t : Nat} {l : List LaneBlock} (h : c.Sound) : (c.uplinkBlocks now t l).Sound :=
  h.ite (h.each (fun _ _ h1 => h1.uplinkBlock))

theorem Chip.Sound.linkFail {c : Chip} {now t : Nat} (h : c.Sound) : (c.linkFail now t).Sound := by
  unfold Chip.linkFail
  split
  · exact h
  · exact h.kill.setLink.raise.linkFault.losePages.updTile.forgetStamps

theorem Chip.Sound.linkRetrain {c : Chip} {now t : Nat} (h : c.Sound) : (c.linkRetrain now t).Sound := by
  unfold Chip.linkRetrain
  split
  · exact h.enterTrain.askIdentity.ite h
  · exact h

theorem Chip.Sound.trainTimeout {c : Chip} {now t : Nat} (h : c.Sound) : (c.trainTimeout now t).Sound :=
  (h.when (fun _ h1 => h1.tileMissing)).updTile.each (fun _ _ h1 => h1.raise.linkFault)

theorem Chip.Sound.killRepeat {c : Chip} {t : Nat} (h : c.Sound) : (c.killRepeat t).Sound := h.putBlocks.ite h

theorem Chip.Sound.dllLost {c : Chip} {now g cause : Nat} (h : c.Sound) : (c.dllLost now g cause).Sound :=
  h.ite ((h.each (fun _ _ h1 => h1.setFlag)).use (fun hc1 => hc1.ite ((hc1.each (fun _ _ h1 => h1.setFlag.raise)).event.each (fun _ _ h1 =>
    h1.tryTables))))

theorem Chip.Sound.dllWindowLost {c : Chip} {now g : Nat} {w : DllWindow} (h : c.Sound) : (c.dllWindowLost now g w).Sound := h.dllLost.ite h

theorem Chip.Sound.dllLocked {c : Chip} {now g : Nat} {ws : List DllWindow} (h : c.Sound) : (c.dllLocked now g ws).Sound :=
  h.ite (((h.each (fun _ _ h1 => h1.setFlag.setFlag)).when (fun _ h1 => h1.event)).each (fun _ _ h1 => h1.tryTables))

theorem Chip.Sound.checkM0 {c : Chip} {now : Nat} (h : c.Sound) : (c.checkM0 now).Sound := h.ite (h.updEng.ite h)

theorem Chip.Sound.trainAll {c : Chip} {now : Nat} (h : c.Sound) : (c.trainAll now).Sound :=
  h.updEng.each (fun _ _ h1 => h1.tryTrain.ite h1.tileMissing)

/-! ### Operations of Machine/SeamUnit.lean -/

theorem Chip.Sound.lscanStop {c : Chip} (h : c.Sound) : c.lscanStop.Sound := h.updSeam

theorem Chip.Sound.applyCam {c : Chip} (h : c.Sound) : c.applyCam.Sound := h.updSeam

theorem Chip.Sound.enterLine {c : Chip} {b : Nat} {px : Option (List Nat)} (h : c.Sound) : (c.enterLine b px).Sound := by
  unfold Chip.enterLine
  exact h.updSeam

theorem Chip.Sound.showResults {c : Chip} {source : Nat} {rs : List SeamResult} (h : c.Sound) : (c.showResults source rs).Sound :=
  h.each (fun _ _ h1 => h1.setReg.setReg)

theorem Chip.Sound.commitAuto {c : Chip} {now tag part lead : Nat} {es : List (Nat × Word × Word)} {used : List (Nat × Nat)} (h : c.Sound) :
    (c.commitAuto now tag part lead es used).Sound := by
  unfold Chip.commitAuto
  exact ((h.each (fun _ _ h1 => (h1.each (fun _ _ h2 => h2.setFlag)).setFlag)).each (fun _ _ h1 => h1.setFlag.ite h1.setFlag)).updSeam.schedule

theorem Chip.Sound.finishSet {c : Chip} {x : Ctx} {m : Meas} {rs : List SeamResult} {reports : List Word} (h : c.Sound) :
    (c.finishSet x m rs reports).Sound := by
  unfold Machine.Chip.finishSet
  extract_lets v p lead
  split
  next es rs used e =>
    extract_lets c1 c2 priv c3 busy go tag good detail c4 c5 c6
    have h4 : c4.Sound := (((h.when fun _ h1 => h1.updSeam).showResults).updSeam.when fun _ h1 => h1.raise).raise
    have h5 : c5.Sound := h4.eventTo.ite h4.event
    have h6 : c6.Sound := by
      unfold c6
      split
      · exact h5.result
      · exact h5
    exact h6.ite (h6.updSeam.ite h6.commitAuto)

theorem Chip.Sound.heldCommit {c : Chip} {now : Nat} (h : c.Sound) : (c.heldCommit now).Sound := h.ite (h.updSeam.raise.ite h.commitAuto)

theorem Chip.Sound.edgePeriod {c : Chip} {x : Ctx} {m : Meas} (h : c.Sound) : (c.edgePeriod x m).Sound := h.updSeam.ite h.updSeam.finishSet

theorem Chip.Sound.seedMarks {c : Chip} {m : Meas} (h : c.Sound) : (c.seedMarks m).2.Sound := h.same

theorem Chip.Sound.completeMeas {c : Chip} {x : Ctx} {b : Nat} (h : c.Sound) : (c.completeMeas x b).Sound :=
  h.updSeam.foldl (fun _ _ h1 => h1.seedMarks.edgePeriod.updSeam.ite h1.seedMarks.finishSet)

theorem Chip.Sound.takeLine {c : Chip} {x : Ctx} {b : Nat} {px : Option (List Nat)} (h : c.Sound) : (c.takeLine x b px).Sound :=
  h.completeMeas.enterLine

theorem Chip.Sound.dropPassed {c : Chip} (h : c.Sound) : c.dropPassed.Sound := by
  unfold Chip.dropPassed
  exact h.updSeam

theorem Chip.Sound.lscanStart {c : Chip} (h : c.Sound) : c.lscanStart.Sound := h.setFld.updSeam.dropPassed

theorem Chip.Sound.startMeas {c : Chip} {p : Page} (h : c.Sound) : (c.startMeas p).Sound := by
  unfold Chip.startMeas
  exact (h.when (fun _ h1 => h1.dropPassed)).updSeam

theorem Chip.Sound.cutMeas {c : Chip} {seq n : Nat} (h : c.Sound) : (c.cutMeas seq n).Sound := by
  unfold Chip.cutMeas
  exact h.updSeam

theorem Chip.Sound.cancelMeas {c : Chip} {seq : Nat} (h : c.Sound) : (c.cancelMeas seq).Sound :=
  h.updSeam.each (fun m c h1 => by
    split
    rename_i m c1 e
    have hc1 : c1.Sound := .snd e h1.seedMarks
    extract_lets c2
    have hc2 : c2.Sound := hc1.showResults
    split
    · exact hc2.result
    · exact hc2)

theorem Chip.Sound.lscanTrigger {c : Chip} {x : Ctx} (h : c.Sound) : (c.lscanTrigger x).Sound := by
  unfold Chip.lscanTrigger
  split
  · exact h
  · exact h.ite (h.updSeam.use (fun hc1 => hc1.bump.raise.takeLine.ite hc1.updSeam.setFld.pin))

theorem Chip.Sound.lineBoundary {c : Chip} (h : c.Sound) : c.lineBoundary.Sound := by
  unfold Chip.lineBoundary
  exact (h.setFlag.ite h).updSeam

theorem Chip.Sound.discardLine {c : Chip} {x : Ctx} {b cause : Nat} (h : c.Sound) : (c.discardLine x b cause).Sound :=
  h.bump.setFld.raise.takeLine

theorem Chip.Sound.keepLine {c : Chip} {ws : List Nat} (h : c.Sound) : (c.keepLine ws).Sound := h.ite h.updSeam

theorem Chip.Sound.lscanLine {c : Chip} {x : Ctx} {words : List Nat} (h : c.Sound) : (c.lscanLine x words).Sound := by
  unfold Machine.Chip.lscanLine
  split
  · exact h
  extract_lets gone c1 ws c2 n c3
  have h2 : c2.Sound := h.updSeam.keepLine
  have h3 : c3.Sound := by
    refine h2.ite ?_
    split
    · exact h2.takeLine
    · exact (h2.updSeam.setFld.ite h2).discardLine
  exact h3.lineBoundary

theorem Chip.Sound.lscanSyncTimeout {c : Chip} {x : Ctx} (h : c.Sound) : (c.lscanSyncTimeout x).Sound := by
  unfold Chip.lscanSyncTimeout
  split
  · exact h.updSeam.discardLine.ite h
  · exact h

theorem Chip.Sound.lscanTimeout {c : Chip} {x : Ctx} (h : c.Sound) : (c.lscanTimeout x).Sound := by
  unfold Chip.lscanTimeout
  split
  · exact h.ite (h.updSeam.use (fun hc1 => (hc1.ite hc1.discardLine).lineBoundary))
  · exact h

theorem Chip.Sound.lscanBypass {c : Chip} {cause mhz : Nat} (h : c.Sound) : (c.lscanBypass cause mhz).Sound :=
  h.ite h.setFlag.setFlag.setFld.updSeam.raise.event

theorem Chip.Sound.lscanLock {c : Chip} {mhz : Nat} (h : c.Sound) : (c.lscanLock mhz).Sound :=
  h.ite (h.setFlag.setFld.use (fun hc1 => hc1.updSeam.ite hc1.setFlag))

theorem Chip.Sound.seamReach {c : Chip} {t : Nat} {switched : Nat → Bool} (h : c.Sound) : (c.seamReach t switched).Sound := h.raise.ite h

/-! ### Operations of Machine/Drive.lean -/

theorem Chip.Sound.dropDuties {c : Chip} {a : Nat} (h : c.Sound) : (c.dropDuties a).Sound := h.setFlag.updDrive

theorem Chip.Sound.setDriveState {c : Chip} {a s : Nat} (h : c.Sound) : (c.setDriveState a s).Sound :=
  h.setFld.use (fun hc1 => hc1.dropDuties.pin.ite hc1)

theorem Chip.Sound.setGates {c : Chip} {a : Nat} {g : List (List (Nat × Nat))} (h : c.Sound) : (c.setGates a g).Sound := h.updDrive.send

theorem Chip.Sound.commutated {c : Chip} {now a : Nat} (h : c.Sound) : (c.commutated now a).Sound := h.updDrive

theorem Chip.Sound.showSources {c : Chip} (h : c.Sound) : c.showSources.Sound := h.each (fun _ _ h1 => h1.setFld.setFlag)

theorem Chip.Sound.setAngle {c : Chip} {now a ang : Nat} {v : Int} {sensed : Bool} (h : c.Sound) : (c.setAngle now a ang v sensed).Sound :=
  h.setFld.setFldS.use (fun hc1 => hc1.commutated.ite hc1)

theorem Chip.Sound.updateAngle {c : Chip} {now a dt : Nat} (h : c.Sound) : (c.updateAngle now a dt).Sound :=
  h.updDrive.setAngle.ite (h.setAngle.ite (h.setAngle.ite h.setAngle))

theorem Chip.Sound.endJog {c : Chip} {a status detail : Nat} (h : c.Sound) : (c.endJog a status detail).Sound := by
  unfold Chip.endJog
  split
  · exact h.updDrive.result
  · exact h

theorem Chip.Sound.faultRecords {c : Chip} {a : Nat} (h : c.Sound) : (c.faultRecords a).Sound := (h.each (fun _ _ h1 => h1.emit)).updDrive

theorem Chip.Sound.driveFault {c : Chip} {now a cause : Nat} (h : c.Sound) : (c.driveFault now a cause).Sound :=
  h.ite (h.raise.bump.updDrive.use (fun hc1 => (hc1.setFld.ite hc1).ite (hc1.setFld.setFld.setDriveState.updDrive.use (fun hc2 =>
    (hc2.endJog.ite hc2.endJog).use (fun hc3 => hc3.abortAll.ite hc3)))))

theorem Chip.Sound.driveStopped {c : Chip} {a : Nat} (h : c.Sound) : (c.driveStopped a).Sound := h.setDriveState.updDrive.endJog

theorem Chip.Sound.driveRun {c : Chip} {a : Nat} {seed : Int} (h : c.Sound) : (c.driveRun a seed).Sound := h.setDriveState.updDrive.endJog

theorem Chip.Sound.normalStart {c : Chip} {now a : Nat} (h : c.Sound) : (c.normalStart now a).Sound :=
  h.setDriveState.setFld.updDrive.ite h.setFld.driveRun

theorem Chip.Sound.driveBrake {c : Chip} {a after : Nat} (h : c.Sound) : (c.driveBrake a after).Sound := h.setDriveState.dropDuties.updDrive.pin

theorem Chip.Sound.caught {c : Chip} {now a : Nat} {v : Int} (h : c.Sound) : (c.caught now a v).Sound :=
  h.normalStart.ite (h.setFld.driveRun.ite h.driveBrake)

theorem Chip.Sound.beginCatch {c : Chip} {now a : Nat} (h : c.Sound) : (c.beginCatch now a).Sound :=
  h.dropDuties.setFld.updDrive.setDriveState.use (fun hc1 => hc1.updDrive.setGates.ite (hc1.driveFault.ite hc1.updateAngle.caught))

theorem Chip.Sound.driveStart {c : Chip} {now a : Nat} (h : c.Sound) : (c.driveStart now a).Sound :=
  h.faultRecords.setDriveState.dropDuties.setFld.updDrive.use (fun hc1 => hc1.driveFault.ite hc1)

theorem Chip.Sound.driveStop {c : Chip} {a : Nat} {ref : Word} (h : c.Sound) : (c.driveStop a ref).Sound :=
  (h.endJog.ite h).ite (h.ite (h.updDrive.use (fun hc1 => hc1.driveBrake.ite (hc1.setDriveState.updDrive.ite hc1.driveStopped))))

theorem Chip.Sound.offsetCalEnd {c : Chip} {now a : Nat} (h : c.Sound) : (c.offsetCalEnd now a).Sound :=
  h.ite (h.setFld.setFld.setFld.use (fun hc1 => hc1.driveFault.ite hc1.beginCatch))

theorem Chip.Sound.deliver {c : Chip} {a : Nat} {v : List Int} (h : c.Sound) : (c.deliver a v).Sound := h.updDrive

theorem Chip.Sound.applyDuties {c : Chip} {a : Nat} {d : List Nat} (h : c.Sound) : (c.applyDuties a d).Sound :=
  (h.raise.ite h).setGates.each (fun _ _ h1 => h1.pin)

theorem Chip.Sound.rampStep {c : Chip} {now a dt : Nat} (h : c.Sound) : (c.rampStep now a dt).Sound :=
  h.updDrive.ite (h.updDrive.ite ((h.updDrive.use (fun hc1 => hc1.driveStopped.ite hc1)).ite h))

theorem Chip.Sound.carrierPeak {c : Chip} {now a : Nat} (h : c.Sound) : (c.carrierPeak now a).Sound := by
  unfold Machine.Chip.carrierPeak
  refine h.ite ?_
  extract_lets x s dt c1 c2 c3 active late deep c4 c5
  have h1 : c1.Sound := h.updDrive
  have h2 : c2.Sound := h1.faultRecords.updDrive.ite h1
  have h3 : c3.Sound := h2.updDrive.pin.ite h2
  have h4 : c4.Sound := by
    refine Chip.Sound.ite ?_ h3
    split
    · dsimp only
      exact h3.updDrive.setFlag.use fun h6 => (h6.bump.raise.ite h6).applyDuties
    · exact (h3.raise.ite h3).use fun h6 => (h6.bump.raise.ite h6).applyDuties
  exact (h4.updateAngle.ite h4).rampStep.switchDrive

theorem Chip.Sound.confidence {c : Chip} {a emf : Nat} {speed : Int} (h : c.Sound) : (c.confidence a emf speed).2.Sound :=
  h.iteSnd (h.freeNat.pair.iteSnd h)

theorem Chip.Sound.observe {c : Chip} {now a : Nat} (h : c.Sound) : (c.observe now a).Sound := h.same.confidence.setFld.updDrive

theorem Chip.Sound.judgeObserver {c : Chip} {now a : Nat} (h : c.Sound) : (c.judgeObserver now a).Sound :=
  (h.setFld.driveRun.ite h).ite (((h.setFld.event.setDriveState.updDrive.use (fun hc1 => hc1.updDrive.endJog.ite hc1)).ite h).ite
    ((h.raise.event.use (fun hc2 => hc2.setFld.setFld.updDrive.ite hc2.setFld.setDriveState.updDrive)).ite h))

theorem Chip.Sound.torqueTimer {c : Chip} {now a : Nat} (h : c.Sound) : (c.torqueTimer now a).Sound := h.updDrive

theorem Chip.Sound.brakeAngle {c : Chip} {now a : Nat} (h : c.Sound) : (c.brakeAngle now a).Sound :=
  h.freeWord.freeNat.updDrive.setFld.setAngle.ite h.setFld.updateAngle

theorem Chip.Sound.brakeSample {c : Chip} {now a : Nat} {i : List Int} (h : c.Sound) : (c.brakeSample now a i).Sound :=
  (h.updDrive.pin.ite h).updDrive.brakeAngle.use (fun hc1 => hc1.normalStart.ite hc1)

theorem Chip.Sound.catchSample {c : Chip} {now a : Nat} (h : c.Sound) : (c.catchSample now a).Sound := by
  unfold Chip.catchSample
  split
  · exact h
  · exact h.ite (h.freeWord.freeNat.updDrive.setAngle.use (fun hc1 => hc1.driveFault.ite hc1.caught))

theorem Chip.Sound.updSt {c : Chip} {n : Nat} {f : SlotSt → SlotSt} (h : c.Sound) : (c.updSt n f).Sound := h.updWl (es := by simp)

theorem Chip.Sound.skipped {c : Chip} {now n k : Nat} (h : c.Sound) : (c.skipped now n k).Sound := h.ite h.bump.raise.updSt

theorem Chip.Sound.sampleDue {c : Chip} {now trig src : Nat} (h : c.Sound) : (c.sampleDue now trig src).Sound :=
  h.each (fun _ _ h1 => h1.skipped.ite h1.updSt)

theorem Chip.Sound.putCurrents {c : Chip} {a : Nat} {i : List Int} {recon : Nat} (h : c.Sound) : (c.putCurrents a i recon).Sound :=
  h.setFldS.setFldS.setFldS.setFld

theorem Chip.Sound.loopTick {c : Chip} {now a : Nat} (h : c.Sound) : (c.loopTick now a).Sound := h.updDrive.sampleDue.ite h.updDrive

theorem Chip.Sound.shuntSample {c : Chip} {now a : Nat} {raw : List Nat} (h : c.Sound) : (c.shuntSample now a raw).Sound :=
  h.putCurrents.driveFault.ite (h.putCurrents.ite (h.putCurrents.updDrive.ite ((h.bump.raise.ite h).putCurrents.sumpRec.use (fun hc1 =>
    hc1.brakeSample.ite (hc1.catchSample.ite (hc1.loopTick.use (fun hc2 => (hc2.observe.judgeObserver.ite hc2).torqueTimer)))))))

theorem Chip.Sound.gateFault {c : Chip} {now a : Nat} (h : c.Sound) : (c.gateFault now a).Sound := h.driveFault

theorem Chip.Sound.lockedRotor {c : Chip} {now a : Nat} (h : c.Sound) : (c.lockedRotor now a).Sound := h.driveFault.ite h

theorem Chip.Sound.observerFail {c : Chip} {now a : Nat} (h : c.Sound) : (c.observerFail now a).Sound := by
  unfold Chip.observerFail
  extract_lets x
  split
  · exact (h.driveFault.ite (h.ite h.updDrive.driveBrake)).ite h
  · exact h

theorem Chip.Sound.catchFail {c : Chip} {now a : Nat} (h : c.Sound) : (c.catchFail now a).Sound := h.driveFault.ite h

theorem Chip.Sound.brakeEnd {c : Chip} {now a : Nat} (h : c.Sound) : (c.brakeEnd now a).Sound := by
  unfold Chip.brakeEnd
  extract_lets x
  split
  · exact (h.driveFault.ite (h.driveStopped.ite h)).ite h
  · exact h

theorem Chip.Sound.loseHalls {c : Chip} {now a : Nat} (h : c.Sound) : (c.loseHalls now a).Sound :=
  h.ite ((h.raise.updDrive.use (fun hc1 => hc1.setFld.updDrive.ite hc1)).ite (h.updDrive.use (fun hc2 => hc2.ite hc2.driveFault)))

theorem Chip.Sound.hallTimeout {c : Chip} {now a : Nat} (h : c.Sound) : (c.hallTimeout now a).Sound := by
  unfold Chip.hallTimeout
  split
  · exact h
  · split
    · exact h.loseHalls.ite h
    · exact h

theorem Chip.Sound.hallDrives {c : Chip} {now h : Nat} {outOfSeq : Bool} (hs : c.Sound) : (c.hallDrives now h outOfSeq).Sound :=
  hs.showSources.each (fun _ _ h1 => h1.ite (h1.updDrive.use (fun hc1 => (hc1.loseHalls.ite hc1).use (fun hc2 => hc2.ite (hc2.updDrive.use
    (fun hc3 => ((hc3.setFld.ite (hc3.setFld.ite hc3)).ite hc3).use (fun hc4 => (hc4.setAngle.ite hc4).commutated)))))))

theorem Chip.Sound.encoderDrives {c : Chip} {now ch : Nat} (h : c.Sound) : (c.encoderDrives now ch).Sound :=
  h.showSources.each (fun _ _ h1 => h1.ite (h1.driveFault.ite (h1.ite ((h1.setFld.ite h1).ite (h1.setFld.updDrive.ite h1)))))

theorem Chip.Sound.elecTarget {c : Chip} {a slot : Nat} {w : Word} (h : c.Sound) : (c.elecTarget a slot w).2.Sound :=
  h.iteSnd (h.iteSnd (h.iteSnd (h.iteSnd h.freeNat)))

theorem Chip.Sound.driveTo {c : Chip} {now a slot : Nat} {cmd : Option Nat} {v : Int} {old : Word} (h : c.Sound) :
    (c.driveTo now a slot cmd v old).Sound := by
  unfold Chip.driveTo
  extract_lets s
  split
  · exact h.elim (fun _ => h.result)
  · exact h.updDrive.use (fun hc1 => (hc1.endJog.ite hc1.driveStop).ite (hc1.updDrive.use (fun hc2 => hc2.driveStart.ite (hc2.updDrive.ite
      (hc2.updDrive.beginCatch.ite ((hc2.updDrive.driveBrake.ite hc2.setDriveState.updDrive.endJog).ite hc2))))))

theorem Chip.Sound.driveJog {c : Chip} {now a slot cmd : Nat} {w : Word} (h : c.Sound) : (c.driveJog now a slot cmd w).Sound := by
  unfold Chip.driveJog
  split
  · exact h.result
  · exact h.endJog.setReg.elecTarget.driveTo

/-! ### Operations of Machine/Windlass.lean -/

theorem Chip.Sound.freeReal {c : Chip} (h : c.Sound) : (c.freeReal).2.Sound := h.freeWord

theorem Chip.Sound.setLearned {c : Chip} {j b : Nat} {w : Word} (h : c.Sound) : (c.setLearned j b w).Sound := h.updWl.setTabBytes

theorem Chip.Sound.trackAll {c at_ : Chip} {n t : Nat} (h : c.Sound) : (c.trackAll at_ n t).Sound := h.each (fun _ _ h1 => h1.updWl (et :=
  by simp))

theorem Chip.Sound.learnAll {c at_ : Chip} {n t : Nat} {e : Word} (h : c.Sound) : (c.learnAll at_ n t e).2.Sound := by
  unfold Chip.learnAll
  extract_lets go
  have hgo : ∀ x0 x1, x0.2.Sound → (go x0 x1).2.Sound := fun _ _ h1 => by
      refine .iteSnd ?_ h1
      split
      · split
        · exact h1.setLearned
        · exact h1
      · exact h1
  exact (h.foldlSnd (fun _ _ h1 => hgo _ _ h1)).iteSnd h

theorem Chip.Sound.rcCopy {c : Chip} {j : Nat} (h : c.Sound) : (c.rcCopy j).Sound := h.updWl.ite h

theorem Chip.Sound.refreshHv {c : Chip} {k : Nat} (h : c.Sound) : (c.refreshHv k).Sound := h.setFld.use (fun hc1 => hc1.pin.ite hc1)

theorem Chip.Sound.fuserPwm {c : Chip} {z : Nat} (h : c.Sound) : (c.fuserPwm z).Sound := h.send

theorem Chip.Sound.refreshZone {c : Chip} {z : Nat} (h : c.Sound) : (c.refreshZone z).Sound :=
  h.setFld.use (fun hc1 => hc1.pin.ite (hc1.fuserPwm.ite hc1))

theorem Chip.Sound.fuserCfgWrote {c : Chip} {z old : Nat} (h : c.Sound) : (c.fuserCfgWrote z old).Sound :=
  ((h.updWl (ez := by simp)).ite h).refreshZone.use (fun hc1 => hc1.ite (hc1.fuserPwm.ite (hc1.pin.ite hc1)))

theorem Chip.Sound.refreshLoads {c : Chip} (h : c.Sound) : c.refreshLoads.Sound :=
  (h.each (fun _ _ h1 => h1.refreshHv)).each (fun _ _ h1 => h1.refreshZone)

theorem Chip.Sound.toLoad {c : Chip} {n : Nat} {u : Word} (h : c.Sound) : (c.toLoad n u).Sound :=
  (h.pin.ite h).ite (((h.updWl (ez := by simp)).setFld.use (fun hc1 => hc1.fuserPwm.ite hc1)).ite h)

theorem Chip.Sound.keepInput {c : Chip} {now : Nat} {was : WlInput} (h : c.Sound) : (c.keepInput now was).Sound := by
  unfold Chip.keepInput
  exact h.updWl

theorem Chip.Sound.slotInputs {c : Chip} {n t : Nat} (h : c.Sound) : (c.slotInputs n t).2.Sound :=
  ((h.freeNat.iteSnd h).freeReal).iteSnd (h.freeNat.iteSnd h)

theorem Chip.Sound.dancer {c : Chip} {n : Nat} {y : Word} (h : c.Sound) : (c.dancer n y).Sound := h.ite ((h.ite h.updSt.raise.event).ite h.updSt)

theorem Chip.Sound.judgeSlotLock {c : Chip} {n : Nat} {e : Option Word} (h : c.Sound) : (c.judgeSlotLock n e).Sound := by
  unfold Chip.judgeSlotLock
  extract_lets tol twice
  split
  · exact h.updSt.setFlag
  · exact h.updSt.use (fun hc1 => hc1.setFlag.ite (hc1.setFlag.ite hc1))

theorem Chip.Sound.endCapture {c : Chip} (h : c.Sound) : c.endCapture.Sound := by
  unfold Chip.endCapture
  split
  rename_i tag n e
  extract_lets c1 c2
  have hc1 : c1.Sound := h.setFld.raise
  have hc2 : c2.Sound := by
    unfold c2
    split
    · exact hc1.eventTo
    · exact hc1.event
  split
  · exact hc2.updWl.result.ite hc2
  · exact hc2

theorem Chip.Sound.startCapture {c : Chip} {tag : Nat} {part : Option Nat} (h : c.Sound) : (c.startCapture tag part).Sound :=
  h.setFld.setFld.updWl

theorem Chip.Sound.captureTick {c : Chip} {n : Nat} (h : c.Sound) : (c.captureTick n).Sound :=
  h.ite (h.updWl.ite (h.updWl.setFld.use (fun hc1 => hc1.endCapture.ite hc1)))

theorem Chip.Sound.beginInjection {c : Chip} {n t : Nat} (h : c.Sound) : (c.beginInjection n t).Sound := by
  unfold Chip.beginInjection
  split
  · exact h.ite (h.updWl.sumpRec.use (fun hc1 => hc1.startCapture.ite hc1))
  · exact h

theorem Chip.Sound.stepInjection {c : Chip} {n : Nat} (h : c.Sound) : (c.stepInjection n).Sound := by
  unfold Chip.stepInjection
  split
  · exact h.ite (h.updWl.ite (h.setFlag.use (fun hc1 => hc1.updWl.ite hc1.updWl.result)))
  · exact h

theorem Chip.Sound.stopInjection {c : Chip} {status : Nat} (h : c.Sound) : (c.stopInjection status).Sound := by
  unfold Chip.stopInjection
  split
  · exact h.updWl.setFlag.result
  · exact h

theorem Chip.Sound.applyOut {c : Chip} {now n t : Nat} {u ud : Word} {sat : Bool} (h : c.Sound) : (c.applyOut now n t u ud sat).Sound :=
  h.setReg.setFlag.setFld.use (fun hc1 => hc1.sumpRec.ite (hc1.sumpRec.when (fun _ h1 => h1.toLoad)))

theorem Chip.Sound.nonFinite {c : Chip} {now n t : Nat} {x : SlotIn} (h : c.Sound) : (c.nonFinite now n t x).Sound :=
  h.updSt.raise.event.judgeSlotLock.applyOut.use (fun hc1 => hc1.deliver.ite hc1)

theorem Chip.Sound.slotRun {c : Chip} {now n : Nat} (h : c.Sound) : (c.slotRun now n).Sound := by
  unfold Machine.Chip.slotRun
  refine h.ite ?_
  split
  · exact h
  extract_lets c1 c2 done
  have hdone {c : Chip} (h : c.Sound) : (done c).Sound := h.stepInjection.captureTick.sampleDue
  split
  next x c3 e =>
    have h3 : c3.Sound := .snd e h.skipped.switchSlot.updSt.beginInjection.slotInputs
    extract_lets at_ c4 st d
    have h4 : c4.Sound := h3.trackAll
    split
    · exact hdone h4.nonFinite
    extract_lets vec
    clear_value vec
    split
    next ok c5 e5 =>
      have h5 : c5.Sound := .snd e5 h4.learnAll
      split
      · exact hdone (Chip.Sound.dancer (h5.updSt.judgeSlotLock.applyOut.use fun h6 => h6.deliver.updDrive.ite h6))
      · exact hdone h5.nonFinite

theorem Chip.Sound.slotSample {c : Chip} {now n : Nat} (h : c.Sound) : (c.slotSample now n).Sound := h.slotRun.ite h

theorem Chip.Sound.overrunEnd {c : Chip} {now n : Nat} (h : c.Sound) : (c.overrunEnd now n).Sound := by
  unfold Chip.overrunEnd
  extract_lets x
  split
  · exact h.updSt.event.ite h
  · exact h

theorem Chip.Sound.putAdc {c : Chip} {ch raw : Nat} (h : c.Sound) : (c.putAdc ch raw).Sound := by
  unfold Chip.putAdc
  refine h.setReg.ite ?_
  split
  · exact h.setReg
  · exact h.freeReal.setReg

theorem Chip.Sound.slowAdc {c : Chip} {now raw : Nat} (h : c.Sound) : (c.slowAdc now raw).Sound :=
  h.updWl.updWl.use (fun hc1 => ((hc1.sumpRec.ite hc1).keepInput).putAdc)

theorem Chip.Sound.setBelt {c : Chip} {now : Nat} {v : Word} (h : c.Sound) : (c.setBelt now v).Sound := by
  unfold Chip.setBelt
  split
  · exact h
  · exact h.ite h.setReg.sumpRec

theorem Chip.Sound.driveBelt {c : Chip} {now : Nat} (h : c.Sound) : (c.driveBelt now).Sound := by
  unfold Chip.driveBelt
  refine h.ite ?_
  split
  · exact h.setBelt.ite h
  · exact h.setBelt

theorem Chip.Sound.judgeFollow {c : Chip} {now : Nat} (h : c.Sound) : (c.judgeFollow now).Sound := by
  unfold Chip.judgeFollow
  split
  · exact (h.updWl.raise.event.ite h).use (fun hc1 => (hc1.updWl.raise.event.ite hc1).updWl)
  · exact h

theorem Chip.Sound.setDemand {c : Chip} {now : Nat} {v : Option Word} (h : c.Sound) : (c.setDemand now v).Sound := by
  unfold Machine.Chip.setDemand
  cases v with
  | some w => exact h.keepInput.updWl.setFld.sumpRec.judgeFollow.driveBelt
  | none => exact h.freeReal.keepInput.updWl.setFld.sumpRec.judgeFollow.driveBelt

theorem Chip.Sound.followUpdate {c : Chip} {now : Nat} {samples : List (Bool × Bool)} (h : c.Sound) : (c.followUpdate now samples).Sound :=
  h.updWl.use (fun hc1 => hc1.setDemand.ite hc1.judgeFollow.driveBelt)

theorem Chip.Sound.followAdc {c : Chip} {now ch : Nat} (h : c.Sound) : (c.followAdc now ch).Sound := h.setDemand.ite h

theorem Chip.Sound.followRunEnd {c : Chip} {now : Nat} (h : c.Sound) : (c.followRunEnd now).Sound := by
  unfold Chip.followRunEnd
  split
  · exact h.updWl.ite h
  · exact h

theorem Chip.Sound.putHv {c : Chip} {k : Nat} {volts amps : Option Nat} (h : c.Sound) : (c.putHv k volts amps).Sound := by
  unfold Machine.Chip.putHv
  extract_lets scale x
  have hscale {off conv : Nat} {n : Option Nat} {old : Word} {c : Chip} (h1 : c.Sound) : (scale off conv n old c).2.Sound := by
    unfold scale
    split
    · exact h1
    · split
      · exact h1
      · exact h1.freeReal
  exact (hscale (hscale h)).updWl (eh := by simp)

theorem Chip.Sound.hvConvert {c : Chip} {now k volts amps : Nat} (h : c.Sound) : (c.hvConvert now k volts amps).Sound := by
  unfold Machine.Chip.hvConvert
  extract_lets x c1
  have h1 : c1.Sound := h.keepInput.putHv
  split
  next w c2 e =>
    have h2 : c2.Sound := by
      split at e <;> cases e
      · exact h1
      · exact h1.freeReal
    exact Chip.Sound.sumpRec (Chip.Sound.sumpRec (h2.updWl (eh := by simp)))

theorem Chip.Sound.hvBin {c : Chip} {k : Nat} (h : c.Sound) : (c.hvBin k).Sound := by
  unfold Machine.Chip.hvBin
  extract_lets x bins
  split
  next c1 e =>
    have h1 : c1.Sound := by
      split at e <;> cases e
      · exact h
      · exact h.freeReal
    extract_lets c2 uj c3
    have h3 : c3.Sound := (h1.updWl (eh := by simp)).setFld
    exact ((h3.setFld.pin.raise.event.each fun _ _ h4 => h4.setReg.updSt).use fun h4 => h4.abortAll.ite h4).ite h3

theorem Chip.Sound.hvRearm {c : Chip} {k : Nat} (h : c.Sound) : (c.hvRearm k).Sound := h.setFld.refreshHv.ite h

theorem Chip.Sound.burst {c : Chip} {z : Nat} (h : c.Sound) : (c.burst z).Sound := h.ite ((h.updWl (ez := by simp)).send)

theorem Chip.Sound.zeroCrossing {c : Chip} {now : Nat} (h : c.Sound) : (c.zeroCrossing now).Sound :=
  h.updWl.use (fun hc1 => (hc1.setFld.ite hc1).use (fun hc2 => ((hc2.setFlag.each (fun _ _ h1 => h1.refreshZone)).ite hc2).each (fun _ _ h1 =>
    h1.burst)))

theorem Chip.Sound.zcLost {c : Chip} {now : Nat} (h : c.Sound) : (c.zcLost now).Sound := by
  unfold Chip.zcLost
  extract_lets half
  split
  · exact (h.setFlag.updWl.raise.event.each (fun _ _ h1 => h1.refreshZone)).ite h
  · exact h

theorem Chip.Sound.showLoad {c : Chip} (h : c.Sound) : c.showLoad.Sound := h.setFld.setFld

theorem Chip.Sound.wlRefused {c : Chip} {slot cause : Nat} (h : c.Sound) : (c.wlRefused slot cause).Sound := h.setFld.setFld.raise

theorem Chip.Sound.slotCfgSet {c : Chip} {now n : Nat} {old : Word} (h : c.Sound) : (c.slotCfgSet now n old).Sound :=
  h.updSt.use (fun hc1 => (hc1.updSt.ite hc1).showLoad)

theorem Chip.Sound.loopInject {c : Chip} {e : JEntry} (h : c.Sound) : (c.loopInject e).Sound :=
  h.result.ite (h.result.ite (h.result.ite (h.result.ite (h.result.ite (h.result.ite (h.result.ite (h.result.ite (h.result.ite (h.result.ite
    (h.result.ite (h.result.ite h.started.updWl.setFld.setFld.setFld.setFlag)))))))))))

/-! ### Operations of Machine/Pages.lean -/

theorem Chip.Sound.logPage {c : Chip} {now : Nat} {p : Page} (h : c.Sound) : (c.logPage now p).Sound := h.sumpRec

theorem Chip.Sound.logCuts {c : Chip} {now : Nat} (h : c.Sound) : (c.logCuts now).Sound := h.foldl (fun _ _ h1 => h1.logPage.updPage)

theorem Chip.Sound.joinChain {c : Chip} {now : Nat} {p : Page} (h : c.Sound) : (c.joinChain now p).Sound := by
  unfold Chip.joinChain
  split
  · exact h.same.ite h.updPage.logPage
  · exact h

theorem Chip.Sound.tryJoin {c : Chip} {now seq : Nat} (h : c.Sound) : (c.tryJoin now seq).Sound := by
  unfold Chip.tryJoin
  split
  · exact h.joinChain.ite h
  · exact h

theorem Chip.Sound.placeFirst {c : Chip} {now : Nat} {p : Page} (h : c.Sound) : (c.placeFirst now p).Sound := h.same.updPage.logPage

theorem Chip.Sound.clearForChain {c : Chip} (h : c.Sound) : c.clearForChain.Sound := h.reshaped (by simp [Chip.shape, Chip.clearForChain])

theorem Chip.Sound.chainStart {c : Chip} {now : Nat} {e : JEntry} (h : c.Sound) : (c.chainStart now e).Sound := by
  unfold Chip.chainStart
  split
  · exact h.result
  · split
    · exact h.result
    · exact h.result
    · exact (h.started.clearForChain.same.placeFirst.foldl (fun _ _ h1 => h1.tryJoin)).enter.result

theorem Chip.Sound.chainEnd {c : Chip} {e : JEntry} (h : c.Sound) : (c.chainEnd e).Sound := by
  unfold Machine.Chip.chainEnd
  split
  · refine Chip.Sound.ite ?_ h.result
    exact Chip.Sound.same (c := c.started e.slot) h.started
  · exact h.result

theorem Chip.Sound.chainClose {c : Chip} (h : c.Sound) : c.chainClose.Sound := by
  unfold Chip.chainClose
  split
  · exact h.same.ite h
  · exact h

theorem Chip.Sound.startTile {c : Chip} {now t : Nat} {p : Page} (h : c.Sound) : (c.startTile now t p).Sound :=
  (h.rejoin.ite h).use (fun hc1 => hc1.defect.updPage.refreshSched.ite (hc1.updTile.use (fun hc2 => hc2.loseTile.ite hc2.refreshSched)))

theorem Chip.Sound.pageStart {c : Chip} {now : Nat} (h : c.Sound) : (c.pageStart now).Sound := by
  unfold Chip.pageStart
  split
  · exact h
  · exact h.ite ((h.updPage.eventTo.foldl (fun _ _ h1 => h1.startTile)).startMeas.driveBelt)

theorem Chip.Sound.finishPage {c : Chip} {p : Page} {status detail : Nat} (h : c.Sound) : (c.finishPage p status detail).Sound := by
  unfold Machine.Chip.finishPage
  extract_lets c1 mine lane dma c2 c3 c4 c5 c6
  have h2 : c2.Sound := Chip.Sound.reshaped (c := c1) h.eventTo (by simp [Chip.shape, c2, dma])
  have h4 : c4.Sound := (h2.each fun _ _ h3 => h3.showImg.ite h3).each fun _ _ h3 => h3.setFld.ite h3
  have h6 : c6.Sound := ((h4.foldl fun _ _ h5 => h5.refreshSched).showFronts.ite h4).unlock
  exact (h6.elim fun _ => h6.cutMeas).cancelMeas.ite h6

theorem Chip.Sound.endLimits {c : Chip} {p : Page} (h : c.Sound) : (c.endLimits p).Sound := h.foldl (fun _ _ h1 => h1.endLimit.ite h1)

theorem Chip.Sound.endPage {c : Chip} {p : Page} (h : c.Sound) : (c.endPage p).Sound := by
  unfold Chip.endPage
  extract_lets c1
  have hc1 : c1.Sound := h.endLimits
  split
  · exact hc1
  · split
    · exact hc1.finishPage
    · exact hc1.finishPage

theorem Chip.Sound.chainDone {c : Chip} (h : c.Sound) : c.chainDone.Sound := by
  unfold Chip.chainDone
  split
  · exact h
  · exact h.same.eventTo.foldl (fun _ _ h1 => h1.result)

theorem Chip.Sound.closeUp {c : Chip} {now : Nat} {l : List Page} (h : c.Sound) : (c.closeUp now l).Sound := by
  induction l generalizing c with
  | nil => exact h
  | cons p l ih =>
    unfold Machine.Chip.closeUp
    split
    · exact h.same.ite (ih h.updPage.logPage)
    · exact ih h.placeFirst
    · exact h

theorem Chip.Sound.pageCancel {c : Chip} {now : Nat} {e : JEntry} (h : c.Sound) : (c.pageCancel now e).Sound := by
  unfold Chip.pageCancel
  split
  · exact h.result
  · exact h.result.ite (h.started.finishPage.use (fun hc1 => (hc1.same.closeUp.ite hc1).result.use (fun hc2 => hc2.chainDone.enter.ite hc2)))

theorem Chip.Sound.pageAbort {c : Chip} {e : JEntry} (h : c.Sound) : (c.pageAbort e).Sound := by
  unfold Machine.Chip.pageAbort
  split
  · exact h.result
  refine h.result.ite ?_
  split
  · exact h.result
  refine h.started.breakChain.result.ite ?_
  dsimp only
  split
  · exact h.started.abortPage.result
  · exact h.started.abortPage

theorem Chip.Sound.armRead {c : Chip} {mem : HostImg} {part a n : Nat} {keys : List (Nat × Nat)} (h : c.Sound) :
    Both (·.2.2.Sound) (·.2.2.Sound) (c.armRead mem part a n keys) := by
  unfold Machine.Chip.armRead
  split
  next e1 => exact h.lockRange.error e1
  next e1 =>
    split
    · exact h.lockRange.ok e1
    · exact h.lockRange.ok e1

theorem Chip.Sound.armTree {c : Chip} {mem : HostImg} {part root : Nat} (h : c.Sound) :
    Both (·.2.2.Sound) (·.2.2.Sound) (c.armTree mem part root) := by
  unfold Machine.Chip.armTree
  refine h.armRead.bind fun x h1 => h1.armRead.bind fun y h2 => ?_
  dsimp only
  split
  · exact h2
  · exact (Both.foldlM (Q := (·.2.2.Sound)) h2 fun _ _ h3 => h3.armRead.bind fun _ h4 => h4.armRead.bind fun _ h5 => h5).bind fun _ h6 => h6

theorem Chip.Sound.armChecks {c : Chip} {mem : HostImg} {e : JEntry} {t : Tree} {keys : List (Nat × Nat)} (h : c.Sound) :
    Both (·.2.2.Sound) (·.2.Sound) (c.armChecks mem e t keys) := by
  unfold Machine.Chip.armChecks
  extract_lets fail
  refine Both.ite h ?_
  dsimp only
  split
  · exact h
  split
  · exact h
  split
  · exact h
  refine (Both.foldlM (Q := (·.2.Sound)) h fun _ _ h1 => h1.lockRange).bind fun x h2 => Both.ite h2 (Both.ite h2 ?_)
  split
  · exact h2.freeNat
  · exact h2.freeNat

theorem Chip.Sound.pageArm {c : Chip} {x : Ctx} {mem : HostImg} {e : JEntry} (h : c.Sound) : (c.pageArm x mem e).Sound := by
  unfold Machine.Chip.pageArm
  refine h.result.ite (h.started.result.ite ?_)
  extract_lets mem
  split
  next e1 =>
    have h1 := Both.error (P := (·.2.2.Sound)) (Q := (·.2.Sound)) (h.started.armTree.bind fun _ h1 => h1.armChecks) e1
    exact h1.showLocks.unlock.result
  next e1 =>
    have h1 := Both.ok (P := (·.2.2.Sound)) (Q := (·.2.Sound)) (h.started.armTree.bind fun _ h1 => h1.armChecks) e1
    exact Chip.Sound.ite h1.same.showLocks.result h1.same.showLocks.result.tryJoin

/-! ### Operations of Machine/Stop.lean -/

theorem Chip.Sound.showLen {c : Chip} (h : c.Sound) : c.showLen.Sound := h.ite (h.setFlag.each (fun _ _ h1 => h1.pin))

theorem Chip.Sound.showHv {c : Chip} {now : Nat} (h : c.Sound) : (c.showHv now).Sound := h.ite h.setFlag.pin.pin.updSafety.refreshLoads

theorem Chip.Sound.endIlkKill {c : Chip} (h : c.Sound) : c.endIlkKill.Sound := h.updSafety.unkillAll.ite h

theorem Chip.Sound.ilkKill {c : Chip} {now : Nat} (h : c.Sound) : (c.ilkKill now).Sound := h.updSafety.killAll.ite h

theorem Chip.Sound.refreshCut {c : Chip} {now : Nat} (h : c.Sound) : (c.refreshCut now).Sound :=
  h.setFlag.use (fun hc1 => (hc1.setFlag.setFlag.ite hc1).showLen.showHv.endIlkKill)

theorem Chip.Sound.arm {c : Chip} {now : Nat} {on : Bool} (h : c.Sound) : (c.arm now on).Sound := h.setFlag.setFlag.showLen.showHv

theorem Chip.Sound.judgeDischarge {c : Chip} (h : c.Sound) : c.judgeDischarge.Sound := h.setFlag

theorem Chip.Sound.stopDrives {c : Chip} (h : c.Sound) : c.stopDrives.Sound := h.each (fun _ _ h1 => h1.driveStop)

theorem Chip.Sound.oweReport {c : Chip} {r : OwedReport} (h : c.Sound) : (c.oweReport r).Sound := h.updEng

theorem Chip.Sound.endReplayUnits {c : Chip} (h : c.Sound) : c.endReplayUnits.Sound :=
  (h.updEng.updWl (es := by simp [Machine.Chip.updEng, h.slots_length])).each fun _ _ h1 => h1.updTile.use fun h2 => h2.updTile.ite h2

theorem Chip.Sound.stopReplay {c : Chip} (h : c.Sound) : c.stopReplay.Sound := by
  unfold Chip.stopReplay
  split
  · exact h
  · exact h.endReplayUnits.ite h.freeNat.freeNat.oweReport.result.endReplayUnits

theorem Chip.Sound.stopCommands {c : Chip} (h : c.Sound) : c.stopCommands.Sound := by
  unfold Chip.stopCommands
  extract_lets slots c1 c2
  have hc1 : c1.Sound := by
    unfold c1
    split
    · exact h.emit
    · exact h
  exact (hc1.updEng.each (fun _ _ h1 => h1.result)).stopReplay

theorem Chip.Sound.stopCalibration {c : Chip} {now : Nat} (h : c.Sound) : (c.stopCalibration now).Sound :=
  (h.calAbort.each (fun _ _ h1 => h1.result)).each (fun _ _ h1 => h1.result)

theorem Chip.Sound.stopPage {c : Chip} {now cause : Nat} {p : Page} (h : c.Sound) : (c.stopPage now cause p).Sound := by
  unfold Chip.stopPage
  extract_lets c1 c2
  have hc2 : c2.Sound := h.updPage.logCuts.endLimits
  split
  · exact hc2
  · exact hc2.finishPage

theorem Chip.Sound.stopPages {c : Chip} {now cause : Nat} (h : c.Sound) : (c.stopPages now cause).Sound :=
  (h.foldl (fun _ _ h1 => h1.stopPage)).restLanes.breakChain.chainDone

theorem Chip.Sound.stopAll {c : Chip} {now pageCause : Nat} (h : c.Sound) : (c.stopAll now pageCause).Sound :=
  h.stopCommands.stopCalibration.stopInjection.arm.killAll.stopPages.updEng.updWl.updSafety.emit.stopDrives.mulesSafeStop

theorem Chip.Sound.safeStop {c : Chip} {now why pageCause : Nat} (h : c.Sound) : (c.safeStop now why pageCause).Sound :=
  h.ite h.stopAll.enter.refreshLoads

theorem Chip.Sound.safeStopCommand {c : Chip} {now : Nat} {e : JEntry} (h : c.Sound) : (c.safeStopCommand now e).Sound :=
  h.result.ite h.started.safeStop.result

theorem Chip.Sound.pageEnd {c : Chip} {now : Nat} (h : c.Sound) : (c.pageEnd now).Sound := by
  unfold Chip.pageEnd
  split
  · exact h
  · extract_lets c1
    have hc1 : c1.Sound := h.endPage
    split
    · exact hc1.driveBelt
    · exact hc1.closeChain.chainDone.use (fun hc2 => hc2.safeStop.ite hc2.enter.driveBelt)

theorem Chip.Sound.watchIlk {c : Chip} {now : Nat} (h : c.Sound) : (c.watchIlk now).Sound := by
  unfold Chip.watchIlk
  exact h.updSafety

theorem Chip.Sound.ilkOpen {c : Chip} {now rebuilt : Nat} {chB : Bool} (h : c.Sound) : (c.ilkOpen now rebuilt chB).Sound := by
  unfold Chip.ilkOpen
  refine h.ite ?_
  extract_lets c1
  have hc1 : c1.Sound := h.setFlag.refreshCut.ilkKill.watchIlk
  refine .ite ?_ (hc1.raise.event.use (fun hc2 => hc2.safeStop.ite hc2))
  split
  · exact hc1
  · exact hc1.updEng

theorem Chip.Sound.ilkClose {c : Chip} {now : Nat} {chB : Bool} (h : c.Sound) : (c.ilkClose now chB).Sound := h.setFlag.refreshCut.watchIlk

theorem Chip.Sound.ilkDiscrepancy {c : Chip} {now : Nat} (h : c.Sound) : (c.ilkDiscrepancy now).Sound := by
  unfold Chip.ilkDiscrepancy
  split
  · exact h
  · exact h.ite h.setFlag.refreshCut.ilkKill.raise.event.safeStop

theorem Chip.Sound.ilkClear {c : Chip} {now : Nat} (h : c.Sound) : (c.ilkClear now).Sound := h.setFlag.refreshCut.ite h

theorem Chip.Sound.dropLearned {c : Chip} (h : c.Sound) : c.dropLearned.Sound := by
  unfold Chip.dropLearned
  exact (h.each (fun _ _ h1 => h1.setTabBytes)).updWl

theorem Chip.Sound.loseImaging {c : Chip} (h : c.Sound) : c.loseImaging.Sound := by
  unfold Machine.Chip.loseImaging
  extract_lets c1
  have h1 : c1.Sound := h.reshaped (by simp [Chip.shape, c1])
  exact h1.dropLearned.updWl.updSeam.updSump

theorem Chip.Sound.mainLoss {c : Chip} {now : Nat} {pfail aonLow : Bool} {vback : Nat} (h : c.Sound) :
    (c.mainLoss now pfail aonLow vback).Sound :=
  h.setFlag.setFld.use (fun hc1 => hc1.ite (hc1.updSafety.refreshCut.use (fun hc2 => hc2.ite
    ((((hc2.emit.emit.raise.event.setFlag.pin.safeStop.updEng.each (fun _ _ h1 => h1.linkOff)).loseImaging).emit).refreshLoads))))

theorem Chip.Sound.switchover {c : Chip} {toVback : Bool} (h : c.Sound) : (c.switchover toVback).Sound := h.setFlag.setFlag

theorem Chip.Sound.mainReturn {c : Chip} {now : Nat} (h : c.Sound) : (c.mainReturn now).Sound :=
  h.setFlag.use (fun hc1 => hc1.updSafety.refreshCut.ite hc1)

theorem Chip.Sound.holdOff {c : Chip} {now : Nat} (h : c.Sound) : (c.holdOff now).Sound := h.setFlag.pin.ite h

theorem Chip.Sound.coastDrives {c : Chip} (h : c.Sound) : c.coastDrives.Sound := h.each (fun _ _ h1 => h1.ite h1.driveStopped.pin)

theorem Chip.Sound.holdupEnd {c : Chip} {now : Nat} (h : c.Sound) : (c.holdupEnd now).Sound :=
  h.ite h.coastDrives.mulesOff.setFlag.pin.updEng.refreshLoads

theorem Chip.Sound.dischargeCheck {c : Chip} {now : Nat} (h : c.Sound) : (c.dischargeCheck now).Sound := by
  unfold Chip.dischargeCheck
  split
  · exact h
  · exact h.ite (h.updSafety.judgeDischarge.use (fun hc1 => hc1.ite hc1.raise.event.safeStop))

theorem Chip.Sound.stopSequenceFinished {c : Chip} {now : Nat} (h : c.Sound) : (c.stopSequenceFinished now).Sound :=
  h.ite (h.updEng.use (fun hc1 => hc1.ite hc1.updEng.trainAll))

theorem Chip.Sound.readVback {c : Chip} {vback : Nat} (h : c.Sound) : (c.readVback vback).Sound :=
  h.setFld.updSafety.use (fun hc1 => hc1.raise.event.ite hc1)

theorem Chip.Sound.vbackFailed {c : Chip} (h : c.Sound) : c.vbackFailed.Sound := h.updEng.ite h

theorem Chip.Sound.brownOut {c : Chip} {now : Nat} (h : c.Sound) : (c.brownOut now).Sound :=
  h.ite (((h.updSafety.refreshCut.raise.each (fun _ _ h1 => h1.pin)).each (fun _ _ h1 => h1.pin)).updEng.refreshLoads)

theorem Chip.Sound.refClockLost {c : Chip} {now : Nat} (h : c.Sound) : (c.refClockLost now).Sound :=
  h.ite ((h.updEng.event.each (fun _ _ h1 => h1.dllLost)).safeStop)

theorem Chip.Sound.refRestored {c : Chip} (h : c.Sound) : c.refRestored.Sound := h.updEng.ite h

theorem Chip.Sound.coresFail {c : Chip} {now : Nat} (h : c.Sound) : (c.coresFail now).Sound := h.updEng.event.safeStop.emit

theorem Chip.Sound.thermalRecord {c : Chip} {cause outcome : Nat} (h : c.Sound) : (c.thermalRecord cause outcome).Sound := h.raise.event

theorem Chip.Sound.thermalStop {c : Chip} {now cause : Nat} {limit : Option Nat} (h : c.Sound) : (c.thermalStop now cause limit).Sound := by
  unfold Chip.thermalStop
  refine h.ite ?_
  split
  · exact h.thermalRecord.safeStop
  · exact h.thermalRecord.breakChain.updEng.ite (h.thermalRecord.abortAll.updEng.ite h.thermalRecord.updEng.updSafety)

theorem Chip.Sound.blankedStop {c : Chip} {now : Nat} (h : c.Sound) : (c.blankedStop now).Sound := h.safeStop.ite h

theorem Chip.Sound.thermalTrip {c : Chip} {now : Nat} (h : c.Sound) : (c.thermalTrip now).Sound :=
  h.setFlag.refreshCut.raise.event.safeStop.coastDrives.mulesOff.refreshLoads

theorem Chip.Sound.judgeSensor {c : Chip} {suspects : List Nat} {i : Nat} (h : c.Sound) : (c.judgeSensor suspects i).Sound :=
  h.ite (h.updSafety.use (fun hc1 => hc1.ite hc1.setFlag.raise.event))

theorem Chip.Sound.showMax {c : Chip} (h : c.Sound) : c.showMax.Sound := by
  unfold Chip.showMax
  split
  · exact h
  · exact h.updSafety.setFldS.setFld.setFldS

theorem Chip.Sound.judgeWarn {c : Chip} (h : c.Sound) : c.judgeWarn.Sound := h.updSafety.use (fun hc1 => hc1.raise.event.ite hc1)

theorem Chip.Sound.judgeThermal {c : Chip} {now : Nat} (h : c.Sound) : (c.judgeThermal now).Sound :=
  h.updSafety.use (fun hc1 => (hc1.ite hc1.thermalTrip).ite (hc1.thermalStop.ite hc1))

theorem Chip.Sound.dieTempRead {c : Chip} {now : Nat} {temps : List Nat} (h : c.Sound) : (c.dieTempRead now temps).Sound :=
  h.ite (((h.each (fun _ _ h1 => h1.setFld.sumpRec)).each (fun _ _ h1 => h1.judgeSensor)).showMax.judgeWarn.judgeThermal)

theorem Chip.Sound.judgePair {c : Chip} {now i : Nat} (h : c.Sound) : (c.judgePair now i).Sound :=
  (h.updSafety (e := by simp)).use (fun hc1 => hc1.ite ((hc1.updSafety.refreshLoads.each (fun _ _ h1 => h1.raise.event)).thermalStop))

theorem Chip.Sound.slowAdcConversion {c : Chip} {now code : Nat} (h : c.Sound) : (c.slowAdcConversion now code).Sound :=
  h.slowAdc.followAdc.use (fun hc1 => hc1.judgePair.ite hc1)

/-! ### Operations of Machine/Image.lean -/

theorem Chip.Sound.feedChannel {c : Chip} {s : Nat} (h : c.Sound) : (c.feedChannel s).Sound := by
  unfold Chip.feedChannel
  extract_lets k stale c1 k
  have hc1 : c1.Sound := h.updImg.showImg.ite h
  refine hc1.ite ?_
  split
  · exact hc1
  · split
    · exact hc1
    · exact hc1.updImg.showImg

theorem Chip.Sound.feedChannels {c : Chip} (h : c.Sound) : c.feedChannels.Sound := h.each (fun _ _ h1 => h1.feedChannel)

theorem Chip.Sound.imgBurst {c : Chip} {q : Port} {s : Nat} (h : c.Sound) : (c.imgBurst q s).Sound := by
  unfold Chip.imgBurst
  extract_lets k
  split
  · extract_lets a n
    split
    · exact h
    · exact h.updImg.sendRead
  · exact h

theorem Chip.Sound.imgHalt {c : Chip} {s cause abort : Nat} (h : c.Sound) : (c.imgHalt s cause abort).Sound := by
  unfold Chip.imgHalt
  extract_lets k
  split
  · exact h
  · exact h.updImg.setFld.setFld.raise.event.abortPage

theorem Chip.Sound.imgData {c : Chip} {s : Nat} {data : List Byte} (h : c.Sound) : (c.imgData s data).Sound := by
  unfold Chip.imgData
  extract_lets k
  split
  · exact h.updLane.updImg.showImg.feedChannel
  · exact h

theorem Chip.Sound.imgFailed {c : Chip} {now s : Nat} (h : c.Sound) : (c.imgFailed now s).Sound := by
  unfold Chip.imgFailed
  extract_lets c1
  have hc1 : c1.Sound := by
    unfold c1
    split
    · exact h.noteBusError
    · exact h
  exact hc1.imgHalt.ite hc1.updImg

theorem Chip.Sound.imgComplete {c : Chip} {now s : Nat} {r : Burst} (h : c.Sound) : (c.imgComplete now s r).Sound := by
  unfold Chip.imgComplete
  split
  · exact h
  · refine h.updImg.feedChannel.ite ?_
    split
    · exact h.imgData.ite h.imgFailed
    · exact h.imgFailed

theorem Chip.Sound.checkBehind {c : Chip} (h : c.Sound) : c.checkBehind.Sound :=
  h.foldl (fun _ _ h1 => h1.ite (h1.imgHalt.ite (h1.imgHalt.ite h1)))

theorem Chip.Sound.imgRetry {c : Chip} {now s : Nat} (h : c.Sound) : (c.imgRetry now s).Sound := by
  unfold Chip.imgRetry
  split
  · exact h
  · exact h.ite (h.checkBehind.use (fun hc1 => hc1.ite hc1.updImg.bump.raise))

/-! ### Operations of Machine/Dma.lean -/

theorem Chip.Sound.putShadow {c : Chip} {off : Nat} {b : Byte} (h : c.Sound) : (c.putShadow off b).Sound := by
  unfold Chip.putShadow
  split
  · exact h
  · exact h.ite h.setTabByte

theorem Chip.Sound.putShadowBytes {c : Chip} {off : Nat} {l : List Byte} (h : c.Sound) : (c.putShadowBytes off l).Sound := by
  induction l generalizing c off with
  | nil => exact h
  | cons b l ih => exact ih h.putShadow

theorem Chip.Sound.updJob {c : Chip} {ch : Nat} {f : SvcJob → SvcJob} (h : c.Sound) : (c.updJob ch f).Sound := h.updDma

theorem Chip.Sound.takeService {c : Chip} {ch slot part : Nat} (h : c.Sound) : (c.takeService ch slot part).Sound :=
  (h.updDma (eo := by simp)).setFld.setFld.setFld

theorem Chip.Sound.freeChannel {c : Chip} {ch : Nat} (h : c.Sound) : (c.freeChannel ch).Sound := (h.updDma (eo := by simp)).setFld

theorem Chip.Sound.channelResumed {c : Chip} {p chan key : Nat} (h : c.Sound) : (c.channelResumed p chan key).Sound :=
  h.foldl (fun _ _ h1 => h1.unsuspend)

theorem Chip.Sound.updXfer {c : Chip} {slot : Nat} {f : Xfer → Xfer} (h : c.Sound) : (c.updXfer slot f).Sound := h.updDma

theorem Chip.Sound.countBurst {c : Chip} {q : Port} {ch part : Nat} (h : c.Sound) : (c.countBurst q ch part).Sound :=
  h.updPort.setFld.setFld.setFld.setFld

theorem Chip.Sound.countGrant {c : Chip} {m : Merge} {q : Port} {ch part : Nat} (h : c.Sound) : (c.countGrant m q ch part).Sound :=
  (h.each (fun _ _ h1 => h1.setFld.ite h1)).countBurst

theorem Chip.Sound.signalQueue {c : Chip} {p k : Nat} (h : c.Sound) : (c.signalQueue p k).Sound := h.updPort.ite h.send

theorem Chip.Sound.signalNow {p k : Nat} {x : Merge × Chip} (h : x.2.Sound) : (signalNow p k x).2.Sound := h.signalQueue

theorem Chip.Sound.moderate {now p k : Nat} {isUrgent : Bool} {x : Merge × Chip} (h : x.2.Sound) : (moderate now p k isUrgent x).2.Sound := by
  unfold Machine.moderate
  exact Chip.Sound.iteSnd h (Chip.Sound.iteSnd (Chip.Sound.signalNow h) h)

theorem Chip.Sound.ringWrite {c : Chip} {mem : HostImg} {p source ring a : Nat} {bs : List Byte} (h : c.Sound) :
    Both Chip.Sound Chip.Sound (c.ringWrite mem p source ring a bs) := by
  unfold Machine.Chip.ringWrite
  extract_lets ch
  split
  · exact h.suspend
  next e => exact Chip.Sound.sendWrite (Chip.Sound.channelResumed (h.translate.ok e))

theorem Chip.Sound.writeRecord {c : Chip} {m : Merge} {mem : HostImg} {p k : Nat} {r : Rec} (h : c.Sound) :
    Both Chip.Sound Chip.Sound (c.writeRecord m mem p k r) := h.ringWrite

theorem Chip.Sound.ringWriteBurst {now : Nat} {mem : HostImg} {p : Nat} {x : Merge × Chip} (h : x.2.Sound) :
    (ringWriteBurst now mem p x).2.Sound := by
  unfold Machine.ringWriteBurst
  obtain ⟨m, c⟩ := x
  have hc : c.Sound := h
  dsimp only
  split
  · exact hc
  split
  · split
    next e => exact hc.ringWrite.error e
    next e => exact hc.ringWrite.ok e
  · split
    · exact hc
    split
    next e => exact hc.writeRecord.error e
    next e => exact Chip.Sound.moderate (hc.writeRecord.ok e)
  · split
    next e => exact hc.writeRecord.error e
    next e => exact Chip.Sound.moderate (hc.writeRecord.ok e)
  · split
    next e => exact hc.writeRecord.error e
    next e => exact Chip.Sound.moderate (hc.writeRecord.ok e)
  · split
    next e => exact hc.ringWrite.error e
    next e => exact hc.ringWrite.ok e
  · exact Chip.Sound.iteSnd hc hc.signalNow
  · exact hc

theorem Chip.Sound.resumePart {p : Nat} {x : Merge × Chip} (h : x.2.Sound) : (resumePart p x).2.Sound := by
  unfold Machine.resumePart
  split
  · exact h.updXlat.pair
  · exact h

theorem Chip.Sound.ringReadBurst {mem : HostImg} {p : Nat} {x : Merge × Chip} (h : x.2.Sound) : (ringReadBurst mem p x).2.Sound := by
  unfold Machine.ringReadBurst
  split
  extract_lets q g
  split
  · exact h
  split
  split
  · exact .pair (Chip.Sound.suspend h)
  next e =>
    have h1 := Both.ok (Chip.Sound.translate h) e
    exact .pair h1.channelResumed.updDma.sendRead

theorem Chip.Sound.reportBurst {c : Chip} {q : Port} {r : OwedReport} (h : c.Sound) : (c.reportBurst q r).Sound := h.updEng.sendWrite.result

theorem Chip.Sound.suspendJob {c : Chip} {ch : Nat} {j : SvcJob} {a cause : Nat} {write : Bool} (h : c.Sound) :
    (c.suspendJob ch j a cause write).Sound :=
  h.freeChannel.updDma.suspend

theorem Chip.Sound.serviceBurst {c : Chip} {mem : HostImg} {q : Port} {ch : Nat} {j : SvcJob} (h : c.Sound) :
    (c.serviceBurst mem q ch j).Sound := by
  unfold Machine.Chip.serviceBurst
  dsimp only
  split
  · split
    · exact h.suspendJob
    next e => exact (Chip.Sound.resumed (h.translate.ok e)).updJob.sendRead
  split
  · split
    · split
      · exact h.suspendJob
      next e => exact (Chip.Sound.resumed (h.translate.ok e)).updJob.sendRead
    · refine Chip.Sound.ite h.updJob ?_
      split
      · exact h.suspendJob
      next e => exact (Chip.Sound.resumed (h.translate.ok e)).sendWrite.updJob
  · split
    · exact h.suspendJob
    next e => exact (Chip.Sound.resumed (h.translate.ok e)).sendWrite.updJob

theorem Chip.Sound.serviceComplete {c : Chip} {ch : Nat} {j : SvcJob} {n : Nat} {r : Burst} (h : c.Sound) :
    (c.serviceComplete ch j n r).Sound := by
  unfold Chip.serviceComplete
  split
  · exact h.noteBusError.updJob
  · exact h.updJob.ite (h.updJob.ite ((h.errFault.ite h).putShadowBytes.updJob))

/-! ### Operations of Machine/Transfer.lean -/

theorem Chip.Sound.endTransfer {c : Chip} {part slot : Nat} (h : c.Sound) : (c.endTransfer part slot).Sound := by
  unfold Chip.endTransfer
  extract_lets c1 c2 c3
  have hc1 : c1.Sound := h.resumed
  have hc2 : c2.Sound := by
    unfold c2
    split
    · exact hc1.freeChannel
    · exact hc1
  have hc3 : c3.Sound := by
    unfold c3
    split
    · exact hc2.setFld.ite hc2
    · exact hc2
  exact hc3.updDma

theorem Chip.Sound.suspendXfer {c : Chip} {e : JEntry} {ch a cause : Nat} {write : Bool} (h : c.Sound) :
    (c.suspendXfer e ch a cause write).Sound :=
  (h.freeChannel.updXfer.ite h).suspend

theorem Chip.Sound.burstFailed {c : Chip} {slot ch : Nat} (h : c.Sound) : (c.burstFailed slot ch).Sound :=
  h.noteBusError.use (fun hc1 => hc1.ite hc1.updXfer)

theorem Chip.Sound.takeBurst {c c' : Chip} {q : Port} {ch : Nat} {x : Xfer} (h : c.Sound) (e : c.takeBurst q ch x = some c') : c'.Sound := by
  unfold Machine.Chip.takeBurst at e
  split at e
  · cases e
    exact h.countBurst
  · cases e
  · cases e
    exact h.updXfer

theorem Chip.Sound.xferBurst {c : Chip} {mem : HostImg} {e : JEntry} {a : Nat} {write : Bool} (h : c.Sound) :
    Both Chip.Sound (·.2.2.Sound) (c.xferBurst mem e a write) := by
  unfold Machine.Chip.xferBurst
  extract_lets q
  split
  · exact h
  split
  · exact h
  refine Both.ite h ?_
  split
  · exact h
  next e1 =>
    have h1 := h.takeBurst e1
    split
    · exact h1.suspendXfer
    next e2 => exact Chip.Sound.resumed (h1.translate.ok e2)

theorem Chip.Sound.readBursts {mem : HostImg} {e : JEntry} {fuel a n : Nat} {c : Chip} (h : c.Sound) :
    Both Chip.Sound Chip.Sound (Chip.readBursts mem e fuel a n c) := by
  induction fuel generalizing a n c with
  | zero => exact h
  | succ fuel ih =>
    unfold Machine.Chip.readBursts
    refine Both.ite h ?_
    split
    next e1 => exact h.xferBurst.error e1
    next e1 =>
      have h1 := h.xferBurst.ok e1
      dsimp only
      split
      · exact h1.sendRead.burstFailed
      · exact ih h1.sendRead.updXfer

theorem Chip.Sound.commandRead {c : Chip} {mem : HostImg} {e : JEntry} {a n : Nat} (h : c.Sound) :
    Both Chip.Sound (·.2.Sound) (c.commandRead mem e a n) := by
  unfold Machine.Chip.commandRead
  split
  · exact h
  dsimp only
  split
  next e1 => exact h.readBursts.error e1
  next e1 =>
    have h1 := h.readBursts.ok e1
    split
    · exact h1
    · exact h1.updXfer

theorem Chip.Sound.writeBursts {mem : HostImg} {e : JEntry} {fuel a : Nat} {bs : List Byte} {c : Chip} (h : c.Sound) :
    Both Chip.Sound Chip.Sound (Chip.writeBursts mem e fuel a bs c) := by
  induction fuel generalizing a bs c with
  | zero => exact h
  | succ fuel ih =>
    unfold Machine.Chip.writeBursts
    refine Both.ite h ?_
    split
    next e1 => exact h.xferBurst.error e1
    next e1 =>
      have h1 := h.xferBurst.ok e1
      exact ih h1.sendWrite.updXfer

theorem Chip.Sound.commandWrite {c : Chip} {mem : HostImg} {e : JEntry} {a : Nat} {bs : List Byte} (h : c.Sound) :
    Both Chip.Sound Chip.Sound (c.commandWrite mem e a bs) := by
  unfold Machine.Chip.commandWrite
  split
  · exact h
  dsimp only
  split
  next e1 => exact h.writeBursts.error e1
  next e1 => exact Chip.Sound.updXfer (h.writeBursts.ok e1)

theorem Chip.Sound.useChannel {c : Chip} {slot ch : Nat} (h : c.Sound) : (c.useChannel slot ch).Sound := h.updXfer

theorem Chip.Sound.onService {c : Chip} {level : Nat} {e : JEntry} {f : Nat → Chip → Chip} (h : c.Sound) (hf : ∀ x0 c, c.Sound →
    (f x0 c).Sound) :
    (c.onService level e f).Sound := by
  unfold Chip.onService
  split
  · exact hf _ _ h.useChannel
  · split
    · exact h
    · exact hf _ _ h.takeService.started.useChannel

theorem Chip.Sound.beginPass {c : Chip} {e : JEntry} {bursts : Option Nat} (h : c.Sound) : (c.beginPass e bursts).Sound := by
  unfold Machine.Chip.beginPass
  split
  · exact h.updXfer
  · dsimp only
    exact h.reshaped (by simp [Chip.shape, Chip.updDma])

theorem Chip.Sound.endPass {c : Chip} {e : JEntry} (h : c.Sound) : (c.endPass e).Sound := by
  unfold Chip.endPass
  refine h.endTransfer.ite ?_
  split
  · exact h
  · exact h.updDma.ite h.started

theorem Chip.Sound.pass {c : Chip} {x : Ctx} {e : JEntry} {bursts : Option Nat} {body : JEntry → Ctx → Chip → Chip} (h : c.Sound)
    (hbody : ∀ x0 x1 c, c.Sound → (body x0 x1 c).Sound) :
    (c.pass x e bursts body).Sound :=
  (hbody _ _ _ h.beginPass).endPass

theorem Chip.Sound.commandMem {opcode slot : Nat} {body : JEntry → Ctx → Chip → Chip} {x : Ctx} {c : Chip} (h : c.Sound)
    (hbody : ∀ x0 x1 c, c.Sound → (body x0 x1 c).Sound) :
    (commandMem opcode slot body x c).Sound := by
  unfold Machine.commandMem
  refine h.ite ?_
  split
  · exact h
  · exact (h.pass (fun _ _ _ h1 => hbody _ _ _ h1)).ite h.result

theorem Chip.Sound.freeDecided {c : Chip} (h : c.Sound) : c.freeDecided.Sound := h.each (fun _ _ h1 => h1.endTransfer.ite h1)

theorem Chip.Sound.reseat {c : Chip} (h : c.Sound) : c.reseat.Sound :=
  (h.each (fun _ _ h1 => by
    split
    · exact h1
    · exact h1.takeService.updDma)).each (fun _ _ h1 => by
    split
    · exact h1
    · exact h1.takeService.useChannel)

/-! ### Operations of Machine/Service.lean -/

theorem Chip.Sound.releaseSlot {c : Chip} {n : Nat} (h : c.Sound) : (c.releaseSlot n).Sound := h.updSlot.setFld

theorem Chip.Sound.endService {c : Chip} {e : JEntry} {status detail : Nat} (h : c.Sound) : (c.endService e status detail).Sound :=
  h.endTransfer.result

theorem Chip.Sound.endCodec {c : Chip} {e : JEntry} {status detail : Nat} (h : c.Sound) : (c.endCodec e status detail).Sound := by
  unfold Chip.endCodec
  extract_lets c1
  have hc1 : c1.Sound := by
    unfold c1
    split
    · exact h.updSlot.ite h.releaseSlot
    · exact h
  exact hc1.endService

theorem Chip.Sound.abandonCommand {c : Chip} {slot : Nat} (h : c.Sound) : (c.abandonCommand slot).Sound := by
  unfold Chip.abandonCommand
  extract_lets c1 c2
  have hc1 : c1.Sound := h.foldl (fun _ _ h1 => h1.endTransfer)
  have hc2 : c2.Sound := by
    unfold c2
    split
    · exact hc1.releaseSlot
    · exact hc1
  exact hc2.result

theorem Both.settled {r : Except Chip Chip} (h : Both Chip.Sound Chip.Sound r) : (settled r).Sound := by
  cases r with
  | error c => exact h
  | ok c => exact h

theorem Chip.Sound.beginJob {c : Chip} {e : JEntry} {ch list count region : Nat} (h : c.Sound) : (c.beginJob e ch list count region).Sound :=
  h.updDma

theorem Chip.Sound.finishLoad {c : Chip} {now : Nat} {e : JEntry} {bad gen : Nat} (h : c.Sound) : (c.finishLoad now e bad gen).Sound :=
  h.result.ite (h.result.ite h.commitEntries)

theorem Chip.Sound.tableLoad {c : Chip} {now : Nat} {e : JEntry} (h : c.Sound) : (c.tableLoad now e).Sound := by
  unfold Chip.tableLoad
  refine h.result.ite ?_
  refine h.result.ite ?_
  refine h.result.ite ?_
  refine h.result.ite ?_
  split
  · exact h.result
  · exact h.onService (fun _ _ h1 => h1.freeChannel.finishLoad.ite h1.beginJob)

theorem Chip.Sound.captureCommand {c : Chip} {e : JEntry} (h : c.Sound) : (c.captureCommand e).Sound :=
  h.result.ite (h.result.ite (h.result.ite (h.result.ite (h.onService (fun _ _ h1 => h1.beginJob)))))

theorem Chip.Sound.finishJobs {c : Chip} {now : Nat} {m : Merge} (h : c.Sound) : (c.finishJobs now m).Sound :=
  h.foldl (fun c _ h1 => by
    extract_lets c1
    have hc1 : c1.Sound := h1.freeChannel
    split
    · exact hc1
    · exact hc1.finishLoad.ite (hc1.result.ite hc1.result))

theorem Chip.Sound.readList {c : Chip} {mem : HostImg} {e : JEntry} {a n : Nat} (h : c.Sound) :
    Both Chip.Sound (·.2.Sound) (c.readList mem e a n) := by
  unfold Machine.Chip.readList
  refine h.commandRead.bind fun x hx => ?_
  dsimp only
  split
  · exact hx
  · exact hx

theorem Chip.Sound.readBuffers {mem : HostImg} {e : JEntry} {l : List (Nat × Nat)} {need : Nat} {c : Chip} (h : c.Sound) :
    Both Chip.Sound (·.2.Sound) (Chip.readBuffers mem e l need c) := by
  induction l generalizing need c with
  | nil => exact h
  | cons y l ih =>
    unfold Machine.Chip.readBuffers
    exact h.commandRead.bind fun _ hx => (ih hx).bind fun _ hy => hy

theorem Chip.Sound.writeBuffers {mem : HostImg} {e : JEntry} {l : List (Nat × Nat)} {bs : List Byte} {c : Chip} (h : c.Sound) :
    Both Chip.Sound Chip.Sound (Chip.writeBuffers mem e l bs c) := by
  induction l generalizing bs c with
  | nil => exact h
  | cons y l ih =>
    unfold Machine.Chip.writeBuffers
    exact h.commandWrite.bind fun _ hx => ih hx

theorem Chip.Sound.codecStart {c : Chip} {mem : HostImg} {e : JEntry} {kind : Nat} (h : c.Sound) :
    Both Chip.Sound (·.2.Sound) (c.codecStart mem e kind) := by
  unfold Machine.Chip.codecStart
  extract_lets resume
  split
  · exact Both.ite (h.commandRead.bind fun _ hx => hx) h
  refine Both.ite (h.commandRead.bind fun x hx => ?_) ?_
  · dsimp only
    split
    · exact hx.endCodec
    · exact hx.updSlot
  · split
    · exact h.endCodec
    · exact h.updSlot.setFld.setFld

theorem Chip.Sound.compressOn {c : Chip} {mem : HostImg} {e : JEntry} (h : c.Sound) : Both Chip.Sound Chip.Sound (c.compressOn mem e) := by
  unfold Machine.Chip.compressOn
  refine h.codecStart.bind fun x hx => ?_
  dsimp only
  split
  · exact hx
  refine hx.readList.bind fun ins h1 => h1.readList.bind fun outs h2 => ?_
  split
  · exact h2.endCodec
  · exact h2.endCodec
  refine Both.ite h2.endCodec (h2.readBuffers.bind fun y h3 => ?_)
  extract_lets
  split
  · exact h3.endCodec
  exact h3.writeBuffers.bind fun z h4 => Both.ite (h4.commandWrite.bind fun _ h5 => h5.updSlot.endCodec) h4.endCodec

theorem Chip.Sound.compress {c : Chip} {mem : HostImg} {e : JEntry} (h : c.Sound) : (c.compress mem e).Sound := by
  unfold Machine.Chip.compress
  split
  · exact h.result
  · exact h.onService fun _ _ h1 => h1.compressOn.settled

theorem Chip.Sound.decompressOn {c : Chip} {mem : HostImg} {e : JEntry} (h : c.Sound) :
    Both Chip.Sound Chip.Sound (c.decompressOn mem e) := by
  unfold Machine.Chip.decompressOn
  refine h.codecStart.bind fun x hx => ?_
  dsimp only
  split
  · exact hx
  refine hx.readList.bind fun ins h1 => h1.readList.bind fun outs h2 => ?_
  split
  · exact h2.endCodec
  · exact h2.endCodec
  refine h2.readBuffers.bind fun y h3 => h3.writeBuffers.bind fun z h4 => ?_
  refine Both.ite (h4.commandWrite.bind fun _ h5 => h5.updSlot.endCodec) ?_
  split
  · exact h4.endCodec
  · exact h4.endCodec

theorem Chip.Sound.decompress {c : Chip} {mem : HostImg} {e : JEntry} (h : c.Sound) : (c.decompress mem e).Sound := by
  unfold Machine.Chip.decompress
  split
  · exact h.result
  · exact h.onService fun _ _ h1 => h1.decompressOn.settled

theorem Chip.Sound.markStrip {c : Chip} {mem : HostImg} {e : JEntry} (h : c.Sound) : (c.markStrip mem e).Sound := by
  unfold Machine.Chip.markStrip
  refine h.result.ite (h.result.ite (h.result.ite (h.onService fun _ d hd => ?_)))
  dsimp only
  split
  next e1 => exact hd.updXfer.commandWrite.error e1
  next e1 => exact (hd.updXfer.commandWrite.ok e1).use fun h1 => h1.endService.ite h1.endService

theorem Chip.Sound.seamMeasure {c : Chip} {x : Ctx} {mem : HostImg} {e : JEntry} (h : c.Sound) : (c.seamMeasure x mem e).Sound := by
  unfold Machine.Chip.seamMeasure
  refine h.result.ite (h.result.ite (h.result.ite ?_))
  split
  · exact h.result
  refine h.result.ite (h.result.ite (h.onService fun _ d hd => ?_))
  split
  next e1 => exact hd.commandRead.error e1
  next e1 =>
    have h1 := hd.commandRead.ok e1
    dsimp only
    split
    · exact h1.endTransfer.result
    · exact h1.endTransfer.updSeam

theorem Chip.Sound.emitterCalibrate {c : Chip} {e : JEntry} (h : c.Sound) : (c.emitterCalibrate e).Sound := by
  unfold Chip.emitterCalibrate
  extract_lets tiles c1
  have hc1 : c1.Sound := h.updEng
  refine hc1.updEng.ite ?_
  refine hc1.result.ite ?_
  split
  · exact hc1.result
  · exact hc1.onService (fun _ _ h1 => h1.calCommand)

theorem Chip.Sound.calResume {c : Chip} {x : Ctx} (h : c.Sound) : (c.calResume x).Sound :=
  h.foldl (fun _ _ h1 => h1.command (fun _ _ _ h2 => h2.emitterCalibrate))

theorem Chip.Sound.putRw {c : Chip} {off : Nat} {v : Word} (h : c.Sound) : (c.putRw off v).Sound := by
  unfold Chip.putRw
  split
  · exact h.setReg
  · exact h

theorem Chip.Sound.internalSafe {c : Chip} {l : List Staged} (h : c.Sound) : (c.internalSafe l).Sound :=
  h.updTxn.setReg.setReg.foldl (fun _ _ h1 => h1.applyEntry)

theorem Chip.Sound.loopRefused {c : Chip} {e : JEntry} {n cause off : Nat} (h : c.Sound) : (c.loopRefused e n cause off).Sound :=
  h.wlRefused.use (fun hc1 => hc1.result.ite hc1.result)

theorem Chip.Sound.applyImage {c : Chip} {now : Nat} {e : JEntry} {n : Nat} {img : List Byte} (h : c.Sound) :
    (c.applyImage now e n img).Sound := by
  unfold Machine.Chip.applyImage
  extract_lets base io period c1 c2 c3 ts bs c4 old c5
  have h5 : c5.Sound := h.putRw.putRw.putRw.putRw.putRw.internalSafe.putRw
  refine h.loopRefused.ite (h.putRw.loopRefused.ite (h.putRw.putRw.loopRefused.ite ?_))
  split
  · exact h5.setFld.slotCfgSet.loopRefused
  · exact h5.slotCfgSet.result

theorem Chip.Sound.loopConfig {c : Chip} {now : Nat} {mem : HostImg} {e : JEntry} (h : c.Sound) : (c.loopConfig now mem e).Sound := by
  unfold Machine.Chip.loopConfig
  refine h.result.ite (h.result.ite (Chip.Sound.ite (h.result.ite (h.result.ite ?_)) (h.result.ite (h.result.ite ?_))))
  · dsimp only
    split
    · exact h.started.setFld.setReg.loopRefused
    · exact h.started.setFld.slotCfgSet.result
  · split
    next e1 => exact h.useChannel.commandRead.error e1
    next e1 =>
      have h1 := h.useChannel.commandRead.ok e1
      dsimp only
      split
      · exact h1.endTransfer.started.result
      · exact h1.endTransfer.started.applyImage

theorem Chip.Sound.query {c : Chip} {mem : HostImg} {x : Ctx} {e : JEntry} (h : c.Sound) : (c.query mem x e).Sound := by
  unfold Machine.Chip.query
  refine h.result.ite (h.result.ite (h.result.ite ?_))
  dsimp only
  split
  next e1 => exact h.useChannel.updXfer.commandWrite.error e1
  next e1 => exact (h.useChannel.updXfer.commandWrite.ok e1).started.endService

theorem Chip.Sound.fence {c : Chip} {e : JEntry} (h : c.Sound) : (c.fence e).Sound := h.result

/-! ### Operations of Machine/Rings.lean -/

theorem Chip.Sound.acceptOne {now p ring : Nat} {e : Entry} {x y : Merge × Chip} (h : x.2.Sound) (hy : acceptOne now p ring e x = some y) :
    y.2.Sound := by
  unfold Machine.acceptOne at hy
  obtain ⟨m, c⟩ := x
  dsimp only at hy
  split at hy
  · cases hy
  split at hy
  · cases hy
    exact h
  split at hy
  · cases hy
  split at hy
  · cases hy
    exact .pair (Chip.Sound.updEng h)
  · cases hy
    exact .pair (Chip.Sound.updEng h)

theorem Chip.Sound.acceptAll {now p ring : Nat} {l : List Entry} {x : Merge × Chip} (h : x.2.Sound) : (acceptAll now p ring l x).2.2.Sound := by
  induction l generalizing x with
  | nil => exact h
  | cons e l ih =>
    unfold Machine.acceptAll
    split
    · exact h
    next y hy => exact ih (h.acceptOne hy)

theorem Chip.Sound.doorbellInvalid {c : Chip} {p field value against : Nat} (h : c.Sound) : (c.doorbellInvalid p field value against).Sound :=
  h.eventTo

theorem Chip.Sound.judgeTail {p : Nat} {b : Entry} {x : Merge × Chip} {ring : Nat} (h : x.2.Sound) : (judgeTail p b x ring).2.Sound :=
  (h.ite h.doorbellInvalid).iteSnd h

theorem Chip.Sound.judgeHeads {p : Nat} {b : Entry} {x : Merge × Chip} (h : x.2.Sound) : (judgeHeads p b x).2.Sound :=
  (h.doorbellInvalid.ite h).use (fun hc1 => (hc1.doorbellInvalid.ite hc1))

theorem Chip.Sound.abandonSegment {c : Chip} (h : c.Sound) : c.abandonSegment.Sound := by
  unfold Chip.abandonSegment
  split
  · exact h
  · exact h.updSump.openGap

theorem Chip.Sound.faultResume {c : Chip} {p w : Nat} (h : c.Sound) : (c.faultResume p w).Sound := by
  unfold Chip.faultResume
  refine h.ite ?_
  split
  · exact h
  · refine h.unsuspend.abandonSegment.ite ?_
    refine .ite ?_ h.updXlat
    split
    · exact h.abandonCommand
    · exact h

theorem Chip.Sound.endFetch {p : Nat} {test : FItem → Bool} {x : Merge × Chip} (h : x.2.Sound) : (endFetch p test x).2.Sound :=
  h.updDma.use (fun hc1 => hc1.setFld.ite hc1)

theorem Chip.Sound.fetchFailed {p : Nat} {i : FItem} {x : Merge × Chip} (h : x.2.Sound) : (fetchFailed p i x).2.Sound :=
  h.noteBusError.updDma.setFld

theorem Chip.Sound.fetchGood {p : Nat} {i : FItem} {x : Merge × Chip} (h : x.2.Sound) : (fetchGood p i x).2.Sound := h

theorem Chip.Sound.pollNow {now p : Nat} {x : Merge × Chip} (h : x.2.Sound) : (pollNow now p x).2.Sound := h.iteSnd h.updDma.pair

theorem Chip.Sound.doorbellPoll {now p : Nat} {x : Merge × Chip} (h : x.2.Sound) : (doorbellPoll now p x).2.Sound := h.iteSnd h.pollNow

theorem Chip.Sound.doorbellReceived {now p : Nat} {blk : Option Entry} {x : Merge × Chip} (h : x.2.Sound) :
    (doorbellReceived now p blk x).2.Sound := by
  unfold Machine.doorbellReceived
  obtain ⟨m, c⟩ := x
  dsimp -zeta only
  refine h.iteSnd ?_
  split
  · exact h.fetchFailed
  · exact h.endFetch.fetchGood.judgeHeads.faultResume.endGap.foldlSnd (fun _ _ h1 => h1.judgeTail)

theorem Chip.Sound.entryFetched {now p ring : Nat} {es : List Entry} {ok : Bool} {x : Merge × Chip} (h : x.2.Sound) :
    (entryFetched now p ring es ok x).2.Sound := by
  unfold Machine.entryFetched
  obtain ⟨m, c⟩ := x
  dsimp -zeta only
  extract_lets q
  split
  · exact h.iteSnd (h.fetchFailed.iteSnd (h.endFetch.fetchGood.iteSnd (h.endFetch.fetchGood.acceptAll.iteSnd h.endFetch.fetchGood.acceptAll)))
  · exact h

theorem Chip.Sound.barrierRead {now slot : Nat} {ok : Bool} {x : Merge × Chip} (h : x.2.Sound) : (barrierRead now slot ok x).2.Sound := by
  unfold Machine.barrierRead
  obtain ⟨m, c⟩ := x
  dsimp -zeta only
  split
  · exact h
  · exact h.iteSnd (h.endFetch.pair.fetchGood.pair.iteSnd (h.endFetch.pair.iteSnd h.endFetch.pair))

theorem Chip.Sound.heldDelivery {now p : Nat} {x : Merge × Chip} (h : x.2.Sound) : (heldDelivery now p x).2.Sound := h.iteSnd h.logRecords

theorem Chip.Sound.modTimeExpiry {now p k : Nat} {x : Merge × Chip} (h : x.2.Sound) : (modTimeExpiry now p k x).2.Sound := by
  unfold Machine.modTimeExpiry
  obtain ⟨m, c⟩ := x
  dsimp -zeta only
  extract_lets t
  split
  · exact h
  · exact h.iteSnd h.signalNow

theorem Chip.Sound.dmaComplete {c : Chip} {now ch : Nat} {r : Burst} (h : c.Sound) : (c.dmaComplete now ch r).Sound := by
  unfold Chip.dmaComplete
  refine h.ite ?_
  refine h.imgComplete.ite ?_
  split
  · exact h
  · split
    · exact h
    · exact h.serviceComplete

/-! ### Operations of Machine/Ports.lean -/

theorem Chip.Sound.detachPart {p : Nat} {x : Merge × Chip} (h : x.2.Sound) : (detachPart p x).2.Sound := h.setFlag.updXlat.updDma.setFld.setFld

theorem Chip.Sound.showGeometry {p : Nat} {x : Merge × Chip} (h : x.2.Sound) : (showGeometry p x).2.Sound := h.setFlag

theorem Chip.Sound.attachPart {now p : Nat} {x : Merge × Chip} (h : x.2.Sound) : (attachPart now p x).2.Sound :=
  h.iteSnd (h.setFlag.iteSnd h.setFlag.setFlag.logRecords.resumePart)

theorem Chip.Sound.setPortUp {c : Chip} {q : Port} {b : Bool} (h : c.Sound) : (c.setPortUp q b).Sound := by
  unfold Chip.setPortUp
  split
  · exact h.setFlag
  · exact h.setFlag

theorem Chip.Sound.portDownNow {q : Port} {linkUp busMaster : Bool} {x : Merge × Chip} (h : x.2.Sound) :
    (portDownNow q linkUp busMaster x).2.Sound :=
  h.iteSnd (h.setFlag.setFlag.setPortUp.use (fun hc1 => (hc1.ite hc1.setFld.setFld.setFlag).use (fun hc2 => (hc2.updPort.ite hc2).use
    (fun hc3 => hc3.iteSnd ((hc3.setFlag.bump.foldlSnd (fun _ _ h1 => h1.detachPart)).checkBehind)))))

theorem Chip.Sound.sendPending {c : Chip} {q : Port} (h : c.Sound) : (c.sendPending q).Sound := (h.each (fun _ _ h1 => h1.send)).updPort

theorem Chip.Sound.portSetup {c : Chip} {q : Port} {setup : Option PortSetup} (h : c.Sound) : (c.portSetup q setup).Sound := by
  unfold Chip.portSetup
  split
  · exact h
  · exact h.updPort

theorem Chip.Sound.portReturn {c : Chip} {now : Nat} {q : Port} {rate width : Nat} {setup : Option PortSetup} (h : c.Sound) :
    (c.portReturn now q rate width setup).Sound :=
  h.setFlag.setFlag.setPortUp.setFld.setFld.setFlag.use (fun hc1 => (hc1.setFlag.ite hc1).updPort.portSetup.sendPending.endGap)

theorem Chip.Sound.hostPortReset {now : Nat} {q : Port} {kind : PortResetKind} {x : Merge × Chip} (h : x.2.Sound) :
    (hostPortReset now q kind x).2.Sound :=
  h.portDownNow.updPort

theorem Chip.Sound.resetPartition {now p : Nat} {x : Merge × Chip} (h : x.2.Sound) : (resetPartition now p x).2.Sound := by
  unfold Machine.resetPartition
  obtain ⟨m, c⟩ := x
  dsimp -zeta only
  extract_lets mine c1 c2 stuck c3 c4 c5 c6 c7
  have hc2 : c2.Sound := (h.each (fun _ _ h1 => h1.abandonCommand)).each (fun _ _ h1 => h1.releaseSlot)
  have hc3 : c3.Sound := by
    unfold c3
    clear_value stuck
    split
    · exact hc2.unsuspend.abandonSegment
    · exact hc2.openGap.ite hc2
  exact hc3.endGap.updXlat.setFld.showSusp.resetTxn.dropLeaves.detachPart.setFlag.setFlag

theorem Chip.Sound.rootApply {c : Chip} {p : Nat} (h : c.Sound) : (c.rootApply p).Sound := (h.updXlat (er := by simp)).dropLeaves

theorem Chip.Sound.invalidate {c : Chip} {p : Nat} {v : Word} (h : c.Sound) : (c.invalidate p v).Sound :=
  h.ite ((h.setFlag.setFlag.updXlat (ei := by simp)).dropLeaves.use (fun hc1 => hc1.ite hc1.eventTo))

theorem Chip.Sound.invalidateDone {c : Chip} {p : Nat} (h : c.Sound) : (c.invalidateDone p).Sound := h.ite (h.setFlag.updXlat (ei := by simp))

/-! ### Operations of Machine/Sump.lean -/

theorem Chip.Sound.sumpSettle {c : Chip} (h : c.Sound) : c.sumpSettle.Sound :=
  (h.updSump.each (fun _ _ h1 => h1.result)).use (fun hc1 => hc1.updSump.setFld.raise.ite hc1)

theorem Chip.Sound.sumpStop {c : Chip} (h : c.Sound) : c.sumpStop.Sound := h.setFld.updSump

theorem Chip.Sound.recorderStart {c : Chip} {now : Nat} {e : JEntry} (h : c.Sound) : (c.recorderStart now e).Sound :=
  h.result.ite (h.result.ite (h.result.ite (h.result.ite (h.result.ite
    (h.result.ite h.started.updSump.updSump.setPair.setPair.setFld.setFld.setFld.setFld.addSegment)))))

theorem Chip.Sound.recorder {c : Chip} {now : Nat} {e : JEntry} (h : c.Sound) : (c.recorder now e).Sound :=
  h.result.ite (h.recorderStart.ite (h.result.ite (h.result.ite (h.started.closeSegment.use (fun hc1 =>
    (hc1.setFld.updSump.ite hc1).updSump.sumpSettle)))))

theorem Chip.Sound.segmentClose {c : Chip} {now : Nat} (h : c.Sound) : (c.segmentClose now).Sound := h.closeSegment.ite h

theorem Chip.Sound.snapshotTimer {c : Chip} {now : Nat} (h : c.Sound) : (c.snapshotTimer now).Sound :=
  h.ite (h.updSump.use (fun hc1 => hc1.openGap.endGap.ite (hc1.openGap.ite hc1.addSegment)))

theorem Chip.Sound.postTriggerEnd {c : Chip} {now : Nat} (h : c.Sound) : (c.postTriggerEnd now).Sound := by
  unfold Chip.postTriggerEnd
  split
  · exact h
  · exact h.closeSegment.updSump.sumpSettle.ite h

theorem Chip.Sound.addWr {c : Chip} {n : Nat} (h : c.Sound) : (c.addWr n).Sound := h.setPair

theorem Chip.Sound.streamDone {c : Chip} {now : Nat} {s : Segment} {rest : List Segment} (h : c.Sound) : (c.streamDone now s rest).Sound :=
  h.updSump.addWr.setFld.use (fun hc1 => hc1.ite hc1.updSump.endGap.sumpSettle)

theorem Chip.Sound.streamBurst {c : Chip} {now : Nat} {mem : HostImg} (h : c.Sound) : (c.streamBurst now mem).Sound := by
  have ht {part a : Nat} {fresh : Bool} := h.translate (mem := mem) (part := part) (a := a) (write := true) (fresh := fresh)
  unfold Machine.Chip.streamBurst
  -- Both stay opaque: the kernel would compress the payload and count down from the bound of device addresses.
  obtain ⟨head, hhead⟩ : ∃ f, f = c.streamHead := ⟨_, rfl⟩
  obtain ⟨tr, htr⟩ : ∃ f, f = c.translate mem := ⟨_, rfl⟩
  rw [← htr] at ht ⊢
  rw [← hhead]
  split
  · exact h
  dsimp only
  split
  · exact h.suspend
  next e =>
    have h1 := ht.ok e
    exact Chip.Sound.ite h1.channelResumed.sendWrite.updSump.streamDone h1.channelResumed.sendWrite.updSump

theorem Chip.Sound.streamAlone {now : Nat} {mem : HostImg} {fuel : Nat} {c : Chip} (h : c.Sound) : (Chip.streamAlone now mem fuel c).Sound := by
  induction fuel generalizing c with
  | zero => exact h
  | succ n ih =>
    unfold Machine.Chip.streamAlone
    exact h.ite (h.countBurst.streamBurst.use fun h1 => h1.ite (ih h1))

theorem Chip.Sound.segmentStream {c : Chip} {now : Nat} {m : Merge} {mem : HostImg} (h : c.Sound) : (c.segmentStream now m mem).Sound := by
  unfold Chip.segmentStream
  extract_lets q
  split
  · exact h.sumpSettle
  · exact h.ite h.streamAlone

theorem Chip.Sound.sumpRd {c : Chip} (h : c.Sound) : c.sumpRd.Sound := h.setPair.raise.ite h.updSump

/-! ### Operations of Machine/Engine.lean -/

theorem Chip.Sound.latchHandover {c : Chip} {t : Nat} (h : c.Sound) : (c.latchHandover t).Sound := by
  unfold Chip.latchHandover
  exact h.updTxn

theorem Chip.Sound.primeLatch {c : Chip} (h : c.Sound) : c.primeLatch.Sound := by
  unfold Chip.primeLatch
  exact (((h.same.each (fun _ _ h1 => h1.latchTile)).each (fun _ _ h1 => h1.updStn)).each (fun _ _ h1 => h1.latchHandover)).updWl

theorem Chip.Sound.primeAxis {c : Chip} {now a : Nat} (h : c.Sound) : (c.primeAxis now a).Sound := by
  unfold Machine.Chip.primeAxis
  split
  · exact h
  split
  next w c1 e =>
    have h1 : c1.Sound := by
      split at e <;> cases e
      · exact h
      · exact h.freeReal
    exact h1.elecTarget.driveTo

theorem Chip.Sound.primeCommand {c : Chip} {now : Nat} {e : JEntry} (h : c.Sound) : (c.primeCommand now e).Sound := by
  unfold Chip.primeCommand
  split
  · exact h.result
  · exact h.started.primeLatch.updSafety.updEng.arm.refreshLoads.setBelt.each (fun _ _ h1 => h1.primeAxis)

theorem Chip.Sound.primeFailed {c : Chip} {now status detail : Nat} (h : c.Sound) : (c.primeFailed now status detail).Sound := by
  unfold Chip.primeFailed
  split
  · exact h
  · exact (h.calAbort.updEng.arm.stopDrives.updWl.each (fun _ _ h1 => h1.refreshSched)).result

theorem Chip.Sound.latchAlign {c : Chip} {now s : Nat} (h : c.Sound) : (c.latchAlign now s).Sound := h.ite h.updStn.setPair

theorem Chip.Sound.primeTiles {c : Chip} {now : Nat} (h : c.Sound) : (c.primeTiles now).Sound := by
  unfold Machine.Chip.primeTiles
  extract_lets ts c1 c2 c3 c4
  have h3 : c3.Sound := ((h.each fun _ _ h1 => h1.hvRearm).refreshLoads.each fun _ _ h1 => h1.updTile).each fun _ _ h1 =>
    h1.clampRun.showClamp.showDisabled
  have h4 : c4.Sound := h3.each fun _ _ h1 => h1.refreshSched.ite (h1.sendBias.refreshSched.ite (h1.rejoin.ite h1.refreshSched))
  split
  · refine h4.updEng.ite ?_
    split
    · exact h4.calBegin
    · exact h4
  · exact h.primeFailed

theorem Chip.Sound.primeStep {c : Chip} {now : Nat} (h : c.Sound) : (c.primeStep now).Sound := by
  unfold Chip.primeStep
  refine h.ite ?_
  split
  · exact h.primeFailed.ite h
  · exact (h.each (fun _ _ h1 => h1.latchAlign)).use (fun hc1 => hc1.primeTiles.ite hc1)

theorem Chip.Sound.primeComplete {c : Chip} {now : Nat} (h : c.Sound) : (c.primeComplete now).Sound := by
  unfold Chip.primeComplete
  split
  · exact h
  · exact h.ite (h.updEng.enter.driveBelt.use (fun hc1 => hc1.result.ite hc1.result))

theorem Chip.Sound.primeTimeout {c : Chip} {now : Nat} (h : c.Sound) : (c.primeTimeout now).Sound := by
  unfold Chip.primeTimeout
  split
  · exact h
  · refine h.ite ?_
    split
    · exact h.primeFailed
    · exact h.primeFailed
    · exact h

theorem Chip.Sound.enterSleep {c : Chip} {now : Nat} (h : c.Sound) : (c.enterSleep now).Sound :=
  h.updEng.enter.emit.use (fun hc1 => (((hc1.sumpStop.ite hc1).each (fun _ _ h1 =>
    h1.stopMirror.linkOff.refreshSched)).coastDrives.loseImaging.setReg.each (fun _ _ h1 => h1.setFlag.ite h1)).refreshLoads)

theorem Chip.Sound.sleepCommand {c : Chip} {now : Nat} {e : JEntry} (h : c.Sound) : (c.sleepCommand now e).Sound :=
  h.result.ite (h.started.result.use (fun hc1 => hc1.updEng.ite hc1.enterSleep))

theorem Chip.Sound.trySleep {c : Chip} {now : Nat} {m : Merge} (h : c.Sound) : (c.trySleep now m).Sound := by
  unfold Chip.trySleep
  split
  · exact h
  · exact h.enterSleep.ite h

theorem Chip.Sound.idleReached {c : Chip} (h : c.Sound) : c.idleReached.Sound := h.updEng.each (fun _ _ h1 => h1.result)

theorem Chip.Sound.sendReport {c : Chip} {m : Merge} {r : OwedReport} (h : c.Sound) : (c.sendReport m r).Sound := by
  unfold Chip.sendReport
  extract_lets q
  split
  · exact h.oweReport.ite h.countBurst.setFld.reportBurst
  · exact h.oweReport

theorem Chip.Sound.endReplay {c : Chip} {m : Merge} {r : Replay} {x : Rerun} {cause status detail : Nat} (h : c.Sound) :
    (c.endReplay m r x cause status detail).Sound :=
  h.sendReport.updEng.setPair.each (fun _ _ h1 => h1.updTile.ite h1)

theorem Chip.Sound.idleCommand {c : Chip} {y : Ctx} {e : JEntry} (h : c.Sound) : (c.idleCommand y e).Sound := by
  unfold Chip.idleCommand
  refine ((h.started.arm.stopDrives.updWl.each (fun _ _ h1 => h1.refreshSched)).enter.result).ite ?_
  refine (h.result.ite h.started.setFlag.refreshCut.unkillAll.enter.refreshLoads.result).ite ?_
  extract_lets c1
  have hc1 : c1.Sound := h.started.updEng
  split
  · exact hc1.ite (hc1.freeNat.endReplay.ite hc1.freeNat.endReplay)
  · exact hc1

theorem Chip.Sound.enterReplay {c : Chip} {now : Nat} {r : Replay} (h : c.Sound) : (c.enterReplay now r).Sound :=
  ((h.arm.coastDrives.updEng.enter.each (fun _ _ h1 => h1.updTile)).each (fun _ _ h1 => h1.stopMirror.updTile.refreshSched)).refreshLoads

theorem Chip.Sound.replayVerdict {c : Chip} {m : Merge} {r : Replay} (h : c.Sound) : (c.replayVerdict m r).Sound := h.endReplay.ite h.endReplay

theorem Chip.Sound.replayOn {c : Chip} {y : Ctx} {mem : HostImg} {e : JEntry} (h : c.Sound) :
    Both Chip.Sound Chip.Sound (c.replayOn y mem e) := by
  unfold Machine.Chip.replayOn
  refine h.readList.bind fun ins h1 => ?_
  split
  split
  · exact h1.endService
  refine h1.readBuffers.bind fun bs h2 => ?_
  dsimp only
  split
  · exact h2.suspendXfer
  next e1 =>
    have h3 := h2.translate.ok e1
    exact Both.ite h3.endTransfer.enterReplay.endReplay
      (Chip.Sound.ite h3.endTransfer.enterReplay.freeBool h3.endTransfer.enterReplay.freeBool.replayVerdict)

theorem Chip.Sound.replayCommand {c : Chip} {y : Ctx} {mem : HostImg} {e : JEntry} (h : c.Sound) : (c.replayCommand y mem e).Sound :=
  h.result.ite (h.result.ite (h.result.ite (h.onService fun _ _ h1 => h1.replayOn.settled)))

theorem Chip.Sound.idleAfterReplay {c : Chip} (h : c.Sound) : c.idleAfterReplay.Sound := by
  unfold Chip.idleAfterReplay
  split
  · exact h
  · exact h.ite (h.endReplayUnits.enter.idleReached.refreshLoads.ite h)

/-! ### Operations of Machine/Grant.lean -/

theorem Chip.Sound.memBody {mem : HostImg} {opcode : Nat} {e : JEntry} {x : Ctx} {c : Chip} (h : c.Sound) :
    (memBody mem opcode e x c).Sound := by
  unfold Machine.memBody
  split
  · exact h.replayCommand
  · exact h.loopConfig
  · exact h.seamMeasure
  · exact h.markStrip
  · exact h.compress
  · exact h.decompress
  · exact h.query
  · exact h

theorem Chip.Sound.grantXfer {c : Chip} {x : Ctx} {mem : HostImg} {f : Xfer} (h : c.Sound) : (c.grantXfer x mem f).Sound := by
  unfold Chip.grantXfer
  split
  · exact h
  · exact h.pass (fun _ _ _ h1 => h1.memBody)

theorem Chip.Sound.grantChannel {now : Nat} {q : Port} {mem : HostImg} {ch : Nat} {x : Merge × Chip} (h : x.2.Sound) :
    (grantChannel now q mem ch x).2.Sound := by
  unfold Machine.grantChannel
  obtain ⟨m, c⟩ := x
  dsimp -zeta only
  refine .iteSnd ?_ ?_
  · refine h.countGrant.imgBurst.iteSnd ?_
    refine (h.countGrant.use (fun hc1 => ((hc1.ringReadBurst.iteSnd hc1.ringWriteBurst.resumePart).setFld).iteSnd
      (hc1.ringReadBurst.iteSnd hc1.ringWriteBurst.resumePart))).iteSnd ?_
    refine h.countGrant.streamBurst.iteSnd ?_
    split
    · split
      · exact h
      · exact h.countGrant.reportBurst
    · exact h.countGrant.serviceBurst
  · split
    · exact h
    · exact h.countGrant.grantXfer

theorem Chip.Sound.grantBurst {now : Nat} {q : Port} {mem : HostImg} {x : Merge × Chip} (h : x.2.Sound) : (grantBurst now q mem x).2.Sound := by
  unfold Machine.grantBurst
  refine h.iteSnd ?_
  split
  · exact h
  · exact h.grantChannel

theorem Chip.Sound.dmaGrant {now : Nat} {q : Port} {mem : HostImg} {x : Merge × Chip} (h : x.2.Sound) : (dmaGrant now q mem x).2.Sound :=
  (h.grantBurst.iteSnd h).finishJobs

/-! ### Operations of Machine/Reset.lean -/

theorem Chip.Sound.applyBegun {c : Chip} {m : Commit} (h : c.Sound) : (c.applyBegun m).Sound :=
  h.foldl (fun _ _ h1 => by
    split
    · exact h1.applyEntry
    · exact h1)

theorem Chip.Sound.restoreCommit {c : Chip} {now : Nat} {m : Commit} (h : c.Sound) : (c.restoreCommit now m).Sound := by
  unfold Chip.restoreCommit
  extract_lets ev
  have hev : ∀ x0 x1 x2 x3, x3.Sound → (ev x0 x1 x2 x3).Sound := fun _ _ _ _ h1 => h1.ite h1.emit
  exact (hev _ _ _ _ (h.applyBegun.each (fun _ _ h1 => h1.setReg)).showResult).ite (hev _ _ _ _ h.showResult)

theorem Sparse.wfFrom_filterMap {α : Type} [DecidableEq α] {d : Nat → α} {f : Nat × α → Option (Nat × α)} {lo : Option Nat}
    {l : List (Nat × α)} (h : Sparse.wfFrom d lo l = true) (hf : ∀ e e', f e = some e' → e'.1 = e.1 ∧ e'.2 ≠ d e.1) :
    Sparse.wfFrom d lo (l.filterMap f) = true := by
  induction l generalizing lo with
  | nil => rfl
  | cons e l ih =>
    simp only [Sparse.wfFrom, Bool.and_eq_true, decide_eq_true_eq] at h
    obtain ⟨⟨hlo, hd⟩, hl⟩ := h
    rw [List.filterMap_cons]
    split
    next =>
      refine Sparse.wfFrom_mono (ih hl) fun b hb => ?_
      subst hb
      exact ⟨e.1, rfl, Nat.le_of_lt (of_decide_eq_true hlo)⟩
    next e' he =>
      obtain ⟨ha, hv⟩ := hf e e' he
      simp only [Sparse.wfFrom, Bool.and_eq_true, decide_eq_true_eq, ha]
      exact ⟨⟨hlo, hv⟩, ih hl⟩

theorem keptReg_spec {engine : Bool} {e e' : Nat × Word} (h : keptReg engine e = some e') : e'.1 = e.1 ∧ e'.2 ≠ RegMap.resetOf e.1 := by
  unfold keptReg at h
  split at h
  · cases h
  · dsimp only at h
    split at h
    · cases h
    next hne =>
      cases h
      exact ⟨rfl, hne⟩

theorem Chip.Sound.afterReset {c : Chip} {engine : Bool} (h : c.Sound) : (c.afterReset engine).Sound := by
  refine ⟨Sparse.wfFrom_filterMap h.regs fun _ _ => keptReg_spec, rfl, rfl, ?_⟩
  have hs := h.shape
  simp only [Chip.shape, Chip.unitCounts, List.cons.injEq] at hs
  cases engine <;> simp [Chip.shape, Chip.unitCounts, Machine.Chip.afterReset, hs]

theorem Chip.Sound.latchedIlk {c : Chip} (h : c.Sound) : c.latchedIlk.Sound := by
  unfold Chip.latchedIlk
  split
  · exact h
  · exact h.updEng.raise.emit

theorem Chip.Sound.startUp {c : Chip} {now why : Nat} {wake : Bool} (h : c.Sound) : (c.startUp now why wake).Sound :=
  h.enter.updEng.latchedIlk.refreshCut.judgeDischarge.use (fun hc1 => hc1.killAll.ite hc1)

theorem Chip.Sound.resetCut {c : Chip} {now : Nat} (h : c.Sound) : (c.resetCut now).Sound := h.setFlag.showLen.showHv

theorem Chip.Sound.resetNow {engine : Bool} {now why : Nat} {x : Merge × Chip} (h : x.2.Sound) : (resetNow engine now why x).2.Sound := by
  unfold Machine.resetNow
  split
  next m c0 e =>
    have h0 : c0.Sound := .snd e h.numberAccepted
    extract_lets commits m1 c1 c2 c3 c4 txn c5 roots c6 c7 c8 y
    have h4 : c4.Sound := (((h0.ite h0.stopPages).foldl fun _ _ h1 => h1.finishPage).each fun _ _ h1 => h1.pin).afterReset.foldl
      fun _ _ h1 => h1.restoreCommit
    have h5 : c5.Sound := Chip.Sound.updSump (Chip.Sound.applyCam h4.same)
    have h6 : c6.Sound := h5.updXlat (er := by simp [roots, h5.roots_length])
    have h8 : c8.Sound := h6.setFlag.setFlag.startUp.resetCut.trainAll
    have hy : y.2.Sound := Chip.Sound.foldlSnd h8 fun _ _ h1 => h1.showGeometry
    exact hy.refreshLoads

theorem Chip.Sound.powerPins {c : Chip} {now : Nat} {msel mainOk : Bool} {vback : Nat} (h : c.Sound) :
    (c.powerPins now msel mainOk vback).Sound := by
  unfold Chip.powerPins
  exact h.setFld.setFlag.setFld.updEng.updSafety

theorem Chip.Sound.powerOnReset {now : Nat} {msel mainOk : Bool} {vback : Nat} {x : Merge × Chip} (h : x.2.Sound) :
    (powerOnReset now msel mainOk vback x).2.Sound :=
  h.setFlag.powerPins.resetNow

theorem Chip.Sound.coldStart {s : State} {msel mainOk : Bool} {vback i2cPins : Nat} : (s.coldStart msel mainOk vback i2cPins).chip.Sound := by
  have h : Chip.Sound { free := s.chip.free, eng := { i2cPins := i2cPins } } := ⟨rfl, rfl, rfl, rfl⟩
  exact h.powerPins.refreshCut.judgeDischarge

theorem Chip.Sound.engineResetAsked {now : Nat} {x : Merge × Chip} (h : x.2.Sound) : (engineResetAsked now x).2.Sound :=
  h.safeStop.updEng.pair.iteSnd h.resetNow

theorem Chip.Sound.resetCtl {now v : Nat} {x : Merge × Chip} (h : x.2.Sound) : (resetCtl now v x).2.Sound :=
  (h.hostPortReset.iteSnd h).use (fun hc1 => (hc1.hostPortReset.iteSnd hc1).use (fun hc2 => hc2.engineResetAsked.iteSnd (hc2.foldlSnd
    (fun _ _ h1 => h1.resetPartition))))

theorem Chip.Sound.stopSequenceEnd {now : Nat} {x : Merge × Chip} (h : x.2.Sound) : (stopSequenceEnd now x).2.Sound :=
  h.iteSnd (h.stopSequenceFinished.updEng.use (fun hc1 => hc1.pair.resetNow.iteSnd hc1.pair))

theorem Chip.Sound.wakeUp {c : Chip} {now why : Nat} (h : c.Sound) : (c.wakeUp now why).Sound :=
  h.ite ((h.each (fun _ _ h1 => h1.setFlag)).startUp.updEng)

theorem Chip.Sound.wakeRebuildDone {now : Nat} {x : Merge × Chip} (h : x.2.Sound) : (wakeRebuildDone now x).2.Sound :=
  h.iteSnd (h.updEng.trainAll.foldlSnd (fun _ _ h1 => h1.pollNow))

theorem Chip.Sound.startUpComplete {c : Chip} (h : c.Sound) : c.startUpComplete.Sound :=
  h.ite ((h.updEng.use (fun hc1 => hc1.enter.ite hc1)).ite h)

theorem Chip.Sound.failover {c : Chip} {now kind resume : Nat} (h : c.Sound) : (c.failover now kind resume).Sound :=
  h.ite (h.coresFail.ite h.updEng.event)

theorem Chip.Sound.failoverNow {now kind resume : Nat} {x : Merge × Chip} (h : x.2.Sound) : (failoverNow now kind resume x).2.Sound :=
  h.iteSnd h.failover

theorem Chip.Sound.selfTestEnd {c : Chip} {pass : Bool} (h : c.Sound) : (c.selfTestEnd pass).Sound := h.ite h.updEng.event

theorem Chip.Sound.sramUncorrectable {now : Nat} {mem : SramMem} {off : Nat} {checkpoint : Bool} {owner : SramOwner} {x : Merge × Chip}
    (h : x.2.Sound) :
    (sramUncorrectable now mem off checkpoint owner x).2.Sound := by
  unfold Machine.sramUncorrectable
  obtain ⟨m, c⟩ := x
  dsimp -zeta only
  refine h.iteSnd ?_
  extract_lets record
  have hrecord : ∀ x0 x1 x2, x2.Sound → (record x0 x1 x2).Sound := fun _ _ _ h1 => h1.event
  split
  · refine (((hrecord _ _ _ h).abortAll).pair).iteSnd ?_
    split
    · exact ((hrecord _ _ _ h).updEng).pair
    · exact (hrecord _ _ _ h).pair
  · exact (((hrecord _ _ _ h).safeStop).pair).iteSnd ((((hrecord _ _ _ h).freeNat).pair).failoverNow)
  · exact ((hrecord _ _ _ h).updEng).safeStop.emit.pair

theorem Chip.Sound.sramCorrectable {c : Chip} {mem : SramMem} (h : c.Sound) : (c.sramCorrectable mem).Sound := h.updEng.ite h

theorem Chip.Sound.romParityError {c : Chip} (h : c.Sound) : c.romParityError.Sound := h.updEng.ite h

theorem Chip.Sound.judgeRef {c : Chip} (h : c.Sound) : c.judgeRef.Sound := h.ite (h.updSafety.use (fun hc1 => hc1.raise.ite hc1))

theorem Chip.Sound.wellheadRead {s : State} {dt : Nat} {temp : Int} (h : s.chip.Sound) : (s.wellheadRead dt temp).chip.Sound := by
  have h1 : (s.opened dt).2.Sound := h.opened
  unfold State.wellheadRead
  split
  next m c e =>
    rw [e] at h1
    have h1 : c.Sound := h1
    dsimp only
    split
    · exact h1
    · exact h1.updSafety.use fun h2 => h2.raise.ite h2

/-! ### Operations of Machine/RegEffect.lean -/

theorem Chip.Sound.errSlot {c : Chip} {b i : Nat} (h : c.Sound) : (c.errSlot b i).2.Sound := h.iteSnd h.freeNat

theorem Chip.Sound.refuse {c : Chip} {b : Nat} {ix : List Nat} {off : Nat} {old : Word} {cause : Nat} (h : c.Sound) :
    (c.refuse b ix off old cause).Sound :=
  h.setReg.use (fun hc1 => hc1.ite (hc1.setFlag.ite (hc1.raise.ite (hc1.raise.ite (hc1.raise.ite (hc1.raise.ite
    (hc1.errSlot.wlRefused.ite hc1.raise)))))))

theorem Chip.Sound.logConfig {c : Chip} {now off : Nat} {old : Word} (h : c.Sound) : (c.logConfig now off old).Sound := h.sumpRec.ite h

theorem Chip.Sound.lscanFollow {c : Chip} (h : c.Sound) : c.lscanFollow.Sound := h.lscanStart.ite (h.lscanStop.ite h)

theorem Chip.Sound.tileWrote {c : Chip} {now t old : Nat} (h : c.Sound) : (c.tileWrote now t old).Sound :=
  ((h.tryTrain.ite h.tileMissing).ite (h.disableTile.ite h)).refreshSched.showLoad

theorem Chip.Sound.muleCfgWrote {c : Chip} {now m : Nat} (h : c.Sound) : (c.muleCfgWrote now m).Sound :=
  h.showSwitches.use (fun hc1 => hc1.muleEnable.ite (hc1.ite hc1.freeNat.muleDisable))

theorem Chip.Sound.profileWrote {c : Chip} {m k : Nat} (h : c.Sound) : (c.profileWrote m k).Sound := h.updMule.ite h

theorem Chip.Sound.capWrote {c : Chip} (h : c.Sound) : c.capWrote.Sound := h.endCapture.ite (h.setFld.setFld.ite h.startCapture)

theorem Chip.Sound.wrote {c : Chip} {now b : Nat} {ix : List Nat} {old : Word} (h : c.Sound) : (c.wrote now b ix old).Sound :=
  h.lscanFollow.ite (h.judgeDischarge.ite (h.rootApply.ite (h.setFlag.ite (h.sumpRd.ite (h.tileWrote.ite (((h.enableEnc.ite h).showSources).ite
    (((h.enableHall.ite h).showSources).ite (((h.enableBiss.ite h).showSources).ite (h.showSources.ite (h.showLoad.ite (h.muleCfgWrote.ite
    (h.profileWrote.ite (h.profileWrote.ite (h.profileWrote.ite (h.capWrote.ite (h.showLoad.ite (h.slotCfgSet.ite
    (h.refreshHv.judgeDischarge.ite (h.fuserCfgWrote.ite (h.applyCam.ite h))))))))))))))))))))

theorem Chip.Sound.ownerWrote {old : Nat} {x : Merge × Chip} (h : x.2.Sound) : (ownerWrote old x).2.Sound :=
  h.foldlSnd (fun _ _ h1 => h1.detachPart)

theorem Chip.Sound.attachWrote {now p : Nat} {old : Word} {x : Merge × Chip} (h : x.2.Sound) : (attachWrote now p old x).2.Sound :=
  h.iteSnd (h.setFlag.attachPart.iteSnd h.detachPart)

theorem Chip.Sound.regEffect {now : Nat} {q : Option Port} {off : Nat} {old : Word} {x : Merge × Chip} (h : x.2.Sound) :
    (regEffect now q off old x).2.Sound := by
  unfold Machine.regEffect
  split
  · exact h
  · split
    · exact h.refuse
    · exact h.logConfig.wrote.use (fun hc1 => hc1.ownerWrote.iteSnd (hc1.attachWrote.iteSnd (hc1.showGeometry.iteSnd hc1)))

theorem Chip.Sound.woAction {c : Chip} {now b : Nat} {ix : List Nat} {v : Word} (h : c.Sound) : (c.woAction now b ix v).Sound :=
  (h.ilkClear.ite h).ite (h.invalidate.ite ((h.sumpTrigger.ite h).ite ((h.hvRearm.ite h).ite h)))

theorem Chip.Sound.logTable {c : Chip} {now inst : Nat} (h : c.Sound) : (c.logTable now inst).Sound := h.ite (h.each (fun _ _ h1 => h1.sumpRec))

theorem Chip.Sound.tableSwitched {c : Chip} {now : Nat} {tabs : List Nat} {inst : Nat} (h : c.Sound) :
    (c.tableSwitched now tabs inst).Sound := by
  unfold Chip.tableSwitched
  extract_lets k i c1 lose
  have hc1 : c1.Sound := h.logTable
  have hlose : ∀ x0 x1, x0.Sound → (lose x0 x1).Sound := fun _ _ h1 => h1.loseTile.ite h1
  exact (((hlose _ _ hc1).ite hc1).refreshSched.use (fun hc2 => hc2.ite hc2.seamReach)).ite (((hc1.foldl (fun _ _ h1 =>
    hlose _ _ h1)).ite hc1).ite ((hlose _ _ hc1).ite hc1))

theorem Chip.Sound.dropDown {c : Chip} {now : Nat} (h : c.Sound) : (c.dropDown now).Sound := h.foldl (fun _ _ h1 => h1.calDrop)

theorem Chip.Sound.passM0 {c : Chip} {now : Nat} (h : c.Sound) : (c.passM0 now).Sound := h.checkM0.use (fun hc1 => hc1.refreshCut.ite hc1)

theorem Chip.Sound.settle {now : Nat} {x : Merge × Chip} (h : x.2.Sound) : (settle now x).2.Sound :=
  ((h.catchUp.same.foldlSnd (fun _ _ h1 => h1.regEffect)).foldl (fun _ _ h1 =>
    h1.tableSwitched)).dropDown.primeStep.logCuts.feedChannels.holdOff.freeDecided.reseat.blankedStop.passM0.trySleep

/-! ### Operations of Machine/RegWrite.lean -/

theorem Chip.Sound.breakPair {c : Chip} {o cause : Nat} (h : c.Sound) : (c.breakPair o cause).Sound := by
  unfold Chip.breakPair
  split
  · exact h
  · exact h.guardFault.dropGuard

theorem Chip.Sound.disturb {c : Chip} {o : Nat} (h : c.Sound) : (c.disturb o).Sound := h.breakPair

theorem Chip.Sound.secondFirst {c : Chip} {a : Nat} (h : c.Sound) : (c.secondFirst a).Sound := h.breakPair

theorem Chip.Sound.guardTake {now : Nat} {q : Port} {p off : Nat} {r : RegSpec} {ix : List Nat} {v : Word} {x : Merge × Chip} (h : x.2.Sound) :
    (guardTake now q p off r ix v x).2.Sound :=
  h.resetCtl.iteSnd ((h.ite h.lockViolation).iteSnd h.setReg.logConfig)

theorem Chip.Sound.guardSecond {now : Nat} {q : Port} {p a : Nat} {r : RegSpec} {ix : List Nat} {w : Word} {x : Merge × Chip} (h : x.2.Sound) :
    (guardSecond now q p a r ix w x).2.Sound := by
  unfold Machine.guardSecond
  obtain ⟨m, c⟩ := x
  dsimp -zeta only
  split
  · exact (h.dropGuard.use (fun hc1 => hc1.guardTake.iteSnd hc1.guardFault)).iteSnd h.disturb.guardFault
  · exact h.guardFault

theorem Chip.Sound.guardFirst {c : Chip} {now : Nat} {q : Port} {a : Nat} {v : Word} (h : c.Sound) : (c.guardFirst now q a v).Sound :=
  h.secondFirst.same

theorem Chip.Sound.takeWord {now : Nat} {q : Port} {off new : Nat} {x : Merge × Chip} (h : x.2.Sound) : (takeWord now q off new x).2.Sound :=
  h.setReg.regEffect

theorem Chip.Sound.maskedTake {now : Nat} {q : Port} {off : Nat} {r : RegSpec} {ix : List Nat} {v : Word} {x : Merge × Chip} (h : x.2.Sound) :
    (maskedTake now q off r ix v x).2.Sound :=
  h.takeWord.use (fun hc1 => hc1.errFault.iteSnd hc1)

theorem Chip.Sound.plainTake {now : Nat} {q : Port} {p off : Nat} {r : RegSpec} {ix : List Nat} {v : Word} {x : Merge × Chip} (h : x.2.Sound) :
    (plainTake now q p off r ix v x).2.Sound :=
  (h.lockViolation.ite h).use (fun hc1 => hc1.woAction.iteSnd (hc1.iteSnd hc1.takeWord))

theorem Chip.Sound.regTake {now : Nat} {q : Port} {p off : Nat} {r : RegSpec} {ix : List Nat} {v : Word} {x : Merge × Chip} (h : x.2.Sound) :
    (regTake now q p off r ix v x).2.Sound :=
  h.guardFirst.iteSnd (h.disturb.use (fun hc1 => hc1.seqClear.iteSnd (hc1.coupledWrite.iteSnd (hc1.maskedTake.iteSnd hc1.plainTake))))

theorem Chip.Sound.wordWrite {now : Nat} {q : Port} {off : Nat} {v : Word} {x : Merge × Chip} (h : x.2.Sound) :
    (wordWrite now q off v x).2.Sound := by
  unfold Machine.wordWrite
  obtain ⟨m, c⟩ := x
  dsimp -zeta only
  split
  · split
    · exact h.regTake
    · exact h.disturb.privViolation
  · split
    · refine .iteSnd ?_ h.disturb
      split
      · exact h.guardSecond
      · exact h.disturb.privViolation
    · exact h.disturb

theorem Chip.Sound.aliasWrite {now : Nat} {q : Port} {off b : Nat} {v : Word} {x : Merge × Chip} (h : x.2.Sound) :
    (aliasWrite now q off b v x).2.Sound := by
  unfold Machine.aliasWrite
  obtain ⟨m, c⟩ := x
  dsimp -zeta only
  extract_lets c1
  have hc1 : c1.Sound := h.disturb
  split
  · exact hc1
  · refine hc1.iteSnd ?_
    split
    · exact hc1.privViolation
    · exact hc1.coupledWrite.iteSnd hc1.plainTake

theorem Chip.Sound.sleepDrop {c : Chip} (h : c.Sound) : c.sleepDrop.Sound := h.bump

theorem Chip.Sound.busWrite {now : Nat} {q : Port} {off : Nat} {v : Word} {be : Nat} {x : Merge × Chip} (h : x.2.Sound) :
    (busWrite now q off v be x).2.Sound :=
  h.iteSnd (h.sleepDrop.iteSnd (h.iteSnd (h.disturb.wakeUp.iteSnd (h.expireGuards.use (fun hc1 => hc1.wordWrite.iteSnd hc1.aliasWrite)))))

theorem Chip.Sound.tableWords {c : Chip} {off : Nat} {l : List Word} (h : c.Sound) : (c.tableWords off l).1.Sound := by
  induction l generalizing c off with
  | nil => exact h
  | cons w l ih =>
    unfold Machine.Chip.tableWords
    apply ih
    split
    · exact h
    · exact h
    · exact h
    · exact h.updTxn.pairFst
    · exact h.putTableWord

theorem Chip.Sound.tableWrite {c : Chip} {q : Port} {off : Nat} {ws : List Word} (h : c.Sound) : (c.tableWrite q off ws).Sound := by
  have hw : (c.tableWords off ws).1.Sound := h.tableWords
  unfold Machine.Chip.tableWrite
  refine h.ite (h.sleepDrop.ite (h.ite ?_))
  split
  · exact h.privViolation
  dsimp only
  split
  · exact hw.errFault
  · exact hw

/-! ### Operations of Machine/Inputs.lean -/

theorem Chip.Sound.clocked {f : Ctx → Chip → Chip} {x : Ctx} {c : Chip} (h : c.Sound) (hf : ∀ x0 c, c.Sound → (f x0 c).Sound) :
    (clocked f x c).Sound :=
  (hf _ _ h).ite h

theorem Chip.Sound.logFeedback {c : Chip} {now : Nat} (h : c.Sound) : (c.logFeedback now).Sound :=
  h.ite (h.each (fun _ _ h1 => h1.ite h1.updSump.sumpRec))

theorem Chip.Sound.logHall {c : Chip} {now h : Nat} (hs : c.Sound) : (c.logHall now h).Sound := hs.sumpRec.ite hs

theorem Chip.Sound.logUplink {c : Chip} {now t typ : Nat} {fields : List Byte} (h : c.Sound) : (c.logUplink now t typ fields).Sound := h.sumpRec

theorem Chip.Sound.afterCount {c : Chip} {now ch : Nat} (h : c.Sound) : (c.afterCount now ch).Sound := h.encoderDrives.fireDue

theorem Chip.Sound.hallInput {c : Chip} {now h st samples : Nat} (hs : c.Sound) : (c.hallInput now h st samples).Sound := by
  unfold Chip.hallInput
  refine hs.ite ?_
  extract_lets old c1
  have hc1 : c1.Sound := hs.hallEdge.showSources.logHall
  clear_value old
  split
  · exact hc1.ite hc1.hallDrives
  · exact hc1

theorem Chip.Sound.driveAxisJog {c : Chip} {now a : Nat} {e : JEntry} (h : c.Sound) : (c.driveAxisJog now a e).Sound :=
  h.result.ite (h.result.ite h.started.driveJog)

theorem Chip.Sound.axisJog {c : Chip} {now : Nat} {e : JEntry} (h : c.Sound) : (c.axisJog now e).Sound := by
  unfold Chip.axisJog
  extract_lets k
  split
  · exact h.muleJog
  · exact h.driveAxisJog.ite h.result

/-! ### Operations of Machine/Tap.lean -/

theorem Chip.Sound.showTap {c : Chip} (h : c.Sound) : c.showTap.Sound := h.each (fun _ _ h1 => h1.pin)

theorem Chip.Sound.tapInstruction {c : Chip} {i : TapInstr} (h : c.Sound) : (c.tapInstruction i).Sound := h.updEng.pin.showTap

theorem Chip.Sound.tapCapture {c : Chip} {levels : List Bool} (h : c.Sound) : (c.tapCapture levels).Sound := h.updEng

theorem Chip.Sound.tapShiftBit {c : Chip} {tdi : Bool} (h : c.Sound) : (c.tapShiftBit tdi).2.Sound := by
  unfold Chip.tapShiftBit
  dsimp -zeta only
  exact h.updEng

theorem Chip.Sound.tapUpdate {c : Chip} (h : c.Sound) : c.tapUpdate.Sound := h.updEng.showTap.ite h

theorem Chip.Sound.tapScan {c : Chip} {levels tdi : List Bool} (h : c.Sound) : (c.tapScan levels tdi).Sound :=
  h.ite ((h.tapCapture.each (fun _ _ h1 => h1.tapShiftBit.pin)).tapUpdate)

/-! ### Operations of Machine/RowsEngine.lean -/

theorem Chip.Sound.resetPairNext {dt : Nat} {q : Port} {v : Word} {s : State} (h : s.chip.Sound) : (resetPairNext dt q v s).chip.Sound :=
  h.restarted (fun _ _ h1 => h1.busWrite.busWrite.settle)

/-! ### Steps -/

/-- Every next state that an outcome gives has a sound chip. -/
def Keeps (o : Host.Outcome State Fault Refusal) : Prop := ∀ t, o = .next t → t.chip.Sound

theorem Chip.Sound.next {t : State} (h : t.chip.Sound) : Keeps (.next t) := by
  rintro _ ⟨⟩
  exact h

section
variable {s : State} {dt : Nat}

theorem Chip.Sound.run {f : Ctx → Chip → Chip} (h : s.chip.Sound) (hf : ∀ x c, c.Sound → (f x c).Sound) : Keeps (run dt f s) :=
  (h.timed hf).next

theorem Chip.Sound.runAll {f : Ctx → Chip → Chip} (h : s.chip.Sound) (hf : ∀ x c, c.Sound → (f x c).Sound) : Keeps (runAll dt f s) :=
  (h.timedMerge fun _ _ h1 => Chip.Sound.settle (hf _ _ h1)).next

theorem Chip.Sound.runMergeAll {f : Nat → Merge × Chip → Merge × Chip} (h : s.chip.Sound)
    (hf : ∀ now y, y.2.Sound → (f now y).2.Sound) : Keeps (runMergeAll dt f s) :=
  (h.timedMerge fun _ _ h1 => (hf _ _ h1).settle).next

theorem Chip.Sound.runWrite {q : Port} {off be : Nat} {v : Word} (h : s.chip.Sound) : Keeps (runWrite dt q off v be s) :=
  (h.restarted fun _ _ h1 => h1.busWrite.settle).next

theorem Chip.Sound.runWrite8 {q : Port} {off : Nat} {lo hi : Word × Nat} (h : s.chip.Sound) : Keeps (runWrite8 dt q off lo hi s) :=
  (h.restarted fun _ _ h1 => h1.busWrite.busWrite.settle).next

theorem Chip.Sound.execColdStart {msel mainOk : Bool} {vback : BitVec 16} {i2cA : BitVec 2} :
    Keeps (execColdStart dt msel mainOk vback i2cA s) :=
  Chip.Sound.runMergeAll .coldStart fun _ _ h1 => h1

theorem Chip.Sound.execPowerOnReset {msel mainOk : Bool} {vback : BitVec 16} (h : s.chip.Sound) :
    Keeps (execPowerOnReset dt msel mainOk vback s) := by
  unfold Machine.execPowerOnReset
  split
  · exact Chip.Sound.runMergeAll .coldStart fun _ _ h1 => h1
  · exact (h.restarted fun _ _ h1 => h1.powerOnReset.settle).next

theorem Chip.Sound.execBrownOut (h : s.chip.Sound) : Keeps (execBrownOut dt s) :=
  h.runAll fun _ _ h1 => h1.brownOut

theorem Chip.Sound.execEngineReset {q : Port} {v : Word} (h : s.chip.Sound) : Keeps (execEngineReset dt q v s) :=
  h.resetPairNext.next

theorem Chip.Sound.execPartitionReset {q : Port} {v : Word} (h : s.chip.Sound) : Keeps (execPartitionReset dt q v s) :=
  h.resetPairNext.next

theorem Chip.Sound.execPortReset {q : Port} {v : Word} (h : s.chip.Sound) : Keeps (execPortReset dt q v s) :=
  h.resetPairNext.next

theorem Chip.Sound.execHostPortReset {q : Port} {kind : PortResetKind} (h : s.chip.Sound) : Keeps (execHostPortReset dt q kind s) :=
  h.runMergeAll fun _ _ h1 => h1.hostPortReset

theorem Chip.Sound.execPortDown {q : Port} {linkUp busMaster : Bool} (h : s.chip.Sound) : Keeps (execPortDown dt q linkUp busMaster s) :=
  h.runMergeAll fun _ _ h1 => h1.portDownNow

theorem Chip.Sound.execPortReturn {q : Port} {rate width : BitVec 3} {setup : Option PortSetup} (h : s.chip.Sound) :
    Keeps (execPortReturn dt q rate width setup s) :=
  h.runAll fun _ _ h1 => h1.portReturn

theorem Chip.Sound.execRegisterWrite {q : Port} {off : BitVec 28} {v : Word} {be : BitVec 4} {upper : Option (Word × BitVec 4)}
    (h : s.chip.Sound) : Keeps (execRegisterWrite dt q off v be upper s) := by
  cases upper with
  | none => exact h.runWrite
  | some p => exact h.runWrite8

theorem Chip.Sound.execBitAliasWrite {q : Port} {off : BitVec 28} {v : Word} (h : s.chip.Sound) : Keeps (execBitAliasWrite dt q off v s) :=
  h.runWrite

theorem Chip.Sound.execMaskedWrite {q : Port} {off : BitVec 28} {v : Word} (h : s.chip.Sound) : Keeps (execMaskedWrite dt q off v s) :=
  h.runWrite

theorem Chip.Sound.execSqClearWrite {q : Port} {off : BitVec 28} {v : Word} (h : s.chip.Sound) : Keeps (execSqClearWrite dt q off v s) :=
  h.runWrite

theorem Chip.Sound.execGuardFirstWrite {q : Port} {off : BitVec 28} {v : Word} (h : s.chip.Sound) :
    Keeps (execGuardFirstWrite dt q off v s) :=
  h.runWrite

theorem Chip.Sound.execGuardedPairWrite {q : Port} {off : BitVec 28} {v : Word} (h : s.chip.Sound) :
    Keeps (execGuardedPairWrite dt q off v s) :=
  h.runWrite

theorem Chip.Sound.execGuardTimeout {off : BitVec 28} (h : s.chip.Sound) : Keeps (execGuardTimeout dt off s) :=
  h.runAll fun _ _ h1 => h1.expireGuards

theorem Chip.Sound.execPartOwnerWrite {q : Port} {v : Word} (h : s.chip.Sound) : Keeps (execPartOwnerWrite dt q v s) :=
  h.runWrite

theorem Chip.Sound.execWakeRegisterWrite {q : Port} {v : Word} (h : s.chip.Sound) : Keeps (execWakeRegisterWrite dt q v s) :=
  h.runWrite

theorem Chip.Sound.execI2cWake {byte : Byte} (h : s.chip.Sound) : Keeps (execI2cWake dt byte s) :=
  (h.restarted (fun _ _ h1 => h1.updEng.use (fun hc1 => (hc1.wakeUp.ite hc1).settle))).next

theorem Chip.Sound.execTableWindowWrite {q : Port} {off : BitVec 24} {words : List Word} (h : s.chip.Sound) :
    Keeps (execTableWindowWrite dt q off words s) :=
  h.runAll fun _ _ h1 => h1.tableWrite

theorem Chip.Sound.execTableCopyDone {inst : BitVec 16} (h : s.chip.Sound) : Keeps (execTableCopyDone dt inst s) :=
  h.runAll fun _ _ h1 => h1.clocked fun _ _ h2 => h2.tableCopied

theorem Chip.Sound.execPartitionAttach {q : Port} {p : Fin 8} {v : Word} (h : s.chip.Sound) : Keeps (execPartitionAttach dt q p v s) :=
  h.runWrite

theorem Chip.Sound.execXlatRootApply {q : Port} {p : Fin 8} {v : Word} (h : s.chip.Sound) : Keeps (execXlatRootApply dt q p v s) :=
  h.runWrite

theorem Chip.Sound.execXlatInvalidate {q : Port} {p : Fin 8} {v : Word} (h : s.chip.Sound) : Keeps (execXlatInvalidate dt q p v s) :=
  h.runWrite

theorem Chip.Sound.execXlatInvalidateDone {p : Fin 8} (h : s.chip.Sound) : Keeps (execXlatInvalidateDone dt p s) :=
  h.runAll fun _ _ h1 => h1.clocked fun _ _ h2 => h2.invalidateDone

theorem Chip.Sound.execTileEnableWrite {q : Port} {t : Fin 64} {v : Word} (h : s.chip.Sound) : Keeps (execTileEnableWrite dt q t v s) :=
  h.runWrite

theorem Chip.Sound.execHvRearm {q : Port} {k : Fin 24} {v : Word} (h : s.chip.Sound) : Keeps (execHvRearm dt q k v s) :=
  h.runWrite

theorem Chip.Sound.execIlkClear {q : Port} {v : Word} (h : s.chip.Sound) : Keeps (execIlkClear dt q v s) :=
  h.runWrite

theorem Chip.Sound.execSumpTrig {q : Port} {v : Word} (h : s.chip.Sound) : Keeps (execSumpTrig dt q v s) :=
  h.runWrite

theorem Chip.Sound.execSumpRdWrite {q : Port} {hi : Bool} {v : Word} (h : s.chip.Sound) : Keeps (execSumpRdWrite dt q hi v s) :=
  h.runWrite

theorem Chip.Sound.execMuleEnableWrite {q : Port} {m : Fin 16} {v : Word} (h : s.chip.Sound) : Keeps (execMuleEnableWrite dt q m v s) :=
  h.runWrite

theorem Chip.Sound.execMuleProfileWrite {q : Port} {m : Fin 16} {which : Profile} {v : Word} (h : s.chip.Sound) :
    Keeps (execMuleProfileWrite dt q m which v s) :=
  h.runWrite

theorem Chip.Sound.execSlotEnableWrite {q : Port} {n : Fin 96} {v : Word} (h : s.chip.Sound) : Keeps (execSlotEnableWrite dt q n v s) :=
  h.runWrite

theorem Chip.Sound.execDoorbellPoll {p : Fin 8} (h : s.chip.Sound) : Keeps (execDoorbellPoll dt p s) :=
  h.runMergeAll fun _ _ h1 => h1.doorbellPoll

theorem Chip.Sound.execDoorbellBlockReceived {p : Fin 8} {blk : Option Entry} (h : s.chip.Sound) :
    Keeps (execDoorbellBlockReceived dt p blk s) :=
  h.runMergeAll fun _ _ h1 => h1.doorbellReceived

theorem Chip.Sound.execEntryFetchComplete {p : Fin 8} {ring : Fin 4} {entries : List Entry} {ok : Bool} (h : s.chip.Sound) :
    Keeps (execEntryFetchComplete dt p ring entries ok s) :=
  h.runMergeAll fun _ _ h1 => h1.entryFetched

theorem Chip.Sound.execHeldRecordDelivery {p : Fin 8} (h : s.chip.Sound) : Keeps (execHeldRecordDelivery dt p s) :=
  h.runMergeAll fun _ _ h1 => h1.heldDelivery

theorem Chip.Sound.execModTimeExpiry {p : Fin 8} {queue : Fin 2} (h : s.chip.Sound) : Keeps (execModTimeExpiry dt p queue s) :=
  h.runMergeAll fun _ _ h1 => h1.modTimeExpiry

theorem Chip.Sound.execBarrierReadComplete {j : Fin 4096} {ok : Bool} (h : s.chip.Sound) : Keeps (execBarrierReadComplete dt j ok s) :=
  h.runMergeAll fun _ _ h1 => h1.barrierRead

theorem Chip.Sound.execDmaBurstGrant {q : Port} {mem : HostImg} (h : s.chip.Sound) : Keeps (execDmaBurstGrant dt q mem s) :=
  h.runMergeAll fun _ _ h1 => h1.dmaGrant

theorem Chip.Sound.execDmaBurstComplete {ch : Fin 40} {result : Burst} (h : s.chip.Sound) : Keeps (execDmaBurstComplete dt ch result s) :=
  h.runMergeAll fun _ _ h1 => h1.dmaComplete.finishJobs

theorem Chip.Sound.execImageBurstRetry {lane : Fin 8} (h : s.chip.Sound) : Keeps (execImageBurstRetry dt lane s) :=
  h.runAll fun _ _ h1 => h1.clocked fun _ _ h2 => h2.imgRetry.checkBehind

theorem Chip.Sound.execWake {j : Fin 4096} (h : s.chip.Sound) : Keeps (execWake dt j s) :=
  h.runAll fun _ _ h1 => h1.command fun _ _ _ h2 => h2.result

theorem Chip.Sound.execSleep {j : Fin 4096} (h : s.chip.Sound) : Keeps (execSleep dt j s) :=
  h.runAll fun _ _ h1 => h1.command fun _ _ _ h2 => h2.sleepCommand

theorem Chip.Sound.execPrime {j : Fin 4096} (h : s.chip.Sound) : Keeps (execPrime dt j s) :=
  h.runAll fun _ _ h1 => h1.command fun _ _ _ h2 => h2.primeCommand

theorem Chip.Sound.execPrimeComplete (h : s.chip.Sound) : Keeps (execPrimeComplete dt s) :=
  h.runAll fun _ _ h1 => h1.clocked fun _ _ h2 => h2.primeComplete

theorem Chip.Sound.execPrimeTimeout (h : s.chip.Sound) : Keeps (execPrimeTimeout dt s) :=
  h.runAll fun _ _ h1 => h1.clocked fun _ _ h2 => h2.primeTimeout

theorem Chip.Sound.execIdle {j : Fin 4096} (h : s.chip.Sound) : Keeps (execIdle dt j s) :=
  h.runAll fun _ _ h1 => h1.command fun _ _ _ h2 => h2.idleCommand

theorem Chip.Sound.execSafeStop {j : Fin 4096} (h : s.chip.Sound) : Keeps (execSafeStop dt j s) :=
  h.runAll fun _ _ h1 => h1.command fun _ _ _ h2 => h2.safeStopCommand

theorem Chip.Sound.execReplay {j : Fin 4096} {mem : HostImg} (h : s.chip.Sound) : Keeps (execReplay dt j mem s) :=
  h.runAll fun x c h1 => by
    split
    · exact h1.replayVerdict.ite (h1.commandMem fun _ _ _ h2 => h2.replayCommand)
    · exact h1.commandMem fun _ _ _ h2 => h2.replayCommand

theorem Chip.Sound.execIdleAfterReplay (h : s.chip.Sound) : Keeps (execIdleAfterReplay dt s) :=
  h.runAll fun _ _ h1 => h1.idleAfterReplay

theorem Chip.Sound.execTxnBegin {j : Fin 4096} (h : s.chip.Sound) : Keeps (execTxnBegin dt j s) :=
  h.runAll fun _ _ h1 => h1.command fun _ _ _ h2 => h2.txnBegin

theorem Chip.Sound.execTxnWrite {j : Fin 4096} (h : s.chip.Sound) : Keeps (execTxnWrite dt j s) :=
  h.runAll fun _ _ h1 => h1.command fun _ _ _ h2 => h2.txnWrite

theorem Chip.Sound.execTxnCommit {j : Fin 4096} (h : s.chip.Sound) : Keeps (execTxnCommit dt j s) :=
  h.runAll fun _ _ h1 => h1.command fun _ _ _ h2 => h2.txnCommit

theorem Chip.Sound.execTxnRollback {j : Fin 4096} (h : s.chip.Sound) : Keeps (execTxnRollback dt j s) :=
  h.runAll fun _ _ h1 => h1.command fun _ _ _ h2 => h2.txnRollback

theorem Chip.Sound.execTxnAtTimeTrigger {p : Fin 8} (h : s.chip.Sound) : Keeps (execTxnAtTimeTrigger dt p s) :=
  h.runAll fun _ _ h1 => h1.clocked fun _ _ h2 => h2.fireDue

theorem Chip.Sound.execPageArm {j : Fin 4096} {mem : HostImg} (h : s.chip.Sound) : Keeps (execPageArm dt j mem s) :=
  h.runAll fun _ _ h1 => h1.command fun _ _ _ h2 => h2.pageArm

theorem Chip.Sound.execChainStart {j : Fin 4096} (h : s.chip.Sound) : Keeps (execChainStart dt j s) :=
  h.runAll fun _ _ h1 => h1.command fun _ _ _ h2 => h2.chainStart

theorem Chip.Sound.execChainEnd {j : Fin 4096} (h : s.chip.Sound) : Keeps (execChainEnd dt j s) :=
  h.runAll fun _ _ h1 => h1.command fun _ _ _ h2 => h2.chainEnd

theorem Chip.Sound.execPageCancel {j : Fin 4096} (h : s.chip.Sound) : Keeps (execPageCancel dt j s) :=
  h.runAll fun _ _ h1 => h1.command fun _ _ _ h2 => h2.pageCancel

theorem Chip.Sound.execPageAbort {j : Fin 4096} (h : s.chip.Sound) : Keeps (execPageAbort dt j s) :=
  h.runAll fun _ _ h1 => h1.command fun _ _ _ h2 => h2.pageAbort

theorem Chip.Sound.execPageStart (h : s.chip.Sound) : Keeps (execPageStart dt s) :=
  h.runAll fun _ _ h1 => h1.clocked fun _ _ h2 => h2.pageStart

theorem Chip.Sound.execChainClose (h : s.chip.Sound) : Keeps (execChainClose dt s) :=
  h.runAll fun _ _ h1 => h1.clocked fun _ _ h2 => h2.chainClose

theorem Chip.Sound.execPageEnd (h : s.chip.Sound) : Keeps (execPageEnd dt s) :=
  h.runAll fun _ _ h1 => h1.clocked fun _ _ h2 => h2.pageEnd

theorem Chip.Sound.execSiphonBandDecode {lane : Fin 8} (h : s.chip.Sound) : Keeps (execSiphonBandDecode dt lane s) :=
  h.runAll fun _ _ h1 => h1.clocked fun _ _ h2 => h2.bandDecode

theorem Chip.Sound.execSweepPlan {t : Fin 64} (h : s.chip.Sound) : Keeps (execSweepPlan dt t s) :=
  h.runAll fun _ _ h1 => h1.clocked fun _ _ h2 => h2.sweepPlan.checkBehind

theorem Chip.Sound.execTrimRefine {t : Fin 64} (h : s.chip.Sound) : Keeps (execTrimRefine dt t s) :=
  h.runAll fun _ _ h1 => h1.clocked fun _ _ h2 => h2.trimRefine

theorem Chip.Sound.execBdStamp {t : Fin 64} {msg : BdStamp} (h : s.chip.Sound) : Keeps (execBdStamp dt t msg s) :=
  h.runAll fun _ _ h1 => h1.clocked fun _ _ h2 => h2.logUplink.bdStamp

theorem Chip.Sound.execMirrorSense {t : Fin 64} {sweep : BitVec 32} {phase ampl : BitVec 16} (h : s.chip.Sound) :
    Keeps (execMirrorSense dt t sweep phase ampl s) :=
  h.runAll fun _ _ h1 => h1.clocked fun _ _ h2 => h2.logUplink.mirrorSense

theorem Chip.Sound.execMonitorPd {t : Fin 64} {sweep : BitVec 32} {codes : List (BitVec 16)} (h : s.chip.Sound) :
    Keeps (execMonitorPd dt t sweep codes s) :=
  h.runAll fun _ _ h1 => h1.clocked fun _ _ h2 => h2.monitorPd

theorem Chip.Sound.execHeadStatus {t : Fin 64} {payload : List Byte} (h : s.chip.Sound) : Keeps (execHeadStatus dt t payload s) :=
  h.runAll fun _ _ h1 => h1.clocked fun _ _ h2 => h2.headStatus

theorem Chip.Sound.execHeadTemp {t : Fin 64} {temps : List (BitVec 16)} (h : s.chip.Sound) : Keeps (execHeadTemp dt t temps s) :=
  h.runAll fun _ _ h1 => h1.clocked fun _ _ h2 => h2.headTemp

theorem Chip.Sound.execAck {t : Fin 64} {seq : BitVec 16} {nak : Bool} (h : s.chip.Sound) : Keeps (execAck dt t seq nak s) :=
  h.runAll fun _ _ h1 => h1.clocked fun _ _ h2 => h2.ackMsg

theorem Chip.Sound.execUplinkFrame {t : Fin 64} {hdr body : List Byte} (h : s.chip.Sound) : Keeps (execUplinkFrame dt t hdr body s) :=
  h.runAll fun _ _ h1 => h1.clocked fun _ _ h2 => h2.uplinkFrame

theorem Chip.Sound.execRetxTimeout {t : Fin 64} (h : s.chip.Sound) : Keeps (execRetxTimeout dt t s) :=
  h.runAll fun _ _ h1 => h1.clocked fun _ _ h2 => h2.retxTimeout

theorem Chip.Sound.execEpochMark {t : Fin 64} {sub : Fin 64} (h : s.chip.Sound) : Keeps (execEpochMark dt t sub s) :=
  h.runAll fun _ _ h1 => h1.clocked fun _ _ h2 => h2.epochMark

theorem Chip.Sound.execEchoMark {t : Fin 64} {epoch : BitVec 16} {sub : Fin 64} (h : s.chip.Sound) : Keeps (execEchoMark dt t epoch sub s) :=
  h.runAll fun _ _ h1 => h1.clocked fun _ _ h2 => h2.echoMark

theorem Chip.Sound.execUplinkBlockLock {t : Fin 64} {blocks : List LaneBlock} (h : s.chip.Sound) :
    Keeps (execUplinkBlockLock dt t blocks s) :=
  h.runAll fun _ _ h1 => h1.clocked fun _ _ h2 => h2.uplinkBlocks

theorem Chip.Sound.execLinkFail {t : Fin 64} (h : s.chip.Sound) : Keeps (execLinkFail dt t s) :=
  h.runAll fun _ _ h1 => h1.clocked fun _ _ h2 => h2.linkFail

theorem Chip.Sound.execLinkRetrain {t : Fin 64} (h : s.chip.Sound) : Keeps (execLinkRetrain dt t s) :=
  h.runAll fun _ _ h1 => h1.clocked fun _ _ h2 => h2.linkRetrain

theorem Chip.Sound.execTrainTimeout {t : Fin 64} (h : s.chip.Sound) : Keeps (execTrainTimeout dt t s) :=
  h.runAll fun _ _ h1 => h1.clocked fun _ _ h2 => h2.trainTimeout

theorem Chip.Sound.execBankLoadTimeout {t : Fin 64} (h : s.chip.Sound) : Keeps (execBankLoadTimeout dt t s) :=
  h.runAll fun _ _ h1 => h1.clocked fun _ _ h2 => h2.bankTimeout

theorem Chip.Sound.execKillRepeat {t : Fin 64} (h : s.chip.Sound) : Keeps (execKillRepeat dt t s) :=
  h.runAll fun _ _ h1 => h1.clocked fun _ _ h2 => h2.killRepeat

theorem Chip.Sound.execDllLockLost {g : Fin 8} {w : DllWindow} (h : s.chip.Sound) : Keeps (execDllLockLost dt g w s) :=
  h.runAll fun _ _ h1 => h1.clocked fun _ _ h2 => h2.dllWindowLost

theorem Chip.Sound.execDllLockRestored {g : Fin 8} {ws : List DllWindow} (h : s.chip.Sound) : Keeps (execDllLockRestored dt g ws s) :=
  h.runAll fun _ _ h1 => h1.clocked fun _ _ h2 => h2.dllLocked

theorem Chip.Sound.execRefClockLost (h : s.chip.Sound) : Keeps (execRefClockLost dt s) :=
  h.runAll fun _ _ h1 => h1.clocked fun _ _ h2 => h2.refClockLost

theorem Chip.Sound.execRefRestored (h : s.chip.Sound) : Keeps (execRefRestored dt s) :=
  h.runAll fun _ _ h1 => h1.refRestored

theorem Chip.Sound.execMirrorStart {t : Fin 64} (h : s.chip.Sound) : Keeps (execMirrorStart dt t s) :=
  h.runAll fun _ _ h1 => h1.clocked fun _ _ h2 => h2.mirrorStart

theorem Chip.Sound.execMirrorAmplStep {t : Fin 64} (h : s.chip.Sound) : Keeps (execMirrorAmplStep dt t s) :=
  h.runAll fun _ _ h1 => h1.clocked fun _ _ h2 => h2.mirrorStep

theorem Chip.Sound.execBdLockTimeout {t : Fin 64} (h : s.chip.Sound) : Keeps (execBdLockTimeout dt t s) :=
  h.runAll fun _ _ h1 => h1.clocked fun _ _ h2 => h2.lockTimeout

theorem Chip.Sound.execMirrorRetry {t : Fin 64} (h : s.chip.Sound) : Keeps (execMirrorRetry dt t s) :=
  h.runAll fun _ _ h1 => h1.clocked fun _ _ h2 => h2.mirrorRetry

theorem Chip.Sound.execCalibrationComplete (h : s.chip.Sound) : Keeps (execCalibrationComplete dt s) :=
  h.runAll fun _ _ h1 => h1.clocked fun _ _ h2 => h2.calComplete.calResume

theorem Chip.Sound.execLscanTrigger (h : s.chip.Sound) : Keeps (execLscanTrigger dt s) :=
  h.runAll fun _ _ h1 => h1.clocked fun _ _ h2 => h2.lscanTrigger

theorem Chip.Sound.execLscanLine {words : List (BitVec 16)} (h : s.chip.Sound) : Keeps (execLscanLine dt words s) :=
  h.runAll fun _ _ h1 => h1.clocked fun _ _ h2 => h2.lscanLine

theorem Chip.Sound.execSeamHeldCommit (h : s.chip.Sound) : Keeps (execSeamHeldCommit dt s) :=
  h.runAll fun _ _ h1 => h1.clocked fun _ _ h2 => h2.heldCommit

theorem Chip.Sound.execLscanLineTimeout (h : s.chip.Sound) : Keeps (execLscanLineTimeout dt s) :=
  h.runAll fun _ _ h1 => h1.clocked fun _ _ h2 => h2.lscanTimeout

theorem Chip.Sound.execLscanDllBypass {cause : Fin 4} {mhz : BitVec 8} (h : s.chip.Sound) : Keeps (execLscanDllBypass dt cause mhz s) :=
  h.runAll fun _ _ h1 => h1.clocked fun _ _ h2 => h2.lscanBypass

theorem Chip.Sound.execLscanDllLock {mhz : BitVec 8} (h : s.chip.Sound) : Keeps (execLscanDllLock dt mhz s) :=
  h.runAll fun _ _ h1 => h1.clocked fun _ _ h2 => h2.lscanLock

theorem Chip.Sound.execCarrierPeak {a : Fin 12} (h : s.chip.Sound) : Keeps (execCarrierPeak dt a s) :=
  h.runAll fun _ _ h1 => h1.clocked fun _ _ h2 => h2.carrierPeak

theorem Chip.Sound.execShuntSample {a : Fin 12} {u v w : BitVec 12} (h : s.chip.Sound) : Keeps (execShuntSample dt a u v w s) :=
  h.runAll fun _ _ h1 => h1.clocked fun _ _ h2 => h2.shuntSample

theorem Chip.Sound.execGateFault {a : Fin 12} (h : s.chip.Sound) : Keeps (execGateFault dt a s) :=
  h.runAll fun _ _ h1 => h1.clocked fun _ _ h2 => h2.gateFault

theorem Chip.Sound.execOffsetCalEnd {a : Fin 12} (h : s.chip.Sound) : Keeps (execOffsetCalEnd dt a s) :=
  h.runAll fun _ _ h1 => h1.clocked fun _ _ h2 => h2.offsetCalEnd

theorem Chip.Sound.execHallEdge {ch : Fin 12} {st : BitVec 3} {samples : Nat} (h : s.chip.Sound) : Keeps (execHallEdge dt ch st samples s) :=
  h.runAll fun _ _ h1 => h1.clocked fun _ _ h2 => h2.hallInput

theorem Chip.Sound.execHallLost {a : Fin 12} (h : s.chip.Sound) : Keeps (execHallLost dt a s) :=
  h.runAll fun _ _ h1 => h1.clocked fun _ _ h2 => h2.hallTimeout

theorem Chip.Sound.execLockedRotor {a : Fin 12} (h : s.chip.Sound) : Keeps (execLockedRotor dt a s) :=
  h.runAll fun _ _ h1 => h1.clocked fun _ _ h2 => h2.lockedRotor

theorem Chip.Sound.execObserverFail {a : Fin 12} (h : s.chip.Sound) : Keeps (execObserverFail dt a s) :=
  h.runAll fun _ _ h1 => h1.clocked fun _ _ h2 => h2.observerFail

theorem Chip.Sound.execCatchFail {a : Fin 12} (h : s.chip.Sound) : Keeps (execCatchFail dt a s) :=
  h.runAll fun _ _ h1 => h1.clocked fun _ _ h2 => h2.catchFail

theorem Chip.Sound.execBrakeEnd {a : Fin 12} (h : s.chip.Sound) : Keeps (execBrakeEnd dt a s) :=
  h.runAll fun _ _ h1 => h1.clocked fun _ _ h2 => h2.brakeEnd

theorem Chip.Sound.execEncoderCount {e : Fin 12} {inp : QuadIn} {samples : Nat} (h : s.chip.Sound) :
    Keeps (execEncoderCount dt e inp samples s) :=
  h.runAll fun _ _ h1 => h1.clocked fun _ _ h2 => h2.encoderInput.afterCount

theorem Chip.Sound.execSlipRunEnd {e : Fin 12} (h : s.chip.Sound) : Keeps (execSlipRunEnd dt e s) :=
  h.runAll fun _ _ h1 => h1.clocked fun _ _ h2 => h2.slipRunEnd

theorem Chip.Sound.execIndexEdge {e : Fin 12} (h : s.chip.Sound) : Keeps (execIndexEdge dt e s) :=
  h.runAll fun _ _ h1 => h1.clocked fun _ _ h2 => h2.indexEdge.afterCount

theorem Chip.Sound.execStandstill {e : Fin 12} (h : s.chip.Sound) : Keeps (execStandstill dt e s) :=
  h.runAll fun _ _ h1 => h1.clocked fun _ _ h2 => h2.standstill

theorem Chip.Sound.execSpeedUpdate (h : s.chip.Sound) : Keeps (execSpeedUpdate dt s) :=
  h.runAll fun _ _ h1 => h1.clocked fun _ _ h2 => h2.speedUpdate.keepInput.latchFeedback.calDrumCheck.calResume.logFeedback

theorem Chip.Sound.execHallInvalidRunEnd {ch : Fin 12} (h : s.chip.Sound) : Keeps (execHallInvalidRunEnd dt ch s) :=
  h.runAll fun _ _ h1 => h1.clocked fun _ _ h2 => h2.hallRunEnd

theorem Chip.Sound.execBissFrameStart {b : Fin 4} (h : s.chip.Sound) : Keeps (execBissFrameStart dt b s) :=
  h.runAll fun _ _ h1 => h1.clocked fun _ _ h2 => h2.bissStart

theorem Chip.Sound.execBissFrameEnd {b : Fin 4} {frame : Option (List Bool)} {delay : BitVec 9} (h : s.chip.Sound) :
    Keeps (execBissFrameEnd dt b frame delay s) :=
  h.runAll fun _ _ h1 => h1.clocked fun _ _ h2 => h2.bissEnd.afterCount

theorem Chip.Sound.execCoilBusFrame {chain : Fin 4} {status : List (BitVec 16)} (h : s.chip.Sound) :
    Keeps (execCoilBusFrame dt chain status s) :=
  h.runAll fun _ _ h1 => h1.clocked fun _ _ h2 => h2.coilFrame

theorem Chip.Sound.execMuleStep {m : Fin 16} (h : s.chip.Sound) : Keeps (execMuleStep dt m s) :=
  h.runAll fun _ _ h1 => h1.clocked fun _ _ h2 => h2.muleStep

theorem Chip.Sound.execMuleSwitch {m : Fin 16} {which : MuleInput} {level : Bool} (h : s.chip.Sound) :
    Keeps (execMuleSwitch dt m which level s) :=
  h.runAll fun _ _ h1 => h1.clocked fun _ _ h2 => h2.muleSwitch

theorem Chip.Sound.execHoldDelay {m : Fin 16} (h : s.chip.Sound) : Keeps (execHoldDelay dt m s) :=
  h.runAll fun _ _ h1 => h1.clocked fun _ _ h2 => h2.holdDelay

theorem Chip.Sound.execSlotSample {n : Fin 96} (h : s.chip.Sound) : Keeps (execSlotSample dt n s) :=
  h.runAll fun _ _ h1 => h1.clocked fun _ _ h2 => h2.ite h2.slotSample

theorem Chip.Sound.execOverrunRunEnd {n : Fin 96} (h : s.chip.Sound) : Keeps (execOverrunRunEnd dt n s) :=
  h.runAll fun _ _ h1 => h1.clocked fun _ _ h2 => h2.overrunEnd

theorem Chip.Sound.execSlowAdcConversion {code : BitVec 16} (h : s.chip.Sound) : Keeps (execSlowAdcConversion dt code s) :=
  h.runAll fun _ _ h1 => h1.clocked fun _ _ h2 => h2.slowAdcConversion

theorem Chip.Sound.execHvFeedbackConversion {k : Fin 24} {volts amps : BitVec 12} (h : s.chip.Sound) :
    Keeps (execHvFeedbackConversion dt k volts amps s) :=
  h.runAll fun _ _ h1 => h1.clocked fun _ _ h2 => h2.hvConvert.judgeDischarge

theorem Chip.Sound.execHvEnergyBin (h : s.chip.Sound) : Keeps (execHvEnergyBin dt s) :=
  h.runAll fun _ _ h1 => h1.clocked fun _ _ h2 => h2.each fun _ _ h3 => h3.hvBin

theorem Chip.Sound.execMainsZeroCrossing (h : s.chip.Sound) : Keeps (execMainsZeroCrossing dt s) :=
  h.runAll fun _ _ h1 => h1.clocked fun _ _ h2 => h2.zeroCrossing

theorem Chip.Sound.execZcLost (h : s.chip.Sound) : Keeps (execZcLost dt s) :=
  h.runAll fun _ _ h1 => h1.clocked fun _ _ h2 => h2.zcLost

theorem Chip.Sound.execFollowUpdate {samples : List QuadIn} (h : s.chip.Sound) : Keeps (execFollowUpdate dt samples s) :=
  h.runAll fun _ _ h1 => h1.clocked fun _ _ h2 => h2.followUpdate

theorem Chip.Sound.execFollowRunEnd (h : s.chip.Sound) : Keeps (execFollowRunEnd dt s) :=
  h.runAll fun _ _ h1 => h1.clocked fun _ _ h2 => h2.followRunEnd

theorem Chip.Sound.execRcMasterCopy {r : Fin 16} (h : s.chip.Sound) : Keeps (execRcMasterCopy dt r s) :=
  h.runAll fun _ _ h1 => h1.clocked fun _ _ h2 => h2.rcCopy

theorem Chip.Sound.execIlkOpen {chB : Bool} (h : s.chip.Sound) : Keeps (execIlkOpen dt chB s) :=
  h.runAll fun _ _ h1 => h1.ilkOpen

theorem Chip.Sound.execIlkClose {chB : Bool} (h : s.chip.Sound) : Keeps (execIlkClose dt chB s) :=
  h.runAll fun _ _ h1 => h1.ilkClose

theorem Chip.Sound.execIlkDiscrepancy (h : s.chip.Sound) : Keeps (execIlkDiscrepancy dt s) :=
  h.runAll fun _ _ h1 => h1.ilkDiscrepancy

theorem Chip.Sound.execMainLoss {pfail aonLow : Bool} {vback : BitVec 16} (h : s.chip.Sound) : Keeps (execMainLoss dt pfail aonLow vback s) :=
  h.runAll fun _ _ h1 => h1.mainLoss

theorem Chip.Sound.execVbackSwitchover {toVback : Bool} (h : s.chip.Sound) : Keeps (execVbackSwitchover dt toVback s) :=
  h.runAll fun _ _ h1 => h1.switchover

theorem Chip.Sound.execMainReturn (h : s.chip.Sound) : Keeps (execMainReturn dt s) :=
  h.runAll fun _ _ h1 => h1.mainReturn

theorem Chip.Sound.execHoldupEnd (h : s.chip.Sound) : Keeps (execHoldupEnd dt s) :=
  h.runAll fun _ _ h1 => h1.holdupEnd

theorem Chip.Sound.execDischargeCheck (h : s.chip.Sound) : Keeps (execDischargeCheck dt s) :=
  h.runAll fun _ _ h1 => h1.dischargeCheck

theorem Chip.Sound.execStopSequenceFinished (h : s.chip.Sound) : Keeps (execStopSequenceFinished dt s) :=
  h.runMergeAll fun _ _ h1 => h1.stopSequenceEnd

theorem Chip.Sound.execVbackLow {vback : BitVec 16} (h : s.chip.Sound) : Keeps (execVbackLow dt vback s) :=
  h.runAll fun _ _ h1 => h1.readVback

theorem Chip.Sound.execDieTempRead {temps : List (BitVec 16)} (h : s.chip.Sound) : Keeps (execDieTempRead dt temps s) :=
  h.runAll fun _ _ h1 => h1.clocked fun _ _ h2 => h2.dieTempRead.judgeRef

theorem Chip.Sound.execStartUpComplete (h : s.chip.Sound) : Keeps (execStartUpComplete dt s) :=
  h.runAll fun _ _ h1 => h1.clocked fun _ _ h2 => h2.startUpComplete

theorem Chip.Sound.execWakeRebuildDone (h : s.chip.Sound) : Keeps (execWakeRebuildDone dt s) :=
  h.runMergeAll fun _ _ h1 => h1.wakeRebuildDone

theorem Chip.Sound.execLockstepMismatch {fromSram : Bool} {resume100ns : Nat} (h : s.chip.Sound) :
    Keeps (execLockstepMismatch dt fromSram resume100ns s) :=
  h.runMergeAll fun _ _ h1 => h1.failoverNow

theorem Chip.Sound.execStandbySelfTestEnd {pass : Bool} (h : s.chip.Sound) : Keeps (execStandbySelfTestEnd dt pass s) :=
  h.runAll fun _ _ h1 => h1.clocked fun _ _ h2 => h2.selfTestEnd

theorem Chip.Sound.execSramUncorrectable {mem : SramMem} {off : Word} {checkpoint : Bool} {owner : SramOwner} (h : s.chip.Sound) :
    Keeps (execSramUncorrectable dt mem off checkpoint owner s) :=
  h.runMergeAll fun _ _ h1 => h1.sramUncorrectable

theorem Chip.Sound.execSegmentClose (h : s.chip.Sound) : Keeps (execSegmentClose dt s) :=
  h.runAll fun _ _ h1 => h1.clocked fun _ _ h2 => h2.segmentClose

theorem Chip.Sound.execSegmentStream {mem : HostImg} (h : s.chip.Sound) : Keeps (execSegmentStream dt mem s) :=
  h.runAll fun _ _ h1 => h1.clocked fun _ _ h2 => h2.segmentStream

theorem Chip.Sound.execSnapshotTimer (h : s.chip.Sound) : Keeps (execSnapshotTimer dt s) :=
  h.runAll fun _ _ h1 => h1.clocked fun _ _ h2 => h2.snapshotTimer

theorem Chip.Sound.execPostTriggerEnd (h : s.chip.Sound) : Keeps (execPostTriggerEnd dt s) :=
  h.runAll fun _ _ h1 => h1.clocked fun _ _ h2 => h2.postTriggerEnd

theorem Chip.Sound.execAxisMove {j : Fin 4096} (h : s.chip.Sound) : Keeps (execAxisMove dt j s) :=
  h.runAll fun _ _ h1 => h1.command fun _ _ _ h2 => h2.axisMove

theorem Chip.Sound.execAxisJog {j : Fin 4096} (h : s.chip.Sound) : Keeps (execAxisJog dt j s) :=
  h.runAll fun _ _ h1 => h1.command fun _ _ _ h2 => h2.axisJog

theorem Chip.Sound.execAxisHome {j : Fin 4096} (h : s.chip.Sound) : Keeps (execAxisHome dt j s) :=
  h.runAll fun _ _ h1 => h1.command fun _ _ _ h2 => h2.axisHome

theorem Chip.Sound.execLoopConfig {j : Fin 4096} {mem : HostImg} (h : s.chip.Sound) : Keeps (execLoopConfig dt j mem s) :=
  h.runAll fun _ _ h1 => h1.commandMem fun _ _ _ h2 => h2.loopConfig

theorem Chip.Sound.execLoopInject {j : Fin 4096} (h : s.chip.Sound) : Keeps (execLoopInject dt j s) :=
  h.runAll fun _ _ h1 => h1.command fun _ _ _ h2 => h2.loopInject

theorem Chip.Sound.execTableLoad {j : Fin 4096} (h : s.chip.Sound) : Keeps (execTableLoad dt j s) :=
  h.runAll fun _ _ h1 => h1.command fun _ _ _ h2 => h2.tableLoad

theorem Chip.Sound.execEmitterCalibrate {j : Fin 4096} (h : s.chip.Sound) : Keeps (execEmitterCalibrate dt j s) :=
  h.runAll fun _ _ h1 => h1.command fun _ _ _ h2 => h2.emitterCalibrate

theorem Chip.Sound.execSeamMeasure {j : Fin 4096} {mem : HostImg} (h : s.chip.Sound) : Keeps (execSeamMeasure dt j mem s) :=
  h.runAll fun _ _ h1 => h1.commandMem fun _ _ _ h2 => h2.seamMeasure

theorem Chip.Sound.execMarkStrip {j : Fin 4096} {mem : HostImg} (h : s.chip.Sound) : Keeps (execMarkStrip dt j mem s) :=
  h.runAll fun _ _ h1 => h1.commandMem fun _ _ _ h2 => h2.markStrip

theorem Chip.Sound.execCapture {j : Fin 4096} (h : s.chip.Sound) : Keeps (execCapture dt j s) :=
  h.runAll fun _ _ h1 => h1.command fun _ _ _ h2 => h2.captureCommand

theorem Chip.Sound.execCompress {j : Fin 4096} {mem : HostImg} (h : s.chip.Sound) : Keeps (execCompress dt j mem s) :=
  h.runAll fun _ _ h1 => h1.commandMem fun _ _ _ h2 => h2.compress

theorem Chip.Sound.execDecompressCheck {j : Fin 4096} {mem : HostImg} (h : s.chip.Sound) : Keeps (execDecompressCheck dt j mem s) :=
  h.runAll fun _ _ h1 => h1.commandMem fun _ _ _ h2 => h2.decompress

theorem Chip.Sound.execRecorder {j : Fin 4096} (h : s.chip.Sound) : Keeps (execRecorder dt j s) :=
  h.runAll fun _ _ h1 => h1.command fun _ _ _ h2 => h2.recorder

theorem Chip.Sound.execFence {j : Fin 4096} (h : s.chip.Sound) : Keeps (execFence dt j s) :=
  h.runAll fun _ _ h1 => h1.command fun _ _ _ h2 => h2.fence

theorem Chip.Sound.execQuery {j : Fin 4096} {mem : HostImg} (h : s.chip.Sound) : Keeps (execQuery dt j mem s) :=
  h.runAll fun _ _ h1 => h1.commandMem fun _ _ _ h2 => h2.query

theorem Chip.Sound.execVbackFailed (h : s.chip.Sound) : Keeps (execVbackFailed dt s) :=
  h.runAll fun _ _ h1 => h1.vbackFailed

theorem Chip.Sound.execSramCorrectableError {mem : SramMem} (h : s.chip.Sound) : Keeps (execSramCorrectableError dt mem s) :=
  h.runAll fun _ _ h1 => h1.sramCorrectable

theorem Chip.Sound.execRomParity (h : s.chip.Sound) : Keeps (execRomParity dt s) :=
  h.runAll fun _ _ h1 => h1.romParityError

theorem Chip.Sound.execReorderWindowEnd (h : s.chip.Sound) : Keeps (execReorderWindowEnd dt s) :=
  h.runMergeAll fun _ _ h1 => h1.logRecords

theorem Chip.Sound.execWellheadSensorRead {temp : BitVec 16} (h : s.chip.Sound) : Keeps (execWellheadSensorRead dt temp s) :=
  h.wellheadRead.next

theorem Chip.Sound.execLscanSyncTimeout (h : s.chip.Sound) : Keeps (execLscanSyncTimeout dt s) :=
  h.runAll fun _ _ h1 => h1.clocked fun _ _ h2 => h2.lscanSyncTimeout

theorem Chip.Sound.execTapInstruction {tap : TapInstr} {levels tdi : List Bool} (h : s.chip.Sound) :
    Keeps (execTapInstruction dt tap levels tdi s) :=
  h.run (fun _ _ h1 => h1.tapInstruction.tapScan)

end

/-- Every command keeps a chip sound. -/
theorem Chip.Sound.exec {s : State} (i : Instr) (h : s.chip.Sound) : Keeps (exec i s) := by
  cases i with
  | coldStart => exact .execColdStart
  | powerOnReset => exact h.execPowerOnReset
  | brownOut => exact h.execBrownOut
  | engineReset => exact h.execEngineReset
  | partitionReset => exact h.execPartitionReset
  | portReset => exact h.execPortReset
  | hostPortReset => exact h.execHostPortReset
  | portDown => exact h.execPortDown
  | portReturn => exact h.execPortReturn
  | registerWrite => exact h.execRegisterWrite
  | bitAliasWrite => exact h.execBitAliasWrite
  | maskedWrite => exact h.execMaskedWrite
  | sqClearWrite => exact h.execSqClearWrite
  | guardFirstWrite => exact h.execGuardFirstWrite
  | guardedPairWrite => exact h.execGuardedPairWrite
  | guardTimeout => exact h.execGuardTimeout
  | partOwnerWrite => exact h.execPartOwnerWrite
  | wakeRegisterWrite => exact h.execWakeRegisterWrite
  | i2cWake => exact h.execI2cWake
  | tableWindowWrite => exact h.execTableWindowWrite
  | tableCopyDone => exact h.execTableCopyDone
  | partitionAttach => exact h.execPartitionAttach
  | xlatRootApply => exact h.execXlatRootApply
  | xlatInvalidate => exact h.execXlatInvalidate
  | xlatInvalidateDone => exact h.execXlatInvalidateDone
  | tileEnableWrite => exact h.execTileEnableWrite
  | hvRearm => exact h.execHvRearm
  | ilkClear => exact h.execIlkClear
  | sumpTrig => exact h.execSumpTrig
  | sumpRdWrite => exact h.execSumpRdWrite
  | muleEnableWrite => exact h.execMuleEnableWrite
  | muleProfileWrite => exact h.execMuleProfileWrite
  | slotEnableWrite => exact h.execSlotEnableWrite
  | doorbellPoll => exact h.execDoorbellPoll
  | doorbellBlockReceived => exact h.execDoorbellBlockReceived
  | entryFetchComplete => exact h.execEntryFetchComplete
  | heldRecordDelivery => exact h.execHeldRecordDelivery
  | modTimeExpiry => exact h.execModTimeExpiry
  | barrierReadComplete => exact h.execBarrierReadComplete
  | dmaBurstGrant => exact h.execDmaBurstGrant
  | dmaBurstComplete => exact h.execDmaBurstComplete
  | imageBurstRetry => exact h.execImageBurstRetry
  | wake => exact h.execWake
  | sleep => exact h.execSleep
  | prime => exact h.execPrime
  | primeComplete => exact h.execPrimeComplete
  | primeTimeout => exact h.execPrimeTimeout
  | idle => exact h.execIdle
  | safeStop => exact h.execSafeStop
  | replay => exact h.execReplay
  | idleAfterReplay => exact h.execIdleAfterReplay
  | txnBegin => exact h.execTxnBegin
  | txnWrite => exact h.execTxnWrite
  | txnCommit => exact h.execTxnCommit
  | txnRollback => exact h.execTxnRollback
  | txnAtTimeTrigger dt p => exact h.execTxnAtTimeTrigger (p := p)
  | pageArm => exact h.execPageArm
  | chainStart => exact h.execChainStart
  | chainEnd => exact h.execChainEnd
  | pageCancel => exact h.execPageCancel
  | pageAbort => exact h.execPageAbort
  | pageStart => exact h.execPageStart
  | chainClose => exact h.execChainClose
  | pageEnd => exact h.execPageEnd
  | siphonBandDecode => exact h.execSiphonBandDecode
  | sweepPlan => exact h.execSweepPlan
  | trimRefine => exact h.execTrimRefine
  | bdStamp => exact h.execBdStamp
  | mirrorSense => exact h.execMirrorSense
  | monitorPd => exact h.execMonitorPd
  | headStatus => exact h.execHeadStatus
  | headTemp => exact h.execHeadTemp
  | ack => exact h.execAck
  | uplinkFrame => exact h.execUplinkFrame
  | retxTimeout => exact h.execRetxTimeout
  | epochMark => exact h.execEpochMark
  | echoMark => exact h.execEchoMark
  | uplinkBlockLock => exact h.execUplinkBlockLock
  | linkFail => exact h.execLinkFail
  | linkRetrain => exact h.execLinkRetrain
  | trainTimeout => exact h.execTrainTimeout
  | bankLoadTimeout => exact h.execBankLoadTimeout
  | killRepeat => exact h.execKillRepeat
  | dllLockLost => exact h.execDllLockLost
  | dllLockRestored => exact h.execDllLockRestored
  | refClockLost => exact h.execRefClockLost
  | refRestored => exact h.execRefRestored
  | mirrorStart => exact h.execMirrorStart
  | mirrorAmplStep => exact h.execMirrorAmplStep
  | bdLockTimeout => exact h.execBdLockTimeout
  | mirrorRetry => exact h.execMirrorRetry
  | calibrationComplete => exact h.execCalibrationComplete
  | lscanTrigger => exact h.execLscanTrigger
  | lscanLine => exact h.execLscanLine
  | seamHeldCommit => exact h.execSeamHeldCommit
  | lscanLineTimeout => exact h.execLscanLineTimeout
  | lscanDllBypass => exact h.execLscanDllBypass
  | lscanDllLock => exact h.execLscanDllLock
  | carrierPeak => exact h.execCarrierPeak
  | shuntSample => exact h.execShuntSample
  | gateFault => exact h.execGateFault
  | offsetCalEnd => exact h.execOffsetCalEnd
  | hallEdge => exact h.execHallEdge
  | hallLost => exact h.execHallLost
  | lockedRotor => exact h.execLockedRotor
  | observerFail => exact h.execObserverFail
  | catchFail => exact h.execCatchFail
  | brakeEnd => exact h.execBrakeEnd
  | encoderCount => exact h.execEncoderCount
  | slipRunEnd => exact h.execSlipRunEnd
  | indexEdge => exact h.execIndexEdge
  | standstill => exact h.execStandstill
  | speedUpdate => exact h.execSpeedUpdate
  | hallInvalidRunEnd => exact h.execHallInvalidRunEnd
  | bissFrameStart => exact h.execBissFrameStart
  | bissFrameEnd => exact h.execBissFrameEnd
  | coilBusFrame => exact h.execCoilBusFrame
  | muleStep => exact h.execMuleStep
  | muleSwitch => exact h.execMuleSwitch
  | holdDelay => exact h.execHoldDelay
  | slotSample => exact h.execSlotSample
  | overrunRunEnd => exact h.execOverrunRunEnd
  | slowAdcConversion => exact h.execSlowAdcConversion
  | hvFeedbackConversion => exact h.execHvFeedbackConversion
  | hvEnergyBin => exact h.execHvEnergyBin
  | mainsZeroCrossing => exact h.execMainsZeroCrossing
  | zcLost => exact h.execZcLost
  | followUpdate => exact h.execFollowUpdate
  | followRunEnd => exact h.execFollowRunEnd
  | rcMasterCopy => exact h.execRcMasterCopy
  | ilkOpen => exact h.execIlkOpen
  | ilkClose => exact h.execIlkClose
  | ilkDiscrepancy => exact h.execIlkDiscrepancy
  | mainLoss => exact h.execMainLoss
  | vbackSwitchover => exact h.execVbackSwitchover
  | mainReturn => exact h.execMainReturn
  | holdupEnd => exact h.execHoldupEnd
  | dischargeCheck => exact h.execDischargeCheck
  | stopSequenceFinished => exact h.execStopSequenceFinished
  | vbackLow => exact h.execVbackLow
  | dieTempRead => exact h.execDieTempRead
  | startUpComplete => exact h.execStartUpComplete
  | wakeRebuildDone => exact h.execWakeRebuildDone
  | lockstepMismatch => exact h.execLockstepMismatch
  | standbySelfTestEnd => exact h.execStandbySelfTestEnd
  | sramUncorrectable => exact h.execSramUncorrectable
  | segmentClose => exact h.execSegmentClose
  | segmentStream => exact h.execSegmentStream
  | snapshotTimer => exact h.execSnapshotTimer
  | postTriggerEnd => exact h.execPostTriggerEnd
  | axisMove => exact h.execAxisMove
  | axisJog => exact h.execAxisJog
  | axisHome => exact h.execAxisHome
  | loopConfig => exact h.execLoopConfig
  | loopInject => exact h.execLoopInject
  | tableLoad => exact h.execTableLoad
  | emitterCalibrate => exact h.execEmitterCalibrate
  | seamMeasure => exact h.execSeamMeasure
  | markStrip => exact h.execMarkStrip
  | capture => exact h.execCapture
  | compress => exact h.execCompress
  | decompressCheck => exact h.execDecompressCheck
  | recorder => exact h.execRecorder
  | fence => exact h.execFence
  | query => exact h.execQuery
  | vbackFailed => exact h.execVbackFailed
  | sramCorrectableError => exact h.execSramCorrectableError
  | romParity => exact h.execRomParity
  | reorderWindowEnd => exact h.execReorderWindowEnd
  | wellheadSensorRead => exact h.execWellheadSensorRead
  | lscanSyncTimeout => exact h.execLscanSyncTimeout
  | tapInstruction => exact h.execTapInstruction

/-- Settles O4: a step answers the state itself or runs the front command, and every command keeps a chip sound. -/
theorem soundKept : Obligations.SoundKept := by
  unfold Obligations.SoundKept
  intro s t hs ht
  rw [Chip.sound_iff] at hs ⊢
  unfold step at ht
  split at ht
  · cases ht
    exact hs
  next i rest _ => exact Chip.Sound.exec (s := { s with pending := rest }) i hs t ht

end Sys2Proof.Machine
end

section
/-! SUPPORT. What an operation that writes registers leaves as it is, and the next state of a command that leaves nothing to be done: the layer under the settlements of the register window and of transactions. -/

namespace Sys2Proof.Machine
open Sys2Proof

/-! ### Operations that write registers -/

/-- Between two chips no register but those of a list changed, the register file stayed canonical, and the units that carry on long work are as they were. -/
structure Chip.Within (c : Chip) (l : List Nat) (c' : Chip) : Prop where
  regs : c.regsBut c' l
  wf : Sparse.wf RegMap.resetOf c.regs = true → Sparse.wf RegMap.resetOf c'.regs = true
  eng : c'.eng = c.eng
  pages : c'.pages = c.pages
  dma : c'.dma = c.dma
  safety : c'.safety = c.safety

namespace Chip.Within

variable {c c' c'' : Chip} {l l' : List Nat}

theorem refl (c : Chip) (l : List Nat) : c.Within l c := ⟨fun _ _ => rfl, id, rfl, rfl, rfl, rfl⟩

theorem trans (h : c.Within l c') (h' : c'.Within l c'') : c.Within l c'' :=
  ⟨fun off ho => (h'.regs off ho).trans (h.regs off ho), h'.wf ∘ h.wf, h'.eng.trans h.eng, h'.pages.trans h.pages, h'.dma.trans h.dma,
    h'.safety.trans h.safety⟩

theorem mono (h : c.Within l c') (hl : l ⊆ l') : c.Within l' c' := { h with regs := fun off ho => h.regs off fun hm => ho (hl hm) }

/-- A change outside the register file and the units that carry on long work. -/
theorem same (h : c.Within l c') (hr : c''.regs = c'.regs := by rfl) (he : c''.eng = c'.eng := by rfl) (hp : c''.pages = c'.pages := by rfl)
    (hd : c''.dma = c'.dma := by rfl) (hs : c''.safety = c'.safety := by rfl) : c.Within l c'' :=
  h.trans ⟨fun off _ => Chip.reg_of_regs hr off, fun hw => hr ▸ hw, he, hp, hd, hs⟩

theorem setReg {off : Nat} {v : Word} (h : c.Within l c') (hm : off ∈ l) : c.Within l (c'.setReg off v) :=
  h.trans ⟨fun _ ho => Chip.reg_setReg_other fun he => ho (he ▸ hm), Chip.wf_setReg, rfl, rfl, rfl, rfl⟩

theorem setFld {f : BitField} {v : Nat} (h : c.Within l c') (hm : f.off ∈ l) : c.Within l (c'.setFld f v) := h.setReg hm

theorem setFlag {f : BitField} {b : Bool} (h : c.Within l c') (hm : f.off ∈ l) : c.Within l (c'.setFlag f b) := h.setReg hm

theorem setPair {lo hi v : Nat} (h : c.Within l c') (hlo : lo ∈ l) (hhi : hi ∈ l) : c.Within l (c'.setPair lo hi v) :=
  (h.setReg hlo).setReg hhi

theorem raise {ev : Nat × Nat} (h : c.Within l c') (hm : ev.1 ∈ l) : c.Within l (c'.raise ev) := by
  unfold Chip.raise
  dsimp only
  split
  · exact h.setReg hm
  · exact (h.setReg hm).same

theorem each {α : Type} {xs : List α} {f : α → Chip → Chip} (h : c.Within l c') (hf : ∀ x ∈ xs, ∀ d, c.Within l d → c.Within l (f x d)) :
    c.Within l (c'.each xs f) := by
  unfold Chip.each
  induction xs generalizing c' with
  | nil => exact h
  | cons x xs ih => exact ih (hf x (List.mem_cons_self ..) c' h) fun y hy => hf y (List.mem_cons_of_mem _ hy)

theorem reg (h : c.Within l c') {off : Nat} (ho : off ∉ l) : c'.reg off = c.reg off := h.regs off ho

theorem fld (h : c.Within l c') {f : BitField} (ho : f.off ∉ l) : c'.fld f = c.fld f := by
  unfold Chip.fld
  rw [h.reg ho]

theorem flag (h : c.Within l c') {f : BitField} (ho : f.off ∉ l) : c'.flag f = c.flag f := by
  unfold Chip.flag
  rw [h.fld ho]

end Chip.Within

/-- Actions that each leave a chip as it is leave it so one after the other. -/
theorem foldl_fixed {α β : Type} {xs : List α} {f : β → α → β} {b : β} (h : ∀ x ∈ xs, f b x = b) : xs.foldl f b = b := by
  induction xs with
  | nil => rfl
  | cons x xs ih =>
    rw [List.foldl_cons, h x (List.mem_cons_self ..)]
    exact ih fun y hy => h y (List.mem_cons_of_mem _ hy)

theorem Chip.each_fixed {α : Type} {c : Chip} {xs : List α} {f : α → Chip → Chip} (h : ∀ x ∈ xs, f x c = c) : c.each xs f = c :=
  foldl_fixed h

/-! ### A chip in which a command leaves nothing to be done -/

/-- Beside the transaction unit nothing of the chip waits to happen: no calibration, PRIME, start-up, SLEEP or thermal stop is under way, no page, no image or service channel is at work, and the hold-up supply is off. -/
structure Chip.Rested (c : Chip) : Prop where
  calJobs : c.eng.calJobs = []
  prime : c.eng.prime = none
  starting : c.eng.starting = false
  sleepFor : c.eng.sleepFor = none
  blanking : c.safety.blanking = none
  pages : c.pages = []
  img : ∀ k < 8, (c.img k).page = none
  holdup : c.flag Fld.POWER_STATUS_HOLDUP = false
  service : c.noService = true

theorem Chip.Rested.of_within {c c' : Chip} {l : List Nat} (h : c.Rested) (hw : c.Within l c') (hl : Reg.POWER_STATUS ∉ l) : c'.Rested where
  calJobs := by rw [hw.eng, h.calJobs]
  prime := by rw [hw.eng, h.prime]
  starting := by rw [hw.eng, h.starting]
  sleepFor := by rw [hw.eng, h.sleepFor]
  blanking := by rw [hw.safety, h.blanking]
  pages := by rw [hw.pages, h.pages]
  img k hk := by
    have := h.img k hk
    unfold Chip.img at this ⊢
    rwa [hw.dma]
  holdup := by rw [hw.flag hl, h.holdup]
  service := by
    have := h.service
    unfold Chip.noService at this ⊢
    rwa [hw.dma]

/-- The chip once the effects of what has switched in this command are done. -/
def Chip.cleared (c : Chip) : Chip := { c with txn := { c.txn with touched := [], switched := [] } }

theorem Chip.cleared_of_nil {c : Chip} (ht : c.txn.touched = []) (hs : c.txn.switched = []) : c.cleared = c := by
  unfold Chip.cleared
  conv_rhs => rw [show c = { c with txn := { c.txn with touched := c.txn.touched, switched := c.txn.switched } } from rfl]
  rw [ht, hs]

theorem Chip.Within.cleared {c c' : Chip} {l : List Nat} (h : c.Within l c') : c.Within l c'.cleared := h.same

section
variable {c : Chip} {now : Nat}

/-- Without a fired commit no unit has a safe point to catch up with. -/
theorem Chip.catchUp_of_unfired (h : c.commits.filter (·.fired) = []) : c.catchUp now = c := by
  unfold Chip.catchUp
  rw [h]
  rfl

theorem Chip.feedChannels_of_idle (hp : c.pages = []) (hi : ∀ k < 8, (c.img k).page = none) : c.feedChannels = c :=
  Chip.each_fixed fun k hk => by simp [Chip.feedChannel, hi k (List.mem_range.1 hk), Chip.running, hp]

theorem Chip.passM0_of_started (h : c.eng.starting = false) : c.passM0 now = c := by
  have hc : c.checkM0 now = c := by simp [Chip.checkM0, h]
  cases hm : c.eng.m0 with
  | none => simp [Chip.passM0, hc, hm]
  | some t => simp [Chip.passM0, hc, hm]

/-- What a command leaves to be done in a rested chip with no fired commit is the effects of the registers that switched, here where they have none. -/
theorem settle_of_rested {m : Merge} (hc : c.commits.filter (·.fired) = []) (hs : c.txn.switched = [])
    (he : ∀ e ∈ c.txn.touched, regEffect now none e.1 e.2 (m, c.cleared) = (m, c.cleared)) (hr : c.cleared.Rested) :
    settle now (m, c) = (m, c.cleared) := by
  have hd : c.cleared.dropDown now = c.cleared := by simp [Chip.dropDown, hr.calJobs]
  have hp : c.cleared.primeStep now = c.cleared := by simp [Chip.primeStep, hr.prime]
  have hl : c.cleared.logCuts now = c.cleared := by simp [Chip.logCuts, hr.pages]
  have hf := Chip.feedChannels_of_idle hr.pages hr.img
  have hh : c.cleared.holdOff now = c.cleared := by simp [Chip.holdOff, hr.holdup]
  obtain ⟨hv, hw⟩ := Chip.service_of_none hr.service
  have hb : c.cleared.blankedStop now = c.cleared := by simp [Chip.blankedStop, hr.blanking]
  have hm : c.cleared.passM0 now = c.cleared := Chip.passM0_of_started hr.starting
  have ht : c.cleared.trySleep now m = c.cleared := by simp [Chip.trySleep, hr.sleepFor]
  have hs' : settle now (m, c) =
      let x := c.txn.touched.foldl (fun (x : Merge × Chip) e => regEffect now none e.1 e.2 x) (m, c.cleared)
      let d := ((((x.2.dropDown now).primeStep now).logCuts now).feedChannels.holdOff now).freeDecided.reseat
      (x.1, ((d.blankedStop now).passM0 now).trySleep now x.1) := by
    simp only [settle, Chip.catchUp_of_unfired hc, hs, List.foldl_nil]
    rfl
  rw [hs', foldl_fixed he]
  simp only [hd, hp, hl, hf, hh, hv, hw, hb, hm, ht]

end

/-- A chip whose next command finds nothing but itself: it serves, nothing beside the transaction unit waits, the recorder is stopped, the register file is canonical and the fast clocks run. -/
structure Chip.Ready (c : Chip) : Prop where
  serving : c.serving = true
  rested : c.Rested
  stopped : c.fld Fld.SUMP_STATUS_STATE = 0
  wf : Sparse.wf RegMap.resetOf c.regs = true
  fast : c.fast = true

theorem Chip.Ready.of_quiet {c : Chip} (h : c.quiet = true) : c.Ready := by
  obtain ⟨hv, hs, hst, hf, hr, hn⟩ := Chip.quiet_iff.1 h
  obtain ⟨-, -, -, h4, h5, h6, h7, h8⟩ := Chip.calm_iff.1 (Chip.calm_of_still hst)
  simp only [Chip.still, Bool.and_eq_true, List.isEmpty_iff, Bool.not_eq_true', List.all_eq_true, List.mem_range,
    Option.isNone_iff_eq_none] at hst
  obtain ⟨⟨⟨-, hp⟩, hi⟩, hh⟩ := hst
  exact ⟨hv, ⟨h4, h5, h6, h7, h8, hp, hi, hh, hn⟩, hr, Chip.wf_of_sound hs, hf⟩

/-- An unhurried chip without a calibration and outside PRIME. -/
theorem Chip.Ready.of_unhurried {c : Chip} (h : c.unhurried = true) (hc : c.eng.calJobs = []) (hp : c.eng.prime = none) : c.Ready := by
  simp only [Chip.unhurried, Bool.and_eq_true, List.isEmpty_iff, Bool.not_eq_true', List.all_eq_true, List.mem_range,
    Option.isNone_iff_eq_none, decide_eq_true_eq] at h
  obtain ⟨⟨⟨⟨⟨⟨⟨⟨⟨⟨hv, hn⟩, hs⟩, hf⟩, hr⟩, h6⟩, h7⟩, h8⟩, hpg⟩, hi⟩, hh⟩ := h
  exact ⟨hv, ⟨hc, hp, h6, h7, h8, hpg, hi, hh, hn⟩, hr, Chip.wf_of_sound hs, hf⟩

theorem Chip.noCommit_of_quiet {c : Chip} (h : c.quiet = true) : c.noCommit = true := by
  obtain ⟨h1, h2, h3, -⟩ := Chip.calm_iff.1 (Chip.calm_of_still (Chip.quiet_iff.1 h).2.2.1)
  simp [Chip.noCommit, h1, h2, h3]

theorem Chip.noCommit_iff {c : Chip} : c.noCommit = true ↔ c.txn.commits = [] ∧ c.txn.touched = [] ∧ c.txn.switched = [] := by
  simp [Chip.noCommit, and_assoc]

theorem Chip.noCommit_of_txn {c c' : Chip} (h : c'.txn = c.txn) (hn : c.noCommit = true) : c'.noCommit = true := by
  rw [Chip.noCommit, h]
  exact hn

theorem Chip.Ready.fresh {c : Chip} (h : c.Ready) : c.fresh.Ready :=
  ⟨h.serving, h.rested.of_within (l := []) ((Chip.Within.refl c []).same) (by simp), h.stopped, h.wf, h.fast⟩

/-- While the fast clocks run the chip is neither in SLEEP nor held in reset (R24). -/
theorem Chip.awake_of_fast {c : Chip} (h : c.fast = true) : c.state ≠ St.sleep ∧ c.eng.down = false := by
  simpa [Chip.fast] using h

/-! ### The next state of a command -/

section
variable {dt : Nat} {s : State} {c : Chip}

/-- The next state of a command whose effect, with what it leaves to be done, is a chip with the recorder stopped. -/
theorem runAll_chip {f : Ctx → Chip → Chip} {m : Merge} (hv : s.chip.serving = true)
    (hc : settle (s.at_ dt) (s.merge, f (s.ctx dt) s.chip.fresh) = (m, c)) (h0 : c.fld Fld.SUMP_STATUS_STATE = 0) :
    ∃ t, runAll dt f s = .next t ∧ t.chip = c := by
  refine ⟨_, rfl, ?_⟩
  unfold State.ctx State.at_ at hc
  simp only [State.timedMerge, State.opened_of_serving hv, hc]
  exact publish_idle h0

/-- The same for a write of the register window while the fast clocks run. -/
theorem runWrite_chip {q : Port} {off be : Nat} {v : Word} {m : Merge} (hv : s.chip.serving = true) (hf : s.chip.fast = true)
    (hc : settle (s.at_ dt) (busWrite (s.at_ dt) q off v be (s.merge, s.chip.fresh)) = (m, c)) (h0 : c.fld Fld.SUMP_STATUS_STATE = 0) :
    ∃ t, runWrite dt q off v be s = .next t ∧ t.chip = c := by
  refine ⟨_, rfl, ?_⟩
  unfold State.at_ at hc
  simp only [State.restarted, State.opened_of_serving hv, hf, Bool.true_eq_false, and_false, if_false, hc]
  exact publish_idle h0

/-- The same for two writes at one instant. -/
theorem runWrite8_chip {q : Port} {off : Nat} {lo hi : Word × Nat} {m : Merge} (hv : s.chip.serving = true) (hf : s.chip.fast = true)
    (hc : settle (s.at_ dt) (busWrite (s.at_ dt) q (off + 4) hi.1 hi.2 (busWrite (s.at_ dt) q off lo.1 lo.2 (s.merge, s.chip.fresh))) = (m, c))
    (h0 : c.fld Fld.SUMP_STATUS_STATE = 0) : ∃ t, runWrite8 dt q off lo hi s = .next t ∧ t.chip = c := by
  refine ⟨_, rfl, ?_⟩
  unfold State.at_ at hc
  simp only [State.restarted, State.opened_of_serving hv, hf, Bool.true_eq_false, and_false, if_false, hc]
  exact publish_idle h0

variable {l : List Nat}

/-- Nothing is left to be done after an effect on some registers that leaves no commit. -/
theorem settle_within {now : Nat} {m : Merge} (hr : s.chip.Ready) (hw : s.chip.fresh.Within l c) (hn : c.noCommit = true)
    (hl : Reg.POWER_STATUS ∉ l) : settle now (m, c) = (m, c) := by
  obtain ⟨h1, h2, h3⟩ := Chip.noCommit_iff.1 hn
  have hc := Chip.cleared_of_nil h2 h3
  have := settle_of_rested (c := c) (now := now) (m := m) (by simp [Chip.commits, h1]) h3 (by simp [h2])
    (hc.symm ▸ hr.fresh.rested.of_within hw hl)
  rwa [hc] at this

theorem Chip.Ready.stopped_within (hr : s.chip.Ready) (hw : s.chip.fresh.Within l c) (hl : Reg.SUMP_STATUS ∉ l) :
    c.fld Fld.SUMP_STATUS_STATE = 0 := (hw.fld hl).trans hr.stopped

/-- The next state of a command that writes some registers and leaves no commit: its own effect. -/
theorem runAll_within {f : Ctx → Chip → Chip} (hr : s.chip.Ready) (hc : f (s.ctx dt) s.chip.fresh = c) (hw : s.chip.fresh.Within l c)
    (hn : c.noCommit = true) (hl : Reg.POWER_STATUS ∉ l ∧ Reg.SUMP_STATUS ∉ l) : ∃ t, runAll dt f s = .next t ∧ t.chip = c :=
  runAll_chip hr.serving (by rw [hc]; exact settle_within hr hw hn hl.1) (hr.stopped_within hw hl.2)

/-- The same for a write of the register window. -/
theorem runWrite_within {q : Port} {off be : Nat} {v : Word} (hr : s.chip.Ready)
    (hc : busWrite (s.at_ dt) q off v be (s.merge, s.chip.fresh) = (s.merge, c)) (hw : s.chip.fresh.Within l c)
    (hn : c.noCommit = true) (hl : Reg.POWER_STATUS ∉ l ∧ Reg.SUMP_STATUS ∉ l) : ∃ t, runWrite dt q off v be s = .next t ∧ t.chip = c :=
  runWrite_chip hr.serving hr.fast (by rw [hc]; exact settle_within hr hw hn hl.1) (hr.stopped_within hw hl.2)

end

end Sys2Proof.Machine
end

section
/-! SUPPORT. Words bit by bit, where the registers of the map lie, and what a captured fault leaves in the ERR registers. -/

namespace Sys2Proof.Machine
open Sys2Proof

/-! ### Words bit by bit -/

theorem bit_eq_testBit (n i : Nat) : bit n i = n.testBit i := by
  rw [bit, Nat.testBit_eq_decide_div_mod_eq]
  rfl

theorem testBit_bits (n hi lo k : Nat) : (bits n hi lo).testBit k = (decide (k < hi + 1 - lo) && n.testBit (lo + k)) := by
  rw [bits, Nat.testBit_mod_two_pow, Nat.testBit_div_two_pow, Nat.add_comm k lo]

theorem testBit_putBits {n hi lo v : Nat} (h : lo ≤ hi) (k : Nat) :
    (putBits n hi lo v).testBit k = if lo ≤ k ∧ k ≤ hi then v.testBit (k - lo) else n.testBit k := by
  have hp : 2 ^ (hi + 1) = 2 ^ lo * 2 ^ (hi + 1 - lo) := by rw [← pow_add]; congr 1; omega
  have hsum : putBits n hi lo v = 2 ^ lo * (2 ^ (hi + 1 - lo) * (n / 2 ^ (hi + 1)) + v % 2 ^ (hi + 1 - lo)) + n % 2 ^ lo := by
    simp only [putBits, hp]
    ring
  rw [hsum, Nat.testBit_two_pow_mul_add _ (Nat.mod_lt _ (by positivity)), Nat.testBit_two_pow_mul_add _ (Nat.mod_lt _ (by positivity)),
    Nat.testBit_mod_two_pow, Nat.testBit_mod_two_pow, Nat.testBit_div_two_pow]
  by_cases h1 : k < lo
  · simp [h1, Nat.not_le.2 h1]
  · by_cases h2 : k ≤ hi
    · simp [h1, Nat.not_lt.1 h1, h2, show k - lo < hi + 1 - lo by omega]
    · simp [h1, h2, show ¬ k - lo < hi + 1 - lo by omega, show k - lo - (hi + 1 - lo) + (hi + 1) = k by omega]

/-- A word given to a register bit by bit, its bits as a number. -/
theorem toNat_ofNat_putBits (w : Word) {hi lo v : Nat} (h : lo ≤ hi) (hh : hi < 32) :
    (BitVec.ofNat 32 (putBits w.toNat hi lo v)).toNat = putBits w.toNat hi lo v := by
  rw [BitVec.toNat_ofNat, Nat.mod_eq_of_lt (putBits_lt h hh w.isLt)]

/-! ### Events -/

/-- An event that is raised shows in its bit (R48). -/
theorem Chip.bit_raise {c : Chip} {ev : Nat × Nat} (hw : Sparse.wf RegMap.resetOf c.regs = true) (h : ev.2 < 23) :
    bit ((c.raise ev).reg ev.1).toNat ev.2 = true := by
  have hb := (c.reg ev.1).isLt
  have h1 (w : Nat) : (putBits w ev.2 ev.2 1).testBit ev.2 = true := by simp [testBit_putBits]
  have h2 (w v : Nat) : (putBits (putBits w ev.2 ev.2 1) 31 24 v).testBit ev.2 = true := by
    rw [testBit_putBits (by omega), if_neg (by omega), h1]
  have h3 (w v : Nat) : (putBits (putBits (putBits w ev.2 ev.2 1) 31 24 v) 23 23 1).testBit ev.2 = true := by
    rw [testBit_putBits (by omega), if_neg (by omega), h2]
  have hm (n : Nat) (ht : n.testBit ev.2 = true) : bit (BitVec.ofNat 32 n).toNat ev.2 = true := by
    rw [bit_eq_testBit, BitVec.toNat_ofNat, Nat.testBit_mod_two_pow, ht]
    simp [show ev.2 < 32 by omega]
  unfold Chip.raise
  dsimp only
  split
  · rw [Chip.reg_setReg_same hw]
    exact hm _ (h1 _)
  · rw [show ∀ v n, ((c.setReg ev.1 v).setSqSeen ev.1 n).reg ev.1 = (c.setReg ev.1 v).reg ev.1 from fun _ _ => rfl, Chip.reg_setReg_same hw]
    split
    · exact hm _ (h3 _ _)
    · exact hm _ (h2 _ _)

/-! ### Captured faults -/

/-- The ERR registers of the GLOBAL block (R53). -/
def errRegs : List Nat :=
  [Reg.GLOBAL_ERR_EVENT, Reg.GLOBAL_ERR_FIRST_ADDR, Reg.GLOBAL_ERR_FIRST_INFO, Reg.GLOBAL_ERR_LAST_ADDR, Reg.GLOBAL_ERR_LAST_INFO]

theorem errRegs_apart : Reg.POWER_STATUS ∉ errRegs ∧ Reg.SUMP_STATUS ∉ errRegs := by decide

section
variable (c : Chip) (kind addr part port cause : Nat) (table : Bool)

theorem Chip.within_errFault : c.Within errRegs (c.errFault kind addr part port cause table) := by
  have h : c.Within errRegs (c.raise (Reg.GLOBAL_ERR_EVENT, kind)) := (Chip.Within.refl c _).raise (by simp [errRegs])
  unfold Chip.errFault
  dsimp only
  split
  · exact (((h.setReg (by simp [errRegs])).setReg (by simp [errRegs])).setReg (by simp [errRegs])).setReg (by simp [errRegs])
  · exact (h.setReg (by simp [errRegs])).setReg (by simp [errRegs])

/-- A captured fault changes registers and their event counts alone. -/
theorem Chip.sumpOnly_errFault : c.sumpOnly (c.errFault kind addr part port cause table) := by
  unfold Chip.errFault
  dsimp only
  refine Chip.sumpOnly_trans (Chip.sumpOnly_raise c (Reg.GLOBAL_ERR_EVENT, kind)) ?_
  split
  · exact ⟨_, _, _, rfl⟩
  · exact ⟨_, _, _, rfl⟩

theorem Chip.errFault_txn : (c.errFault kind addr part port cause table).txn = c.txn := by
  obtain ⟨r, q, s, h⟩ := c.sumpOnly_errFault kind addr part port cause table
  rw [h]

variable {c kind addr part port cause table}

/-- A captured fault: its bit in ERR_EVENT, its address and its cause (R53). -/
theorem Chip.errFault_shows (hw : Sparse.wf RegMap.resetOf c.regs = true) (hk : kind < 8) (hc : cause < 8) :
    bit ((c.errFault kind addr part port cause table).reg Reg.GLOBAL_ERR_EVENT).toNat kind = true
      ∧ (c.errFault kind addr part port cause table).reg Reg.GLOBAL_ERR_LAST_ADDR = BitVec.ofNat 32 addr
      ∧ (c.errFault kind addr part port cause table).fld Fld.GLOBAL_ERR_LAST_INFO_CAUSE = cause := by
  have hb := Chip.bit_raise (c := c) (ev := (Reg.GLOBAL_ERR_EVENT, kind)) hw (by omega)
  have hr : Sparse.wf RegMap.resetOf (c.raise (Reg.GLOBAL_ERR_EVENT, kind)).regs = true :=
    ((Chip.Within.refl c [Reg.GLOBAL_ERR_EVENT]).raise (by simp)).wf hw
  have hbits (n : Nat) : bits (BitVec.ofNat 32 (errInfo kind part port cause table + satN 65535 (n + 1) * 65536)).toNat 14 12 = cause := by
    have hs : satN 65535 (n + 1) ≤ 65535 := by unfold satN; split <;> omega
    have ht : b2n table ≤ 1 := by cases table <;> decide
    rw [BitVec.toNat_ofNat, bits, errInfo]
    omega
  unfold Chip.errFault
  dsimp only
  generalize hd : (if c.fld Fld.GLOBAL_ERR_LAST_INFO_COUNT = 0 then _ else c.raise (Reg.GLOBAL_ERR_EVENT, kind)) = d
  have hdw : Sparse.wf RegMap.resetOf d.regs = true ∧ d.reg Reg.GLOBAL_ERR_EVENT = (c.raise (Reg.GLOBAL_ERR_EVENT, kind)).reg Reg.GLOBAL_ERR_EVENT := by
    rw [← hd]
    split
    · exact ⟨Chip.wf_setReg (Chip.wf_setReg hr), by rw [Chip.reg_setReg_other (by decide), Chip.reg_setReg_other (by decide)]⟩
    · exact ⟨hr, rfl⟩
  refine ⟨?_, ?_, ?_⟩
  · rw [Chip.reg_setReg_other (by decide), Chip.reg_setReg_other (by decide), hdw.2]
    exact hb
  · rw [Chip.reg_setReg_other (by decide), Chip.reg_setReg_same hdw.1]
  · unfold Chip.fld Fld.GLOBAL_ERR_LAST_INFO_CAUSE
    dsimp only
    rw [Chip.reg_setReg_same (Chip.wf_setReg hdw.1)]
    exact hbits _

end

/-! ### Where the registers of the map lie -/

/-- The register maps of the unit blocks. -/
def RegMap.blocks : List (List RegSpec) :=
  [RegMap.global, RegMap.safety, RegMap.host, RegMap.dma, RegMap.txn, RegMap.sump, RegMap.station, RegMap.tile, RegMap.drive, RegMap.feedback,
    RegMap.mule, RegMap.windlass, RegMap.seam, RegMap.codec, []]

/-- The offset distances at which the instances of a register lie, for its counts and strides. -/
def RegMap.distances : List (Nat × Nat) → List Nat
  | [] => [0]
  | (n, st) :: ds => (List.range n).flatMap fun i => (RegMap.distances ds).map fun d => i * st + d

/-- The offsets of the instances of a register. -/
def RegSpec.offsets (r : RegSpec) : List Nat := (RegMap.distances r.dims).map fun d => r.base + d

theorem RegMap.mem_distances {ds : List (Nat × Nat)} {d : Nat} {ix : List Nat} (h : RegMap.indices ds d = some ix) :
    d ∈ RegMap.distances ds := by
  induction ds generalizing d ix with
  | nil =>
    unfold RegMap.indices at h
    split at h
    · simp [RegMap.distances, *]
    · cases h
  | cons p ds ih =>
    obtain ⟨n, st⟩ := p
    unfold RegMap.indices at h
    split at h
    · rename_i hn
      obtain ⟨iy, hy, -⟩ := Option.map_eq_some_iff.1 h
      refine List.mem_flatMap.2 ⟨d / st, List.mem_range.2 hn, List.mem_map.2 ⟨d % st, ih hy, ?_⟩⟩
      rw [Nat.mul_comm, Nat.div_add_mod]
    · cases h

theorem RegMap.mem_of_findIn {o : Nat} {l : List RegSpec} {r : RegSpec} {ix : List Nat} (h : RegMap.findIn o l = some (r, ix)) :
    r ∈ l ∧ o ∈ r.offsets := by
  induction l with
  | nil => cases h
  | cons x l ih =>
    unfold RegMap.findIn at h
    split at h
    · exact (ih h).imp_left (List.mem_cons_of_mem _)
    · rename_i ho
      split at h
      · rename_i iy hx
        cases h
        exact ⟨List.mem_cons_self .., List.mem_map.2 ⟨_, RegMap.mem_distances hx, by omega⟩⟩
      · exact (ih h).imp_left (List.mem_cons_of_mem _)

theorem ite_mem_of_mem {α : Type} {p : Prop} {i : Decidable p} {a b : α} {l : List α} (ha : a ∈ l) (hb : b ∈ l) :
    (if p then a else b) ∈ l := by
  split
  · exact ha
  · exact hb

theorem RegMap.block_mem_blocks (o : Nat) : RegMap.block o ∈ RegMap.blocks := by
  unfold RegMap.block RegMap.blocks
  -- The maps' contents play no part, and comparing them would be long.
  generalize RegMap.global = l1, RegMap.safety = l2, RegMap.host = l3, RegMap.dma = l4, RegMap.txn = l5, RegMap.sump = l6,
    RegMap.station = l7, RegMap.tile = l8, RegMap.drive = l9, RegMap.feedback = l10, RegMap.mule = l11, RegMap.windlass = l12,
    RegMap.seam = l13, RegMap.codec = l14
  repeat' apply ite_mem_of_mem
  all_goals simp

/-- The register that lies at an offset is one of its block, and the offset one of its own. -/
theorem RegMap.mem_of_find {o : Nat} {r : RegSpec} {ix : List Nat} (h : RegMap.find o = some (r, ix)) : r ∈ RegMap.block o ∧ o ∈ r.offsets :=
  RegMap.mem_of_findIn h

/-- Every register lies at a multiple of 4 below the words that stand for single bits, and what follows a guarded register is no register but its second half (R39, R47). -/
theorem RegMap.blocks_placed : (RegMap.blocks.all fun l => l.all fun r => r.offsets.all fun o =>
    o % 4 == 0 && decide (o < 0x400000) && (!r.guarded || (RegMap.find (o + 4)).isNone)) = true := by decide +kernel

theorem RegMap.placed {o : Nat} {r : RegSpec} {ix : List Nat} (h : RegMap.find o = some (r, ix)) :
    o % 4 = 0 ∧ o < 0x400000 ∧ (r.guarded = true → RegMap.find (o + 4) = none) := by
  obtain ⟨hr, ho⟩ := RegMap.mem_of_find h
  have := List.all_eq_true.1 (List.all_eq_true.1 (List.all_eq_true.1 RegMap.blocks_placed _ (RegMap.block_mem_blocks o)) r hr) o ho
  simp only [Bool.and_eq_true, beq_iff_eq, decide_eq_true_eq, Bool.or_eq_true, Bool.not_eq_true', Option.isNone_iff_eq_none] at this
  obtain ⟨⟨h4, hlt⟩, hg⟩ := this
  exact ⟨h4, hlt, fun hr => hg.resolve_left (by simp [hr])⟩

end Sys2Proof.Machine
end

section
/-! SUPPORT and settlement of O40 (GuardedPairsTake): what a write of the register window comes to in an awake chip, and the guarded pairs. -/

namespace Sys2Proof.Machine
open Sys2Proof

/-! ### A write reaches its register -/

section
variable {c : Chip} {now off a : Nat} {q : Port} {v w : Word} {m : Merge} {r : RegSpec} {ix : List Nat} {p : Nat}

/-- A guarded write whose 64 us have not passed stays pending (R47). -/
theorem Chip.expireGuards_of_young {f : GuardPend → Bool} (h : ∀ g ∈ c.guards, now ≤ g.at_ + guardWindow) : c.expireGuards now f = c := by
  have hn : (c.guards.filter fun g => f g && decide (g.at_ + guardWindow < now)) = [] := by
    refine List.filter_eq_nil_iff.2 fun g hg => ?_
    simp [Nat.not_lt.2 (h g hg)]
  simp [Chip.expireGuards, hn]

theorem Chip.breakPair_of_nil (h : c.guards = []) (o k : Nat) : c.breakPair o k = c := by simp [Chip.breakPair, Chip.guardOf, h]

theorem Chip.disturb_of_nil (h : c.guards = []) (o : Nat) : c.disturb o = c := Chip.breakPair_of_nil h o 4

/-- A whole-word write to an awake chip goes to the register at its offset, or to the bit that its word stands for (R40, R44). -/
theorem busWrite_of_fast (hf : c.fast = true) (h4 : off % 4 = 0) (hg : ∀ g ∈ c.guards, now ≤ g.at_ + guardWindow) :
    busWrite now q off v 15 (m, c) = if off < aliasBase then wordWrite now q off v (m, c)
      else aliasWrite now q (targetOf off) ((off - aliasBase) % 128 / 4) v (m, c) := by
  obtain ⟨hs, hd⟩ := Chip.awake_of_fast hf
  simp [busWrite, hs, hd, h4, wakesBlock, Chip.expireGuards_of_young hg]

/-- A write by a port that may make it is taken by the register (R42). -/
theorem wordWrite_of_find (hf : RegMap.find off = some (r, ix)) (ha : c.attrib q r.priv ix = some p) :
    wordWrite now q off v (m, c) = regTake now q p off r ix v (m, c) := by simp [wordWrite, hf, ha]

theorem regTake_of_guarded (hr : r.guarded = true) : regTake now q p off r ix v (m, c) = (m, c.guardFirst now q off v) := by
  simp [regTake, hr]

/-- The second word of a guarded pair, where no register but the pair's lies (R47). -/
theorem wordWrite_second (hf : RegMap.find a = some (r, ix)) (hn : RegMap.find (a + 4) = none) (hr : r.guarded = true)
    (ha : c.attrib q r.priv ix = some p) : wordWrite now q (a + 4) w (m, c) = guardSecond now q p a r ix w (m, c) := by
  simp [wordWrite, hn, hf, hr, ha]

/-! ### The pair in a unit block -/

theorem Chip.guardOf_single {g : GuardPend} (h : c.guards = [g]) : c.guardOf g.unit = some g := by simp [Chip.guardOf, h]

/-- The chip with other pairs pending. -/
def Chip.withGuards (c : Chip) (l : List GuardPend) : Chip := { c with guards := l }

theorem Chip.dropGuard_single {g : GuardPend} (h : c.guards = [g]) : c.dropGuard g.unit = c.withGuards [] := by
  simp [Chip.dropGuard, Chip.withGuards, h]

/-- The complement in time: the register takes the word, if it acts by holding it and is not locked (R47, R50). -/
theorem guardSecond_of_complement {t0 : Nat} {q1 : Port} (hg : c.guards = [⟨unitOf a, a, v, q1, t0⟩]) (hv : guardedValueOk r v.toNat = true)
    (hb : r.base ≠ Reg.GLOBAL_RESET_CTL) (hl : c.lockedField r.base ix 0 = false) :
    guardSecond now q p a r ix (~~~v) (m, c) = (m, ((c.withGuards []).setReg a v).logConfig now a (c.reg a)) := by
  have hd := Chip.dropGuard_single hg
  have hl' : (c.withGuards []).lockedField r.base ix 0 = false := hl
  simp only [guardSecond, Chip.guardOf_single hg, if_true, hd, hv, and_self, guardTake, hb, if_false, hl']
  rfl

/-- Any other word breaks the pair (R47). -/
theorem guardSecond_of_other {t0 : Nat} {q1 : Port} (hg : c.guards = [⟨unitOf a, a, v, q1, t0⟩]) (hw : w ≠ ~~~v) :
    guardSecond now q p a r ix w (m, c) = (m, (c.withGuards []).guardFault q p a 2) := by
  have hd := Chip.dropGuard_single hg
  simp only [guardSecond, Chip.guardOf_single hg, if_true, hd, hw, false_and, if_false]

/-- The only pair is discarded once its 64 us have passed (R47). -/
theorem Chip.expireGuards_single {g : GuardPend} {f : GuardPend → Bool} (hg : c.guards = [g]) (hf : f g = true) (ht : g.at_ + guardWindow < now) :
    c.expireGuards now f = (c.guardFault g.port ((c.ownedBy g.port).headD 0) g.off 3).withGuards [] := by
  have hgs : (c.guardFault g.port ((c.ownedBy g.port).headD 0) g.off 3).guards = [g] := by
    obtain ⟨_, _, _, h⟩ := c.sumpOnly_errFault Err.guard g.off ((c.ownedBy g.port).headD 0) g.port.num 3 false
    rw [Chip.guardFault, h, hg]
  rw [← Chip.dropGuard_single hgs]
  simp [Chip.expireGuards, hg, hf, ht]

/-- With the recorder stopped a configuration change leaves no record. -/
theorem Chip.logConfig_of_stopped {old : Word} (h : c.fld Fld.SUMP_STATUS_STATE = 0) : c.logConfig now off old = c := by
  unfold Chip.logConfig
  dsimp only
  split
  · exact Chip.sumpRec_idle h _ _ _ _ _
  · rfl

end

/-- A guarded register is neither the status of the supply nor that of the recorder, and RESET_CTL lies at one offset alone. -/
theorem RegMap.guarded_apart {a : Nat} {r : RegSpec} {ix : List Nat} (hf : RegMap.find a = some (r, ix)) (hr : r.guarded = true)
    (ha : a ≠ Reg.GLOBAL_RESET_CTL) : Reg.POWER_STATUS ∉ [a] ∧ Reg.SUMP_STATUS ∉ [a] ∧ r.base ≠ Reg.GLOBAL_RESET_CTL := by
  have hs (o : Nat) (ho : (RegMap.find o).all (fun x => !x.1.guarded) = true) : o ∉ [a] := by
    rintro h
    rw [List.mem_singleton.1 h, hf] at ho
    simp [hr] at ho
  refine ⟨hs _ (by decide +kernel), hs _ (by decide +kernel), fun hb => ha ?_⟩
  have hall : (RegMap.blocks.all fun l => l.all fun r => r.base != Reg.GLOBAL_RESET_CTL || r.offsets == [Reg.GLOBAL_RESET_CTL]) = true := by
    decide +kernel
  obtain ⟨hm, ho⟩ := RegMap.mem_of_find hf
  have := List.all_eq_true.1 (List.all_eq_true.1 hall _ (RegMap.block_mem_blocks a)) r hm
  simp only [hb, bne_self_eq_false, Bool.false_or, beq_iff_eq] at this
  rw [this] at ho
  exact List.mem_singleton.1 ho

/-! ### The three commands -/

section
variable {dt : Nat} {q : Port} {s : State}

/-- The clause of GuardedPairsTake for GUARD_FIRST_WRITE. -/
theorem guardFirstWrite_acts (hq : s.chip.quiet = true) {off : BitVec 28} {v : Word} {r : RegSpec} {ix : List Nat} (ho : off.toNat < aliasBase)
    (hg : s.chip.guards = []) (hf : RegMap.find off.toNat = some (r, ix)) (hr : r.guarded = true) (ha : s.chip.attrib q r.priv ix ≠ none) :
    ∃ t, exec (.guardFirstWrite dt q off v) s = .next t ∧ s.chip.regsBut t.chip []
      ∧ t.chip.guards = [⟨unitOf off.toNat, off.toNat, v, q, s.at_ dt⟩] := by
  have hrd := Chip.Ready.of_quiet hq
  have hnc := Chip.noCommit_of_quiet hq
  obtain ⟨p, hp : s.chip.fresh.attrib q r.priv ix = some p⟩ := Option.ne_none_iff_exists'.1 ha
  replace hg : s.chip.fresh.guards = _ := hg
  have hb : busWrite (s.at_ dt) q off.toNat v 15 (s.merge, s.chip.fresh)
      = (s.merge, s.chip.fresh.withGuards [⟨unitOf off.toNat, off.toNat, v, q, s.at_ dt⟩]) := by
    rw [busWrite_of_fast hrd.fresh.fast (RegMap.placed hf).1 (by rw [hg]; simp), if_pos ho, wordWrite_of_find hf hp, regTake_of_guarded hr]
    simp only [Chip.guardFirst, Chip.secondFirst, Chip.breakPair_of_nil hg]
    rw [hg]
    rfl
  obtain ⟨t, ht, hc⟩ := runWrite_within (l := []) hrd hb ((Chip.Within.refl _ _).same) hnc (by simp)
  refine ⟨t, ht, ?_⟩
  rw [hc]
  exact ⟨fun _ _ => rfl, rfl⟩

/-- The clause of GuardedPairsTake for GUARDED_PAIR_WRITE. -/
theorem guardedPairWrite_acts (hq : s.chip.quiet = true) {a : Nat} {v : Word} (w : Word) {q1 : Port} {t0 : Nat} {r : RegSpec} {ix : List Nat}
    (hf : RegMap.find a = some (r, ix)) (hr : r.guarded = true) (hra : a ≠ Reg.GLOBAL_RESET_CTL) (hcd : r.base ≠ Reg.STATION_CEIL_DUTY 0)
    (ha : s.chip.attrib q r.priv ix ≠ none) (hl : s.chip.lockedField r.base ix 0 = false) (hg : s.chip.guards = [⟨unitOf a, a, v, q1, t0⟩])
    (ht0 : s.at_ dt ≤ t0 + 64000) (hv : v.toNat &&& (2 ^ 32 - 1 - r.fieldMask) = 0) :
    ∃ t, exec (.guardedPairWrite dt q (BitVec.ofNat 28 (a + 4)) w) s = .next t ∧ t.chip.guards = []
      ∧ (w = ~~~v → t.chip.reg a = v ∧ s.chip.regsBut t.chip [a])
      ∧ (w ≠ ~~~v → s.chip.regsBut t.chip errRegs ∧ t.chip.fld Fld.GLOBAL_ERR_LAST_INFO_CAUSE = 2) := by
  have hrd := Chip.Ready.of_quiet hq
  have hnc := Chip.noCommit_of_quiet hq
  obtain ⟨p, hp : s.chip.fresh.attrib q r.priv ix = some p⟩ := Option.ne_none_iff_exists'.1 ha
  replace hg : s.chip.fresh.guards = _ := hg
  obtain ⟨h4, hlt, hn⟩ := RegMap.placed hf
  obtain ⟨hps, hss, hrb⟩ := RegMap.guarded_apart hf hr hra
  have hoff : (BitVec.ofNat 28 (a + 4)).toNat = a + 4 := by rw [BitVec.toNat_ofNat]; omega
  have hb : busWrite (s.at_ dt) q (BitVec.ofNat 28 (a + 4)).toNat w 15 (s.merge, s.chip.fresh)
      = guardSecond (s.at_ dt) q p a r ix w (s.merge, s.chip.fresh) := by
    rw [hoff, busWrite_of_fast hrd.fresh.fast (by omega) (by rw [hg]; simpa [guardWindow] using ht0), if_pos (by unfold aliasBase; omega),
      wordWrite_second hf (hn hr) hr hp]
  by_cases hw : w = ~~~v
  · subst hw
    have hwi : s.chip.fresh.Within [a] ((s.chip.fresh.withGuards []).setReg a v) := ((Chip.Within.refl _ _).same).setReg (by simp)
    rw [guardSecond_of_complement hg (by simpa [guardedValueOk, hcd] using hv) hrb hl, Chip.logConfig_of_stopped (hrd.stopped_within hwi hss)] at hb
    obtain ⟨t, ht, hc⟩ := runWrite_within hrd hb hwi hnc ⟨hps, hss⟩
    refine ⟨t, ht, ?_⟩
    rw [hc]
    exact ⟨rfl, fun _ => ⟨Chip.reg_setReg_same hrd.wf, hwi.regs⟩, fun h => absurd rfl h⟩
  · have hwi : s.chip.fresh.Within errRegs ((s.chip.fresh.withGuards []).guardFault q p a 2) :=
      ((Chip.Within.refl _ _).same).trans (Chip.within_errFault ..)
    rw [guardSecond_of_other hg hw] at hb
    obtain ⟨t, ht, hc⟩ := runWrite_within hrd hb hwi (Chip.noCommit_of_txn (Chip.errFault_txn ..) hnc) errRegs_apart
    obtain ⟨_, _, hcause⟩ := Chip.errFault_shows (c := (s.chip.fresh.withGuards [])) (addr := a) (part := p) (port := q.num) (table := false) hrd.wf
      (show Err.guard < 8 by decide) (show 2 < 8 by decide)
    obtain ⟨_, _, _, hfr⟩ := (s.chip.fresh.withGuards []).sumpOnly_errFault Err.guard a p q.num 2 false
    refine ⟨t, ht, ?_⟩
    rw [hc]
    exact ⟨by rw [Chip.guardFault, hfr]; rfl, fun h => absurd h hw, fun _ => ⟨hwi.regs, hcause⟩⟩

/-- The clause of GuardedPairsTake for GUARD_TIMEOUT. -/
theorem guardTimeout_acts (hq : s.chip.quiet = true) {off : BitVec 28} {g : GuardPend} (hg : s.chip.guards = [g]) (ho : g.off = off.toNat)
    (ht0 : g.at_ + 64000 < s.at_ dt) :
    ∃ t, exec (.guardTimeout dt off) s = .next t ∧ t.chip.guards = [] ∧ s.chip.regsBut t.chip errRegs
      ∧ bit (t.chip.reg Reg.GLOBAL_ERR_EVENT).toNat Err.guard = true ∧ t.chip.fld Fld.GLOBAL_ERR_LAST_INFO_CAUSE = 3 := by
  have hrd := Chip.Ready.of_quiet hq
  have hnc := Chip.noCommit_of_quiet hq
  have hc : s.chip.fresh.expireGuards (s.at_ dt) (fun g => g.off == off.toNat)
      = (s.chip.fresh.guardFault g.port ((s.chip.fresh.ownedBy g.port).headD 0) g.off 3).withGuards [] :=
    Chip.expireGuards_single hg (by simp [ho]) ht0
  have hwi : s.chip.fresh.Within errRegs ((s.chip.fresh.guardFault g.port ((s.chip.fresh.ownedBy g.port).headD 0) g.off 3).withGuards []) :=
    (Chip.within_errFault ..).same
  obtain ⟨t, ht, hc'⟩ := runAll_within (f := fun x c => c.expireGuards x.now fun g => g.off == off.toNat) hrd hc hwi
    (Chip.noCommit_of_txn (Chip.errFault_txn s.chip.fresh ..) hnc) errRegs_apart
  obtain ⟨hbit, -, hcause⟩ := Chip.errFault_shows (c := s.chip.fresh) (addr := g.off) (part := (s.chip.fresh.ownedBy g.port).headD 0)
    (port := g.port.num) (table := false) hrd.wf (show Err.guard < 8 by decide) (show 3 < 8 by decide)
  refine ⟨t, ht, ?_⟩
  rw [hc']
  exact ⟨rfl, hwi.regs, hbit, hcause⟩

end

/-- Settles O40: each of the three commands is its effect on the pair that waits, and on the register or the ERR registers. -/
theorem guardedPairsTake : Obligations.GuardedPairsTake := by
  unfold Obligations.GuardedPairsTake
  intro dt q s hq
  exact ⟨fun off v r ix ho hg hf hr ha => guardFirstWrite_acts hq ho hg hf hr ha,
    fun a v w q1 t0 r ix hf hr hra hcd ha hl hg ht hv => guardedPairWrite_acts hq w hf hr hra hcd ha hl hg ht hv,
    fun off g hg ho ht => guardTimeout_acts hq hg ho ht⟩

end Sys2Proof.Machine
end

section
/-! SUPPORT and settlement of O39 (RegisterWritesTake): what a write does to its register by each access code, and nothing else. -/

namespace Sys2Proof.Machine
open Sys2Proof

/-! ### Registers whose value has no effect of its own -/

/-- A STATION register, PWR_CTL or THETA, by the offset of the first of its kind: no unit refuses a value of it, or acts on it at once. -/
def silentBase (b : Nat) : Bool :=
  b == Reg.GLOBAL_PWR_CTL || b == Reg.THERMAL_THETA || (decide (0x100000 ≤ b) && decide (b < 0x200000))

theorem silentBase_iff {b : Nat} : silentBase b = true ↔ b = Reg.GLOBAL_PWR_CTL ∨ b = Reg.THERMAL_THETA ∨ (0x100000 ≤ b ∧ b < 0x200000) := by
  simp [silentBase, or_assoc]

section
variable {b : Nat} (h : silentBase b = true)
include h

theorem Chip.refusal_of_silent (c : Chip) (ix : List Nat) (old new : Word) (q : Option Port) : c.refusal b ix old new q = none := by
  rcases silentBase_iff.1 h with rfl | rfl | ⟨h1, h2⟩
  · rfl
  · rfl
  · simp only [Chip.refusal, Reg.HOST_PART_POLL, Reg.SUMP_CFG, Reg.SUMP_TRIG_MASK, Reg.SUMP_RD_LO, Reg.SUMP_RD_HI]
    repeat rw [if_neg (by omega)]
    rw [if_pos (by omega)]

theorem Chip.wrote_of_silent (c : Chip) (now : Nat) (ix : List Nat) (old : Word) : c.wrote now b ix old = c := by
  rcases silentBase_iff.1 h with rfl | rfl | ⟨h1, h2⟩
  · rfl
  · rfl
  · have ne (o : Nat) (ho : (decide (o < 0x100000) || decide (0x200000 ≤ o)) = true) : b ≠ o := by
      simp only [Bool.or_eq_true, decide_eq_true_eq] at ho
      omega
    simp (disch := decide) only [Chip.wrote, ne, or_self, if_false]

theorem isGeometry_of_silent : isGeometry b = false := by
  rcases silentBase_iff.1 h with rfl | rfl | ⟨h1, h2⟩
  · rfl
  · rfl
  · simp only [isGeometry, List.contains_eq_mem, List.mem_cons, List.not_mem_nil, or_false, Reg.HOST_PART_RING_BASE_LO,
      Reg.HOST_PART_RING_BASE_HI, Reg.HOST_PART_RING_SIZE, Reg.HOST_PART_Q_BASE_LO, Reg.HOST_PART_Q_BASE_HI, Reg.HOST_PART_Q_CTL,
      Reg.HOST_PART_DB_LO, Reg.HOST_PART_DB_HI, decide_eq_false_iff_not]
    omega

/-- The value of such a register stands, and nothing follows. -/
theorem regEffect_of_silent {now off : Nat} {q : Option Port} {old : Word} {m : Merge} {c : Chip} {r : RegSpec} {ix : List Nat}
    (hf : RegMap.find off = some (r, ix)) (hb : r.base = b) (h0 : c.fld Fld.SUMP_STATUS_STATE = 0) :
    regEffect now q off old (m, c) = (m, c) := by
  have hne : b ≠ Reg.GLOBAL_PART_OWNER ∧ b ≠ Reg.HOST_PART_CTL 0 := by
    rcases silentBase_iff.1 h with rfl | rfl | ⟨h1, h2⟩
    · decide
    · decide
    · unfold Reg.GLOBAL_PART_OWNER Reg.HOST_PART_CTL
      omega
  simp only [regEffect, hf, hb, Chip.refusal_of_silent h, Chip.logConfig_of_stopped h0, Chip.wrote_of_silent h, isGeometry_of_silent h,
    hne.1, hne.2, if_false, Bool.false_eq_true]

end

/-! ### A register of one RW field -/

/-- A register of one RW field whose value has no effect of its own. -/
structure RegSpec.Plain (r : RegSpec) (f : FieldSpec) : Prop where
  fields : r.fields = [f]
  acc : f.acc = .rw
  le : f.lo ≤ f.hi
  lt : f.hi < 32
  silent : silentBase r.base = true

theorem RegMap.station_fields : (RegMap.station.all fun r => !(r.fields.all fun f => f.acc == .rw)
    || (r.fields.length == 1 && silentBase r.base && r.fields.all fun f => decide (f.lo ≤ f.hi) && decide (f.hi < 32))) = true := by
  decide +kernel

/-- A STATION register of RW fields only has one, and its value no effect of its own. -/
theorem RegSpec.plain_of_station {off : Nat} {r : RegSpec} {ix : List Nat} (h1 : 0x100000 ≤ off) (h2 : off < 0x180000)
    (hf : RegMap.find off = some (r, ix)) (hr : r.fields.all (fun f => f.acc == .rw) = true) : ∃ f, r.Plain f := by
  have hblock : RegMap.block off = RegMap.station := by
    unfold RegMap.block
    repeat rw [if_neg (by omega)]
    rw [if_pos (by omega)]
  have hm := (RegMap.mem_of_find hf).1
  rw [hblock] at hm
  have := List.all_eq_true.1 RegMap.station_fields r hm
  rw [hr] at this
  simp only [Bool.not_true, Bool.false_or, Bool.and_eq_true, beq_iff_eq] at this
  obtain ⟨⟨hlen, hs⟩, hb⟩ := this
  obtain ⟨f, hfs⟩ := List.length_eq_one_iff.1 hlen
  simp only [hfs, List.all_cons, List.all_nil, Bool.and_true, beq_iff_eq, Bool.and_eq_true, decide_eq_true_eq] at hr hb
  exact ⟨f, hfs, hr, hb.1, hb.2, hs⟩

/-- The word that a register of one RW field takes from a write (R43). -/
def FieldSpec.taken (f : FieldSpec) (old v : Word) : Word := BitVec.ofNat 32 (putBits old.toNat f.hi f.lo (bits v.toNat f.hi f.lo))

section
variable {r : RegSpec} {f : FieldSpec} {ix : List Nat} {c : Chip} {now off p : Nat} {q : Port} {v : Word} {m : Merge}

theorem RegSpec.Plain.toNat_taken (h : r.Plain f) (old v : Word) :
    (f.taken old v).toNat = putBits old.toNat f.hi f.lo (bits v.toNat f.hi f.lo) := toNat_ofNat_putBits old h.le h.lt

/-- The field has the bits written. -/
theorem RegSpec.Plain.bits_taken (h : r.Plain f) (old v : Word) : bits (f.taken old v).toNat f.hi f.lo = bits v.toNat f.hi f.lo := by
  rw [h.toNat_taken, bits_putBits_same h.le]
  exact Nat.mod_mod _ _

theorem RegSpec.Plain.bits_fields (h : r.Plain f) (old v : Word) : ∀ g ∈ r.fields, bits (f.taken old v).toNat g.hi g.lo = bits v.toNat g.hi g.lo := by
  intro g hg
  rw [h.fields] at hg
  rw [List.mem_singleton.1 hg]
  exact h.bits_taken old v

theorem RegSpec.Plain.not_special (h : r.Plain f) : r.guarded = false ∧ r.seqClear = false ∧ r.coupled = false ∧ r.masked = false := by
  simp [RegSpec.guarded, RegSpec.seqClear, RegSpec.coupled, RegSpec.masked, h.fields, h.acc]

/-- A write by code RW: the register takes the field, and nothing follows (R43). -/
theorem RegSpec.Plain.take (h : r.Plain f) (hf : RegMap.find off = some (r, ix)) (h0 : c.fld Fld.SUMP_STATUS_STATE = 0)
    (hs : off ≠ Reg.SUMP_STATUS) : plainTake now q p off r ix v (m, c) = (m, c.setReg off (f.taken (c.reg off) v)) := by
  have h0' : (c.setReg off (f.taken (c.reg off) v)).fld Fld.SUMP_STATUS_STATE = 0 := by
    rw [((Chip.Within.refl c [off]).setReg (by simp)).fld fun hm => hs (List.mem_singleton.1 hm).symm, h0]
  simp only [plainTake, Chip.combine, h.fields, h.acc, List.foldl_cons, List.foldl_nil, List.any_cons, List.any_nil, List.all_cons,
    List.all_nil, Bool.false_eq_true, if_false, takeWord, Bool.or_false, Bool.and_true, beq_iff_eq, reduceCtorEq]
  exact regEffect_of_silent h.silent hf rfl h0'

/-- A whole-word write to such a register by a port that may make it. -/
theorem RegSpec.Plain.busWrite (h : r.Plain f) (hf : RegMap.find off = some (r, ix)) (hfast : c.fast = true) (hg : c.guards = [])
    (h0 : c.fld Fld.SUMP_STATUS_STATE = 0) (hs : off ≠ Reg.SUMP_STATUS) (ha : c.attrib q r.priv ix = some p) :
    busWrite now q off v 15 (m, c) = (m, c.setReg off (f.taken (c.reg off) v)) := by
  obtain ⟨h4, hlt, -⟩ := RegMap.placed hf
  obtain ⟨n1, n2, n3, n4⟩ := h.not_special
  rw [busWrite_of_fast hfast h4 (by rw [hg]; simp), if_pos (by unfold aliasBase; omega), wordWrite_of_find hf ha, ← h.take (now := now) (q := q) (p := p) (v := v) (m := m) hf h0 hs]
  simp only [regTake, n1, n2, n3, n4, Bool.false_eq_true, if_false, Chip.disturb_of_nil hg]

end

/-! ### What a write leaves of the privileges -/

/-- Which port may write which register depends on the registers of GLOBAL and HOST alone. -/
theorem Chip.Within.attrib {c c' : Chip} {l : List Nat} (h : c.Within l c') (hl : ∀ o ∈ l, 0x30000 ≤ o) (q : Port) (pr : Priv) (ix : List Nat) :
    c'.attrib q pr ix = c.attrib q pr ix := by
  have hfld (f : BitField) (hf : f.off < 0x30000) : c'.fld f = c.fld f := h.fld fun hm => by have := hl _ hm; omega
  have ho (p : Nat) : c'.owner p = c.owner p := by
    unfold Chip.owner
    rw [hfld _ (by decide)]
  have hob : c'.ownedBy q = c.ownedBy q := by simp only [Chip.ownedBy, ho]
  have hcls (p : Nat) (hp : p < 8) : c'.classes p = c.classes p := by
    unfold Chip.classes
    rw [hfld _ (by simp only [Fld.HOST_PART_PRIV_CLASS, Reg.HOST_PART_PRIV]; omega)]
  have hd : c'.portDown q = c.portDown q := by
    unfold Chip.portDown Chip.flag
    rw [hfld _ (by cases q <;> decide)]
  cases pr with
  | any => simp only [Chip.attrib, hob]
  | master => simp only [Chip.attrib, ho, hd]
  | owner => simp only [Chip.attrib, ho]
  | cls k =>
    simp only [Chip.attrib, Chip.ownedBy, List.find?_filter]
    refine List.find?_congr fun p hp => ?_
    rw [ho, hcls p (List.mem_range.1 hp)]

theorem Chip.Within.fast {c c' : Chip} {l : List Nat} (h : c.Within l c') (hl : Reg.GLOBAL_STATUS ∉ l) : c'.fast = c.fast := by
  unfold Chip.fast Chip.state
  rw [h.fld hl, h.eng]

/-! ### Words of an M register and of an event register -/

/-- A bit of the word that a masked write leaves: the value's where the mask selects it, else the old one (R46). -/
theorem testBit_maskedWord {r : RegSpec} (hm : r.maskFor .m % 65536 = 65535) (old v : Word) {k : Nat} (hk : k < 16) :
    (maskedWord r old.toNat v.toNat).testBit k = if v.toNat.testBit (16 + k) then v.toNat.testBit k else old.toNat.testBit k := by
  have hsel : (v.toNat / 65536 &&& 65535) < 2 ^ 32 := Nat.lt_of_le_of_lt Nat.and_le_right (by decide)
  have hbit : (v.toNat / 65536 &&& 65535).testBit k = v.toNat.testBit (16 + k) := by
    rw [Nat.testBit_and, show 65536 = 2 ^ 16 from rfl, Nat.testBit_div_two_pow, show (65535 : Nat) = 2 ^ 16 - 1 from rfl,
      Nat.testBit_two_pow_sub_one, Nat.add_comm]
    simp [hk]
  have hlow : (v.toNat % 65536).testBit k = v.toNat.testBit k := by
    rw [show 65536 = 2 ^ 16 from rfl, Nat.testBit_mod_two_pow]
    simp [hk]
  unfold maskedWord
  dsimp only
  rw [hm, Nat.sub_sub, Nat.add_comm 1, Nat.testBit_or, Nat.testBit_and, Nat.testBit_and, hbit, hlow, Nat.testBit_two_pow_sub_succ hsel, hbit]
  cases v.toNat.testBit (16 + k) <;> simp [show k < 32 by omega]

theorem RegMap.seqClear_unguarded : (RegMap.blocks.all fun l => l.all fun r => !r.seqClear || !r.guarded) = true := by decide +kernel

section
variable {off : Nat} {r : RegSpec} {ix : List Nat} {c : Chip} {now p : Nat} {q : Port} {v : Word} {m : Merge}

/-- A clear write reaches the event register at its offset. -/
theorem regTake_of_seqClear (hf : RegMap.find off = some (r, ix)) (hr : r.seqClear = true) (hg : c.guards = []) :
    regTake now q p off r ix v (m, c) = (m, c.seqClear off v) := by
  have := List.all_eq_true.1 (List.all_eq_true.1 RegMap.seqClear_unguarded _ (RegMap.block_mem_blocks off)) r (RegMap.mem_of_find hf).1
  simp only [hr, Bool.not_true, Bool.false_or, Bool.not_eq_true'] at this
  simp only [regTake, this, hr, Bool.false_eq_true, if_false, if_true, Chip.disturb_of_nil hg]

/-- An event register is none of these three. -/
theorem RegMap.seqClear_apart (hf : RegMap.find off = some (r, ix)) (hr : r.seqClear = true) :
    off ≠ Reg.POWER_STATUS ∧ off ≠ Reg.SUMP_STATUS ∧ off ≠ Reg.GLOBAL_ERR_LAST_INFO := by
  have hs (o : Nat) (ho : (RegMap.find o).all (fun x => !x.1.seqClear) = true) : off ≠ o := by
    rintro rfl
    rw [hf] at ho
    simp [hr] at ho
  exact ⟨hs _ (by decide +kernel), hs _ (by decide +kernel), hs _ (by decide +kernel)⟩

theorem Chip.within_seqClear (c : Chip) (off : Nat) (v : Word) : c.Within [off, Reg.GLOBAL_ERR_LAST_INFO] (c.seqClear off v) := by
  have h : c.Within [off, Reg.GLOBAL_ERR_LAST_INFO]
      ((c.setReg off (BitVec.ofNat 32 (putBits (c.reg off).toNat 23 0 0))).setSqSeen off 0) :=
    ((Chip.Within.refl c _).setReg (off := off) (by simp)).same
  unfold Chip.seqClear
  dsimp only
  split
  · split
    · exact h.setFld (by simp [Fld.GLOBAL_ERR_LAST_INFO_COUNT])
    · exact h
  · exact Chip.Within.refl c _

theorem Chip.seqClear_txn (c : Chip) (off : Nat) (v : Word) : (c.seqClear off v).txn = c.txn := by
  unfold Chip.seqClear
  dsimp only
  split
  · split
    · rfl
    · rfl
  · rfl

/-- With the present SEQ bits 23 to 0 are cleared, and SEQ stays; with another nothing changes (R49). -/
theorem Chip.seqClear_clears (hw : Sparse.wf RegMap.resetOf c.regs = true) (ho : off ≠ Reg.GLOBAL_ERR_LAST_INFO) :
    (bits v.toNat 31 24 = bits (c.reg off).toNat 31 24 → bits ((c.seqClear off v).reg off).toNat 23 0 = 0
      ∧ bits ((c.seqClear off v).reg off).toNat 31 24 = bits (c.reg off).toNat 31 24)
    ∧ (bits v.toNat 31 24 ≠ bits (c.reg off).toNat 31 24 → (c.seqClear off v).reg off = c.reg off) := by
  constructor
  · intro hv
    have hreg : (c.seqClear off v).reg off = BitVec.ofNat 32 (putBits (c.reg off).toNat 23 0 0) := by
      have hset : ((c.setReg off (BitVec.ofNat 32 (putBits (c.reg off).toNat 23 0 0))).setSqSeen off 0).reg off
          = BitVec.ofNat 32 (putBits (c.reg off).toNat 23 0 0) := Chip.reg_setReg_same hw
      unfold Chip.seqClear
      dsimp only
      rw [if_pos hv]
      split
      · rw [Chip.setFld, Chip.reg_setReg_other (by exact ho), hset]
      · exact hset
    rw [hreg, toNat_ofNat_putBits _ (by decide) (by decide), bits_putBits_same (by decide), bits_putBits_above (by decide) (by decide)]
    exact ⟨rfl, rfl⟩
  · intro hv
    simp only [Chip.seqClear, if_neg hv]

end

/-! ### A write that no partition of the port may make -/

/-- A write without privilege leaves its captured fault in the ERR registers, and beside it at most a record (R42). -/
theorem Chip.privViolation_shows {c : Chip} (q : Port) (addr : Nat) (table : Bool) (hw : Sparse.wf RegMap.resetOf c.regs = true) :
    c.Within errRegs (c.privViolation q addr table) ∧ (c.privViolation q addr table).txn = c.txn
      ∧ bit ((c.privViolation q addr table).reg Reg.GLOBAL_ERR_EVENT).toNat Err.priv = true
      ∧ (c.privViolation q addr table).reg Reg.GLOBAL_ERR_LAST_ADDR = BitVec.ofNat 32 addr := by
  have hf (d : Chip) (part : Nat) (hr : d.regs = c.regs) (hd : c.Within errRegs d) (ht : d.txn = c.txn) :
      c.Within errRegs (d.errFault Err.priv addr part q.num 0 table) ∧ (d.errFault Err.priv addr part q.num 0 table).txn = c.txn
        ∧ bit ((d.errFault Err.priv addr part q.num 0 table).reg Reg.GLOBAL_ERR_EVENT).toNat Err.priv = true
        ∧ (d.errFault Err.priv addr part q.num 0 table).reg Reg.GLOBAL_ERR_LAST_ADDR = BitVec.ofNat 32 addr := by
    obtain ⟨hb, ha, -⟩ := Chip.errFault_shows (c := d) (kind := Err.priv) (addr := addr) (part := part) (port := q.num) (cause := 0) (table := table)
      (hr.symm ▸ hw) (by decide) (by decide)
    exact ⟨hd.trans (Chip.within_errFault ..), (Chip.errFault_txn ..).trans ht, hb, ha⟩
  unfold Chip.privViolation Chip.freeNat
  dsimp only
  split
  · obtain ⟨hwi, ht, hb, ha⟩ := hf { c with free := c.free + 1 } _ rfl (Chip.Within.refl c _).same rfl
    exact ⟨hwi.same, ht, hb, ha⟩
  · exact hf { c with free := c.free + 1 } _ rfl (Chip.Within.refl c _).same rfl

theorem wordWrite_of_unprivileged {c : Chip} {now off : Nat} {q : Port} {v : Word} {m : Merge} {r : RegSpec} {ix : List Nat}
    (hf : RegMap.find off = some (r, ix)) (ha : c.attrib q r.priv ix = none) (hg : c.guards = []) :
    wordWrite now q off v (m, c) = (m, c.privViolation q off false) := by simp [wordWrite, hf, ha, Chip.disturb_of_nil hg]

end Sys2Proof.Machine
end

section
/-! Settlement of O39 (RegisterWritesTake), command by command. -/

namespace Sys2Proof.Machine
open Sys2Proof

/-- The STATION registers are apart from those that show the supply's, the recorder's and the engine's state. -/
theorem station_apart {l : List Nat} (h : ∀ o ∈ l, 0x100000 ≤ o) : Reg.POWER_STATUS ∉ l ∧ Reg.SUMP_STATUS ∉ l ∧ Reg.GLOBAL_STATUS ∉ l :=
  ⟨fun hm => absurd (h _ hm) (by decide), fun hm => absurd (h _ hm) (by decide), fun hm => absurd (h _ hm) (by decide)⟩

section
variable {dt : Nat} {q : Port} {v : Word} {s : State}

/-- The clause of RegisterWritesTake for a whole-word write. -/
theorem registerWrite_acts (hq : s.chip.quiet = true) (hg : s.chip.guards = []) {off : BitVec 28} {r : RegSpec} {ix : List Nat}
    (h1 : 0x100000 ≤ off.toNat) (h2 : off.toNat < 0x180000) (hf : RegMap.find off.toNat = some (r, ix))
    (hr : r.fields.all (fun f => f.acc == .rw) = true) (ha : s.chip.attrib q r.priv ix ≠ none) :
    ∃ t, exec (.registerWrite dt q off v 15 none) s = .next t ∧ s.chip.regsBut t.chip [off.toNat]
      ∧ ∀ f ∈ r.fields, bits (t.chip.reg off.toNat).toNat f.hi f.lo = bits v.toNat f.hi f.lo := by
  have hrd := Chip.Ready.of_quiet hq
  have hnc := Chip.noCommit_of_quiet hq
  obtain ⟨f, hpl⟩ := RegSpec.plain_of_station h1 h2 hf hr
  obtain ⟨p, hp : s.chip.fresh.attrib q r.priv ix = some p⟩ := Option.ne_none_iff_exists'.1 ha
  obtain ⟨hps, hss, -⟩ := station_apart (l := [off.toNat]) (by simpa using h1)
  have hwi : s.chip.fresh.Within [off.toNat] (s.chip.fresh.setReg off.toNat (f.taken (s.chip.fresh.reg off.toNat) v)) :=
    (Chip.Within.refl _ _).setReg (by simp)
  obtain ⟨t, ht, hc⟩ := runWrite_within hrd (hpl.busWrite hf hrd.fresh.fast hg hrd.fresh.stopped (fun h => hss (h ▸ List.mem_singleton_self _)) hp)
    hwi hnc ⟨hps, hss⟩
  refine ⟨t, ht, ?_⟩
  rw [hc, Chip.reg_setReg_same hrd.fresh.wf]
  exact ⟨hwi.regs, hpl.bits_fields _ v⟩

/-- The clause of RegisterWritesTake for an aligned 8-byte write. -/
theorem registerWrite8_acts (hq : s.chip.quiet = true) (hg : s.chip.guards = []) {off : BitVec 28} {w : Word} {r r' : RegSpec} {ix ix' : List Nat}
    (h1 : 0x100000 ≤ off.toNat) (h2 : off.toNat + 4 < 0x180000) (hf : RegMap.find off.toNat = some (r, ix))
    (hf' : RegMap.find (off.toNat + 4) = some (r', ix')) (hr : r.fields.all (fun f => f.acc == .rw) = true)
    (hr' : r'.fields.all (fun f => f.acc == .rw) = true) (ha : s.chip.attrib q r.priv ix ≠ none) (ha' : s.chip.attrib q r'.priv ix' ≠ none) :
    ∃ t, exec (.registerWrite dt q off v 15 (some (w, 15))) s = .next t ∧ s.chip.regsBut t.chip [off.toNat, off.toNat + 4]
      ∧ (∀ f ∈ r.fields, bits (t.chip.reg off.toNat).toNat f.hi f.lo = bits v.toNat f.hi f.lo)
      ∧ ∀ f ∈ r'.fields, bits (t.chip.reg (off.toNat + 4)).toNat f.hi f.lo = bits w.toNat f.hi f.lo := by
  have hrd := Chip.Ready.of_quiet hq
  have hnc := Chip.noCommit_of_quiet hq
  obtain ⟨f, hpl⟩ := RegSpec.plain_of_station h1 (by omega) hf hr
  obtain ⟨f', hpl'⟩ := RegSpec.plain_of_station (by omega) h2 hf' hr'
  obtain ⟨p, hp : s.chip.fresh.attrib q r.priv ix = some p⟩ := Option.ne_none_iff_exists'.1 ha
  obtain ⟨p', hp' : s.chip.fresh.attrib q r'.priv ix' = some p'⟩ := Option.ne_none_iff_exists'.1 ha'
  obtain ⟨hps, hss, hgs⟩ := station_apart (l := [off.toNat, off.toNat + 4]) (by simp; omega)
  have hlo := hpl.busWrite (now := s.at_ dt) (v := v) (m := s.merge) hf hrd.fresh.fast hg hrd.fresh.stopped
    (fun h => hss (h ▸ List.mem_cons_self ..)) hp
  have hwlo : s.chip.fresh.Within [off.toNat, off.toNat + 4] (s.chip.fresh.setReg off.toNat (f.taken (s.chip.fresh.reg off.toNat) v)) :=
    (Chip.Within.refl _ _).setReg (by simp)
  generalize hd : s.chip.fresh.setReg off.toNat (f.taken (s.chip.fresh.reg off.toNat) v) = d at hlo hwlo
  have hdw := hwlo.wf hrd.fresh.wf
  have hhi := hpl'.busWrite (c := d) (now := s.at_ dt) (v := w) (m := s.merge) hf' ((hwlo.fast hgs).trans hrd.fresh.fast) (by rw [← hd]; exact hg)
    (hrd.stopped_within hwlo hss) (fun h => hss (h ▸ by simp)) ((hwlo.attrib (by simp; omega) q _ _).trans hp')
  have hwi : s.chip.fresh.Within [off.toNat, off.toNat + 4] (d.setReg (off.toNat + 4) (f'.taken (d.reg (off.toNat + 4)) w)) :=
    hwlo.setReg (by simp)
  obtain ⟨t, ht, hc⟩ := runWrite8_chip (dt := dt) (q := q) (off := off.toNat) (lo := (v, 15)) (hi := (w, 15)) hrd.serving hrd.fast
    (by rw [hlo, hhi]; exact settle_within hrd hwi (by rw [← hd]; exact hnc) hps) (hrd.stopped_within hwi hss)
  refine ⟨t, ht, ?_⟩
  rw [hc, Chip.reg_setReg_same hdw, Chip.reg_setReg_other (by omega), ← hd, Chip.reg_setReg_same hrd.fresh.wf]
  exact ⟨hd ▸ hwi.regs, hpl.bits_fields _ v, hpl'.bits_fields _ w⟩

/-- The clause of RegisterWritesTake for a write without every byte enable. -/
theorem registerWrite_part (hq : s.chip.quiet = true) {off : BitVec 28} {be : BitVec 4} (hbe : be ≠ 15) :
    ∃ t, exec (.registerWrite dt q off v be none) s = .next t ∧ t.chip = s.chip.fresh := by
  have hrd := Chip.Ready.of_quiet hq
  have hnc := Chip.noCommit_of_quiet hq
  have hs := (Chip.awake_of_fast hrd.fresh.fast).1
  have hb : be.toNat ≠ 15 := fun h => hbe (BitVec.eq_of_toNat_eq h)
  exact runWrite_within (l := []) hrd (by simp [busWrite, hs, hb]) (Chip.Within.refl _ _) hnc (by simp)

/-- The clause of RegisterWritesTake for a port that no partition lets write the register. -/
theorem registerWrite_refused (hq : s.chip.quiet = true) (hg : s.chip.guards = []) {off : BitVec 28} {r : RegSpec} {ix : List Nat}
    (ho : off.toNat < aliasBase) (hf : RegMap.find off.toNat = some (r, ix)) (ha : s.chip.attrib q r.priv ix = none) :
    ∃ t, exec (.registerWrite dt q off v 15 none) s = .next t
      ∧ bit (t.chip.reg Reg.GLOBAL_ERR_EVENT).toNat Err.priv = true ∧ t.chip.reg Reg.GLOBAL_ERR_LAST_ADDR = BitVec.ofNat 32 off.toNat
      ∧ s.chip.regsBut t.chip errRegs := by
  have hrd := Chip.Ready.of_quiet hq
  have hnc := Chip.noCommit_of_quiet hq
  obtain ⟨hwi, htx, hbit, haddr⟩ := Chip.privViolation_shows (c := s.chip.fresh) q off.toNat false hrd.fresh.wf
  have hb : busWrite (s.at_ dt) q off.toNat v 15 (s.merge, s.chip.fresh) = (s.merge, s.chip.fresh.privViolation q off.toNat false) := by
    rw [busWrite_of_fast hrd.fresh.fast (RegMap.placed hf).1 (by rw [show s.chip.fresh.guards = [] from hg]; simp), if_pos ho,
      wordWrite_of_unprivileged (c := s.chip.fresh) hf ha hg]
  obtain ⟨t, ht, hc⟩ := runWrite_within hrd hb hwi (Chip.noCommit_of_txn htx hnc) errRegs_apart
  refine ⟨t, ht, ?_⟩
  rw [hc]
  exact ⟨hbit, haddr, hwi.regs⟩

/-- What a write to one bit of a register leaves in it, where the bit lies in its field (R44, R45). -/
theorem RegSpec.Plain.bit_taken {r : RegSpec} {f : FieldSpec} (h : r.Plain f) {b : Nat} (hb : f.lo ≤ b ∧ b ≤ f.hi) (old v : Word) (k : Nat) :
    bit (f.taken old (BitVec.ofNat 32 (putBits old.toNat b b (bits v.toNat 0 0)))).toNat k
      = if k = b then bit v.toNat 0 else bit old.toNat k := by
  have hlt := h.lt
  rw [bit_eq_testBit, bit_eq_testBit, bit_eq_testBit, h.toNat_taken, testBit_putBits h.le, testBit_bits,
    toNat_ofNat_putBits _ (Nat.le_refl b) (by omega), testBit_putBits (Nat.le_refl b), testBit_bits]
  by_cases hk : k = b
  · subst hk
    simp [hb, show k - f.lo < f.hi + 1 - f.lo by omega]
  · rw [if_neg hk]
    split
    · rename_i hin
      rw [if_neg (by omega), Nat.add_sub_cancel' hin.1]
      simp [show k - f.lo < f.hi + 1 - f.lo by omega]
    · rfl

/-- The clause of RegisterWritesTake for BIT_ALIAS_WRITE. -/
theorem bitAliasWrite_acts (hq : s.chip.quiet = true) (hg : s.chip.guards = []) {target b : Nat} {r : RegSpec} {ix : List Nat}
    (h1 : 0x100000 ≤ target) (h2 : target < 0x180000) (hb : b < 32) (hf : RegMap.find target = some (r, ix))
    (hr : r.fields.all (fun f => f.acc == .rw) = true) (ha : s.chip.attrib q r.priv ix ≠ none) (hin : ∃ f ∈ r.fields, f.lo ≤ b ∧ b ≤ f.hi) :
    ∃ t, exec (.bitAliasWrite dt q (BitVec.ofNat 28 (aliasBase + target * 32 + 4 * b)) v) s = .next t ∧ s.chip.regsBut t.chip [target]
      ∧ ∀ k < 32, bit (t.chip.reg target).toNat k = (if k = b then bit v.toNat 0 else bit (s.chip.reg target).toNat k) := by
  have hrd := Chip.Ready.of_quiet hq
  have hnc := Chip.noCommit_of_quiet hq
  obtain ⟨f, hpl⟩ := RegSpec.plain_of_station h1 h2 hf hr
  obtain ⟨p, hp : s.chip.fresh.attrib q r.priv ix = some p⟩ := Option.ne_none_iff_exists'.1 ha
  obtain ⟨hps, hss, -⟩ := station_apart (l := [target]) (by simpa using h1)
  have hfb : f.lo ≤ b ∧ b ≤ f.hi := by simpa [hpl.fields] using hin
  have h4 := (RegMap.placed hf).1
  let old := s.chip.fresh.reg target
  let new := f.taken old (BitVec.ofNat 32 (putBits old.toNat b b (bits v.toNat 0 0)))
  have hbus : busWrite (s.at_ dt) q (BitVec.ofNat 28 (aliasBase + target * 32 + 4 * b)).toNat v 15 (s.merge, s.chip.fresh)
      = (s.merge, s.chip.fresh.setReg target new) := by
    have hoff : (BitVec.ofNat 28 (aliasBase + target * 32 + 4 * b)).toNat = aliasBase + target * 32 + 4 * b := by
      rw [BitVec.toNat_ofNat, aliasBase]
      omega
    have htgt : targetOf (aliasBase + target * 32 + 4 * b) = target := by
      rw [targetOf, if_neg (by omega)]
      omega
    have hbitNo : (aliasBase + target * 32 + 4 * b - aliasBase) % 128 / 4 = b := by omega
    obtain ⟨n1, n2, n3, n4⟩ := hpl.not_special
    rw [hoff, busWrite_of_fast hrd.fresh.fast (by unfold aliasBase; omega) (by rw [show s.chip.fresh.guards = [] from hg]; simp),
      if_neg (by omega), htgt, hbitNo, ← hpl.take hf hrd.fresh.stopped fun h => hss (h ▸ List.mem_singleton_self _)]
    simp only [aliasWrite, Chip.disturb_of_nil (show s.chip.fresh.guards = [] from hg), hf, n1, n2, n3, n4, Bool.or_false, Bool.false_eq_true,
      if_false, hp, hpl.fields, List.any_cons, List.any_nil, hpl.acc]
    rfl
  have hwi : s.chip.fresh.Within [target] (s.chip.fresh.setReg target new) := (Chip.Within.refl _ _).setReg (by simp)
  obtain ⟨t, ht, hc⟩ := runWrite_within hrd hbus hwi hnc ⟨hps, hss⟩
  refine ⟨t, ht, ?_⟩
  rw [hc, Chip.reg_setReg_same hrd.fresh.wf]
  exact ⟨hwi.regs, fun k _ => hpl.bit_taken hfb old v k⟩

/-- GLOBAL.PWR_CTL as the map has it: one masked field (R46, R72). -/
def RegMap.pwrCtl : RegSpec := ⟨"GLOBAL.PWR_CTL", 0x24, [], .master, [⟨15, 0, .m, 0xffff⟩]⟩

theorem RegMap.find_pwrCtl : RegMap.find Reg.GLOBAL_PWR_CTL = some (RegMap.pwrCtl, []) := by decide +kernel

/-- A masked write of PWR_CTL by the port of PART_0. -/
theorem busWrite_pwrCtl {c : Chip} {now p : Nat} {m : Merge} (hfast : c.fast = true) (hg : c.guards = []) (h0 : c.fld Fld.SUMP_STATUS_STATE = 0)
    (ha : c.attrib q .master [] = some p) : busWrite now q Reg.GLOBAL_PWR_CTL v 15 (m, c)
      = (m, c.setReg Reg.GLOBAL_PWR_CTL (BitVec.ofNat 32 (maskedWord RegMap.pwrCtl (c.reg Reg.GLOBAL_PWR_CTL).toNat v.toNat))) := by
  have h0' (w : Word) : (c.setReg Reg.GLOBAL_PWR_CTL w).fld Fld.SUMP_STATUS_STATE = 0 := by
    rw [((Chip.Within.refl c [Reg.GLOBAL_PWR_CTL]).setReg (by simp)).fld (by decide), h0]
  have hres (old new : Nat) : c.maskedResult RegMap.pwrCtl [] old new = maskedWord RegMap.pwrCtl old new := rfl
  have hstuck (old new : Nat) : ownerStuck RegMap.pwrCtl old new = false := rfl
  rw [busWrite_of_fast hfast (by decide) (by rw [hg]; simp), if_pos (by decide), wordWrite_of_find RegMap.find_pwrCtl ha]
  simp only [regTake, show RegMap.pwrCtl.guarded = false from rfl, show RegMap.pwrCtl.seqClear = false from rfl,
    show RegMap.pwrCtl.coupled = false from rfl, show RegMap.pwrCtl.masked = true from rfl, Bool.false_eq_true, if_false, if_true,
    Chip.disturb_of_nil hg, maskedTake, takeWord, hres, hstuck]
  exact regEffect_of_silent rfl RegMap.find_pwrCtl rfl (h0' _)

/-- The clause of RegisterWritesTake for MASKED_WRITE. -/
theorem maskedWrite_acts (hq : s.chip.quiet = true) (hg : s.chip.guards = []) (ha : s.chip.attrib q .master [] ≠ none) :
    ∃ t, exec (.maskedWrite dt q (BitVec.ofNat 28 Reg.GLOBAL_PWR_CTL) v) s = .next t ∧ s.chip.regsBut t.chip [Reg.GLOBAL_PWR_CTL]
      ∧ ∀ k < 16, bit (t.chip.fld Fld.GLOBAL_PWR_CTL_QUAD_EN) k
        = (if bit v.toNat (16 + k) then bit v.toNat k else bit (s.chip.fld Fld.GLOBAL_PWR_CTL_QUAD_EN) k) := by
  have hrd := Chip.Ready.of_quiet hq
  have hnc := Chip.noCommit_of_quiet hq
  obtain ⟨p, hp : s.chip.fresh.attrib q .master [] = some p⟩ := Option.ne_none_iff_exists'.1 ha
  let new := maskedWord RegMap.pwrCtl (s.chip.fresh.reg Reg.GLOBAL_PWR_CTL).toNat v.toNat
  have hwi : s.chip.fresh.Within [Reg.GLOBAL_PWR_CTL] (s.chip.fresh.setReg Reg.GLOBAL_PWR_CTL (BitVec.ofNat 32 new)) :=
    (Chip.Within.refl _ _).setReg (by simp)
  obtain ⟨t, ht, hc⟩ := runWrite_within hrd (busWrite_pwrCtl (now := s.at_ dt) (m := s.merge) hrd.fresh.fast hg hrd.fresh.stopped hp) hwi
    hnc (by decide)
  refine ⟨t, ht, ?_⟩
  rw [hc]
  refine ⟨hwi.regs, fun k hk => ?_⟩
  have hfld (c : Chip) : bit (c.fld Fld.GLOBAL_PWR_CTL_QUAD_EN) k = (c.reg Reg.GLOBAL_PWR_CTL).toNat.testBit k := by
    rw [bit_eq_testBit, Chip.fld, testBit_bits]
    simp [Fld.GLOBAL_PWR_CTL_QUAD_EN, hk]
  rw [hfld, hfld, Chip.reg_setReg_same hrd.fresh.wf, BitVec.toNat_ofNat, Nat.testBit_mod_two_pow, testBit_maskedWord (by decide) _ _ hk,
    bit_eq_testBit, bit_eq_testBit]
  simp only [show k < 32 by omega, decide_true, Bool.true_and]
  rfl

/-- The clause of RegisterWritesTake for SQ_CLEAR_WRITE. -/
theorem sqClearWrite_acts (hq : s.chip.quiet = true) (hg : s.chip.guards = []) {off : BitVec 28} {r : RegSpec} {ix : List Nat}
    (ho : off.toNat < aliasBase) (hf : RegMap.find off.toNat = some (r, ix)) (hr : r.seqClear = true) (ha : s.chip.attrib q r.priv ix ≠ none) :
    ∃ t, exec (.sqClearWrite dt q off v) s = .next t ∧ s.chip.regsBut t.chip [off.toNat, Reg.GLOBAL_ERR_LAST_INFO]
      ∧ (bits v.toNat 31 24 = bits (s.chip.reg off.toNat).toNat 31 24 → bits (t.chip.reg off.toNat).toNat 23 0 = 0
        ∧ bits (t.chip.reg off.toNat).toNat 31 24 = bits (s.chip.reg off.toNat).toNat 31 24)
      ∧ (bits v.toNat 31 24 ≠ bits (s.chip.reg off.toNat).toNat 31 24 → t.chip.reg off.toNat = s.chip.reg off.toNat) := by
  have hrd := Chip.Ready.of_quiet hq
  have hnc := Chip.noCommit_of_quiet hq
  obtain ⟨p, hp : s.chip.fresh.attrib q r.priv ix = some p⟩ := Option.ne_none_iff_exists'.1 ha
  obtain ⟨hps, hss, hli⟩ := RegMap.seqClear_apart hf hr
  have hwi := s.chip.fresh.within_seqClear off.toNat v
  have hb : busWrite (s.at_ dt) q off.toNat v 15 (s.merge, s.chip.fresh) = (s.merge, s.chip.fresh.seqClear off.toNat v) := by
    rw [busWrite_of_fast hrd.fresh.fast (RegMap.placed hf).1 (by rw [show s.chip.fresh.guards = [] from hg]; simp), if_pos ho,
      wordWrite_of_find hf hp, regTake_of_seqClear (c := s.chip.fresh) hf hr hg]
  obtain ⟨t, ht, hc⟩ := runWrite_within hrd hb hwi (Chip.noCommit_of_txn (Chip.seqClear_txn ..) hnc)
    ⟨by simp [hps.symm]; decide, by simp [hss.symm]; decide⟩
  refine ⟨t, ht, ?_⟩
  rw [hc]
  exact ⟨hwi.regs, Chip.seqClear_clears hrd.fresh.wf hli⟩

end

/-- Settles O39: each write is its effect on the register at its offset, by the register's access code. -/
theorem registerWritesTake : Obligations.RegisterWritesTake := by
  unfold Obligations.RegisterWritesTake
  intro dt q v s hq hg
  exact ⟨fun off r ix h1 h2 hf hr ha => registerWrite_acts hq hg h1 h2 hf hr ha,
    fun off w r r' ix ix' h1 h2 _ hf hf' hr hr' ha ha' => registerWrite8_acts hq hg h1 h2 hf hf' hr hr' ha ha',
    fun off be hbe => registerWrite_part hq hbe,
    fun off r ix ho hf ha => registerWrite_refused hq hg ho hf ha,
    fun target b r ix h1 h2 hb hf hr ha hin => bitAliasWrite_acts hq hg h1 h2 hb hf hr ha hin,
    fun ha => maskedWrite_acts hq hg ha,
    fun off r ix ho hf hr ha => sqClearWrite_acts hq hg ho hf hr ha⟩

end Sys2Proof.Machine
end

section
/-! SUPPORT and settlement of O43 (TablesTake): what writing and copying the banks of the table window leave in them. -/

namespace Sys2Proof.Machine
open Sys2Proof

/-! ### Reading a store after dropping entries and after writing several -/

section
variable {α : Type} [DecidableEq α] {d : Nat → α} {a : Nat}

omit [DecidableEq α] in
/-- After dropping the entries of some keys, a key that was kept reads as before and a dropped one as its default. -/
theorem Sparse.get_keep {p : Nat → Bool} {l : List (Nat × α)} :
    Sparse.get d a (Sparse.keep p l) = if p a then Sparse.get d a l else d a := by
  induction l with
  | nil => simp [Sparse.keep]
  | cons e l ih =>
    obtain ⟨b, v⟩ := e
    unfold Sparse.keep at ih ⊢
    rw [List.filter_cons, Sparse.get]
    by_cases hab : a = b
    · subst hab
      cases hp : p a
      · simpa [hp] using ih
      · simp [Sparse.get]
    · rw [if_neg hab, ← ih]
      split
      · rw [Sparse.get, if_neg hab]
      · rfl

/-- Written entry after entry, a store reads as the entries where they have a value of their own, and as before elsewhere. -/
theorem Sparse.get_puts {lo : Option Nat} {es l : List (Nat × α)} (hes : Sparse.wfFrom d lo es = true) (hl : Sparse.wf d l = true) :
    Sparse.get d a (es.foldl (fun l e => Sparse.put d e.1 e.2 l) l)
      = if Sparse.get d a es = d a then Sparse.get d a l else Sparse.get d a es := by
  induction es generalizing lo l with
  | nil => simp
  | cons e es ih =>
    obtain ⟨b, v⟩ := e
    simp only [Sparse.wfFrom, Bool.and_eq_true, decide_eq_true_eq] at hes
    obtain ⟨⟨-, hv⟩, htl⟩ := hes
    rw [List.foldl_cons, ih htl (Sparse.wf_put hl), Sparse.get]
    by_cases hab : a = b
    · subst hab
      rw [if_pos (Sparse.get_of_le htl le_rfl), Sparse.get_put_same hl, if_pos rfl, if_neg hv]
    · rw [if_neg hab, Sparse.get_put_other hab]

end

/-! ### Bytes of the banks -/

theorem leNat_leBytes (n v : Nat) : leNat (leBytes n v) = v % 256 ^ n := by
  induction n generalizing v with
  | zero => simp [leBytes, leNat, Nat.mod_one]
  | succ n ih =>
    rw [leBytes, leNat, ih, BitVec.toNat_ofNat, pow_succ' 256 n]
    exact Nat.mod_mul.symm

section
variable {c : Chip} {off a : Nat} {b : Byte} {l : List Byte}

/-- A byte given to the shadow bank changes nothing but it, in the store of the bank. -/
theorem Chip.setTabByte_shadow (c : Chip) (off : Nat) (b : Byte) : ∃ zs, c.setTabByte false off b
    = { c with zeros := zs, shadow := Sparse.put (tableDefault c.nominal) off b c.shadow } := by
  unfold Chip.setTabByte Chip.noteZero
  split
  · exact ⟨_, rfl⟩
  · exact ⟨_, rfl⟩

/-- What bytes given to the shadow bank leave as it is. -/
theorem Chip.setTabBytes_keeps (c : Chip) (off : Nat) (l : List Byte) : c.Within [] (c.setTabBytes false off l)
    ∧ (c.setTabBytes false off l).active = c.active ∧ (c.setTabBytes false off l).txn = c.txn := by
  induction l generalizing c off with
  | nil => exact ⟨Chip.Within.refl c _, rfl, rfl⟩
  | cons b l ih =>
    obtain ⟨zs, h⟩ := c.setTabByte_shadow off b
    obtain ⟨hw, ha, ht⟩ := ih (c.setTabByte false off b) (off + 1)
    have h1 : c.Within [] (c.setTabByte false off b) := by
      rw [h]
      exact (Chip.Within.refl c _).same
    exact ⟨h1.trans hw, ha.trans (by rw [h]), ht.trans (by rw [h])⟩

theorem Chip.tabByte_setTabByte_other (h : a ≠ off) : (c.setTabByte false off b).tabByte false a = c.tabByte false a := by
  obtain ⟨zs, hb⟩ := c.setTabByte_shadow off b
  rw [hb]
  exact Sparse.get_put_other h

theorem Chip.tabByte_setTabByte_same (h : c.Sound) : (c.setTabByte false off b).tabByte false off = b := by
  obtain ⟨zs, hb⟩ := c.setTabByte_shadow off b
  rw [hb]
  exact Sparse.get_put_same h.shadow

theorem Chip.tabByte_setTabBytes_apart (h : a < off ∨ off + l.length ≤ a) : (c.setTabBytes false off l).tabByte false a = c.tabByte false a := by
  induction l generalizing c off with
  | nil => rfl
  | cons b l ih =>
    rw [List.length_cons] at h
    rw [Chip.setTabBytes, ih (by omega), Chip.tabByte_setTabByte_other (by omega)]

/-- The bytes written read back in their order. -/
theorem Chip.map_tabByte_setTabBytes (h : c.Sound) :
    ((List.range l.length).map fun i => (c.setTabBytes false off l).tabByte false (off + i)) = l := by
  induction l generalizing c off with
  | nil => rfl
  | cons b l ih =>
    have hl := ih (off := off + 1) (h.setTabByte (act := false) (off := off) (b := b))
    rw [List.length_cons, List.range_succ_eq_map, List.map_cons, List.map_map, Chip.setTabBytes]
    congr 1
    · rw [Chip.tabByte_setTabBytes_apart (by omega)]
      exact Chip.tabByte_setTabByte_same h
    · simpa [Function.comp_def, Nat.add_assoc, Nat.add_comm 1] using hl

/-- A word that lies whole in a table goes byte by byte into the shadow bank. -/
theorem Chip.putTableWord_eq {w : Word} (h : ∀ i < 4, tableAt (off + i) ≠ none) :
    c.putTableWord off w = c.setTabBytes false off (leBytes 4 w.toNat) := by
  have hs (i : Nat) (hi : i < 4) : (tableAt (off + i)).isSome = true := Option.isSome_iff_ne_none.2 (h i hi)
  have h0 := hs 0 (by decide)
  have h1 := hs 1 (by decide)
  have h2 := hs 2 (by decide)
  have h3 := hs 3 (by decide)
  simp only [Chip.putTableWord, leBytes, Chip.setTabBytes, List.range, List.range.loop, List.zip_cons_cons, List.zip_nil_right, List.foldl_cons,
    List.foldl_nil, h0, h1, h2, h3, if_true]
  rfl

/-- The copied table reads alike in both banks (R56). -/
theorem Chip.tabByte_copyBank {inst : Nat} {r : Nat × Nat} (h : c.Sound) (hr : r ∈ tableRanges inst) (h1 : r.1 ≤ a) (h2 : a < r.1 + r.2) :
    (c.copyBank inst).tabByte false a = (c.copyBank inst).tabByte true a := by
  have hmine : ((tableRanges inst).any fun r => decide (r.1 ≤ a) && decide (a < r.1 + r.2)) = true :=
    List.any_eq_true.2 ⟨r, hr, by simp [h1, h2]⟩
  let mine (a : Nat) : Bool := (tableRanges inst).any fun r => decide (r.1 ≤ a) && decide (a < r.1 + r.2)
  have hact : Sparse.get (tableDefault c.nominal) a (Sparse.keep mine c.active) = Sparse.get (tableDefault c.nominal) a c.active := by
    rw [Sparse.get_keep, if_pos hmine]
  have hrest : Sparse.get (tableDefault c.nominal) a (Sparse.keep (fun a => !mine a) c.shadow) = tableDefault c.nominal a := by
    rw [Sparse.get_keep, if_neg (by simp [mine, hmine])]
  have hcopy := Sparse.get_puts (a := a) (Sparse.wf_keep (p := mine) h.active) (Sparse.wf_keep (p := fun a => !mine a) h.shadow)
  rw [hact, hrest] at hcopy
  refine hcopy.trans ?_
  split
  · rename_i hd
    exact hd.symm
  · rfl

end

/-! ### The commands -/

/-- A chip that reads as sound is so in the sense of the laws. -/
theorem Chip.Sound.of_quiet {c : Chip} (h : c.quiet = true) : c.Sound := Chip.sound_iff.1 (Chip.quiet_iff.1 h).2.1

/-- A write of one word to the table window, by a port that may make it, acts by what the word meets (R54, R55, R58). -/
theorem Chip.tableWrite_single {c : Chip} {q : Port} {p off : Nat} {w : Word} (hf : c.fast = true) (h4 : off % 4 = 0)
    (ha : c.attrib q (.cls 2) [] = some p) : c.tableWrite q off [w] =
      match c.tableHit off with
      | .nothing => c
      | .active => c.errFault Err.busy off p q.num 1 true
      | .waiting => c.errFault Err.busy off p q.num 2 true
      | .copying i => c.updTxn fun x => { x with
          copying := x.copying.map fun e => if e.1 == i then (e.1, e.2 ++ [(off, w)]) else e }
      | .shadow => c.putTableWord off w := by
  obtain ⟨hs, hd⟩ := Chip.awake_of_fast hf
  simp only [Chip.tableWrite, hd, hs, h4, ha, Chip.tableWords]
  cases c.tableHit off <;> simp

/-- The end of the only copy, for which no writes are held (R56, R57). -/
theorem Chip.tableCopied_of_bare {c : Chip} {inst : Nat} (h : c.txn.copying = [(inst, [])]) : c.tableCopied inst
    = ((c.copyBank inst).masterCopied inst).updTxn fun x => { x with
      copying := [], pendBad := (if x.bad.contains inst then [inst] else []) ++ x.pendBad.filter fun n => n != inst } := by
  have hx : ((c.copyBank inst).masterCopied inst).txn = c.txn := rfl
  simp only [Chip.tableCopied, h, List.find?_cons, BEq.rfl, List.foldl_nil, Chip.updTxn, hx, List.filter_cons, bne_self_eq_false,
    Bool.false_eq_true, if_false, List.filter_nil]

section
variable {dt : Nat} {s : State} {q : Port} {off : BitVec 24} {w : Word}

/-- The clause of TablesTake for a word of the shadow half. -/
theorem tableWindowWrite_shadow (hq : s.chip.quiet = true) (ha : s.chip.attrib q (.cls 2) [] ≠ none) (h4 : off.toNat % 4 = 0)
    (hh : s.chip.tableHit off.toNat = .shadow) (hin : ∀ i < 4, tableAt (off.toNat + i) ≠ none) :
    ∃ t, exec (.tableWindowWrite dt q off [w]) s = .next t ∧ t.chip.tabNat false off.toNat 4 = w.toNat
      ∧ t.chip.active = s.chip.active ∧ s.chip.regsBut t.chip []
      ∧ ∀ a, a < off.toNat ∨ off.toNat + 4 ≤ a → t.chip.tabByte false a = s.chip.tabByte false a := by
  have hrd := Chip.Ready.of_quiet hq
  have hnc := Chip.noCommit_of_quiet hq
  obtain ⟨p, hp : s.chip.fresh.attrib q (.cls 2) [] = some p⟩ := Option.ne_none_iff_exists'.1 ha
  replace hh : s.chip.fresh.tableHit off.toNat = .shadow := hh
  obtain ⟨hwi, hact, htx⟩ := s.chip.fresh.setTabBytes_keeps off.toNat (leBytes 4 w.toNat)
  obtain ⟨t, ht, hc⟩ := runAll_within (dt := dt) (f := fun _ c => c.tableWrite q off.toNat [w]) hrd
    (by rw [Chip.tableWrite_single hrd.fresh.fast h4 hp, hh]; exact Chip.putTableWord_eq hin) hwi (Chip.noCommit_of_txn htx hnc) (by simp)
  refine ⟨t, ht, ?_⟩
  rw [hc]
  refine ⟨?_, hact, hwi.regs, fun a h => Chip.tabByte_setTabBytes_apart h⟩
  have hr := Chip.map_tabByte_setTabBytes (off := off.toNat) (l := leBytes 4 w.toNat) ((Chip.Sound.of_quiet hq).same (c' := s.chip.fresh))
  rw [Chip.tabNat]
  refine (congrArg leNat hr).trans ?_
  rw [leNat_leBytes]
  exact Nat.mod_eq_of_lt w.isLt

/-- The clause of TablesTake for a word of the active half. -/
theorem tableWindowWrite_active (hq : s.chip.quiet = true) (ha : s.chip.attrib q (.cls 2) [] ≠ none) (h4 : off.toNat % 4 = 0)
    (hh : s.chip.tableHit off.toNat = .active) :
    ∃ t, exec (.tableWindowWrite dt q off [w]) s = .next t ∧ t.chip.active = s.chip.active ∧ t.chip.shadow = s.chip.shadow
      ∧ bit (t.chip.reg Reg.GLOBAL_ERR_EVENT).toNat Err.busy = true ∧ t.chip.fld Fld.GLOBAL_ERR_LAST_INFO_CAUSE = 1 := by
  have hrd := Chip.Ready.of_quiet hq
  have hnc := Chip.noCommit_of_quiet hq
  obtain ⟨p, hp : s.chip.fresh.attrib q (.cls 2) [] = some p⟩ := Option.ne_none_iff_exists'.1 ha
  replace hh : s.chip.fresh.tableHit off.toNat = .active := hh
  obtain ⟨t, ht, hc⟩ := runAll_within (dt := dt) (f := fun _ c => c.tableWrite q off.toNat [w]) hrd
    (by rw [Chip.tableWrite_single hrd.fresh.fast h4 hp, hh]) (Chip.within_errFault ..) (Chip.noCommit_of_txn (Chip.errFault_txn ..) hnc) errRegs_apart
  obtain ⟨hbit, -, hcause⟩ := Chip.errFault_shows (c := s.chip.fresh) (addr := off.toNat) (part := p) (port := q.num) (table := true) hrd.fresh.wf
    (show Err.busy < 8 by decide) (show 1 < 8 by decide)
  obtain ⟨_, _, _, hfr⟩ := s.chip.fresh.sumpOnly_errFault Err.busy off.toNat p q.num 1 true
  refine ⟨t, ht, ?_⟩
  rw [hc]
  exact ⟨by rw [hfr]; rfl, by rw [hfr]; rfl, hbit, hcause⟩

/-- The clause of TablesTake for the end of a copy that holds no writes. -/
theorem tableCopyDone_acts (hq : s.chip.quiet = true) {inst : BitVec 16} (hcp : s.chip.txn.copying = [(inst.toNat, [])]) :
    ∃ t, exec (.tableCopyDone dt inst) s = .next t ∧ t.chip.txn.copying = [] ∧ t.chip.active = s.chip.active ∧ s.chip.regsBut t.chip []
      ∧ ∀ r ∈ tableRanges inst.toNat, ∀ a, r.1 ≤ a → a < r.1 + r.2 → t.chip.tabByte false a = t.chip.tabByte true a := by
  have hrd := Chip.Ready.of_quiet hq
  have hnc := Chip.noCommit_of_quiet hq
  replace hcp : s.chip.fresh.txn.copying = _ := hcp
  have he : clocked (fun _ c => c.tableCopied inst.toNat) (s.ctx dt) s.chip.fresh
      = ((s.chip.fresh.copyBank inst.toNat).masterCopied inst.toNat).updTxn fun x => { x with
        copying := [], pendBad := (if x.bad.contains inst.toNat then [inst.toNat] else []) ++ x.pendBad.filter fun n => n != inst.toNat } := by
    rw [clocked_of_fast hrd.fresh.fast]
    exact Chip.tableCopied_of_bare hcp
  obtain ⟨t, ht, hc⟩ := runAll_within (l := []) hrd he ((Chip.Within.refl _ _).same) hnc (by simp)
  refine ⟨t, ht, ?_⟩
  rw [hc]
  exact ⟨rfl, rfl, fun _ _ => rfl, fun r hr a h1 h2 => Chip.tabByte_copyBank ((Chip.Sound.of_quiet hq).same (c' := s.chip.fresh)) hr h1 h2⟩

end

/-- Settles O43: a table write acts by what its word meets, and the copy fills the table's bytes from the active bank. -/
theorem tablesTake : Obligations.TablesTake := by
  unfold Obligations.TablesTake
  intro dt s hq
  exact ⟨fun q off w ha h4 => ⟨fun _ hh hin => tableWindowWrite_shadow hq ha h4 hh hin, fun hh => tableWindowWrite_active hq ha h4 hh⟩,
    fun inst hcp => tableCopyDone_acts hq hcp⟩

end Sys2Proof.Machine
end

section
/-! SUPPORT and settlement of O51 (TransactionsStageAndRollBack): the command of a journal slot, and what the TXN unit shows of a transaction. -/

namespace Sys2Proof.Machine
open Sys2Proof

/-! ### A command of the journal -/

section
variable {dt opcode : Nat} {s : State} {c : Chip} {e : JEntry} {j : Fin 4096} {body : JEntry → Ctx → Chip → Chip}

/-- A command that may start in a ready chip runs its own section. -/
theorem Chip.Ready.command_eq (hr : s.chip.Ready) (ho : s.offers dt j opcode e) :
    command opcode j.val body (s.ctx dt) s.chip.fresh = body e (s.ctx dt) s.chip.fresh := by
  obtain ⟨hst, hout, hacc⟩ := ho
  have hv := hr.serving
  simp only [Chip.serving, Bool.and_eq_true, Bool.not_eq_true'] at hv
  exact command_of_offers hr.rested.sleepFor hv.2 hout hst hacc

/-- The next state of a command of the journal that writes some registers and leaves no commit: its own effect. -/
theorem runCommand_within {l : List Nat} (hr : s.chip.Ready) (ho : s.offers dt j opcode e) (hc : body e (s.ctx dt) s.chip.fresh = c)
    (hw : s.chip.fresh.Within l c) (hn : c.noCommit = true) (hl : Reg.POWER_STATUS ∉ l ∧ Reg.SUMP_STATUS ∉ l) :
    ∃ t, runAll dt (command opcode j.val body) s = .next t ∧ t.chip = c :=
  runAll_within hr ((hr.command_eq ho).trans hc) hw hn hl

end

/-! ### What the TXN unit shows -/

/-- The registers of a partition that show its open transaction. -/
def txnRegs (p : Nat) : List Nat := [Reg.TXN_STATE p, Reg.TXN_BEGIN_GEN p, Reg.TXN_TRIGGER_LO p, Reg.TXN_TRIGGER_HI p]

theorem txnRegs_ge {p o : Nat} (h : o ∈ txnRegs p) : 0x40000 ≤ o ∧ o < 0x40010 + p * 0x1000 := by
  simp only [txnRegs, List.mem_cons, List.not_mem_nil, or_false, Reg.TXN_STATE, Reg.TXN_BEGIN_GEN, Reg.TXN_TRIGGER_LO, Reg.TXN_TRIGGER_HI] at h
  omega

theorem txnRegs_apart {p : Nat} (h : p < 8) : Reg.POWER_STATUS ∉ txnRegs p ∧ Reg.SUMP_STATUS ∉ txnRegs p := by
  constructor
  · intro hm
    exact absurd (txnRegs_ge hm).1 (by decide)
  · intro hm
    have := (txnRegs_ge hm).2
    unfold Reg.SUMP_STATUS at this
    omega

/-- Those of them that follow the transaction at once. -/
def txnShown (p : Nat) : List Nat := [Reg.TXN_STATE p, Reg.TXN_TRIGGER_LO p, Reg.TXN_TRIGGER_HI p]

theorem txnShown_subset (p : Nat) : txnShown p ⊆ txnRegs p := by simp [txnShown, txnRegs]

section
variable {c : Chip} {p : Nat}

/-- The chip with another register file. -/
def Chip.withRegs (c : Chip) (r : List (Nat × Word)) : Chip := { c with regs := r }

/-- Showing a transaction changes registers alone. -/
theorem Chip.showTxn_eq (c : Chip) (p : Nat) : ∃ r, c.showTxn p = c.withRegs r := by
  unfold Chip.showTxn
  dsimp only
  split
  · exact ⟨_, rfl⟩
  · exact ⟨_, rfl⟩

theorem Chip.Within.showTxn {c' : Chip} {l : List Nat} (h : c.Within l c') (hl : txnShown p ⊆ l) : c.Within l (c'.showTxn p) := by
  have h1 : Reg.TXN_STATE p ∈ l := hl (by simp [txnShown])
  have h2 : Reg.TXN_TRIGGER_LO p ∈ l := hl (by simp [txnShown])
  have h3 : Reg.TXN_TRIGGER_HI p ∈ l := hl (by simp [txnShown])
  unfold Chip.showTxn
  dsimp only
  split
  · exact ((((h.setFld h1).setFld h1).setPair h2 h3).setFlag h1).setFld h1
  · exact ((((h.setFld h1).setFld h1).setPair h2 h3).setFlag h1).setFld h1

/-- TXN.STATE.OPEN shows whether the partition has a transaction (R73). -/
theorem Chip.open_showTxn (hw : Sparse.wf RegMap.resetOf c.regs = true) :
    (c.showTxn p).flag (Fld.TXN_STATE_OPEN p) = (c.openTxn p).isSome := by
  have hshow (d : Chip) (hd : Sparse.wf RegMap.resetOf d.regs = true) (b : Bool) (n : Nat) :
      ((d.setFlag (Fld.TXN_STATE_OPEN p) b).setFld (Fld.TXN_STATE_STAGED p) n).flag (Fld.TXN_STATE_OPEN p) = b := by
    have hw1 : Sparse.wf RegMap.resetOf (d.setFld (Fld.TXN_STATE_OPEN p) (b2n b)).regs = true := Chip.wf_setReg hd
    unfold Chip.flag Chip.setFlag
    rw [Chip.fld_setFld_apart hw1 (f := Fld.TXN_STATE_STAGED p) (g := Fld.TXN_STATE_OPEN p) rfl (show 16 ≤ 25 by decide) (show 2 ≤ 2 by decide)
      (show 25 < 32 by decide) (.inr (show 2 < 16 by decide)), Chip.fld_setFld_same hd (show 2 ≤ 2 by decide) (show 2 < 32 by decide)]
    cases b
    · rfl
    · rfl
  unfold Chip.showTxn
  dsimp only
  split
  · exact hshow _ (Chip.wf_setReg (Chip.wf_setReg (Chip.wf_setReg (Chip.wf_setReg hw)))) _ _
  · exact hshow _ (Chip.wf_setReg (Chip.wf_setReg (Chip.wf_setReg (Chip.wf_setReg hw)))) _ _

/-- An element of a list changed at its place. -/
theorem getD_updAt_same {α : Type} {l : List α} {i : Nat} {f : α → α} {d : α} (h : i < l.length) : (updAt l i f).getD i d = f (l.getD i d) := by
  induction l generalizing i with
  | nil => simp at h
  | cons x l ih =>
    cases i with
    | zero => rfl
    | succ i => simpa [updAt] using ih (by simpa using h)

/-- The transaction given to a partition is its open one. -/
theorem Chip.openTxn_setOpen {o : Option OpenTxn} (h : p < c.txn.opens.length) : (c.setOpen p o).openTxn p = o := by
  unfold Chip.openTxn Chip.setOpen Chip.updTxn
  exact getD_updAt_same h

/-- A sound chip has a place for the open transaction of each of its 8 partitions. -/
theorem Chip.Sound.opens_length (h : c.Sound) : c.txn.opens.length = 8 := by
  have := h.shape
  simp only [Chip.shape, Chip.unitCounts, List.cons.injEq] at this
  tauto

end

/-! ### What the commands come to -/

section
variable {c : Chip} {e : JEntry}

theorem Chip.txnBegin_of_none (h : c.openTxn e.part = none) : c.txnBegin e
    = ((((c.started e.slot).setOpen e.part (some { gen := c.txn.gen })).setReg (Reg.TXN_BEGIN_GEN e.part)
      (BitVec.ofNat 32 c.txn.gen)).showTxn e.part).result e.slot Rc.OK := by
  replace h : (c.started e.slot).openTxn e.part = none := h
  unfold Chip.txnBegin
  dsimp only
  rw [h]
  rfl

theorem Chip.txnBegin_of_some {o : OpenTxn} (h : c.openTxn e.part = some o) :
    c.txnBegin e = (c.started e.slot).result e.slot Rc.ERR_TXN_OPEN := by
  replace h : (c.started e.slot).openTxn e.part = some o := h
  unfold Chip.txnBegin
  dsimp only
  rw [h]

theorem Chip.txnWrite_of_none (hform : e.param 0x10 1 = 0) (h4 : e.param 0x14 4 % 4 = 0) (hle : e.param 0x14 4 ≤ 0x3FFFFFC)
    (h : c.openTxn e.part = none) : c.txnWrite e = (c.started e.slot).result e.slot Rc.ERR_NO_TXN := by
  replace h : (c.started e.slot).openTxn e.part = none := h
  simp only [Chip.txnWrite, hform, h4, Nat.not_lt.2 hle, h]
  simp

/-- TXN_WRITE of a register entry into a transaction with room (R59, R60). -/
theorem Chip.txnWrite_of_some {o : OpenTxn} (hform : e.param 0x10 1 = 0) (h4 : e.param 0x14 4 % 4 = 0) (hle : e.param 0x14 4 ≤ 0x3FFFFFC)
    (h : c.openTxn e.part = some o) (ho : o.entries.length < 512) : c.txnWrite e
      = if c.stageReg e.part (e.param 0x14 4) (e.param 0x18 4) then
          (((c.started e.slot).setOpen e.part (some { o with entries := o.entries ++
            [.reg (e.param 0x14 4) (BitVec.ofNat 32 (e.param 0x18 4)) (BitVec.ofNat 32 (e.param 0x1C 4))] })).showTxn e.part).result e.slot Rc.OK
        else (c.started e.slot).result e.slot Rc.ERR_TXN_TARGET := by
  replace h : (c.started e.slot).openTxn e.part = some o := h
  have hst : (c.started e.slot).stageReg e.part (e.param 0x14 4) (e.param 0x18 4) = c.stageReg e.part (e.param 0x14 4) (e.param 0x18 4) := rfl
  simp only [Chip.txnWrite, hform, h4, Nat.not_lt.2 hle, h, Chip.stageEntry, hst]
  cases c.stageReg e.part (e.param 0x14 4) (e.param 0x18 4)
  · simp
  · simp [Nat.not_le.2 ho]

theorem Chip.txnRollback_of_some {o : OpenTxn} (h : c.openTxn e.part = some o) :
    c.txnRollback e = (((c.started e.slot).setOpen e.part none).showTxn e.part).result e.slot Rc.OK := by
  replace h : (c.started e.slot).openTxn e.part = some o := h
  unfold Chip.txnRollback
  dsimp only
  rw [h]

theorem Chip.txnRollback_of_none (h : c.openTxn e.part = none) (hn : c.noCommit = true) :
    c.txnRollback e = (c.started e.slot).result e.slot Rc.ERR_NO_TXN := by
  replace h : (c.started e.slot).openTxn e.part = none := h
  have hc : (c.started e.slot).commitOf e.part = none := by
    rw [Chip.commitOf, show (c.started e.slot).txn.commits = [] from (Chip.noCommit_iff.1 hn).1]
    rfl
  unfold Chip.txnRollback
  dsimp only
  rw [h, hc]

end

/-! ### The commands -/

section
variable {dt opcode : Nat} {s : State} {e : JEntry} {j : Fin 4096} {body : JEntry → Ctx → Chip → Chip}

/-- A command that only completes: it begins, fixes its outcome and changes nothing else. -/
theorem runCommand_completes {status : Nat} (hq : s.chip.quiet = true) (ho : s.offers dt j opcode e)
    (hc : body e (s.ctx dt) s.chip.fresh = (s.chip.fresh.started e.slot).result e.slot status) :
    ∃ t, runAll dt (command opcode j.val body) s = .next t ∧ t.ended j status 0 ∧ t.chip.txn = s.chip.txn ∧ s.chip.regsBut t.chip [] := by
  have hslot := Merge.slot_of_startable ho.1
  have hnc := Chip.noCommit_of_quiet hq
  obtain ⟨t, ht, hc⟩ := runCommand_within (l := []) (Chip.Ready.of_quiet hq) ho hc ((Chip.Within.refl _ _).same) hnc (by simp)
  refine ⟨t, ht, ?_⟩
  rw [State.ended, hc, hslot]
  exact ⟨by simp [Chip.result, Chip.emit], rfl, fun _ _ => rfl⟩

/-- A command that gives its partition another transaction, shows it and completes. -/
theorem runCommand_opens {o : Option OpenTxn} {r : List (Nat × Word)} (hq : s.chip.quiet = true) (ho : s.offers dt j opcode e) (hp : e.part < 8)
    (hr : s.chip.fresh.Within (txnRegs e.part) (s.chip.fresh.withRegs r))
    (hc : body e (s.ctx dt) s.chip.fresh
      = ((((s.chip.fresh.withRegs r).started e.slot).setOpen e.part o).showTxn e.part).result e.slot Rc.OK) :
    ∃ t, runAll dt (command opcode j.val body) s = .next t ∧ t.began j ∧ t.ended j Rc.OK 0 ∧ t.chip.openTxn e.part = o
      ∧ t.chip.flag (Fld.TXN_STATE_OPEN e.part) = o.isSome ∧ s.chip.regsBut t.chip (txnRegs e.part)
      ∧ (s.chip.fresh.withRegs r).regsBut t.chip (txnShown e.part) := by
  have hrd := Chip.Ready.of_quiet hq
  have hslot := Merge.slot_of_startable ho.1
  have hnc := Chip.noCommit_of_quiet hq
  have hlen : s.chip.txn.opens.length = 8 := (Chip.Sound.of_quiet hq).opens_length
  generalize hd : ((s.chip.fresh.withRegs r).started e.slot).setOpen e.part o = d at hc
  have hopen : d.openTxn e.part = o := by
    rw [← hd]
    exact Chip.openTxn_setOpen (c := (s.chip.fresh.withRegs r).started e.slot) (hlen.symm ▸ hp)
  have hdn : d.noCommit = true := by
    rw [← hd]
    exact hnc
  have hwd : (s.chip.fresh.withRegs r).Within (txnShown e.part) d := by
    rw [← hd]
    exact (Chip.Within.refl _ _).same
  have hwf : Sparse.wf RegMap.resetOf d.regs = true := hwd.wf (hr.wf hrd.fresh.wf)
  have hflag := Chip.open_showTxn (p := e.part) hwf
  have hshown := hwd.showTxn (p := e.part) (List.Subset.refl _)
  obtain ⟨r', hr'⟩ := d.showTxn_eq e.part
  rw [hr'] at hc hflag hshown
  have hem : d.emits = [Emit.started j] := by
    rw [← hd, hslot]
    rfl
  obtain ⟨t, ht, htc⟩ := runCommand_within hrd ho hc ((hr.trans (hshown.mono (txnShown_subset _))).same) hdn (txnRegs_apart hp)
  refine ⟨t, ht, ?_⟩
  rw [State.began, State.ended, htc, hslot]
  have hes : ((d.withRegs r').result j Rc.OK).emits = [Emit.started j, Emit.result j Rc.OK 0] := congrArg (· ++ _) hem
  rw [hes]
  exact ⟨by simp, by simp, hopen, hflag.trans (by rw [hopen]), (hr.trans (hshown.mono (txnShown_subset _))).regs, hshown.regs⟩

/-- The clauses of TransactionsStageAndRollBack for TXN_BEGIN. -/
theorem txnBegin_acts (hq : s.chip.quiet = true) (hp : e.part < 8) (ho : s.offers dt j 0x10 e) (h : s.chip.openTxn e.part = none) :
    ∃ t, exec (.txnBegin dt j) s = .next t ∧ t.began j ∧ t.ended j Rc.OK 0
      ∧ t.chip.openTxn e.part = some { gen := s.chip.txn.gen } ∧ s.chip.regsBut t.chip (txnRegs e.part)
      ∧ t.chip.flag (Fld.TXN_STATE_OPEN e.part) = true ∧ t.chip.reg (Reg.TXN_BEGIN_GEN e.part) = BitVec.ofNat 32 s.chip.txn.gen := by
  let r := (s.chip.fresh.setReg (Reg.TXN_BEGIN_GEN e.part) (BitVec.ofNat 32 s.chip.txn.gen)).regs
  have hr : s.chip.fresh.Within (txnRegs e.part) (s.chip.fresh.withRegs r) :=
    (Chip.Within.refl _ _).setReg (off := Reg.TXN_BEGIN_GEN e.part) (by simp [txnRegs])
  obtain ⟨t, ht, hbe, hen, hopen, hflag, hregs, hshown⟩ := runCommand_opens (body := fun e x c => c.txnBegin e) hq ho hp hr
    (Chip.txnBegin_of_none (c := s.chip.fresh) h)
  refine ⟨t, ht, hbe, hen, hopen, hregs, hflag, ?_⟩
  rw [hshown _ (by simp only [txnShown, Reg.TXN_BEGIN_GEN, Reg.TXN_STATE, Reg.TXN_TRIGGER_LO, Reg.TXN_TRIGGER_HI]; simp)]
  exact Chip.reg_setReg_same (c := s.chip.fresh) (Chip.Ready.of_quiet hq).wf

theorem txnBegin_refused (hq : s.chip.quiet = true) (ho : s.offers dt j 0x10 e) {o : OpenTxn} (h : s.chip.openTxn e.part = some o) :
    ∃ t, exec (.txnBegin dt j) s = .next t ∧ t.ended j Rc.ERR_TXN_OPEN 0 ∧ t.chip.openTxn e.part = some o ∧ s.chip.regsBut t.chip [] := by
  obtain ⟨t, ht, hen, htx, hregs⟩ := runCommand_completes (body := fun e x c => c.txnBegin e) hq ho (Chip.txnBegin_of_some (c := s.chip.fresh) h)
  exact ⟨t, ht, hen, by rw [Chip.openTxn, htx]; exact h, hregs⟩

/-- The clauses of TransactionsStageAndRollBack for TXN_WRITE. -/
theorem txnWrite_acts (hq : s.chip.quiet = true) (hp : e.part < 8) (ho : s.offers dt j 0x11 e) (hform : e.param 0x10 1 = 0)
    (h4 : e.param 0x14 4 % 4 = 0) (hle : e.param 0x14 4 ≤ 0x3FFFFFC) :
    (s.chip.openTxn e.part = none → ∃ t, exec (.txnWrite dt j) s = .next t ∧ t.ended j Rc.ERR_NO_TXN 0 ∧ s.chip.regsBut t.chip [])
    ∧ ∀ o, s.chip.openTxn e.part = some o → o.entries.length < 512 →
      (s.chip.stageReg e.part (e.param 0x14 4) (e.param 0x18 4) = true →
        ∃ t, exec (.txnWrite dt j) s = .next t ∧ t.began j ∧ t.ended j Rc.OK 0
          ∧ t.chip.openTxn e.part = some { o with entries := o.entries ++
            [.reg (e.param 0x14 4) (BitVec.ofNat 32 (e.param 0x18 4)) (BitVec.ofNat 32 (e.param 0x1C 4))] }
          ∧ s.chip.regsBut t.chip (txnRegs e.part))
      ∧ (s.chip.stageReg e.part (e.param 0x14 4) (e.param 0x18 4) = false →
        ∃ t, exec (.txnWrite dt j) s = .next t ∧ t.ended j Rc.ERR_TXN_TARGET 0 ∧ t.chip.openTxn e.part = some o ∧ s.chip.regsBut t.chip []) := by
  refine ⟨fun h => ?_, fun o h hlen => ?_⟩
  · obtain ⟨t, ht, hen, -, hregs⟩ := runCommand_completes (body := fun e x c => c.txnWrite e) hq ho
      (Chip.txnWrite_of_none (c := s.chip.fresh) hform h4 hle h)
    exact ⟨t, ht, hen, hregs⟩
  · have heff := Chip.txnWrite_of_some (c := s.chip.fresh) hform h4 hle h hlen
    refine ⟨fun hst => ?_, fun hst => ?_⟩
    · obtain ⟨t, ht, hbe, hen, hopen, -, hregs, -⟩ := runCommand_opens (body := fun e x c => c.txnWrite e) (r := s.chip.regs) hq ho hp
        (Chip.Within.refl _ _) (heff.trans (if_pos hst))
      exact ⟨t, ht, hbe, hen, hopen, hregs⟩
    · obtain ⟨t, ht, hen, htx, hregs⟩ := runCommand_completes (body := fun e x c => c.txnWrite e) hq ho
        (heff.trans (if_neg (by rw [show s.chip.fresh.stageReg _ _ _ = false from hst]; decide)))
      exact ⟨t, ht, hen, by rw [Chip.openTxn, htx]; exact h, hregs⟩

/-- The clauses of TransactionsStageAndRollBack for TXN_ROLLBACK. -/
theorem txnRollback_acts (hq : s.chip.quiet = true) (hp : e.part < 8) (ho : s.offers dt j 0x13 e) :
    (∀ o, s.chip.openTxn e.part = some o → ∃ t, exec (.txnRollback dt j) s = .next t ∧ t.began j ∧ t.ended j Rc.OK 0
      ∧ t.chip.openTxn e.part = none ∧ t.chip.flag (Fld.TXN_STATE_OPEN e.part) = false ∧ s.chip.regsBut t.chip (txnRegs e.part))
    ∧ (s.chip.openTxn e.part = none → ∃ t, exec (.txnRollback dt j) s = .next t ∧ t.ended j Rc.ERR_NO_TXN 0 ∧ s.chip.regsBut t.chip []) := by
  refine ⟨fun o h => ?_, fun h => ?_⟩
  · obtain ⟨t, ht, hbe, hen, hopen, hflag, hregs, -⟩ := runCommand_opens (body := fun e x c => c.txnRollback e) (r := s.chip.regs) hq ho hp
      (Chip.Within.refl _ _) (Chip.txnRollback_of_some (c := s.chip.fresh) h)
    exact ⟨t, ht, hbe, hen, hopen, hflag, hregs⟩
  · obtain ⟨t, ht, hen, -, hregs⟩ := runCommand_completes (body := fun e x c => c.txnRollback e) hq ho
      (Chip.txnRollback_of_none (c := s.chip.fresh) h (Chip.noCommit_of_quiet hq))
    exact ⟨t, ht, hen, hregs⟩

end

/-- Settles O51: each command gives its partition another transaction and shows it, or only completes. -/
theorem transactionsStageAndRollBack : Obligations.TransactionsStageAndRollBack := by
  unfold Obligations.TransactionsStageAndRollBack
  intro dt j e s hq hp
  exact ⟨fun ho => ⟨fun h => txnBegin_acts hq hp ho h, fun o h => txnBegin_refused hq ho h⟩,
    fun ho hform h4 hle => txnWrite_acts hq hp ho hform h4 hle, fun ho => txnRollback_acts hq hp ho⟩

end Sys2Proof.Machine
end

section
/-! SUPPORT and settlement of O52 (CommitsSwitch): a commit of one entry that its unit takes at once, from its scheduling to its report. -/

namespace Sys2Proof.Machine
open Sys2Proof

/-! ### A write of THERMAL.THETA as a staged entry -/

/-- THERMAL.THETA as the map has it (R72). -/
def RegMap.theta : RegSpec := ⟨"THERMAL.THETA", 0x10078, [], .master, [⟨15, 0, .rw, 0x180⟩]⟩

theorem RegMap.find_theta : RegMap.find Reg.THERMAL_THETA = some (RegMap.theta, []) := by decide +kernel

/-- The entry that writes data to THERMAL.THETA under a mask. -/
def thetaEntry (mask data : Word) : Staged := .reg Reg.THERMAL_THETA mask data

/-- The word that a masked write leaves (R61). -/
def maskedIn (old mask data : Word) : Word := (old &&& ~~~mask) ||| (data &&& mask)

section
variable (c : Chip) (mask data : Word)

/-- The entry belongs to the SAFETY unit, whose safe point is any instant: it meets no lock and waits for no axis (R62, R64). -/
theorem thetaEntry_unit : (thetaEntry mask data).unit = 1 := by
  show unitOf Reg.THERMAL_THETA = 1
  decide +kernel

theorem stagedUnits_theta : stagedUnits [thetaEntry mask data] = [1] := by
  rw [stagedUnits, List.map_cons, thetaEntry_unit]
  rfl

theorem Chip.axisBusy_theta : c.axisBusy (thetaEntry mask data) = false := rfl

theorem Chip.lockedEntry_theta : c.lockedEntry (thetaEntry mask data) = false := by
  simp only [Chip.lockedEntry, thetaEntry, RegMap.find_theta]
  rfl

end

/-! ### The only commit of the chip -/

/-- The chip with this commit as its only one. -/
def Chip.withCommits (c : Chip) (l : List Commit) : Chip := c.updTxn fun x => { x with commits := l }

section
variable {c : Chip} {m : Commit} {now p : Nat}

theorem Chip.commitOf_single (h : c.txn.commits = [m]) (hp : m.part = p) : c.commitOf p = some m := by simp [Chip.commitOf, h, hp]

theorem Chip.updCommit_single (h : c.txn.commits = [m]) (hp : m.part = p) (f : Commit → Commit) : c.updCommit p f = c.withCommits [f m] := by
  simp [Chip.updCommit, Chip.withCommits, Chip.updTxn, h, hp]

theorem Chip.dropCommit_single (h : c.txn.commits = [m]) (hp : m.part = p) : c.dropCommit p = c.withCommits [] := by
  simp [Chip.dropCommit, Chip.withCommits, Chip.updTxn, h, hp]

theorem Chip.commits_single (h : c.txn.commits = [m]) : c.commits = [m] := by simp [Chip.commits, h, insertCommit]

end

/-! ### The registers of a commit -/

/-- The registers of a partition and of the unit that a commit changes. -/
def commitRegs (p : Nat) : List Nat :=
  [Reg.TXN_STATE p, Reg.TXN_BEGIN_GEN p, Reg.TXN_RESULT p, Reg.TXN_TRIGGER_LO p, Reg.TXN_TRIGGER_HI p, Reg.TXN_GEN, Reg.TXN_LOG_OLDEST]
    ++ (List.range 128).map (Reg.TXN_SWITCH_TIME p)

/-- Those of them that its end changes. -/
def endRegs (p : Nat) : List Nat := Reg.TXN_RESULT p :: txnShown p

theorem commitRegs_between {p o : Nat} (hp : p < 8) (h : o ∈ commitRegs p) : 0x40000 ≤ o ∧ o < 0x50000 := by
  rcases List.mem_append.1 h with h | h
  · simp only [List.mem_cons, List.not_mem_nil, or_false, Reg.TXN_STATE, Reg.TXN_BEGIN_GEN, Reg.TXN_RESULT, Reg.TXN_TRIGGER_LO,
      Reg.TXN_TRIGGER_HI, Reg.TXN_GEN, Reg.TXN_LOG_OLDEST] at h
    omega
  · obtain ⟨u, hu, rfl⟩ := List.mem_map.1 h
    have := List.mem_range.1 hu
    unfold Reg.TXN_SWITCH_TIME
    omega

theorem commitRegs_apart {p : Nat} (h : p < 8) : Reg.POWER_STATUS ∉ commitRegs p ∧ Reg.SUMP_STATUS ∉ commitRegs p ∧ Reg.THERMAL_THETA ∉ commitRegs p :=
  ⟨fun hm => absurd (commitRegs_between h hm) (by decide), fun hm => absurd (commitRegs_between h hm) (by decide),
    fun hm => absurd (commitRegs_between h hm) (by decide)⟩

theorem endRegs_subset (p : Nat) : endRegs p ⊆ commitRegs p := by simp [endRegs, txnShown, commitRegs]

theorem switchTime_mem {p u : Nat} (h : u < 128) : Reg.TXN_SWITCH_TIME p u ∈ commitRegs p :=
  List.mem_append_right _ (List.mem_map_of_mem (List.mem_range.2 h))

theorem switchTime_apart (p u : Nat) : Reg.TXN_SWITCH_TIME p u ∉ endRegs p := by
  simp only [endRegs, txnShown, List.mem_cons, List.not_mem_nil, or_false, Reg.TXN_SWITCH_TIME, Reg.TXN_RESULT, Reg.TXN_STATE,
    Reg.TXN_TRIGGER_LO, Reg.TXN_TRIGGER_HI]
  omega

section
variable {c c' : Chip} {p : Nat} {l : List Nat}

theorem Chip.Within.showResult {status units span : Nat} (h : c.Within l c') (hm : Reg.TXN_RESULT p ∈ l) :
    c.Within l (c'.showResult p status units span) := ((h.setFld hm).setFld hm).setFld hm

theorem Chip.Within.result {slot status detail : Nat} (h : c.Within l c') : c.Within l (c'.result slot status detail) := h.same

theorem Chip.withRegs_withRegs (c : Chip) (r r' : List (Nat × Word)) : (c.withRegs r).withRegs r' = c.withRegs r' := rfl

end

/-! ### The end of a commit -/

/-- What a commit of one unit reports when it has switched at an instant: the completion of a SAFE commit, else a record (R68, R408). -/
def Commit.switchedAt (m : Commit) (now : Nat) : Emit :=
  match m.slot with
  | some k => .resultAt k Rc.OK (2 ^ 24) now
  | none => .event { status := Rc.TXN_SWITCHED, opcode := m.opcode, tag := m.tag, detail := 2 ^ 24, dest := .part m.part, time := some now }

section
variable {c : Chip} {m : Commit} {now : Nat}

/-- A commit without a unit left is over: its end is shown and reported (R68). -/
theorem Chip.endCommit_of_empty (hm : c.txn.commits = [m]) (hl : m.left = []) : ∃ r,
    c.endCommit now m.part = ((c.withRegs r).withCommits []).reportCommit m now Rc.TXN_SWITCHED m.detail (some m.last)
      ∧ c.Within (endRegs m.part) (c.withRegs r) := by
  let d := (c.withCommits []).showResult m.part (if m.slot.isSome then Rc.OK else Rc.TXN_SWITCHED) m.units (m.last - m.first)
  have hd : c.Within (endRegs m.part) (d.showTxn m.part) :=
    (((Chip.Within.refl c _).same (c'' := c.withCommits [])).showResult (List.mem_cons_self ..)).showTxn (List.subset_cons_self _ _)
  obtain ⟨r, hr⟩ := d.showTxn_eq m.part
  refine ⟨r, ?_, (hr ▸ hd).same⟩
  simp only [Chip.endCommit, Chip.commitOf_single hm rfl, hl, List.isEmpty_nil, Bool.not_true, Bool.false_eq_true, if_false,
    Chip.dropCommit_single hm rfl]
  rw [show ((c.withCommits []).showResult m.part _ m.units (m.last - m.first)).showTxn m.part = _ from hr]
  rfl

/-- The report of a commit of one unit that switched at this instant. -/
theorem Chip.reportCommit_switched (hu : m.units = 1) (hf : m.first = now) (hl : m.last = now) :
    c.reportCommit m now Rc.TXN_SWITCHED m.detail (some m.last) = c.emit (m.switchedAt now) := by
  have hd : m.detail = 2 ^ 24 := by simp [Commit.detail, hu, hf, hl, satN]
  unfold Chip.reportCommit Commit.switchedAt
  rw [hd, hl]
  split
  · rename_i k hk
    simp [hk]
  · rename_i hk
    simp [hk]

/-- The last and only unit of a commit switches: the chip without a commit, its report handed over, and its registers shown (R68, R73). -/
theorem Chip.unitSwitched_last {u : Nat} (hm : c.txn.commits = [m]) (hl : m.left = [u]) (hu : m.units = 0) (h0 : m.last = 0)
    (hw : Sparse.wf RegMap.resetOf c.regs = true) (hlt : u < 128) :
    ∃ r, c.unitSwitched now m.part u now = ((c.withRegs r).withCommits []).emit (m.switchedAt now)
      ∧ c.Within (commitRegs m.part) (c.withRegs r) ∧ (c.withRegs r).reg (Reg.TXN_SWITCH_TIME m.part u) = BitVec.ofNat 32 now := by
  let c1 := c.setReg (Reg.TXN_SWITCH_TIME m.part u) (BitVec.ofNat 32 now)
  let m1 : Commit := { m.begins now with left := [], first := now, last := now, units := 1 }
  have h1 : c1.updCommit m.part (fun m => { m.begins now with
      left := m.left.filter fun k => k != u
      first := if m.units = 0 then now else min m.first now
      last := max m.last now
      units := m.units + 1 }) = c1.withCommits [m1] := by
    rw [Chip.updCommit_single (c := c1) hm rfl]
    simp [m1, hl, hu, h0, Commit.begins]
  have hshow : c1.Within (endRegs m.part) ((c1.withCommits [m1]).showTxn m.part) :=
    ((Chip.Within.refl c1 _).same (c'' := c1.withCommits [m1])).showTxn (List.subset_cons_self _ _)
  obtain ⟨r2, h2⟩ := (c1.withCommits [m1]).showTxn_eq m.part
  rw [h2] at hshow
  obtain ⟨r, hend, hwr⟩ := Chip.endCommit_of_empty (c := (c1.withCommits [m1]).withRegs r2) (m := m1) (now := now) rfl rfl
  have hend' : c1.Within (endRegs m.part) (c.withRegs r) := (hshow.trans hwr).same
  refine ⟨r, ?_, ((Chip.Within.refl c _).setReg (switchTime_mem hlt)).trans (hend'.mono (endRegs_subset _)), ?_⟩
  · unfold Chip.unitSwitched
    dsimp only
    rw [h1, h2]
    exact hend.trans (Chip.reportCommit_switched rfl rfl rfl)
  · exact (hend'.reg (switchTime_apart _ _)).trans (Chip.reg_setReg_same hw)

/-- The chip after a commit of this entry: its register written and noted as touched, the commit over and reported (R61, R68). -/
structure Chip.Switched (c c' : Chip) (p : Nat) (mask data : Word) (now : Nat) (em : Emit) : Prop where
  within : c.Within (Reg.THERMAL_THETA :: commitRegs p) c'
  theta : c'.reg Reg.THERMAL_THETA = maskedIn (c.reg Reg.THERMAL_THETA) mask data
  time : c'.reg (Reg.TXN_SWITCH_TIME p 1) = BitVec.ofNat 32 now
  txn : c'.txn = { c.txn with commits := [], touched := [(Reg.THERMAL_THETA, c.reg Reg.THERMAL_THETA)] }
  emits : c'.emits = c.emits ++ [em]

variable {mask data : Word}

theorem Chip.applyUnit_theta (hent : m.entries = [thetaEntry mask data]) : c.applyUnit m 1 = c.applyEntry (thetaEntry mask data) := by
  have hu := thetaEntry_unit mask data
  simp only [Chip.applyUnit, hent, List.filter_cons, hu, BEq.rfl, if_true, List.filter_nil]
  rfl

theorem Chip.switchUnit_theta (hm : c.txn.commits = [m]) (ht : c.txn.touched = []) (hent : m.entries = [thetaEntry mask data]) (hl : m.left = [1])
    (hu : m.units = 0) (h0 : m.last = 0) (hw : Sparse.wf RegMap.resetOf c.regs = true) (hp : m.part < 8) :
    c.Switched (c.switchUnit now m.part 1 now) m.part mask data now (m.switchedAt now) := by
  let c1 := c.applyEntry (thetaEntry mask data)
  let new := maskedIn (c.reg Reg.THERMAL_THETA) mask data
  have hc1 : c1 = (c.setReg Reg.THERMAL_THETA new).updTxn fun x => { x with touched := [(Reg.THERMAL_THETA, c.reg Reg.THERMAL_THETA)] } := by
    have happ : c1 = (c.setReg Reg.THERMAL_THETA new).updTxn fun x => { x with
        touched := if c.txn.touched.any (fun e => e.1 == Reg.THERMAL_THETA) then c.txn.touched
          else c.txn.touched ++ [(Reg.THERMAL_THETA, c.reg Reg.THERMAL_THETA)] } := rfl
    rw [happ, ht]
    rfl
  have hw1 : Sparse.wf RegMap.resetOf c1.regs = true := by
    rw [hc1]
    exact Chip.wf_setReg hw
  obtain ⟨r, he, hwi, htime⟩ := Chip.unitSwitched_last (c := c1) (now := now) (by rw [hc1]; exact hm) hl hu h0 hw1 (show 1 < 128 by decide)
  have hs : c.switchUnit now m.part 1 now = ((c1.withRegs r).withCommits []).emit (m.switchedAt now) := by
    rw [← he, Chip.switchUnit, Chip.commitOf_single hm rfl]
    simp only [hl, List.contains_cons, BEq.rfl, Bool.true_or, if_true, Chip.applyUnit_theta hent]
    rfl
  have hwc : c.Within (Reg.THERMAL_THETA :: commitRegs m.part) c1 := by
    rw [hc1]
    exact ((Chip.Within.refl c _).setReg (List.mem_cons_self ..)).same
  have htheta : c1.reg Reg.THERMAL_THETA = new := by
    rw [hc1]
    exact Chip.reg_setReg_same hw
  rw [hs]
  exact {
    within := (hwc.trans (hwi.mono (List.subset_cons_self _ _))).same
    theta := (hwi.reg (commitRegs_apart hp).2.2).trans htheta
    time := htime
    txn := by rw [hc1]; rfl
    emits := by rw [hc1]; rfl }

/-- The SAFETY unit has no longer safe point (R64). -/
theorem Chip.switchNow_single (hm : c.txn.commits = [m]) (hl : m.left = [1]) : c.switchNow now m.part = c.switchUnit now m.part 1 now := by
  unfold Chip.switchNow
  rw [Chip.commitOf_single hm rfl]
  simp [hl]

/-- A commit whose only unit is SAFETY fires: it switches at that instant (R64 to R67). -/
theorem Chip.fire_theta (hm : c.txn.commits = [m]) (ht : c.txn.touched = []) (hent : m.entries = [thetaEntry mask data]) (hl : m.left = [1])
    (hf : m.fired = false) (hu : m.units = 0) (h0 : m.last = 0) (hw : Sparse.wf RegMap.resetOf c.regs = true)
    (hp : m.part < 8) : c.Switched (c.fire now m.part) m.part mask data now (m.switchedAt now) := by
  let m1 : Commit := { m with fired := true, firedAt := match m.trig with | .time t => t | _ => now }
  have hsw : (c.withCommits [m1]).switchNow now m.part = (c.withCommits [m1]).switchUnit now m.part 1 now :=
    Chip.switchNow_single (c := c.withCommits [m1]) (m := m1) rfl hl
  have hfire : c.fire now m.part = (c.withCommits [m1]).switchUnit now m.part 1 now := by
    have hbusy : (!m.begun && m.entries.any c.axisBusy) = false := by simp [hent, Chip.axisBusy_theta]
    simp only [Chip.fire, Chip.commitOf_single hm rfl, hf, Bool.false_eq_true, if_false, hbusy, Chip.updCommit_single hm rfl]
    exact hsw
  rw [hfire]
  have h := Chip.switchUnit_theta (c := c.withCommits [m1]) (m := m1) (now := now) rfl ht hent hl hu h0 hw hp
  exact { within := ((Chip.Within.refl c _).same (c'' := c.withCommits [m1])).trans h.within, theta := h.theta, time := h.time, txn := h.txn, emits := h.emits }

end

/-! ### A commit is scheduled -/

section
variable {c : Chip} {m : Commit} {now : Nat} {mask data : Word}

/-- A commit of this entry enters with its one unit, the only commit when none waits (R63). -/
theorem Chip.commits_enterCommit (hc : c.txn.commits = []) (hent : m.entries = [thetaEntry mask data]) :
    (c.enterCommit m).txn.commits = [{ m with left := [1] }] := by
  show c.txn.commits ++ [{ m with left := stagedUnits m.entries }] = _
  rw [hc, hent, stagedUnits_theta]
  rfl

/-- A commit without a belt position finds no line planned for its trigger (R212). -/
theorem Chip.frozen_of_unbelted (h : ∀ t, m.trig ≠ .belt t) (t : Nat) : c.frozen m t = c := by
  unfold Chip.frozen
  split
  · rename_i pos hpos
    exact absurd hpos (h pos)
  · rfl

/-- Actions that each change registers alone do so one after the other. -/
theorem Chip.each_withRegs {α : Type} {xs : List α} {f : α → Chip → Chip} (hf : ∀ x d, ∃ r, f x d = d.withRegs r) (c : Chip) :
    ∃ r, c.each xs f = c.withRegs r := by
  unfold Chip.each
  induction xs generalizing c with
  | nil => exact ⟨c.regs, rfl⟩
  | cons x xs ih =>
    obtain ⟨r, hr⟩ := hf x c
    obtain ⟨r', hr'⟩ := ih (f x c)
    exact ⟨r', by rw [List.foldl_cons, hr', hr, Chip.withRegs_withRegs]⟩

theorem Chip.prepareTables_theta : c.prepareTables now [thetaEntry mask data] = c := rfl

/-- A commit of this entry is entered and shown, and fires at once under SAFE (R63, R64). -/
theorem Chip.schedule_theta (hent : m.entries = [thetaEntry mask data]) (hb : ∀ t, m.trig ≠ .belt t) : ∃ r,
    c.schedule now m = (if m.trig = .safe then ((c.enterCommit m).withRegs r).fire now m.part else (c.enterCommit m).withRegs r)
      ∧ c.Within (commitRegs m.part) ((c.enterCommit m).withRegs r) := by
  let c1 := c.enterCommit m
  let c2 := (c1.setReg Reg.TXN_GEN (BitVec.ofNat 32 c1.txn.gen)).setReg Reg.TXN_LOG_OLDEST (BitVec.ofNat 32 c1.txn.oldest)
  let c3 := c2.each (List.range 128) fun u c => c.setReg (Reg.TXN_SWITCH_TIME m.part u) 0xFFFFFFFF
  let c4 := c3.showTxn m.part
  have h2 : c.Within (commitRegs m.part) c2 :=
    (((Chip.Within.refl c _).same (c'' := c1)).setReg (by simp [commitRegs])).setReg (by simp [commitRegs])
  have h3 : c.Within (commitRegs m.part) c3 :=
    h2.each fun u hu d hd => hd.setReg (switchTime_mem (List.mem_range.1 hu))
  have h4 : c.Within (commitRegs m.part) c4 := h3.showTxn fun o ho => endRegs_subset _ (List.mem_cons_of_mem _ ho)
  obtain ⟨r3, hr3 : c3 = c2.withRegs r3⟩ := Chip.each_withRegs (fun u d => ⟨_, rfl⟩) c2
  obtain ⟨r, hr : c4 = c3.withRegs r⟩ := c3.showTxn_eq m.part
  have hr1 : c4 = c1.withRegs r := by
    rw [hr, hr3]
    rfl
  refine ⟨r, ?_, ?_⟩
  · have hfr : ((c3.prepareTables now m.entries).showTxn m.part).each (List.range 64)
        (fun t c => c.frozen { m with left := stagedUnits m.entries } t) = c4 := by
      rw [Chip.each_fixed fun t _ => Chip.frozen_of_unbelted (m := { m with left := stagedUnits m.entries }) hb t, hent,
        Chip.prepareTables_theta]
    unfold Chip.schedule
    dsimp only
    rw [hfr, hr1]
  · rw [hr1] at h4
    exact h4

end

/-! ### TXN_COMMIT -/

/-- The commit that a command makes of these entries under a trigger. -/
def JEntry.commit (e : JEntry) (trig : Trigger) (l : List Staged) : Commit :=
  { part := e.part, seq := e.seq, tag := e.tag.toNat, opcode := e.opcode, slot := if trig = .safe then some e.slot else none, trig := trig, entries := l }

section
variable {c : Chip} {e : JEntry} {x : Ctx} {trig : Trigger} {now gen : Nat} {mask data : Word}

/-- A commit of this entry that passes every check closes its transaction and is scheduled (R62 to R64). -/
theorem Chip.commitEntries_theta (hc : c.txn.commits = []) (hcf : c.conflict gen [thetaEntry mask data] = none)
    (ht : c.badTrigger now trig = none) : c.commitEntries now e trig gen [thetaEntry mask data] true true
      = (if trig = .safe then c.setOpen e.part none
          else ((c.setOpen e.part none).showResult e.part Rc.TXN_SCHEDULED 0 0).result e.slot Rc.TXN_SCHEDULED).schedule now
        (e.commit trig [thetaEntry mask data]) := by
  have hco : c.commitOf e.part = none := by simp [Chip.commitOf, hc]
  by_cases hs : trig = .safe
  · subst hs
    simp only [Chip.commitEntries, hco, hcf, ht, JEntry.commit, Option.isSome_none, Bool.false_eq_true, if_false, List.any_cons, List.any_nil,
      Bool.or_false, Chip.lockedEntry_theta, Chip.axisBusy_theta, and_false, Bool.and_false, if_true]
  · simp only [Chip.commitEntries, hco, hcf, ht, hs, JEntry.commit, Option.isSome_none, Bool.false_eq_true, if_false, List.any_cons, List.any_nil,
      Bool.or_false, Chip.lockedEntry_theta, false_and, Bool.and_false, if_true]

/-- A time ahead by at most 60 s may be a trigger (R66). -/
theorem Chip.badTrigger_time {u : Nat} (hlt : now < u) (hle : u ≤ now + 60000000000) : c.badTrigger now (.time u) = none := by
  unfold Chip.badTrigger
  dsimp only
  rw [if_neg (by omega), if_neg (by omega)]

theorem Chip.txnCommit_of_some {o : OpenTxn} {st : Staged} (hmode : e.param 0x10 1 ≤ 2) (h : c.openTxn e.part = some o) (ho : o.entries = [st]) :
    c.txnCommit x e
      = (c.started e.slot).commitEntries x.now e (triggerOf (e.param 0x10 1) (e.param 0x18 8)) o.gen [st] true true := by
  replace h : (c.started e.slot).openTxn e.part = some o := h
  simp only [Chip.txnCommit, Nat.not_lt.2 hmode, if_false, h, ho, List.isEmpty_cons, Bool.false_eq_true]

end

section
variable {dt : Nat} {s : State} {e : JEntry} {j : Fin 4096} {mask data : Word} {o : OpenTxn}

/-- What a switch of this entry leaves to be done is nothing: the register acts by its value alone. -/
theorem settle_switched {c : Chip} {l : List Nat} {now : Nat} {m : Merge} {old : Word} (hr : s.chip.Ready) (hw : s.chip.fresh.Within l c)
    (hl : Reg.POWER_STATUS ∉ l ∧ Reg.SUMP_STATUS ∉ l) (hc : c.txn.commits = []) (hs : c.txn.switched = [])
    (ht : c.txn.touched = [(Reg.THERMAL_THETA, old)]) : settle now (m, c) = (m, c.cleared) := by
  refine settle_of_rested (by simp [Chip.commits, hc]) hs (fun ent hent => ?_) (hr.fresh.rested.of_within hw.cleared hl.1)
  rw [ht] at hent
  cases List.mem_singleton.1 hent
  exact regEffect_of_silent (b := Reg.THERMAL_THETA) rfl RegMap.find_theta rfl (hr.stopped_within hw.cleared hl.2)

/-- The next state of a command that ends in the switch of this entry, after what else it did to the registers of the commit. -/
theorem runAll_switched {f : Ctx → Chip → Chip} {d c : Chip} {p now : Nat} {em : Emit} (hr : s.chip.Ready) (hp : p < 8)
    (hw : s.chip.fresh.Within (commitRegs p) d) (hs : d.txn.switched = []) (hsw : d.Switched c p mask data now em)
    (hc : f (s.ctx dt) s.chip.fresh = c) : ∃ t, runAll dt f s = .next t ∧ t.chip = c.cleared
      ∧ t.chip.reg Reg.THERMAL_THETA = maskedIn (s.chip.reg Reg.THERMAL_THETA) mask data
      ∧ s.chip.regsBut t.chip (Reg.THERMAL_THETA :: commitRegs p) := by
  obtain ⟨hps, hss, htt⟩ := commitRegs_apart hp
  have hwc : s.chip.fresh.Within (Reg.THERMAL_THETA :: commitRegs p) c := (hw.mono (List.subset_cons_self _ _)).trans hsw.within
  have hl : Reg.POWER_STATUS ∉ Reg.THERMAL_THETA :: commitRegs p ∧ Reg.SUMP_STATUS ∉ Reg.THERMAL_THETA :: commitRegs p :=
    ⟨fun h => hps ((List.mem_cons.1 h).resolve_left (by decide)), fun h => hss ((List.mem_cons.1 h).resolve_left (by decide))⟩
  obtain ⟨t, ht, htc⟩ := runAll_chip (dt := dt) (f := f) (c := c.cleared) (m := s.merge) hr.serving
    (by rw [hc]; exact settle_switched hr hwc hl (by rw [hsw.txn]) (by rw [hsw.txn]; exact hs) (by rw [hsw.txn]))
    (hr.stopped_within hwc.cleared hl.2)
  refine ⟨t, ht, htc, ?_, ?_⟩
  · rw [htc]
    refine hsw.theta.trans ?_
    rw [hw.reg htt]
    rfl
  · rw [htc]
    exact hwc.cleared.regs

/-- The clause of CommitsSwitch for a SAFE commit. -/
theorem txnCommit_safe (hq : s.chip.quiet = true) (hp : e.part < 8) (ho : s.offers dt j 0x12 e) (hopen : s.chip.openTxn e.part = some o)
    (hent : o.entries = [thetaEntry mask data]) (hcf : s.chip.conflict o.gen [thetaEntry mask data] = none) (hmode : e.param 0x10 1 = 0) :
    ∃ t, exec (.txnCommit dt j) s = .next t ∧ t.chip.reg Reg.THERMAL_THETA = maskedIn (s.chip.reg Reg.THERMAL_THETA) mask data ∧ t.began j
      ∧ Emit.resultAt j Rc.OK (2 ^ 24) (s.at_ dt) ∈ t.chip.emits ∧ t.chip.openTxn e.part = none ∧ t.chip.txn.commits = []
      ∧ t.chip.txn.gen = s.chip.txn.gen + 1 ∧ t.chip.reg (Reg.TXN_SWITCH_TIME e.part 1) = BitVec.ofNat 32 (s.at_ dt)
      ∧ s.chip.regsBut t.chip (Reg.THERMAL_THETA :: commitRegs e.part) := by
  have hrd := Chip.Ready.of_quiet hq
  obtain ⟨hc0, ht0, hs0⟩ := Chip.noCommit_iff.1 (Chip.noCommit_of_quiet hq)
  have hslot := Merge.slot_of_startable ho.1
  let d := (s.chip.fresh.started e.slot).setOpen e.part none
  let m := e.commit .safe [thetaEntry mask data]
  let m1 : Commit := { m with left := [1] }
  obtain ⟨r, hsch, hwr⟩ := Chip.schedule_theta (c := d) (m := m) (now := s.at_ dt) rfl (by simp [m, JEntry.commit])
  rw [if_pos (show m.trig = .safe from rfl)] at hsch
  let f := (d.enterCommit m).withRegs r
  have hwf : s.chip.fresh.Within (commitRegs e.part) f := ((Chip.Within.refl _ _).same (c'' := d)).trans hwr
  have hcm : f.txn.commits = [m1] := Chip.commits_enterCommit (m := m) hc0 rfl
  have hsw : f.Switched (f.fire (s.at_ dt) e.part) e.part mask data (s.at_ dt) (.resultAt e.slot Rc.OK (2 ^ 24) (s.at_ dt)) :=
    Chip.fire_theta (m := m1) hcm ht0 rfl rfl rfl rfl rfl (hwf.wf hrd.fresh.wf) hp
  have hbody : s.chip.fresh.txnCommit (s.ctx dt) e = f.fire (s.at_ dt) e.part := by
    have hce := Chip.commitEntries_theta (c := s.chip.fresh.started e.slot) (e := e) (trig := .safe) (now := s.at_ dt) hc0 hcf rfl
    rw [if_pos rfl] at hce
    rw [Chip.txnCommit_of_some (c := s.chip.fresh) (by omega) hopen hent, hmode]
    exact hce.trans hsch
  obtain ⟨t, ht, htc, htheta, hregs⟩ := runAll_switched hrd hp hwf hs0 hsw ((hrd.command_eq (body := fun e x c => c.txnCommit x e) ho).trans hbody)
  have hopens : d.openTxn e.part = none :=
    Chip.openTxn_setOpen (c := s.chip.fresh.started e.slot) ((Chip.Sound.of_quiet hq).opens_length.symm ▸ hp)
  have htxn : t.chip.txn = { f.txn with commits := [], touched := [], switched := [] } := by
    rw [htc, Chip.cleared, hsw.txn]
  have hem : t.chip.emits = [Emit.started j, Emit.resultAt j Rc.OK (2 ^ 24) (s.at_ dt)] := by
    rw [htc, ← hslot]
    exact hsw.emits
  refine ⟨t, ht, htheta, ?_, by rw [hem]; simp, ?_, by rw [htxn], by rw [htxn]; rfl, by rw [htc]; exact hsw.time, hregs⟩
  · rw [State.began, hem]
    simp
  · rw [Chip.openTxn, htxn]
    exact hopens

/-- The clause of CommitsSwitch for a commit at a time to come. -/
theorem txnCommit_atTime (hq : s.chip.quiet = true) (hp : e.part < 8) (ho : s.offers dt j 0x12 e) (hopen : s.chip.openTxn e.part = some o)
    (hent : o.entries = [thetaEntry mask data]) (hcf : s.chip.conflict o.gen [thetaEntry mask data] = none) (hmode : e.param 0x10 1 = 2)
    (hlt : s.at_ dt < e.param 0x18 8) (hle : e.param 0x18 8 ≤ s.at_ dt + 60000000000) :
    ∃ t c, exec (.txnCommit dt j) s = .next t ∧ t.ended j Rc.TXN_SCHEDULED 0 ∧ t.chip.openTxn e.part = none ∧ t.chip.txn.commits = [c]
      ∧ c.part = e.part ∧ c.trig = .time (e.param 0x18 8) ∧ c.entries = [thetaEntry mask data] ∧ c.left = [1] ∧ c.fired = false ∧ c.begun = false
      ∧ s.chip.regsBut t.chip (commitRegs e.part) := by
  have hrd := Chip.Ready.of_quiet hq
  obtain ⟨hc0, ht0, hs0⟩ := Chip.noCommit_iff.1 (Chip.noCommit_of_quiet hq)
  obtain ⟨hps, hss, -⟩ := commitRegs_apart hp
  have hslot := Merge.slot_of_startable ho.1
  let trig := Trigger.time (e.param 0x18 8)
  let d := (s.chip.fresh.started e.slot).setOpen e.part none
  let d' := (d.showResult e.part Rc.TXN_SCHEDULED 0 0).result e.slot Rc.TXN_SCHEDULED
  let m := e.commit trig [thetaEntry mask data]
  let m1 : Commit := { m with left := [1] }
  obtain ⟨r, hsch, hwr⟩ := Chip.schedule_theta (c := d') (m := m) (now := s.at_ dt) rfl (by simp [m, trig, JEntry.commit])
  rw [if_neg (show m.trig ≠ .safe by simp [m, trig, JEntry.commit])] at hsch
  let f := (d'.enterCommit m).withRegs r
  have hwd : s.chip.fresh.Within (commitRegs e.part) d' :=
    (((Chip.Within.refl _ _).same (c'' := d)).showResult (endRegs_subset e.part (List.mem_cons_self ..))).result
  have hwf : s.chip.fresh.Within (commitRegs e.part) f := hwd.trans hwr
  have hcm : f.txn.commits = [m1] := Chip.commits_enterCommit (m := m) hc0 rfl
  have hbody : s.chip.fresh.txnCommit (s.ctx dt) e = f := by
    have hce := Chip.commitEntries_theta (c := s.chip.fresh.started e.slot) (e := e) (trig := trig) (now := s.at_ dt) hc0 hcf (Chip.badTrigger_time hlt hle)
    rw [if_neg (show trig ≠ .safe by simp [trig])] at hce
    rw [Chip.txnCommit_of_some (c := s.chip.fresh) (by omega) hopen hent, hmode]
    exact hce.trans hsch
  have hcl : f.cleared = f := Chip.cleared_of_nil ht0 hs0
  have hset : settle (s.at_ dt) (s.merge, f) = (s.merge, f) := by
    have := settle_of_rested (c := f) (now := s.at_ dt) (m := s.merge) (by rw [Chip.commits_single hcm]; rfl) hs0
      (by rw [show f.txn.touched = [] from ht0]; simp) (hrd.fresh.rested.of_within hwf.cleared hps)
    rwa [hcl] at this
  have hcmd : command 0x12 j.val (fun e x c => c.txnCommit x e) (s.ctx dt) s.chip.fresh = f := (hrd.command_eq ho).trans hbody
  obtain ⟨t, ht, htc⟩ := runAll_chip (dt := dt) (f := command 0x12 j.val fun e x c => c.txnCommit x e) (m := s.merge) hrd.serving
    (by rw [hcmd]; exact hset) (hrd.stopped_within hwf hss)
  have hopens : d.openTxn e.part = none :=
    Chip.openTxn_setOpen (c := s.chip.fresh.started e.slot) ((Chip.Sound.of_quiet hq).opens_length.symm ▸ hp)
  have hem : f.emits = [Emit.started j, Emit.result j Rc.TXN_SCHEDULED 0] := by
    rw [← hslot]
    rfl
  refine ⟨t, m1, ht, ?_, ?_, by rw [htc]; exact hcm, rfl, rfl, rfl, rfl, rfl, rfl, ?_⟩
  · rw [State.ended, htc, hem]
    simp
  · rw [htc]
    exact hopens
  · rw [htc]
    exact hwf.regs

/-- The clause of CommitsSwitch for the instant of a commit. -/
theorem txnAtTimeTrigger_acts (hh : s.chip.unhurried = true) (hcal : s.chip.eng.calJobs = []) (hpr : s.chip.eng.prime = none) (p : Fin 8)
    {c : Commit} {u part : Nat} (hp : part < 8) (ht0 : s.chip.txn.touched = []) (hs0 : s.chip.txn.switched = []) (hcm : s.chip.txn.commits = [c])
    (hpart : c.part = part) (htr : c.trig = .time u) (hu : u ≤ s.at_ dt) (hent : c.entries = [thetaEntry mask data]) (hl : c.left = [1])
    (hslot : c.slot = none) (hf : c.fired = false) (hun : c.units = 0) (h0 : c.last = 0) :
    ∃ t, exec (.txnAtTimeTrigger dt p) s = .next t ∧ t.chip.reg Reg.THERMAL_THETA = maskedIn (s.chip.reg Reg.THERMAL_THETA) mask data
      ∧ t.chip.txn.commits = []
      ∧ t.raised { status := Rc.TXN_SWITCHED, opcode := c.opcode, tag := c.tag, detail := 2 ^ 24, dest := .part part, time := some (s.at_ dt) }
      ∧ s.chip.regsBut t.chip (Reg.THERMAL_THETA :: commitRegs part) := by
  have hrd := Chip.Ready.of_unhurried hh hcal hpr
  subst hpart
  have hsw := Chip.fire_theta (c := s.chip.fresh) (now := s.at_ dt) hcm ht0 hent hl hf hun h0 hrd.fresh.wf hp
  have heff : clocked (fun x c => c.fireDue x.now) (s.ctx dt) s.chip.fresh = s.chip.fresh.fire (s.at_ dt) c.part := by
    have hdue : s.chip.fresh.reached (s.at_ dt) c.trig = true := by simp [htr, Chip.reached, hu]
    rw [clocked_of_fast hrd.fresh.fast, Chip.fireDue, Chip.commits_single (c := s.chip.fresh) hcm]
    simp [hf, State.ctx, hdue]
  obtain ⟨t, ht, htc, htheta, hregs⟩ := runAll_switched hrd hp (Chip.Within.refl _ _) hs0 hsw heff
  refine ⟨t, ht, htheta, ?_, ?_, hregs⟩
  · rw [htc, Chip.cleared, hsw.txn]
  · rw [State.raised, htc]
    show _ ∈ (s.chip.fresh.fire (s.at_ dt) c.part).emits
    rw [hsw.emits, Commit.switchedAt, hslot]
    simp

end

/-- Settles O52: the commit is scheduled or fires, its one unit switches at that instant, and its end is reported. -/
theorem commitsSwitch : Obligations.CommitsSwitch := by
  unfold Obligations.CommitsSwitch
  intro dt e mask data s hp
  refine ⟨fun j o hq ho hopen hent hcf => ⟨fun hmode => txnCommit_safe hq hp ho hopen hent hcf hmode,
    fun hmode hlt hle => txnCommit_atTime hq hp ho hopen hent hcf hmode hlt hle⟩, ?_⟩
  intro p c u hh hcal hpr ht0 hs0 hcm hpart htr hu hent hl hslot hf _ hun h0 _
  exact txnAtTimeTrigger_acts hh hcal hpr p hp ht0 hs0 hcm hpart htr hu hent hl hslot hf hun h0

end Sys2Proof.Machine
end

section
/-! Refutation of O27 (LineScanActs): a correction held for a partition number beyond the eight, whose TXN.STATE would lie where TXN.GEN does. -/

namespace Sys2Proof.Machine
open Sys2Proof

/-- A quiet chip in IDLE with a correction held for partition 8, which the block does not have, and bit 2 set where that partition's classes would be. SEAM.CTL.PART has three bits, so no run comes here; the statement speaks of every quiet chip all the same. -/
def heldBeyond : State where
  chip := (((({ eng := { starting := false } } : Chip).setFld Fld.GLOBAL_STATUS_ENGINE_STATE St.idle).setFld (Fld.HOST_PART_PRIV_CLASS 8) 4).updSeam
    fun x => { x with held := [(0x100000, 1, 1)], heldPart := 8 })

/-- TXN.GEN as the state shows it to which an outcome leads. -/
def genShown : Host.Outcome State Fault Refusal → Option Word
  | .next t => some (t.chip.reg Reg.TXN_GEN)
  | _ => none

/-- The state meets the hypotheses of the clause for SEAM_HELD_COMMIT. -/
theorem heldBeyond_meets : heldBeyond.chip.quiet = true ∧ heldBeyond.chip.seam.held ≠ []
    ∧ bit (heldBeyond.chip.classes heldBeyond.chip.seam.heldPart) 2 = true := by decide +kernel

/-- The commit counts one generation, and its STATE and MODE then go over the register that shows it. -/
theorem genShown_heldBeyond : heldBeyond.chip.txn.gen = 0 ∧ genShown (exec (.seamHeldCommit 0) heldBeyond) = some 0x12 := by decide +kernel

/-- Refutes O27: the held partition is any number in the statement; with 8 the TXN.STATE of the waiting commit has the offset of TXN.GEN, which then shows 0x12 and not the generation 1. -/
theorem not_lineScanActs : ¬ Obligations.LineScanActs := by
  unfold Obligations.LineScanActs
  rintro ⟨-, h⟩
  obtain ⟨hq, hheld, hcls⟩ := heldBeyond_meets
  obtain ⟨hgen, hshown⟩ := genShown_heldBeyond
  obtain ⟨-, -, hcommit⟩ := h 0 heldBeyond hq
  obtain ⟨t, m, ht, -, -, -, -, -, -, -, ht1⟩ := hcommit hheld hcls
  rw [ht, genShown, ht1, hgen] at hshown
  exact absurd hshown (by decide)

end Sys2Proof.Machine
end
